-- ==== Sys2Proof/Word.lean ====
section
/-! DEFINITION. The word types of the Z9-M48: bytes, 64-bit words, 1,024-bit vectors, 96-bit records. -/

namespace Sys2Proof

/-- One byte of memory (R2). -/
abbrev Byte := BitVec 8
/-- A scalar token's value, a G register, a counter (R5, R54, R221). -/
abbrev Word := BitVec 64
/-- A vector token's value, a V register (R54, R301). -/
abbrev Vec := BitVec 1024
/-- A record (R52). -/
abbrev RecordWord := BitVec 96
/-- The LIT field of a record (R52). -/
abbrev Lit := BitVec 48

end Sys2Proof
end

