-- ==== Sys2Proof/Config.lean ====
section
/-! DEFINITION. The free values of the model: what the spec leaves open and gives no value. Each is an opaque
constant, so nothing can be proved of which value it takes (log entries 3 and 9). -/

namespace Sys2Proof.Config

/-- A word the spec leaves open, fresh for each number it is applied to (log entry 3). -/
opaque freeWord : Nat → Word

/-- The number of firmware stages (R397, R398; log entry 9). -/
opaque firmwareStages : Nat

/-- The SHA-256 digest of a firmware stage or of the bad-node registers, whose byte layout the spec does
not give (R398; log entry 9). -/
opaque measurement : Nat → List (Nat × BitVec 64) → BitVec 256

/-- The HSS/LMS signature made with a leaf over a message digest (R397; log entry 9). -/
opaque signature : (leaf : Nat) → (nonce : BitVec 256) → List (BitVec 256) → List Byte

/-- The certificate chain of the module (R397, R398; log entry 9). -/
opaque certificate : List Byte

/-- The digest of the certificate chain (R398; log entry 9). -/
opaque certificateDigest : BitVec 256

/-- The capability flags the SPDM responder reports (R398; log entry 9). -/
opaque spdmCapabilities : BitVec 32

end Sys2Proof.Config
end

