-- ==== Sys2Proof/Syntax.lean ====
section
/-! DEFINITION. The instructions and events of the Z9-M48: `Instr` has one constructor for each row of
spec/opcode_table.json. A record instruction carries its header (predicate, targets, slack code) and the
operand fields its entry assigns; an event of the machine carries what the agent that moves chooses. -/

namespace Sys2Proof

/-- Integer types, codes 0x00-0x07 (R71, R156). -/
inductive IntTy where
  | i8 | i16 | i32 | i64 | n8 | n16 | n32 | n64
  deriving DecidableEq, Repr

/-- IEEE types, codes 0x08-0x0B (R71, R158). -/
inductive FpTy where
  | f16 | b16 | f32 | f64
  deriving DecidableEq, Repr

/-- Tapered types, codes 0x0C and 0x0D (R71, R162, R163). -/
inductive TapTy where
  | t8 | t6
  deriving DecidableEq, Repr

/-- Every type code of R71. -/
inductive Ty where
  | int (t : IntTy)
  | fp (t : FpTy)
  | tap (t : TapTy)
  deriving DecidableEq, Repr

/-- The widths 8, 16, 32 and 64 (R283, R285). -/
inductive Width where
  | w8 | w16 | w32 | w64
  deriving DecidableEq, Repr

/-- The source widths of SEXT and ZEXT (R287). -/
inductive Width3 where
  | w8 | w16 | w32
  deriving DecidableEq, Repr

/-- Rounding modes (R65, R160). -/
inductive Rm where
  | rne | rz | ru | rd | rna
  deriving DecidableEq, Repr

/-- Operand ports of a node (R54, R56). -/
inductive Port where
  | l | r | p | x
  deriving DecidableEq, Repr

/-- Predication (R52, R55). -/
inductive Pred where
  | always | onTrue | onFalse
  deriving DecidableEq, Repr

/-- Target classes (R56). -/
inductive Target where
  | node (n : BitVec 7) (p : Port)
  | reg (r : BitVec 6)
  | port (q : BitVec 10)
  | none
  deriving DecidableEq, Repr

/-- Scopes (R66, R244). -/
inductive Scope where
  | constellation | region | die | module | domain | durable
  deriving DecidableEq, Repr

/-- The fields every record has: PR, T0, T1 and SLK (R52). -/
structure Hdr where
  pr : Pred
  t0 : Target
  t1 : Target
  slk : BitVec 8
  deriving DecidableEq, Repr

/-- The right operand of a record that does not round: port R (M = 0) or an immediate (M = 1) (R52, R64). -/
inductive Rhs where
  | port
  | imm (v : Lit)
  deriving DecidableEq, Repr

/-- The right operand of a record that rounds: port R with the mode of LIT 47:45, or an immediate,
which rounds with RNE (R64, R65). -/
inductive FRhs where
  | port (rm : Rm)
  | imm (v : Lit)
  deriving DecidableEq, Repr

/-- LEA's second operand (R289): port R shifted by LIT 2:0, or the immediate. -/
inductive LeaRhs where
  | port (sh : BitVec 3)
  | imm (v : Lit)
  deriving DecidableEq, Repr

/-- SLKS's operand (R260, R277): port R with the port kind VK, or the immediate with a scalar L. -/
inductive SlksRhs where
  | port (vk : Bool)
  | imm (v : Lit)
  deriving DecidableEq, Repr

/-- The register a READ names (R74). -/
inductive RegName where
  | g (n : BitVec 6)
  | v (n : BitVec 4)
  deriving DecidableEq, Repr

/-- TAGR's field (R275). -/
inductive TagField where
  | iter | colour | gen
  deriving DecidableEq, Repr

/-- TST conditions (R288). -/
inductive Cond where
  | eq | ne | lt | le | gt | ge | ltn | len | gtn | gen
  deriving DecidableEq, Repr

/-- FTST conditions (R295). -/
inductive FCond where
  | eq | ne | lt | le | gt | ge | un | or
  deriving DecidableEq, Repr

/-- VRED functions (R311). -/
inductive RedFn where
  | add | min | max
  deriving DecidableEq, Repr

/-- RED and VREDM functions (R339). -/
inductive MemFn where
  | add | min | max | and | or | xor
  deriving DecidableEq, Repr

/-- The memory and counter literal (R63) without its scope and entry-assigned bits. -/
structure MemLit where
  lsid : BitVec 5
  late : Bool
  renew : Bool
  ofs : BitVec 32
  deriving DecidableEq, Repr

/-- The literal fields of an engine record (R207). -/
structure EngLit where
  scope : Scope
  late : Bool
  renew : Bool
  deriving DecidableEq, Repr

/-- A context's name: its region's module-wide number, colour and generation (R98, R102). -/
structure CtxId where
  region : Nat
  colour : Nat
  gen : Nat
  deriving DecidableEq, Repr

/-- What an exit names: the next block, or the end of the context (R270). -/
inductive Succ where
  | block (a : Word)
  | stop
  deriving DecidableEq, Repr

/-- What an access carried between devices asks for (R28): the checks of the name step and page step for the rights whose
bits are given, a load of the granule that holds the bytes named, a store, a combine (R339), a counter add, a CWAIT or
a CPOLL with its threshold, the persisting of a line (R252). -/
inductive PeerOp where
  | probe (rights : Nat)
  | load
  | store (bytes : List (BitVec 8))
  | combine (t : Ty) (f : MemFn) (v : Word)
  | add (amount : Word) (durable : Bool)
  | wait (threshold : Word)
  | poll (threshold : Word)
  | persist
  | fetch
  | check (rights : Nat)
  | retire
  | drop
  | warm (pages lo hi : Nat)
  | peek
  | stores (parts : List (Nat × List (BitVec 8)))
  | promote
  deriving DecidableEq, Repr

/-- What a packet between devices carries: an access with the request and piece it is for, its slack and late mark (R141), and, of one with
renew set, the slack it was sent with (R144); its answer's bytes; the fault it met (R28, R391); that a counter's name has died, with the slack of the null it stands for (R51); or the
name that a device retires (R49). -/
inductive PeerPayload where
  | access (req piece : Nat) (serial : BitVec 64) (offset : Nat) (size : Nat) (op : PeerOp) (slack : Nat) (late : Bool) (renew : Option Nat)
  | reply (req piece : Nat) (bytes : List (BitVec 8)) (slack : Nat) (late : Bool)
  | fault (req piece : Nat) (code : BitVec 8)
  | gone (req piece : Nat) (slack : Nat)
  | invalidate (serial : BitVec 64)
  deriving DecidableEq, Repr

/-- The links of R11 and R393 whose flits can fail: a die-to-die boundary by its number in the order of
R11 (0-9), or the hub bridge of a first-row die (0-3). -/
inductive Link where
  | boundary (n : Nat)
  | bridge (d : Nat)
  deriving DecidableEq, Repr

/-- One constructor for each row of spec/opcode_table.json, in the table's order. -/
inductive Instr where
  -- dataflow and control (R262-R278)
  | read (h : Hdr) (r : RegName)
  | mov (h : Hdr) (vk : Bool) (dly : Bool)
  | movx (h : Hdr) (vk : Bool) (t2 t3 : Target)
  | const (h : Hdr) (t : Ty) (v : Lit)
  | null (h : Hdr) (vk : Bool)
  | sel (h : Hdr) (vk : Bool)
  | gate (h : Hdr) (vk : Bool)
  | exitJmp (h : Hdr) (blk : BitVec 33)
  | exitJmpi (h : Hdr)
  | exitCall (h : Hdr) (blk : BitVec 33)
  | exitRet (h : Hdr)
  | exitStop (h : Hdr)
  | itin (h : Hdr) (vk : Bool)
  | itnx (h : Hdr) (vk : Bool)
  | itout (h : Hdr) (vk : Bool)
  | tagr (h : Hdr) (f : TagField) (vk : Bool)
  | wfld (h : Hdr) (k : Fin 6)
  | slks (h : Hdr) (b : SlksRhs)
  | slkr (h : Hdr) (vk : Bool)
  -- integer (R279-R290)
  | add (h : Hdr) (t : IntTy) (b : Rhs)
  | sub (h : Hdr) (t : IntTy) (b : Rhs)
  | mul (h : Hdr) (t : IntTy) (b : Rhs)
  | mulh (h : Hdr) (t : IntTy) (b : Rhs)
  | mulw (h : Hdr) (t : IntTy) (b : Rhs)
  | div (h : Hdr) (t : IntTy) (b : Rhs)
  | rem (h : Hdr) (t : IntTy) (b : Rhs)
  | min (h : Hdr) (t : IntTy) (b : Rhs)
  | max (h : Hdr) (t : IntTy) (b : Rhs)
  | adds (h : Hdr) (t : IntTy) (b : Rhs)
  | subs (h : Hdr) (t : IntTy) (b : Rhs)
  | and (h : Hdr) (b : Rhs)
  | or (h : Hdr) (b : Rhs)
  | xor (h : Hdr) (b : Rhs)
  | andn (h : Hdr) (b : Rhs)
  | not (h : Hdr)
  | neg (h : Hdr) (w : Width)
  | abs (h : Hdr) (w : Width)
  | shl (h : Hdr) (t : IntTy) (b : Rhs)
  | shr (h : Hdr) (t : IntTy) (b : Rhs)
  | sar (h : Hdr) (t : IntTy) (b : Rhs)
  | rol (h : Hdr) (t : IntTy) (b : Rhs)
  | ror (h : Hdr) (t : IntTy) (b : Rhs)
  | clz (h : Hdr) (w : Width)
  | ctz (h : Hdr) (w : Width)
  | popc (h : Hdr) (w : Width)
  | bfx (h : Hdr) (pos : BitVec 6) (lenM1 : BitVec 6) (sx : Bool)
  | bfi (h : Hdr) (pos : BitVec 6) (lenM1 : BitVec 6)
  | sext (h : Hdr) (w : Width3)
  | zext (h : Hdr) (w : Width3)
  | tst (h : Hdr) (c : Cond) (b : Rhs)
  | lea (h : Hdr) (b : LeaRhs)
  | apx (h : Hdr) (b : Rhs)
  -- scalar floating point (R291-R299)
  | fadd (h : Hdr) (t : FpTy) (b : FRhs)
  | fsub (h : Hdr) (t : FpTy) (b : FRhs)
  | fmul (h : Hdr) (t : FpTy) (b : FRhs)
  | fdiv (h : Hdr) (t : FpTy) (b : FRhs)
  | fsqrt (h : Hdr) (t : FpTy) (rm : Rm)
  | fma (h : Hdr) (t : FpTy) (rm : Rm)
  | fmin (h : Hdr) (t : FpTy) (b : Rhs)
  | fmax (h : Hdr) (t : FpTy) (b : Rhs)
  | fabs (h : Hdr) (t : FpTy)
  | fneg (h : Hdr) (t : FpTy)
  | fcpys (h : Hdr) (t : FpTy)
  | ftst (h : Hdr) (c : FCond) (t : FpTy) (b : Rhs)
  | fcvt (h : Hdr) (d s : Ty) (rm : Rm)
  | frnd (h : Hdr) (t : FpTy) (rm : Rm)
  | fcls (h : Hdr) (t : FpTy)
  | exp2 (h : Hdr) (t : FpTy) (rm : Rm)
  | log2 (h : Hdr) (t : FpTy) (rm : Rm)
  | rsq (h : Hdr) (t : FpTy) (rm : Rm)
  -- vector (R304-R314)
  | vadd (h : Hdr) (t : Ty) (b : FRhs)
  | vsub (h : Hdr) (t : Ty) (b : FRhs)
  | vmul (h : Hdr) (t : Ty) (b : FRhs)
  | vdiv (h : Hdr) (t : Ty) (b : FRhs)
  | vfma (h : Hdr) (t : FpTy) (rm : Rm)
  | vmin (h : Hdr) (t : Ty) (b : Rhs)
  | vmax (h : Hdr) (t : Ty) (b : Rhs)
  | vabs (h : Hdr) (t : Ty)
  | vneg (h : Hdr) (t : Ty)
  | vand (h : Hdr) (t : IntTy) (b : Rhs)
  | vor (h : Hdr) (t : IntTy) (b : Rhs)
  | vxor (h : Hdr) (t : IntTy) (b : Rhs)
  | vshl (h : Hdr) (t : IntTy) (b : Rhs)
  | vshr (h : Hdr) (t : IntTy) (b : Rhs)
  | vsar (h : Hdr) (t : IntTy) (b : Rhs)
  | vtst (h : Hdr) (t : Ty) (c : Cond)
  | vsel (h : Hdr) (t : Ty)
  | vcvt (h : Hdr) (d s : Ty) (rm : Rm) (part : BitVec 2)
  | vexp2 (h : Hdr) (t : FpTy) (rm : Rm)
  | vlog2 (h : Hdr) (t : FpTy) (rm : Rm)
  | vrsq (h : Hdr) (t : FpTy) (rm : Rm)
  | vbcast (h : Hdr) (t : Ty)
  | vextr (h : Hdr) (t : Ty) (lane : BitVec 7)
  | vins (h : Hdr) (t : Ty) (lane : BitVec 7)
  | vperm (h : Hdr) (t : Ty)
  | viota (h : Hdr) (t : IntTy)
  | vred (h : Hdr) (t : Ty) (f : RedFn) (rm : Rm) (mk : Bool)
  | vscan (h : Hdr) (t : Ty) (rm : Rm) (mk : Bool)
  | vdot (h : Hdr) (t : Ty) (rm : Rm) (mk : Bool)
  | vmaxi (h : Hdr) (t : Ty) (mk : Bool)
  | vmini (h : Hdr) (t : Ty) (mk : Bool)
  -- formats (R315-R321)
  | amax (h : Hdr) (t : TapTy)
  | cvq (h : Hdr) (t : TapTy) (ch : BitVec 5)
  | cvdq (h : Hdr) (t : TapTy) (qtr : BitVec 2)
  | chset (h : Hdr)
  | chtab (h : Hdr)
  | sclw (h : Hdr) (sreg qmask : BitVec 4)
  | vpk (h : Hdr)
  | vupk (h : Hdr)
  -- generation (R324-R328)
  | rngs (h : Hdr)
  | rngn (h : Hdr) (drw : BitVec 4)
  | rngf (h : Hdr) (drw : BitVec 4)
  | sample (h : Hdr) (drw : BitVec 4)
  | topk (h : Hdr) (b : Rhs)
  | accept (h : Hdr) (dl : BitVec 5) (near : Option (BitVec 4))
  -- memory (R332-R342, R193, R196, R197, R252)
  | ld (h : Hdr) (t : Ty) (m : MemLit) (ch : BitVec 5)
  | st (h : Hdr) (t : Ty) (m : MemLit)
  | vld (h : Hdr) (t : Ty) (m : MemLit) (ch : BitVec 5)
  | vst (h : Hdr) (t : Ty) (m : MemLit)
  | vldg (h : Hdr) (t : Ty) (m : MemLit) (ch : BitVec 5)
  | vsts (h : Hdr) (t : Ty) (m : MemLit)
  | ldr (h : Hdr) (t : Ty) (m : MemLit) (ch : BitVec 5)
  | pref (h : Hdr) (m : MemLit) (pgs : BitVec 4)
  | red (h : Hdr) (t : Ty) (m : MemLit) (f : MemFn)
  | vredm (h : Hdr) (t : Ty) (m : MemLit) (f : MemFn)
  | mldred (h : Hdr) (lsid : BitVec 5) (ofs : BitVec 32)
  /-- The switch reduces the MLDRED whose access number is `req` (R197). -/
  | mldredReduce (req : Nat)
  | gset (h : Hdr) (lsid : BitVec 5)
  | copy (h : Hdr) (lsid : BitVec 5) (e : EngLit)
  | persist (h : Hdr) (m : MemLit) (kn : BitVec 4)
  /-- The PERSIST whose access number is `req` adds to its near counter (R252). -/
  | persistComplete (req : Nat)
  -- counters (R223-R225, R343)
  | cadd (h : Hdr) (m : MemLit) (scope : Scope) (near : Option (BitVec 4))
  | caddr (h : Hdr) (m : MemLit) (scope : Scope) (near : Option (BitVec 4))
  /-- The old value of the CADDR whose access number is `req` returns (R224). -/
  | caddrReply (req : Nat)
  | cwait (h : Hdr) (m : MemLit) (scope : Scope) (near : Option (BitVec 4))
  | cpoll (h : Hdr) (m : MemLit) (scope : Scope) (near : Option (BitVec 4))
  /-- A home applies the adds `reqs`, in that order, to the counter at physical address `pa` (R228). -/
  | counterStep (pa : Nat) (reqs : List Nat)
  /-- The durable step under way at the counter `pa` reaches the persistent tier (R253). -/
  | durableStepComplete (pa : Nat)
  /-- Every recorded constellation has answered the promote request of task `task` (R248). -/
  | promoteAnswer (task : Nat)
  -- matrix and lattice (R201-R208, R215-R217)
  | mma (h : Hdr) (t : Ty) (e : EngLit)
  | mmaz (h : Hdr) (e : EngLit)
  | accld (h : Hdr) (e : EngLit)
  | accst (h : Hdr) (t : Ty) (e : EngLit)
  | lxtab (h : Hdr) (e : EngLit)
  | lxctx (h : Hdr) (e : EngLit)
  | lxrun (h : Hdr) (e : EngLit)
  | lxtin (h : Hdr) (e : EngLit)
  | lxtout (h : Hdr) (e : EngLit)
  -- tasks (R346-R350)
  | spawn (h : Hdr) (na : Fin 3) (blk : BitVec 33)
  | spawnNowait (h : Hdr) (na : Fin 3) (blk : BitVec 33)
  /-- A waiting SPAWN of region `region` takes a returned colour (R105). -/
  | spawnResume (region : Nat)
  | retn (h : Hdr)
  | launch (h : Hdr)
  | cancel (h : Hdr)
  | cancelLaunch (h : Hdr)
  /-- The context sees the cancel mark that has reached it (R350). -/
  | cancelMarkSeen (c : CtxId)
  -- system (R351-R361)
  | trap (h : Hdr) (code : BitVec 16)
  | fltr (h : Hdr)
  | msg (h : Hdr)
  | msgReply (h : Hdr)
  | msgr (h : Hdr)
  /-- The waiting MSGR to endpoint 0 of context `c` takes the next message of its inbox (R354). -/
  | msgrReceive (c : CtxId)
  | dusk (h : Hdr)
  | duskSave (h : Hdr)
  /-- Node `node` of block `block` in region `region` forwards the dusk marker (R371). -/
  | duskMarkerArrival (region : Nat) (block : Word) (node : Nat)
  | ctxsv (h : Hdr)
  | ctxld (h : Hdr)
  | litw (h : Hdr) (node : BitVec 7)
  | badn (h : Hdr)
  | apset (h : Hdr)
  | time (h : Hdr)
  | retire (h : Hdr)
  -- firing machinery
  /-- The packet `pkt` in transit reaches its destination (R125). -/
  | tokenArrival (pkt : Nat)
  /-- Context `c` fetches its next instance; `pred` is what the predictor names for it (R121). -/
  | blockFetch (c : CtxId) (pred : Option Succ)
  | commit (c : CtxId)
  | commitWatchdog (c : CtxId)
  /-- One tick edge; `onWire` are the packets in transit that stand on a wire at it (R142, R145). -/
  | tick (onWire : List Nat)
  -- tiles and pages (R41-R47)
  | tileAccess (req : Nat)
  /-- A page is named by the module DRAM physical address of its page entry. -/
  | pageFillComplete (pte : Nat)
  | pagerDecline (pte : Nat)
  | pagerMigrateStart (pte : Nat) (die : Nat)
  | pagerEvictStart (pte : Nat)
  | migrationComplete (pte : Nat)
  | evictionComplete (pte : Nat)
  | writebackComplete (pte : Nat)
  | heatWindowEnd
  /-- A home performs piece `piece` of access `req` (R178, R240). -/
  | homePerform (req : Nat) (piece : Nat)
  | peerAccess (dev : BitVec 16) (req : Nat)
  -- engines
  | streamerAccept (die k : Nat) (req : Nat)
  | streamerComplete (die k : Nat) (req : Nat)
  | islandAccept (die k : Nat) (req : Nat)
  | islandComplete (die k : Nat)
  | latticeAccept (die : Nat) (req : Nat)
  | latticeComplete (die : Nat)
  -- tasks and placement
  | tcbReady (task : Nat)
  | taskDispatch (die : Nat)
  | taskSteal (die : Nat)
  | taskFinish (task : Nat)
  | regionPlace (job : Nat)
  | itemStart (job : Nat) (region : Nat)
  | itemFinish (job : Nat) (item : Nat)
  | regionFree (job : Nat)
  -- servers: each handles the message `msg` of its endpoint (R385)
  | launchSubmit (msg : Nat)
  | jobRecordRead (msg : Nat)
  | haltReport (c : CtxId)
  | haltAction (msg : Nat)
  | regionList (msg : Nat)
  | objectCreate (msg : Nat)
  | apertureBind (msg : Nat)
  | apertureUnbind (msg : Nat)
  | objectRetire (msg : Nat)
  | objectReclaim (serial : BitVec 64)
  -- links
  /-- A parity failure poisons packet `pkt` at the hop of die, constellation and PE given (R380). -/
  | parityError (pkt : Nat) (die con pe : Nat) (dir : BitVec 3) (word : BitVec 5)
  | peerPacketReceive (dev : BitVec 16) (seq : BitVec 32) (p : PeerPayload)
  | sack (dev : BitVec 16) (base : BitVec 32) (bitmap : BitVec 64)
  | retransmitTimeout (dev : BitVec 16) (seq : BitVec 32)
  | flitCrcFail (l : Link)
  | boundaryFail (l : Link)
  -- hosts (R386-R390)
  | hostWindowAccess (link : Nat) (off : Nat) (size : Nat) (write : Option (List (BitVec 8)))
  | backInvalidate (link : Nat) (window : Nat) (region : Nat)
  | backInvalidateComplete (link : Nat) (window : Nat) (region : Nat) (dirty : List (Nat × BitVec 8))
  | ownerHoldExpire (link : Nat) (window : Nat) (region : Nat)
  | hostCounterRead (link : Nat) (off : Nat) (size : Nat)
  | hostCounterWrite (link : Nat) (off : Nat) (size : Nat) (v : BitVec 64)
  | hostLaunchWrite (link : Nat) (v : BitVec 64)
  | hostCodeWrite (link : Nat) (v : BitVec 64)
  | codeBindComplete (link : Nat)
  | hostRegWrite (link : Nat) (off : Nat) (v : BitVec 64)
  -- management (R394-R400)
  | resync
  | mgmtRefresh
  | pldmFirmwareUpdate (secver build : BitVec 32) (verified : Bool)
  | getVersion
  | getCapabilities
  | negotiateAlgorithms
  | getDigests
  | getCertificate (offset length : Nat)
  | challenge (nonce : BitVec 256)
  | getMeasurements (signed : Bool)
  | thermalWarning (die : Nat) (celsius : BitVec 8)
  | thermalTrip (die : Nat) (celsius : BitVec 8)
  /-- `picks` names, for granules of class P objects, which surviving write each keeps (R254). -/
  | powerLoss (picks : List (Nat × Nat))
  /-- `failedLinks`, `failedDies` are what training and supply setting found (R400). -/
  | bringUp (failedLinks : List Link) (failedDies : List Nat) (devNum : BitVec 16) (image : BitVec 32 × BitVec 32)
  | dieSupplyFault (die : Nat)
  | tableWalkComplete (die tile walker : Nat)
  deriving DecidableEq, Repr

end Sys2Proof
end

