-- ==== Sys2Proof/WellFormed.lean ====
section
/-! DEFINITION. What the entries fix about each record: its ports (R54), the kinds of its tokens (R260, R304,
R333, R351), what it sends, whether it is held (R122) or privileged (R71), and `Instr.wf`, the checks of the loader
that one record alone can fail with ILLREC (R56, R57, R60, R63-R66, R71, R74 and the entries). -/

namespace Sys2Proof

/-- A port or result carries scalar or vector tokens (R54). -/
inductive Kind where
  | scalar | vector
  deriving DecidableEq, Repr

/-- The port kind of a forwarding record's data port (R260). -/
def Kind.ofVk (vk : Bool) : Kind := if vk then .vector else .scalar

/-- The width in bits of an integer type (R156). -/
def IntTy.width : IntTy → Nat
  | .i8 | .n8 => 8
  | .i16 | .n16 => 16
  | .i32 | .n32 => 32
  | .i64 | .n64 => 64

/-- Whether an integer type is signed (R156). -/
def IntTy.signed : IntTy → Bool
  | .i8 | .i16 | .i32 | .i64 => true
  | _ => false

/-- The width in bits of an IEEE type (R158). -/
def FpTy.width : FpTy → Nat
  | .f16 | .b16 => 16
  | .f32 => 32
  | .f64 => 64

/-- The width in bits of a tapered value (R259). -/
def TapTy.width : TapTy → Nat
  | .t8 => 8
  | .t6 => 6

/-- The width in bits of a scalar of a type (R259). -/
def Ty.width : Ty → Nat
  | .int t => t.width
  | .fp t => t.width
  | .tap t => t.width

/-- The lane width of a type; T6 lanes are 8 bits (R301). -/
def Ty.lane : Ty → Nat
  | .int t => t.width
  | .fp t => t.width
  | .tap _ => 8

/-- The number of lanes of a type (R301). -/
def Ty.lanes (t : Ty) : Nat := 1024 / t.lane

/-- The bits of a width (R283, R285). -/
def Width.bits : Width → Nat
  | .w8 => 8 | .w16 => 16 | .w32 => 32 | .w64 => 64

/-- The bits of a source width (R287). -/
def Width3.bits : Width3 → Nat
  | .w8 => 8 | .w16 => 16 | .w32 => 32

/-- "Any" of R301: the types that have lanes. -/
def Ty.isLane : Ty → Bool
  | .int .i64 | .int .n64 | .fp .f64 => false
  | _ => true

/-- "Int" lanes of R301. -/
def IntTy.isLane (t : IntTy) : Bool := t.width ≠ 64

/-- "VFP" of R301. -/
def FpTy.isLane : FpTy → Bool
  | .f64 => false
  | _ => true

/-- "Int" or "VFP" of R304. -/
def Ty.isIntOrVfp : Ty → Bool
  | .int t => t.isLane
  | .fp t => t.isLane
  | .tap _ => false

/-- "Wide" of R301: 16- and 32-bit lane types. -/
def Ty.isWide : Ty → Bool
  | .int t => t.width == 16 || t.width == 32
  | .fp t => t.isLane
  | .tap _ => false

/-- Whether a type is an IEEE type. -/
def Ty.isFp : Ty → Bool
  | .fp _ => true
  | _ => false

/-- Whether a type is an integer type. -/
def Ty.isInt : Ty → Bool
  | .int _ => true
  | _ => false

/-- Whether a type is tapered. -/
def Ty.isTap : Ty → Bool
  | .tap _ => true
  | _ => false

/-- "0x00-0x0C" of R333: every type but T6. -/
def Ty.notT6 : Ty → Bool
  | .tap .t6 => false
  | _ => true

/-- The header of a record, none for an event. -/
def Instr.hdr : Instr → Option Hdr
  | .read h _ | .mov h _ _ | .movx h _ _ _ | .const h _ _ | .null h _ | .sel h _ | .gate h _
  | .exitJmp h _ | .exitJmpi h | .exitCall h _ | .exitRet h | .exitStop h
  | .itin h _ | .itnx h _ | .itout h _ | .tagr h _ _ | .wfld h _ | .slks h _ | .slkr h _
  | .add h _ _ | .sub h _ _ | .mul h _ _ | .mulh h _ _ | .mulw h _ _ | .div h _ _ | .rem h _ _
  | .min h _ _ | .max h _ _ | .adds h _ _ | .subs h _ _ | .and h _ | .or h _ | .xor h _ | .andn h _
  | .not h | .neg h _ | .abs h _ | .shl h _ _ | .shr h _ _ | .sar h _ _ | .rol h _ _ | .ror h _ _
  | .clz h _ | .ctz h _ | .popc h _ | .bfx h _ _ _ | .bfi h _ _ | .sext h _ | .zext h _ | .tst h _ _
  | .lea h _ | .apx h _
  | .fadd h _ _ | .fsub h _ _ | .fmul h _ _ | .fdiv h _ _ | .fsqrt h _ _ | .fma h _ _ | .fmin h _ _
  | .fmax h _ _ | .fabs h _ | .fneg h _ | .fcpys h _ | .ftst h _ _ _ | .fcvt h _ _ _ | .frnd h _ _
  | .fcls h _ | .exp2 h _ _ | .log2 h _ _ | .rsq h _ _
  | .vadd h _ _ | .vsub h _ _ | .vmul h _ _ | .vdiv h _ _ | .vfma h _ _ | .vmin h _ _ | .vmax h _ _
  | .vabs h _ | .vneg h _ | .vand h _ _ | .vor h _ _ | .vxor h _ _ | .vshl h _ _ | .vshr h _ _
  | .vsar h _ _ | .vtst h _ _ | .vsel h _ | .vcvt h _ _ _ _ | .vexp2 h _ _ | .vlog2 h _ _ | .vrsq h _ _
  | .vbcast h _ | .vextr h _ _ | .vins h _ _ | .vperm h _ | .viota h _ | .vred h _ _ _ _
  | .vscan h _ _ _ | .vdot h _ _ _ | .vmaxi h _ _ | .vmini h _ _
  | .amax h _ | .cvq h _ _ | .cvdq h _ _ | .chset h | .chtab h | .sclw h _ _ | .vpk h | .vupk h
  | .rngs h | .rngn h _ | .rngf h _ | .sample h _ | .topk h _ | .accept h _ _
  | .ld h _ _ _ | .st h _ _ | .vld h _ _ _ | .vst h _ _ | .vldg h _ _ _ | .vsts h _ _ | .ldr h _ _ _
  | .pref h _ _ | .red h _ _ _ | .vredm h _ _ _ | .mldred h _ _ | .gset h _ | .copy h _ _ | .persist h _ _
  | .cadd h _ _ _ | .caddr h _ _ _ | .cwait h _ _ _ | .cpoll h _ _ _
  | .mma h _ _ | .mmaz h _ | .accld h _ | .accst h _ _
  | .lxtab h _ | .lxctx h _ | .lxrun h _ | .lxtin h _ | .lxtout h _
  | .spawn h _ _ | .spawnNowait h _ _ | .retn h | .launch h | .cancel h | .cancelLaunch h
  | .trap h _ | .fltr h | .msg h | .msgReply h | .msgr h | .dusk h | .duskSave h | .ctxsv h | .ctxld h
  | .litw h _ | .badn h | .apset h | .time h | .retire h => some h
  | _ => none

/-- Whether a constructor is an event of the machine and not a record. -/
def Instr.isEvent (i : Instr) : Bool := i.hdr.isNone

/-- Whether a second operand is the port. -/
def Rhs.isPort : Rhs → Bool
  | .port => true
  | .imm _ => false

/-- Whether a second operand is the port. -/
def FRhs.isPort : FRhs → Bool
  | .port _ => true
  | .imm _ => false

/-- L alone, or L and R, scalar (R279, R291). -/
def scalarPorts (r : Bool) : List (Port × Kind) :=
  if r then [(.l, .scalar), (.r, .scalar)] else [(.l, .scalar)]

/-- L alone, or L and R, vector (R304). -/
def vectorPorts (r : Bool) : List (Port × Kind) :=
  if r then [(.l, .vector), (.r, .vector)] else [(.l, .vector)]

/-- The operand ports of a record besides P, with the kind of token each carries (R54, R260, R261, R279,
R291, R304, R315, R324, R333, R342, R223, R207, R346, R351). -/
def Instr.ports : Instr → List (Port × Kind)
  | .read _ _ | .const _ _ _ => []
  | .mov _ vk _ | .movx _ vk _ _ | .null _ vk | .itnx _ vk | .itout _ vk | .tagr _ _ vk | .slkr _ vk =>
    [(.l, .ofVk vk)]
  | .sel _ vk => [(.l, .ofVk vk), (.r, .ofVk vk), (.x, .scalar)]
  | .gate _ vk | .itin _ vk | .slks _ (.port vk) => [(.l, .ofVk vk), (.r, .scalar)]
  | .slks _ (.imm _) => [(.l, .scalar)]
  | .exitJmp _ _ | .exitJmpi _ | .exitCall _ _ | .exitRet _ | .exitStop _ | .wfld _ _ => [(.l, .scalar)]
  | .add _ _ b | .sub _ _ b | .mul _ _ b | .mulh _ _ b | .mulw _ _ b | .div _ _ b | .rem _ _ b
  | .min _ _ b | .max _ _ b | .adds _ _ b | .subs _ _ b | .and _ b | .or _ b | .xor _ b | .andn _ b
  | .shl _ _ b | .shr _ _ b | .sar _ _ b | .rol _ _ b | .ror _ _ b | .tst _ _ b | .apx _ b
  | .fmin _ _ b | .fmax _ _ b | .ftst _ _ _ b => scalarPorts b.isPort
  | .not _ | .neg _ _ | .abs _ _ | .clz _ _ | .ctz _ _ | .popc _ _ | .bfx _ _ _ _ | .sext _ _ | .zext _ _ =>
    scalarPorts false
  | .bfi _ _ _ => scalarPorts true
  | .lea _ (.port _) => scalarPorts true
  | .lea _ (.imm _) => scalarPorts false
  | .fadd _ _ b | .fsub _ _ b | .fmul _ _ b | .fdiv _ _ b => scalarPorts b.isPort
  | .fsqrt _ _ _ | .fabs _ _ | .fneg _ _ | .fcvt _ _ _ _ | .frnd _ _ _ | .fcls _ _ | .exp2 _ _ _
  | .log2 _ _ _ | .rsq _ _ _ => scalarPorts false
  | .fcpys _ _ => scalarPorts true
  | .fma _ _ _ => [(.l, .scalar), (.r, .scalar), (.x, .scalar)]
  | .vadd _ _ b | .vsub _ _ b | .vmul _ _ b | .vdiv _ _ b => vectorPorts b.isPort
  | .vmin _ _ b | .vmax _ _ b | .vand _ _ b | .vor _ _ b | .vxor _ _ b | .vshl _ _ b | .vshr _ _ b
  | .vsar _ _ b => vectorPorts b.isPort
  | .vfma _ _ _ => [(.l, .vector), (.r, .vector), (.x, .vector)]
  | .vabs _ _ | .vneg _ _ | .vcvt _ _ _ _ _ | .vexp2 _ _ _ | .vlog2 _ _ _ | .vrsq _ _ _ | .vextr _ _ _ =>
    vectorPorts false
  | .vtst _ _ _ | .vperm _ _ => vectorPorts true
  | .vsel _ _ => [(.l, .vector), (.r, .vector), (.x, .scalar)]
  | .vbcast _ _ | .viota _ _ => [(.l, .scalar)]
  | .vins _ _ _ => [(.l, .vector), (.r, .scalar)]
  | .vred _ _ _ _ mk | .vscan _ _ _ mk | .vmaxi _ _ mk | .vmini _ _ mk =>
    if mk then [(.l, .vector), (.r, .scalar)] else [(.l, .vector)]
  | .vdot _ _ _ mk =>
    if mk then [(.l, .vector), (.r, .vector), (.x, .scalar)] else [(.l, .vector), (.r, .vector)]
  | .amax _ _ | .chtab _ | .sclw _ _ _ | .vpk _ | .vupk _ => [(.l, .vector)]
  | .cvq _ _ _ | .cvdq _ _ _ => [(.l, .vector), (.r, .scalar)]
  | .chset _ | .rngs _ => [(.l, .scalar), (.r, .scalar)]
  | .rngn _ _ | .rngf _ _ => [(.l, .scalar)]
  | .sample _ _ => [(.l, .vector), (.r, .scalar)]
  | .topk _ b => if b.isPort then [(.l, .vector), (.r, .scalar)] else [(.l, .vector)]
  | .accept _ _ _ => [(.l, .vector), (.r, .vector), (.x, .scalar)]
  | .ld _ _ _ _ | .vld _ _ _ _ | .pref _ _ _ | .mldred _ _ _ => [(.l, .scalar)]
  | .st _ _ _ | .ldr _ _ _ _ | .red _ _ _ _ | .persist _ _ _ => [(.l, .scalar), (.r, .scalar)]
  | .vst _ _ _ | .vldg _ _ _ _ => [(.l, .scalar), (.r, .vector)]
  | .vsts _ _ _ | .vredm _ _ _ _ => [(.l, .scalar), (.r, .vector), (.x, .vector)]
  | .gset _ _ => [(.l, .vector), (.r, .scalar)]
  | .copy _ _ _ => [(.l, .vector)]
  | .cadd _ _ _ _ | .caddr _ _ _ _ | .cwait _ _ _ _ | .cpoll _ _ _ _ => [(.l, .scalar), (.r, .scalar)]
  | .mma _ _ _ | .mmaz _ _ | .accld _ _ | .accst _ _ _ | .lxtab _ _ | .lxctx _ _ | .lxrun _ _ | .lxtin _ _
  | .lxtout _ _ => [(.l, .vector)]
  | .spawn _ na _ | .spawnNowait _ na _ =>
    (.l, .scalar) :: ((if na.val ≥ 1 then [(.r, .scalar)] else []) ++ (if na.val ≥ 2 then [(.x, .scalar)] else []))
  | .retn _ | .launch _ | .cancel _ | .cancelLaunch _ | .trap _ _ | .time _ | .retire _ => [(.l, .scalar)]
  | .fltr _ | .dusk _ | .duskSave _ | .ctxsv _ | .ctxld _ | .litw _ _ | .badn _ => [(.l, .scalar), (.r, .scalar)]
  | .msg _ | .msgReply _ | .msgr _ => [(.l, .vector), (.r, .scalar)]
  | .apset _ => [(.l, .scalar), (.r, .scalar), (.x, .scalar)]
  | _ => []

/-- What a record sends to T0, none where it sends nothing (the "Sends" and "Result" columns). -/
def Instr.out0 : Instr → Option Kind
  | .read _ (.g _) => some .scalar
  | .read _ (.v _) => some .vector
  | .mov _ vk _ | .movx _ vk _ _ | .null _ vk | .sel _ vk | .gate _ vk | .itin _ vk | .itnx _ vk | .itout _ vk =>
    some (.ofVk vk)
  | .slks _ (.port vk) => some (.ofVk vk)
  | .exitJmp _ _ | .exitJmpi _ | .exitRet _ | .exitStop _ => none
  | .vadd _ _ _ | .vsub _ _ _ | .vmul _ _ _ | .vdiv _ _ _ | .vfma _ _ _ | .vmin _ _ _ | .vmax _ _ _
  | .vabs _ _ | .vneg _ _ | .vand _ _ _ | .vor _ _ _ | .vxor _ _ _ | .vshl _ _ _ | .vshr _ _ _ | .vsar _ _ _
  | .vsel _ _ | .vcvt _ _ _ _ _ | .vexp2 _ _ _ | .vlog2 _ _ _ | .vrsq _ _ _ | .vbcast _ _ | .vins _ _ _
  | .vperm _ _ | .viota _ _ | .vscan _ _ _ _ | .cvq _ _ _ | .cvdq _ _ _ | .vpk _ | .vupk _ | .topk _ _
  | .vld _ _ _ _ | .vldg _ _ _ _ | .mldred _ _ _ | .msgr _ => some .vector
  | .copy _ _ _ | .mma _ _ _ | .mmaz _ _ | .accld _ _ | .accst _ _ _ | .lxtab _ _ | .lxctx _ _ | .lxrun _ _
  | .lxtin _ _ | .lxtout _ _ => some .vector
  | .st _ _ _ | .vst _ _ _ | .vsts _ _ _ | .pref _ _ _ | .red _ _ _ _ | .vredm _ _ _ _ | .persist _ _ _
  | .cadd _ _ _ _ | .retn _ | .trap _ _ => none
  | i => if i.isEvent then none else some .scalar

/-- What a record sends to T1, none where it sends nothing. -/
def Instr.out1 : Instr → Option Kind
  | .topk _ _ | .msgr _ => some .scalar
  | .exitCall _ _ | .copy _ _ _ | .caddr _ _ _ _ => none
  | .mma _ _ _ | .mmaz _ _ | .accld _ _ | .accst _ _ _ | .lxtab _ _ | .lxctx _ _ | .lxrun _ _
  | .lxtin _ _ | .lxtout _ _ => some .scalar
  | i => i.out0

/-- The LSID of a record of OP 0x70-0x87 (R63, R70). -/
def Instr.lsid : Instr → Option Nat
  | .ld _ _ m _ | .st _ _ m | .vld _ _ m _ | .vst _ _ m | .vldg _ _ m _ | .vsts _ _ m | .ldr _ _ m _ | .pref _ m _
  | .red _ _ m _ | .vredm _ _ m _ | .persist _ m _ | .cadd _ m _ _ | .caddr _ m _ _ | .cwait _ m _ _
  | .cpoll _ m _ _ => some m.lsid.toNat
  | .mldred _ l _ | .gset _ l | .copy _ l _ => some l.toNat
  | _ => none

/-- The writing kinds of R70. -/
def Instr.writes : Instr → Bool
  | .st _ _ _ | .vst _ _ _ | .vsts _ _ _ | .red _ _ _ _ | .vredm _ _ _ _ | .cadd _ _ _ _ | .caddr _ _ _ _ => true
  | _ => false

/-- The engine records (R207). -/
def Instr.isEngine : Instr → Bool
  | .mma _ _ _ | .mmaz _ _ | .accld _ _ | .accst _ _ _ | .lxtab _ _ | .lxctx _ _ | .lxrun _ _ | .lxtin _ _
  | .lxtout _ _ => true
  | _ => false

/-- The records of OP 0x98-0xAB other than RETN and TRAP, which hold commit (R345). -/
def Instr.holdsCommit : Instr → Bool
  | .spawn _ _ _ | .spawnNowait _ _ _ | .launch _ | .cancel _ | .cancelLaunch _ | .fltr _ | .msg _ | .msgReply _
  | .msgr _ | .dusk _ | .duskSave _ | .ctxsv _ | .ctxld _ | .litw _ _ | .badn _ | .apset _ | .time _ | .retire _ => true
  | _ => false

/-- The held records of R122. RETN fires at once and holds its effect to commit (R348). -/
def Instr.held (i : Instr) : Bool :=
  i.writes || i.isEngine || i.holdsCommit ||
  match i with
  | .copy _ _ _ | .persist _ _ _ | .mldred _ _ _ | .gset _ _ | .trap _ _ => true
  | _ => false

/-- The privileged records of R71. -/
def Instr.privileged : Instr → Bool
  | .fltr _ | .dusk _ | .duskSave _ | .ctxsv _ | .ctxld _ | .badn _ | .apset _ => true
  | _ => false

/-- EXIT records (R70, R269). -/
def Instr.isExit : Instr → Bool
  | .exitJmp _ _ | .exitJmpi _ | .exitCall _ _ | .exitRet _ | .exitStop _ => true
  | _ => false

/-- The forwarding records of R167, which keep channel code and scale beat. -/
def Instr.forwards : Instr → Bool
  | .mov _ _ _ | .movx _ _ _ _ | .sel _ _ | .gate _ _ | .itin _ _ | .itnx _ _ | .itout _ _ | .slks _ _ => true
  | _ => false

/-- The SLK codes R60 refuses: m = 0 with e nonzero. -/
def slkOk (c : BitVec 8) : Bool := c.toNat % 32 ≠ 0 || c.toNat / 32 = 0

/-- A target may take a result of the kind given: the register checks of R56. -/
def Target.okFor (t : Target) (k : Option Kind) : Bool :=
  match t, k with
  | .reg r, some .vector => r.toNat < 16
  | .reg r, _ => r ≠ 0#6
  | _, _ => true

/-- A value of 0xC00 for both targets (R57). -/
def Hdr.noTargets (h : Hdr) : Bool := h.t0 = .none && h.t1 = .none

/-- R57: a record whose T0 is empty has an empty T1. -/
def Hdr.dense (h : Hdr) : Bool := h.t0 ≠ .none || h.t1 = .none

/-- An FP immediate within R64: zero bits above the type's literal pattern. -/
def Ty.immOk (t : Ty) (v : Lit) : Bool :=
  match t with
  | .int _ => true
  | .fp .f32 | .fp .f64 => v.toNat < 2 ^ 32
  | .fp _ => v.toNat < 2 ^ 16
  | .tap .t8 => v.toNat < 2 ^ 8
  | .tap .t6 => v.toNat < 2 ^ 6

/-- The immediate of a record of type `t` is within R64. -/
def Rhs.okFor (b : Rhs) (t : Ty) : Bool :=
  match b with
  | .port => true
  | .imm v => t.immOk v

/-- The immediate of a rounding record of type `t` is within R64, and a mode stands only where the
record rounds (R65, R303). -/
def FRhs.okFor (b : FRhs) (t : Ty) : Bool :=
  match b with
  | .port rm => t.isFp || rm = .rne
  | .imm v => t.immOk v

/-- A mask port needs a Wide type (R302, R304). -/
def maskOk (mk : Bool) (t : Ty) : Bool := !mk || t.isWide

/-- The near-counter fields of a counter record (R223). -/
def nearOk (m : MemLit) (scope : Scope) (near : Option (BitVec 4)) : Bool :=
  near.isNone || (m.ofs = 0#32 && scope ≠ .durable)

/-- The field checks of the record's own entry (R257). -/
def Instr.entryOk : Instr → Bool
  | .mov _ vk dly => !dly || vk
  | .movx h vk t2 t3 =>
    t2.okFor (some (.ofVk vk)) && t3.okFor (some (.ofVk vk)) &&
    (h.t0 ≠ .none || h.t1 = .none) && (h.t1 ≠ .none || t2 = .none) && (t2 ≠ .none || t3 = .none)
  | .const _ t v => t.immOk v
  | .exitJmp h _ | .exitJmpi h | .exitRet h | .exitStop h => h.noTargets
  | .exitCall h _ => h.t0 = .reg 63#6 && h.t1 = .none
  | .slks h (.port _) => h.slk = 0#8
  | .slks h (.imm _) => h.slk = 0#8
  | .mulw _ t _ => t.width ≠ 64
  | .bfx _ pos lenM1 _ => pos.toNat + lenM1.toNat + 1 ≤ 64
  | .bfi _ pos lenM1 => pos.toNat + lenM1.toNat + 1 ≤ 64
  | .fadd _ t b | .fsub _ t b | .fmul _ t b | .fdiv _ t b => b.okFor (.fp t)
  | .fmin _ t b | .fmax _ t b | .ftst _ _ t b => b.okFor (.fp t)
  | .fcvt _ d _ rm => !d.isTap || rm = .rne
  | .vadd _ t b | .vsub _ t b | .vmul _ t b | .vdiv _ t b => t.isIntOrVfp && b.okFor t
  | .vmin _ t b | .vmax _ t b => t.isIntOrVfp && b.okFor t
  | .vfma _ t _ | .vexp2 _ t _ | .vlog2 _ t _ | .vrsq _ t _ => t.isLane
  | .vabs _ t | .vneg _ t =>
    t.isIntOrVfp && (match t with | .int it => it.signed | _ => true)
  | .vand _ t b | .vor _ t b | .vxor _ t b | .vshl _ t b | .vshr _ t b | .vsar _ t b =>
    t.isLane && b.okFor (.int t)
  | .viota _ t => t.isLane
  | .vtst _ t c => t.isWide && (!t.isFp || match c with | .ltn | .len | .gtn | .gen => false | _ => true)
  | .vsel _ t => t.isWide
  | .vcvt _ d s rm part =>
    d.isLane && s.isLane && (rm = .rne || !(d.isTap || (d.isInt && s.isInt))) &&
    (if d.lane = s.lane then part = 0#2 else part.toNat < Nat.max d.lane s.lane / Nat.min d.lane s.lane)
  | .vbcast _ t | .vperm _ t => t.isLane
  | .vextr _ t lane | .vins _ t lane => t.isLane && lane.toNat < t.lanes
  | .vred _ t f rm mk => t.isIntOrVfp && maskOk mk t && (rm = .rne || (f = .add && t.isFp))
  | .vscan _ t rm mk =>
    maskOk mk t && (match t with | .int it => it.width == 16 || it.width == 32 | .fp .f32 => true | _ => false) &&
    (rm = .rne || t.isFp)
  | .vdot _ t rm mk => t.isIntOrVfp && maskOk mk t && (rm = .rne || t.isFp)
  | .vmaxi _ t mk | .vmini _ t mk => t.isIntOrVfp && maskOk mk t
  | .cvq _ _ ch => ch ≠ 0#5
  | .sclw _ _ qmask => qmask ≠ 0#4
  | .accept _ dl _ => dl ≠ 0#5
  | .ld _ t _ _ => t.notT6
  | .st h t _ => t.notT6 && h.noTargets
  | .vld _ t _ _ => t.isLane
  | .vst h t _ => t.isLane && h.noTargets
  | .vldg _ t _ _ => t.isWide
  | .vsts h t _ => t.isWide && h.noTargets
  | .ldr h t _ _ =>
    t.notT6 && (match h.t0 with | .port _ => false | _ => true) && (match h.t1 with | .port _ => false | _ => true)
  | .pref h _ _ | .persist h _ _ | .cadd h _ .durable none | .retn h | .trap h _ => h.noTargets
  | .red h t _ f =>
    h.noTargets && (match t with | .int _ => true | .fp .f32 | .fp .f64 => f = .add || f = .min || f = .max | _ => false)
  | .vredm h t _ f =>
    h.noTargets && (match t with | .int it => it.width == 16 || it.width == 32
                                 | .fp .f32 => f = .add || f = .min || f = .max | _ => false)
  | .cadd h m scope near => h.noTargets && nearOk m scope near
  | .caddr h m scope near => (match h.t0 with | .reg _ => true | _ => false) && h.t1 = .none && nearOk m scope near
  | .cwait _ m scope near | .cpoll _ m scope near => scope ≠ .durable && nearOk m scope near
  | .mma _ t _ | .accst _ t _ => t.isFp || t.isTap
  | _ => true

/-- Every check of the loader that one record alone can fail with ILLREC (R56, R57, R60, R71, R257). -/
def Instr.wf (i : Instr) : Bool :=
  match i.hdr with
  | none => true
  | some h => slkOk h.slk && h.dense && h.t0.okFor i.out0 && h.t1.okFor i.out1 && i.entryOk

end Sys2Proof
end

