-- ==== Sys2Proof/Decode.lean ====
section
/-! DEFINITION. The 96-bit record (R52, R53): its fields, the decoder (R71, the entries' encoding tables) and
the encoder. The decoder is total; it names the first thing that makes a word no instruction. -/

namespace Sys2Proof

/-- The fields of a record (R52); bits 87:82 are M and FN[4:0]. -/
structure Raw where
  op : BitVec 8
  m : Bool
  fn : BitVec 5
  pr : BitVec 2
  t0 : BitVec 12
  t1 : BitVec 12
  slk : BitVec 8
  lit : Lit
  deriving DecidableEq, Repr

/-- Why a word is no instruction; the loader refuses each with ILLREC (R71, R73). -/
inductive DecodeError where
  /-- OP is unlisted (R71). -/
  | op
  /-- FN[4:0] or M is not among the row's values (R71). -/
  | fnM
  /-- PR is 0b01 (R52). -/
  | pr
  /-- SLK is a refused code (R60). -/
  | slk
  /-- A bit the literal layout gives as zero is set, or a field holds a refused code (R63-R66). -/
  | lit
  /-- T0 holds a refused value (R56). -/
  | t0
  /-- T1 holds a refused value (R56, R57). -/
  | t1
  /-- A further target of MOVX holds a refused value (R63, R264). -/
  | further
  /-- A field breaks a limit of the record's own entry (R257). -/
  | entry
  /-- Fewer than 12 bytes. -/
  | short
  deriving DecidableEq, Repr

/-- The 96 bits of a record from its fields (R52). -/
def Raw.pack (r : Raw) : RecordWord :=
  (r.op ++ BitVec.ofBool r.m ++ r.fn ++ r.pr ++ r.t0 ++ r.t1 ++ r.slk ++ r.lit).cast (by decide)

/-- The fields of a 96-bit record (R52). -/
def Raw.unpack (w : RecordWord) : Raw where
  op := w.extractLsb' 88 8
  m := w.getLsbD 87
  fn := w.extractLsb' 82 5
  pr := w.extractLsb' 80 2
  t0 := w.extractLsb' 68 12
  t1 := w.extractLsb' 56 12
  slk := w.extractLsb' 48 8
  lit := w.extractLsb' 0 48

/-! ### Codes of the small types -/

/-- Type codes (R71). -/
def IntTy.code : IntTy → BitVec 5
  | .i8 => 0 | .i16 => 1 | .i32 => 2 | .i64 => 3 | .n8 => 4 | .n16 => 5 | .n32 => 6 | .n64 => 7

/-- Type codes (R71). -/
def FpTy.code : FpTy → BitVec 5
  | .f16 => 8 | .b16 => 9 | .f32 => 10 | .f64 => 11

/-- The two-bit width codes w (R71). -/
def FpTy.w : FpTy → BitVec 2
  | .f16 => 0 | .b16 => 1 | .f32 => 2 | .f64 => 3

/-- Type codes (R71). -/
def TapTy.code : TapTy → BitVec 5
  | .t8 => 12 | .t6 => 13

/-- Type codes (R71). -/
def Ty.code : Ty → BitVec 5
  | .int t => t.code
  | .fp t => t.code
  | .tap t => t.code

/-- The type a code names (R71). -/
def Ty.ofCode (c : BitVec 5) : Option Ty :=
  match c.toNat with
  | 0 => some (.int .i8) | 1 => some (.int .i16) | 2 => some (.int .i32) | 3 => some (.int .i64)
  | 4 => some (.int .n8) | 5 => some (.int .n16) | 6 => some (.int .n32) | 7 => some (.int .n64)
  | 8 => some (.fp .f16) | 9 => some (.fp .b16) | 10 => some (.fp .f32) | 11 => some (.fp .f64)
  | 12 => some (.tap .t8) | 13 => some (.tap .t6)
  | _ => none

/-- The integer type a code names (R71). -/
def IntTy.ofCode (c : BitVec 5) : Option IntTy :=
  match Ty.ofCode c with
  | some (.int t) => some t
  | _ => none

/-- The IEEE type a code names (R71). -/
def FpTy.ofCode (c : BitVec 5) : Option FpTy :=
  match Ty.ofCode c with
  | some (.fp t) => some t
  | _ => none

/-- The tapered type a code names (R71). -/
def TapTy.ofCode (c : BitVec 5) : Option TapTy :=
  match Ty.ofCode c with
  | some (.tap t) => some t
  | _ => none

/-- The IEEE type of a two-bit width (R71). -/
def FpTy.ofW (c : BitVec 2) : FpTy :=
  match c.toNat with
  | 0 => .f16 | 1 => .b16 | 2 => .f32 | _ => .f64

/-- CLZ's width codes (R285). -/
def Width.code : Width → BitVec 3
  | .w8 => 0 | .w16 => 1 | .w32 => 2 | .w64 => 3

/-- The width a code names (R285). -/
def Width.ofCode (c : BitVec 3) : Option Width :=
  match c.toNat with
  | 0 => some .w8 | 1 => some .w16 | 2 => some .w32 | 3 => some .w64 | _ => none

/-- SEXT's source-width codes (R287). -/
def Width3.code : Width3 → BitVec 4
  | .w8 => 0 | .w16 => 1 | .w32 => 2

/-- The source width a code names (R287). -/
def Width3.ofCode (c : BitVec 4) : Option Width3 :=
  match c.toNat with
  | 0 => some .w8 | 1 => some .w16 | 2 => some .w32 | _ => none

/-- Rounding codes (R65). -/
def Rm.code : Rm → BitVec 3
  | .rne => 0 | .rz => 1 | .ru => 2 | .rd => 3 | .rna => 4

/-- The mode a code names (R65). -/
def Rm.ofCode (c : BitVec 3) : Option Rm :=
  match c.toNat with
  | 0 => some .rne | 1 => some .rz | 2 => some .ru | 3 => some .rd | 4 => some .rna | _ => none

/-- Scope codes (R66). -/
def Scope.code : Scope → BitVec 3
  | .constellation => 0 | .region => 1 | .die => 2 | .module => 3 | .domain => 4 | .durable => 5

/-- The scope a code names (R66). -/
def Scope.ofCode (c : BitVec 3) : Option Scope :=
  match c.toNat with
  | 0 => some .constellation | 1 => some .region | 2 => some .die | 3 => some .module | 4 => some .domain
  | 5 => some .durable | _ => none

/-- Condition codes of TST and VTST (R71, R288). -/
def Cond.code : Cond → BitVec 5
  | .eq => 0 | .ne => 1 | .lt => 2 | .le => 3 | .gt => 4 | .ge => 5 | .ltn => 6 | .len => 7 | .gtn => 8 | .gen => 9

/-- The condition a code names (R288). -/
def Cond.ofCode (c : BitVec 5) : Option Cond :=
  match c.toNat with
  | 0 => some .eq | 1 => some .ne | 2 => some .lt | 3 => some .le | 4 => some .gt | 5 => some .ge
  | 6 => some .ltn | 7 => some .len | 8 => some .gtn | 9 => some .gen | _ => none

/-- Condition codes of FTST (R295). -/
def FCond.code : FCond → BitVec 3
  | .eq => 0 | .ne => 1 | .lt => 2 | .le => 3 | .gt => 4 | .ge => 5 | .un => 6 | .or => 7

/-- The condition a code names (R295). -/
def FCond.ofCode (c : BitVec 3) : FCond :=
  match c.toNat with
  | 0 => .eq | 1 => .ne | 2 => .lt | 3 => .le | 4 => .gt | 5 => .ge | 6 => .un | _ => .or

/-- VRED's function codes (R311). -/
def RedFn.code : RedFn → BitVec 5
  | .add => 0 | .min => 1 | .max => 2

/-- The function a code names (R311). -/
def RedFn.ofCode (c : BitVec 5) : Option RedFn :=
  match c.toNat with
  | 0 => some .add | 1 => some .min | 2 => some .max | _ => none

/-- RED's function codes (R339). -/
def MemFn.code : MemFn → BitVec 4
  | .add => 0 | .min => 1 | .max => 2 | .and => 3 | .or => 4 | .xor => 5

/-- The function a code names (R339). -/
def MemFn.ofCode (c : BitVec 4) : Option MemFn :=
  match c.toNat with
  | 0 => some .add | 1 => some .min | 2 => some .max | 3 => some .and | 4 => some .or | 5 => some .xor | _ => none

/-- Predicate codes (R52). -/
def Pred.code : Pred → BitVec 2
  | .always => 0 | .onTrue => 2 | .onFalse => 3

/-- The predication a code names (R52). -/
def Pred.ofCode (c : BitVec 2) : Option Pred :=
  match c.toNat with
  | 0 => some .always | 2 => some .onTrue | 3 => some .onFalse | _ => none

/-- Port codes (R56). -/
def Port.code : Port → BitVec 2
  | .l => 0 | .r => 1 | .p => 2 | .x => 3

/-- The port a code names (R56). -/
def Port.ofCode (c : BitVec 2) : Port :=
  match c.toNat with
  | 0 => .l | 1 => .r | 2 => .p | _ => .x

/-- The 12 bits of a target (R56). -/
def Target.code : Target → BitVec 12
  | .node n p => 0#3 ++ n ++ p.code
  | .reg r => 1#2 ++ 0#4 ++ r
  | .port q => 2#2 ++ q
  | .none => 0xC00#12

/-- The target that 12 bits name, none for a refused value (R56). -/
def Target.ofCode (c : BitVec 12) : Option Target :=
  match (c.extractLsb' 10 2).toNat with
  | 0 => if c.getLsbD 9 then .none else some (.node (c.extractLsb' 2 7) (Port.ofCode (c.extractLsb' 0 2)))
  | 1 => if c.extractLsb' 6 4 = 0#4 then some (.reg (c.extractLsb' 0 6)) else .none
  | 2 => some (.port (c.extractLsb' 0 10))
  | _ => if c = 0xC00#12 then some .none else .none

/-! ### Literal layouts (R63) -/

/-- The compute layout: rounding mode, auxiliary code, 40 bits the entry assigns. -/
def litC (rm : BitVec 3) (aux : BitVec 5) (low : BitVec 40) : Lit := rm ++ aux ++ low

/-- The memory and counter layout: LSID, scope, trap-on-late, renew, bits 37:32, offset. -/
def litM (m : MemLit) (scope : BitVec 3) (ext : BitVec 6) : Lit :=
  m.lsid ++ scope ++ BitVec.ofBool m.late ++ BitVec.ofBool m.renew ++ ext ++ m.ofs

/-- An engine record's literal: scope, trap-on-late, renew (R207). -/
def litE (e : EngLit) : Lit := 0#5 ++ e.scope.code ++ BitVec.ofBool e.late ++ BitVec.ofBool e.renew ++ 0#38

/-- VK in bit 39 of a compute literal (R260). -/
def litVk (vk : Bool) (low : BitVec 39) : Lit := litC 0#3 0#5 (BitVec.ofBool vk ++ low)

/-- The literal of a second operand without rounding. -/
def Rhs.lit : Rhs → Lit
  | .port => 0#48
  | .imm v => v

/-- The literal of a second operand with rounding. -/
def FRhs.lit : FRhs → Lit
  | .port rm => litC rm.code 0#5 0#40
  | .imm v => v

/-- The fields of the memory layout (R63). -/
def MemLit.ofLit (l : Lit) : MemLit where
  lsid := l.extractLsb' 43 5
  late := l.getLsbD 39
  renew := l.getLsbD 38
  ofs := l.extractLsb' 0 32

/-- The six bits 37:32 of a memory literal. -/
def litExt (l : Lit) : BitVec 6 := l.extractLsb' 32 6

/-- NEAR and KN of a counter record (R223). -/
def nearExt : Option (BitVec 4) → BitVec 6
  | .none => 0#6
  | some k => 2#2 ++ k

/-- The near counter that bits 37:32 name (R223). -/
def nearOf (e : BitVec 6) : Option (BitVec 4) :=
  if e.getLsbD 5 then some (e.extractLsb' 0 4) else .none

/-- An answer, or the error named. -/
def orErr {α : Type} (o : Option α) (e : DecodeError) : Except DecodeError α :=
  match o with
  | some a => .ok a
  | .none => .error e

/-- OP, M, FN[4:0] and LIT of a record (R71 and the encoding tables of the entries), none for an event. -/
def Instr.enc : Instr → Option (BitVec 8 × Bool × BitVec 5 × Lit)
  | .read _ (.g n) => some (0x01, false, 0, litC 0 0 (0#34 ++ n))
  | .read _ (.v n) => some (0x01, false, 0, litC 0 0 (0#33 ++ 1#1 ++ 0#2 ++ n))
  | .mov _ vk dly => some (0x02, false, 0, litVk vk (if dly then 32 else 0))
  | .movx _ vk t2 t3 => some (0x03, false, 0, litVk vk (0#15 ++ t2.code ++ t3.code))
  | .const _ t v => some (0x04, true, t.code, v)
  | .null _ vk => some (0x05, false, 0, litVk vk 0)
  | .sel _ vk => some (0x06, false, 0, litVk vk 0)
  | .gate _ vk => some (0x07, false, 0, litVk vk 0)
  | .exitJmp _ blk => some (0x08, false, 0, (0#15 ++ blk))
  | .exitJmpi _ => some (0x08, false, 1, 0)
  | .exitCall _ blk => some (0x08, false, 2, (0#15 ++ blk))
  | .exitRet _ => some (0x08, false, 3, 0)
  | .exitStop _ => some (0x08, false, 4, 0)
  | .itin _ vk => some (0x09, false, 0, litVk vk 0)
  | .itnx _ vk => some (0x0A, false, 0, litVk vk 0)
  | .itout _ vk => some (0x0B, false, 0, litVk vk 0)
  | .tagr _ f vk => some (0x0C, false, (match f with | .iter => 0 | .colour => 1 | .gen => 2), litVk vk 0)
  | .wfld _ k => some (0x0D, false, (BitVec.ofNat 5 k.val), 0)
  | .slks _ (.port vk) => some (0x0E, false, 0, litVk vk 0)
  | .slks _ (.imm v) => some (0x0E, true, 0, v)
  | .slkr _ vk => some (0x0F, false, 0, litVk vk 0)
  | .add _ t b => some (0x10, (!b.isPort), t.code, b.lit)
  | .sub _ t b => some (0x11, (!b.isPort), t.code, b.lit)
  | .mul _ t b => some (0x12, (!b.isPort), t.code, b.lit)
  | .mulh _ t b => some (0x13, (!b.isPort), t.code, b.lit)
  | .mulw _ t b => some (0x14, (!b.isPort), t.code, b.lit)
  | .div _ t b => some (0x15, (!b.isPort), t.code, b.lit)
  | .rem _ t b => some (0x16, (!b.isPort), t.code, b.lit)
  | .min _ t b => some (0x17, (!b.isPort), t.code, b.lit)
  | .max _ t b => some (0x18, (!b.isPort), t.code, b.lit)
  | .adds _ t b => some (0x19, (!b.isPort), t.code, b.lit)
  | .subs _ t b => some (0x1A, (!b.isPort), t.code, b.lit)
  | .and _ b => some (0x1B, (!b.isPort), 0, b.lit)
  | .or _ b => some (0x1B, (!b.isPort), 1, b.lit)
  | .xor _ b => some (0x1B, (!b.isPort), 2, b.lit)
  | .andn _ b => some (0x1B, (!b.isPort), 3, b.lit)
  | .not _ => some (0x1B, false, 4, 0)
  | .neg _ w => some (0x1C, false, (0#2 ++ w.code), 0)
  | .abs _ w => some (0x1D, false, (0#2 ++ w.code), 0)
  | .shl _ t b => some (0x1E, (!b.isPort), t.code, b.lit)
  | .shr _ t b => some (0x1F, (!b.isPort), t.code, b.lit)
  | .sar _ t b => some (0x20, (!b.isPort), t.code, b.lit)
  | .rol _ t b => some (0x21, (!b.isPort), t.code, b.lit)
  | .ror _ t b => some (0x22, (!b.isPort), t.code, b.lit)
  | .clz _ w => some (0x23, false, (0#2 ++ w.code), 0)
  | .ctz _ w => some (0x23, false, (1#2 ++ w.code), 0)
  | .popc _ w => some (0x23, false, (2#2 ++ w.code), 0)
  | .bfx _ p n sx => some (0x24, false, 0, litC 0 0 (0#23 ++ BitVec.ofBool sx ++ 0#2 ++ n ++ 0#2 ++ p))
  | .bfi _ p n => some (0x25, false, 0, litC 0 0 (0#26 ++ n ++ 0#2 ++ p))
  | .sext _ w => some (0x26, false, (0#1 ++ w.code), 0)
  | .zext _ w => some (0x26, false, (1#1 ++ w.code), 0)
  | .tst _ c b => some (0x27, (!b.isPort), c.code, b.lit)
  | .lea _ (.port sh) => some (0x28, false, 0, litC 0 0 (0#37 ++ sh))
  | .lea _ (.imm v) => some (0x28, true, 0, v)
  | .apx _ b => some (0x29, (!b.isPort), 0, b.lit)
  | .fadd _ t b => some (0x30, (!b.isPort), t.code, b.lit)
  | .fsub _ t b => some (0x31, (!b.isPort), t.code, b.lit)
  | .fmul _ t b => some (0x32, (!b.isPort), t.code, b.lit)
  | .fdiv _ t b => some (0x33, (!b.isPort), t.code, b.lit)
  | .fsqrt _ t rm => some (0x34, false, t.code, litC rm.code 0 0)
  | .fma _ t rm => some (0x35, false, t.code, litC rm.code 0 0)
  | .fmin _ t b => some (0x36, (!b.isPort), t.code, b.lit)
  | .fmax _ t b => some (0x37, (!b.isPort), t.code, b.lit)
  | .fabs _ t => some (0x38, false, (0#3 ++ t.w), 0)
  | .fneg _ t => some (0x38, false, (1#3 ++ t.w), 0)
  | .fcpys _ t => some (0x38, false, (2#3 ++ t.w), 0)
  | .ftst _ c t b => some (0x39, (!b.isPort), (c.code ++ t.w), b.lit)
  | .fcvt _ d s rm => some (0x3A, false, d.code, litC rm.code s.code 0)
  | .frnd _ t rm => some (0x3B, false, t.code, litC rm.code 0 0)
  | .fcls _ t => some (0x3C, false, t.code, 0)
  | .exp2 _ t rm => some (0x3D, false, (0#3 ++ t.w), litC rm.code 0 0)
  | .log2 _ t rm => some (0x3D, false, (1#3 ++ t.w), litC rm.code 0 0)
  | .rsq _ t rm => some (0x3D, false, (2#3 ++ t.w), litC rm.code 0 0)
  | .vadd _ t b => some (0x40, (!b.isPort), t.code, b.lit)
  | .vsub _ t b => some (0x41, (!b.isPort), t.code, b.lit)
  | .vmul _ t b => some (0x42, (!b.isPort), t.code, b.lit)
  | .vdiv _ t b => some (0x43, (!b.isPort), t.code, b.lit)
  | .vfma _ t rm => some (0x44, false, t.code, litC rm.code 0 0)
  | .vmin _ t b => some (0x45, (!b.isPort), t.code, b.lit)
  | .vmax _ t b => some (0x46, (!b.isPort), t.code, b.lit)
  | .vabs _ t => some (0x47, false, t.code, 0)
  | .vneg _ t => some (0x48, false, t.code, 0)
  | .vand _ t b => some (0x49, (!b.isPort), t.code, b.lit)
  | .vor _ t b => some (0x4A, (!b.isPort), t.code, b.lit)
  | .vxor _ t b => some (0x4B, (!b.isPort), t.code, b.lit)
  | .vshl _ t b => some (0x4C, (!b.isPort), t.code, b.lit)
  | .vshr _ t b => some (0x4D, (!b.isPort), t.code, b.lit)
  | .vsar _ t b => some (0x4E, (!b.isPort), t.code, b.lit)
  | .vtst _ t c => some (0x4F, false, t.code, litC 0 c.code 0)
  | .vsel _ t => some (0x50, false, t.code, 0)
  | .vcvt _ d s rm part => some (0x51, false, d.code, litC rm.code s.code (0#38 ++ part))
  | .vexp2 _ t rm => some (0x52, false, t.code, litC rm.code 0 0)
  | .vlog2 _ t rm => some (0x53, false, t.code, litC rm.code 0 0)
  | .vrsq _ t rm => some (0x54, false, t.code, litC rm.code 0 0)
  | .vbcast _ t => some (0x55, false, t.code, 0)
  | .vextr _ t lane => some (0x56, false, t.code, litC 0 0 (0#33 ++ lane))
  | .vins _ t lane => some (0x57, false, t.code, litC 0 0 (0#33 ++ lane))
  | .vperm _ t => some (0x58, false, t.code, 0)
  | .viota _ t => some (0x59, false, t.code, 0)
  | .vred _ t f rm mk => some (0x5A, false, t.code, litC rm.code f.code (BitVec.ofBool mk ++ 0#39))
  | .vscan _ t rm mk => some (0x5B, false, t.code, litC rm.code 0 (BitVec.ofBool mk ++ 0#39))
  | .vdot _ t rm mk => some (0x5C, false, t.code, litC rm.code 0 (BitVec.ofBool mk ++ 0#39))
  | .vmaxi _ t mk => some (0x5D, false, t.code, litC 0 0 (BitVec.ofBool mk ++ 0#39))
  | .vmini _ t mk => some (0x5E, false, t.code, litC 0 0 (BitVec.ofBool mk ++ 0#39))
  | .amax _ t => some (0x60, false, t.code, 0)
  | .cvq _ t ch => some (0x61, false, t.code, litC 0 0 (0#3 ++ ch ++ 0#32))
  | .cvdq _ t q => some (0x62, false, t.code, litC 0 0 (0#38 ++ q))
  | .chset _ => some (0x63, false, 0, 0)
  | .chtab _ => some (0x64, false, 0, 0)
  | .sclw _ sreg qm => some (0x65, false, 0, litC 0 0 (0#32 ++ qm ++ sreg))
  | .vpk _ => some (0x66, false, 0x0D, 0)
  | .vupk _ => some (0x67, false, 0x0D, 0)
  | .rngs _ => some (0x68, false, 0, 0)
  | .rngn _ d => some (0x69, false, 0, litC 0 0 (0#36 ++ d))
  | .rngf _ d => some (0x6A, false, 0x0A, litC 0 0 (0#36 ++ d))
  | .sample _ d => some (0x6B, false, 0, litC 0 0 (0#36 ++ d))
  | .topk _ b => some (0x6C, (!b.isPort), 0, b.lit)
  | .accept _ dl near => some (0x6D, false, 0, litC 0 0 (0#2 ++ nearExt near ++ 0#27 ++ dl))
  | .ld _ t m ch => some (0x70, false, t.code, litM m 0 (0#1 ++ ch))
  | .st _ t m => some (0x71, false, t.code, litM m 0 0)
  | .vld _ t m ch => some (0x72, false, t.code, litM m 0 (0#1 ++ ch))
  | .vst _ t m => some (0x73, false, t.code, litM m 0 0)
  | .vldg _ t m ch => some (0x74, false, t.code, litM m 0 (0#1 ++ ch))
  | .vsts _ t m => some (0x75, false, t.code, litM m 0 0)
  | .ldr _ t m ch => some (0x76, false, t.code, litM m 0 (0#1 ++ ch))
  | .pref _ m pgs => some (0x77, false, 0, litM m 0 (0#2 ++ pgs))
  | .red _ t m f => some (0x78, false, t.code, litM m 0 (0#2 ++ f.code))
  | .vredm _ t m f => some (0x79, false, t.code, litM m 0 (0#2 ++ f.code))
  | .mldred _ lsid ofs => some (0x7A, false, 0x09, (lsid ++ 0#11 ++ ofs))
  | .gset _ lsid => some (0x7B, false, 0, (lsid ++ 0#43))
  | .copy _ lsid e => some (0x7C, false, 0, (lsid ++ e.scope.code ++ BitVec.ofBool e.late ++ BitVec.ofBool e.renew ++ 0#38))
  | .persist _ m kn => some (0x7D, false, 0, litM m 5 (0#2 ++ kn))
  | .cadd _ m scope near => some (0x80, false, 0, litM m scope.code (nearExt near))
  | .caddr _ m scope near => some (0x81, false, 0, litM m scope.code (nearExt near))
  | .cwait _ m scope near => some (0x82, false, 0, litM m scope.code (nearExt near))
  | .cpoll _ m scope near => some (0x83, false, 0, litM m scope.code (nearExt near))
  | .mma _ t e => some (0x88, false, t.code, litE e)
  | .mmaz _ e => some (0x89, false, 0, litE e)
  | .accld _ e => some (0x8A, false, 0, litE e)
  | .accst _ t e => some (0x8B, false, t.code, litE e)
  | .lxtab _ e => some (0x90, false, 0, litE e)
  | .lxctx _ e => some (0x91, false, 0, litE e)
  | .lxrun _ e => some (0x92, false, 0, litE e)
  | .lxtin _ e => some (0x93, false, 0, litE e)
  | .lxtout _ e => some (0x94, false, 0, litE e)
  | .spawn _ na blk => some (0x98, false, 0, (0#13 ++ BitVec.ofNat 2 na.val ++ blk))
  | .spawnNowait _ na blk => some (0x98, false, 1, (0#13 ++ BitVec.ofNat 2 na.val ++ blk))
  | .retn _ => some (0x99, false, 0, 0)
  | .launch _ => some (0x9A, false, 0, 0)
  | .cancel _ => some (0x9B, false, 0, 0)
  | .cancelLaunch _ => some (0x9B, false, 0, 1)
  | .trap _ c => some (0xA0, false, 0, (0#32 ++ c))
  | .fltr _ => some (0xA1, false, 0, 0)
  | .msg _ => some (0xA2, false, 0, 0)
  | .msgReply _ => some (0xA2, false, 0, 0)
  | .msgr _ => some (0xA3, false, 0, 0)
  | .dusk _ => some (0xA4, false, 0, 0)
  | .duskSave _ => some (0xA4, false, 0, 1)
  | .ctxsv _ => some (0xA5, false, 0, 0)
  | .ctxld _ => some (0xA6, false, 0, 0)
  | .litw _ n => some (0xA7, false, 0, (0#41 ++ n))
  | .badn _ => some (0xA8, false, 0, 0)
  | .apset _ => some (0xA9, false, 0, 0)
  | .time _ => some (0xAA, false, 0, 0)
  | .retire _ => some (0xAB, false, 0, 0)
  | _ => .none

/-- The raw fields of a record. -/
def Instr.toRaw (i : Instr) : Option Raw :=
  match i.enc, i.hdr with
  | some (op, m, fn, lit), some h =>
    some ⟨op, m, fn, h.pr.code, h.t0.code, h.t1.code, h.slk, lit⟩
  | _, _ => .none

/-- The 96 bits of a record, none for an event, which has no encoding. -/
def encode (i : Instr) : Option RecordWord := i.toRaw.map Raw.pack

/-! ### The decoder -/

/-- The second operand that M selects (R52, R64). -/
def Raw.rhs (r : Raw) : Rhs := if r.m then .imm r.lit else .port

/-- The rounding mode of LIT 47:45 (R65). -/
def Raw.rm (r : Raw) : Except DecodeError Rm := orErr (Rm.ofCode (r.lit.extractLsb' 45 3)) .lit

/-- The second operand of a rounding record (R64, R65). -/
def Raw.frhs (r : Raw) : Except DecodeError FRhs :=
  if r.m then .ok (.imm r.lit) else (r.rm).map .port

/-- VK (R260). -/
def Raw.vk (r : Raw) : Bool := r.lit.getLsbD 39

/-- The integer type of FN. -/
def Raw.int (r : Raw) : Except DecodeError IntTy := orErr (IntTy.ofCode r.fn) .fnM

/-- The IEEE type of FN. -/
def Raw.fp (r : Raw) : Except DecodeError FpTy := orErr (FpTy.ofCode r.fn) .fnM

/-- The type of FN. -/
def Raw.ty (r : Raw) : Except DecodeError Ty := orErr (Ty.ofCode r.fn) .fnM

/-- The tapered type of FN. -/
def Raw.tap (r : Raw) : Except DecodeError TapTy := orErr (TapTy.ofCode r.fn) .fnM

/-- The IEEE type of FN[1:0] (R71). -/
def Raw.fpw (r : Raw) : FpTy := FpTy.ofW (r.fn.extractLsb' 0 2)

/-- The scope of LIT 42:40 (R66). -/
def Raw.scope (r : Raw) : Except DecodeError Scope := orErr (Scope.ofCode (r.lit.extractLsb' 40 3)) .lit

/-- The memory literal (R63). -/
def Raw.mem (r : Raw) : MemLit := MemLit.ofLit r.lit

/-- The engine literal (R207). -/
def Raw.eng (r : Raw) : Except DecodeError EngLit :=
  (r.scope).map fun s => ⟨s, r.lit.getLsbD 39, r.lit.getLsbD 38⟩

/-- NA of SPAWN (R346). -/
def Raw.na (r : Raw) : Except DecodeError (Fin 3) :=
  match (r.lit.extractLsb' 33 2).toNat with
  | 0 => .ok 0 | 1 => .ok 1 | 2 => .ok 2 | _ => .error .lit

/-- Dataflow and control, OP 0x00-0x0F (R262-R278). -/
def Raw.buildCore (r : Raw) (h : Hdr) : Except DecodeError Instr :=
  match r.op.toNat with
  | 0x01 => .ok (.read h (if r.lit.getLsbD 6 then .v (r.lit.extractLsb' 0 4) else .g (r.lit.extractLsb' 0 6)))
  | 0x02 => .ok (.mov h r.vk (r.lit.getLsbD 5))
  | 0x03 => do
    let t2 ← orErr (Target.ofCode (r.lit.extractLsb' 12 12)) .further
    let t3 ← orErr (Target.ofCode (r.lit.extractLsb' 0 12)) .further
    .ok (.movx h r.vk t2 t3)
  | 0x04 => do .ok (.const h (← r.ty) r.lit)
  | 0x05 => .ok (.null h r.vk)
  | 0x06 => .ok (.sel h r.vk)
  | 0x07 => .ok (.gate h r.vk)
  | 0x08 =>
    match r.fn.toNat with
    | 0 => .ok (.exitJmp h (r.lit.extractLsb' 0 33))
    | 1 => .ok (.exitJmpi h)
    | 2 => .ok (.exitCall h (r.lit.extractLsb' 0 33))
    | 3 => .ok (.exitRet h)
    | 4 => .ok (.exitStop h)
    | _ => .error .fnM
  | 0x09 => .ok (.itin h r.vk)
  | 0x0A => .ok (.itnx h r.vk)
  | 0x0B => .ok (.itout h r.vk)
  | 0x0C =>
    match r.fn.toNat with
    | 0 => .ok (.tagr h .iter r.vk)
    | 1 => .ok (.tagr h .colour r.vk)
    | 2 => .ok (.tagr h .gen r.vk)
    | _ => .error .fnM
  | 0x0D =>
    match r.fn.toNat with
    | 0 => .ok (.wfld h 0) | 1 => .ok (.wfld h 1) | 2 => .ok (.wfld h 2)
    | 3 => .ok (.wfld h 3) | 4 => .ok (.wfld h 4) | 5 => .ok (.wfld h 5)
    | _ => .error .fnM
  | 0x0E => .ok (.slks h (if r.m then .imm r.lit else .port r.vk))
  | 0x0F => .ok (.slkr h r.vk)
  | _ => .error .op

/-- Integer records, OP 0x10-0x1F (R279-R284). -/
def Raw.buildInt (r : Raw) (h : Hdr) : Except DecodeError Instr :=
  match r.op.toNat with
  | 0x10 => do .ok (.add h (← r.int) r.rhs)
  | 0x11 => do .ok (.sub h (← r.int) r.rhs)
  | 0x12 => do .ok (.mul h (← r.int) r.rhs)
  | 0x13 => do .ok (.mulh h (← r.int) r.rhs)
  | 0x14 => do .ok (.mulw h (← r.int) r.rhs)
  | 0x15 => do .ok (.div h (← r.int) r.rhs)
  | 0x16 => do .ok (.rem h (← r.int) r.rhs)
  | 0x17 => do .ok (.min h (← r.int) r.rhs)
  | 0x18 => do .ok (.max h (← r.int) r.rhs)
  | 0x19 => do .ok (.adds h (← r.int) r.rhs)
  | 0x1A => do .ok (.subs h (← r.int) r.rhs)
  | 0x1B =>
    match r.fn.toNat with
    | 0 => .ok (.and h r.rhs)
    | 1 => .ok (.or h r.rhs)
    | 2 => .ok (.xor h r.rhs)
    | 3 => .ok (.andn h r.rhs)
    | 4 => .ok (.not h)
    | _ => .error .fnM
  | 0x1C => do .ok (.neg h (← orErr (Width.ofCode (r.fn.extractLsb' 0 3)) .fnM))
  | 0x1D => do .ok (.abs h (← orErr (Width.ofCode (r.fn.extractLsb' 0 3)) .fnM))
  | 0x1E => do .ok (.shl h (← r.int) r.rhs)
  | 0x1F => do .ok (.shr h (← r.int) r.rhs)
  | _ => .error .op

/-- Integer records, OP 0x20-0x2F (R284-R290). -/
def Raw.buildInt2 (r : Raw) (h : Hdr) : Except DecodeError Instr :=
  match r.op.toNat with
  | 0x20 => do .ok (.sar h (← r.int) r.rhs)
  | 0x21 => do .ok (.rol h (← r.int) r.rhs)
  | 0x22 => do .ok (.ror h (← r.int) r.rhs)
  | 0x23 => do
    let w ← orErr (Width.ofCode (r.fn.extractLsb' 0 3)) .fnM
    match (r.fn.extractLsb' 3 2).toNat with
    | 0 => .ok (.clz h w)
    | 1 => .ok (.ctz h w)
    | 2 => .ok (.popc h w)
    | _ => .error .fnM
  | 0x24 => .ok (.bfx h (r.lit.extractLsb' 0 6) (r.lit.extractLsb' 8 6) (r.lit.getLsbD 16))
  | 0x25 => .ok (.bfi h (r.lit.extractLsb' 0 6) (r.lit.extractLsb' 8 6))
  | 0x26 => do
    let w ← orErr (Width3.ofCode (r.fn.extractLsb' 0 4)) .fnM
    .ok (if r.fn.getLsbD 4 then .zext h w else .sext h w)
  | 0x27 => do .ok (.tst h (← orErr (Cond.ofCode r.fn) .fnM) r.rhs)
  | 0x28 => .ok (.lea h (if r.m then .imm r.lit else .port (r.lit.extractLsb' 0 3)))
  | 0x29 => .ok (.apx h r.rhs)
  | _ => .error .op

/-- Scalar floating point, OP 0x30-0x3F (R291-R299). -/
def Raw.buildFp (r : Raw) (h : Hdr) : Except DecodeError Instr :=
  match r.op.toNat with
  | 0x30 => do .ok (.fadd h (← r.fp) (← r.frhs))
  | 0x31 => do .ok (.fsub h (← r.fp) (← r.frhs))
  | 0x32 => do .ok (.fmul h (← r.fp) (← r.frhs))
  | 0x33 => do .ok (.fdiv h (← r.fp) (← r.frhs))
  | 0x34 => do .ok (.fsqrt h (← r.fp) (← r.rm))
  | 0x35 => do .ok (.fma h (← r.fp) (← r.rm))
  | 0x36 => do .ok (.fmin h (← r.fp) r.rhs)
  | 0x37 => do .ok (.fmax h (← r.fp) r.rhs)
  | 0x38 =>
    match (r.fn.extractLsb' 2 3).toNat with
    | 0 => .ok (.fabs h r.fpw)
    | 1 => .ok (.fneg h r.fpw)
    | 2 => .ok (.fcpys h r.fpw)
    | _ => .error .fnM
  | 0x39 => .ok (.ftst h (FCond.ofCode (r.fn.extractLsb' 2 3)) r.fpw r.rhs)
  | 0x3A => do .ok (.fcvt h (← r.ty) (← orErr (Ty.ofCode (r.lit.extractLsb' 40 5)) .lit) (← r.rm))
  | 0x3B => do .ok (.frnd h (← r.fp) (← r.rm))
  | 0x3C => do .ok (.fcls h (← r.fp))
  | 0x3D => do
    let rm ← r.rm
    match (r.fn.extractLsb' 2 3).toNat with
    | 0 => .ok (.exp2 h r.fpw rm)
    | 1 => .ok (.log2 h r.fpw rm)
    | 2 => .ok (.rsq h r.fpw rm)
    | _ => .error .fnM
  | _ => .error .op

/-- Vector records, OP 0x40-0x4F (R304-R309). -/
def Raw.buildVec (r : Raw) (h : Hdr) : Except DecodeError Instr :=
  match r.op.toNat with
  | 0x40 => do .ok (.vadd h (← r.ty) (← r.frhs))
  | 0x41 => do .ok (.vsub h (← r.ty) (← r.frhs))
  | 0x42 => do .ok (.vmul h (← r.ty) (← r.frhs))
  | 0x43 => do .ok (.vdiv h (← r.ty) (← r.frhs))
  | 0x44 => do .ok (.vfma h (← r.fp) (← r.rm))
  | 0x45 => do .ok (.vmin h (← r.ty) r.rhs)
  | 0x46 => do .ok (.vmax h (← r.ty) r.rhs)
  | 0x47 => do .ok (.vabs h (← r.ty))
  | 0x48 => do .ok (.vneg h (← r.ty))
  | 0x49 => do .ok (.vand h (← r.int) r.rhs)
  | 0x4A => do .ok (.vor h (← r.int) r.rhs)
  | 0x4B => do .ok (.vxor h (← r.int) r.rhs)
  | 0x4C => do .ok (.vshl h (← r.int) r.rhs)
  | 0x4D => do .ok (.vshr h (← r.int) r.rhs)
  | 0x4E => do .ok (.vsar h (← r.int) r.rhs)
  | 0x4F => do .ok (.vtst h (← r.ty) (← orErr (Cond.ofCode (r.lit.extractLsb' 40 5)) .lit))
  | _ => .error .op

/-- Vector records, OP 0x50-0x5F (R309-R314). -/
def Raw.buildVec2 (r : Raw) (h : Hdr) : Except DecodeError Instr :=
  match r.op.toNat with
  | 0x50 => do .ok (.vsel h (← r.ty))
  | 0x51 => do
    .ok (.vcvt h (← r.ty) (← orErr (Ty.ofCode (r.lit.extractLsb' 40 5)) .lit) (← r.rm) (r.lit.extractLsb' 0 2))
  | 0x52 => do .ok (.vexp2 h (← r.fp) (← r.rm))
  | 0x53 => do .ok (.vlog2 h (← r.fp) (← r.rm))
  | 0x54 => do .ok (.vrsq h (← r.fp) (← r.rm))
  | 0x55 => do .ok (.vbcast h (← r.ty))
  | 0x56 => do .ok (.vextr h (← r.ty) (r.lit.extractLsb' 0 7))
  | 0x57 => do .ok (.vins h (← r.ty) (r.lit.extractLsb' 0 7))
  | 0x58 => do .ok (.vperm h (← r.ty))
  | 0x59 => do .ok (.viota h (← r.int))
  | 0x5A => do
    .ok (.vred h (← r.ty) (← orErr (RedFn.ofCode (r.lit.extractLsb' 40 5)) .lit) (← r.rm) r.vk)
  | 0x5B => do .ok (.vscan h (← r.ty) (← r.rm) r.vk)
  | 0x5C => do .ok (.vdot h (← r.ty) (← r.rm) r.vk)
  | 0x5D => do .ok (.vmaxi h (← r.ty) r.vk)
  | 0x5E => do .ok (.vmini h (← r.ty) r.vk)
  | _ => .error .op

/-- Formats and generation, OP 0x60-0x6F (R315-R328). -/
def Raw.buildFmt (r : Raw) (h : Hdr) : Except DecodeError Instr :=
  match r.op.toNat with
  | 0x60 => do .ok (.amax h (← r.tap))
  | 0x61 => do .ok (.cvq h (← r.tap) (r.lit.extractLsb' 32 5))
  | 0x62 => do .ok (.cvdq h (← r.tap) (r.lit.extractLsb' 0 2))
  | 0x63 => .ok (.chset h)
  | 0x64 => .ok (.chtab h)
  | 0x65 => .ok (.sclw h (r.lit.extractLsb' 0 4) (r.lit.extractLsb' 4 4))
  | 0x66 => .ok (.vpk h)
  | 0x67 => .ok (.vupk h)
  | 0x68 => .ok (.rngs h)
  | 0x69 => .ok (.rngn h (r.lit.extractLsb' 0 4))
  | 0x6A => .ok (.rngf h (r.lit.extractLsb' 0 4))
  | 0x6B => .ok (.sample h (r.lit.extractLsb' 0 4))
  | 0x6C => .ok (.topk h r.rhs)
  | 0x6D => .ok (.accept h (r.lit.extractLsb' 0 5) (nearOf (litExt r.lit)))
  | _ => .error .op

/-- Memory records, OP 0x70-0x7F (R332-R342). -/
def Raw.buildMem (r : Raw) (h : Hdr) : Except DecodeError Instr :=
  match r.op.toNat with
  | 0x70 => do .ok (.ld h (← r.ty) r.mem (r.lit.extractLsb' 32 5))
  | 0x71 => do .ok (.st h (← r.ty) r.mem)
  | 0x72 => do .ok (.vld h (← r.ty) r.mem (r.lit.extractLsb' 32 5))
  | 0x73 => do .ok (.vst h (← r.ty) r.mem)
  | 0x74 => do .ok (.vldg h (← r.ty) r.mem (r.lit.extractLsb' 32 5))
  | 0x75 => do .ok (.vsts h (← r.ty) r.mem)
  | 0x76 => do .ok (.ldr h (← r.ty) r.mem (r.lit.extractLsb' 32 5))
  | 0x77 => .ok (.pref h r.mem (r.lit.extractLsb' 32 4))
  | 0x78 => do .ok (.red h (← r.ty) r.mem (← orErr (MemFn.ofCode (r.lit.extractLsb' 32 4)) .lit))
  | 0x79 => do .ok (.vredm h (← r.ty) r.mem (← orErr (MemFn.ofCode (r.lit.extractLsb' 32 4)) .lit))
  | 0x7A => .ok (.mldred h (r.lit.extractLsb' 43 5) (r.lit.extractLsb' 0 32))
  | 0x7B => .ok (.gset h (r.lit.extractLsb' 43 5))
  | 0x7C => do .ok (.copy h (r.lit.extractLsb' 43 5) (← r.eng))
  | 0x7D => .ok (.persist h r.mem (r.lit.extractLsb' 32 4))
  | _ => .error .op

/-- Counters and engines, OP 0x80-0x97 (R201-R217, R223-R225). -/
def Raw.buildCnt (r : Raw) (h : Hdr) : Except DecodeError Instr :=
  match r.op.toNat with
  | 0x80 => do .ok (.cadd h r.mem (← r.scope) (nearOf (litExt r.lit)))
  | 0x81 => do .ok (.caddr h r.mem (← r.scope) (nearOf (litExt r.lit)))
  | 0x82 => do .ok (.cwait h r.mem (← r.scope) (nearOf (litExt r.lit)))
  | 0x83 => do .ok (.cpoll h r.mem (← r.scope) (nearOf (litExt r.lit)))
  | 0x88 => do .ok (.mma h (← r.ty) (← r.eng))
  | 0x89 => do .ok (.mmaz h (← r.eng))
  | 0x8A => do .ok (.accld h (← r.eng))
  | 0x8B => do .ok (.accst h (← r.ty) (← r.eng))
  | 0x90 => do .ok (.lxtab h (← r.eng))
  | 0x91 => do .ok (.lxctx h (← r.eng))
  | 0x92 => do .ok (.lxrun h (← r.eng))
  | 0x93 => do .ok (.lxtin h (← r.eng))
  | 0x94 => do .ok (.lxtout h (← r.eng))
  | _ => .error .op

/-- Tasks and system, OP 0x98-0xAB (R346-R361). -/
def Raw.buildSys (r : Raw) (h : Hdr) : Except DecodeError Instr :=
  match r.op.toNat with
  | 0x98 => do
    let na ← r.na
    match r.fn.toNat with
    | 0 => .ok (.spawn h na (r.lit.extractLsb' 0 33))
    | 1 => .ok (.spawnNowait h na (r.lit.extractLsb' 0 33))
    | _ => .error .fnM
  | 0x99 => .ok (.retn h)
  | 0x9A => .ok (.launch h)
  | 0x9B => .ok (if r.lit.getLsbD 0 then .cancelLaunch h else .cancel h)
  | 0xA0 => .ok (.trap h (r.lit.extractLsb' 0 16))
  | 0xA1 => .ok (.fltr h)
  | 0xA2 => .ok (.msg h)
  | 0xA3 => .ok (.msgr h)
  | 0xA4 => .ok (if r.lit.getLsbD 0 then .duskSave h else .dusk h)
  | 0xA5 => .ok (.ctxsv h)
  | 0xA6 => .ok (.ctxld h)
  | 0xA7 => .ok (.litw h (r.lit.extractLsb' 0 7))
  | 0xA8 => .ok (.badn h)
  | 0xA9 => .ok (.apset h)
  | 0xAA => .ok (.time h)
  | 0xAB => .ok (.retire h)
  | _ => .error .op

/-- The record that OP, FN, M and LIT select, given its header; fields are read here, and `decodeRaw` checks
that every other bit of FN, M and LIT is what the encoder writes. -/
def Raw.build (r : Raw) (h : Hdr) : Except DecodeError Instr :=
  match (r.op.extractLsb' 4 4).toNat with
  | 0 => r.buildCore h | 1 => r.buildInt h | 2 => r.buildInt2 h | 3 => r.buildFp h | 4 => r.buildVec h | 5 => r.buildVec2 h
  | 6 => r.buildFmt h | 7 => r.buildMem h | 8 => r.buildCnt h
  | 9 => if r.op.toNat < 0x98 then r.buildCnt h else r.buildSys h
  | _ => r.buildSys h

/-- The header of a record (R52, R56, R60). -/
def Raw.hdr (r : Raw) : Except DecodeError Hdr := do
  let pr ← orErr (Pred.ofCode r.pr) .pr
  if slkOk r.slk then pure () else .error .slk
  let t0 ← orErr (Target.ofCode r.t0) .t0
  let t1 ← orErr (Target.ofCode r.t1) .t1
  .ok ⟨pr, t0, t1, r.slk⟩

/-- An instruction whose encoding is the record read, and which passes the checks of its entry. -/
def Raw.confirm (r : Raw) (i : Instr) : Except DecodeError Instr :=
  match i.enc with
  | some (_, m, fn, lit) =>
    if m ≠ r.m ∨ fn ≠ r.fn then .error .fnM
    else if lit ≠ r.lit then .error .lit
    else if i.wf then .ok i else .error .entry
  | .none => .error .op

/-- Decoding of a record's fields. -/
def decodeRaw (r : Raw) : Except DecodeError Instr := do
  let h ← r.hdr
  let i ← r.build h
  r.confirm i

/-- The decoder: total on 96-bit words. -/
def decode (w : RecordWord) : Except DecodeError Instr := decodeRaw (Raw.unpack w)

/-- A value from its bytes, least significant first (R2). -/
def ofBytesLE : List Byte → Nat
  | [] => 0
  | b :: bs => b.toNat + 256 * ofBytesLE bs

/-- The `n` bytes of a value, least significant first (R2). -/
def toBytesLE : Nat → Nat → List Byte
  | 0, _ => []
  | n + 1, v => BitVec.ofNat 8 v :: toBytesLE n (v / 256)

/-- Decoding of the 12 bytes of a record (R53), with the bytes left over. -/
def decodeBytes (bs : List Byte) : Except DecodeError (Instr × List Byte) :=
  if bs.length < 12 then .error .short
  else (decode (BitVec.ofNat 96 (ofBytesLE (bs.take 12)))).map fun i => (i, bs.drop 12)

/-- What the decoder reads from an instruction whose bits are `w`, bit 0 the record's bit 0; every bit
at or above `nbits` is 0. The opcode table gives the rows no bits. -/
def decodeTableWord (nbits w : Nat) : Option Instr :=
  match decodeBytes (toBytesLE 12 (w % 2 ^ nbits)) with
  | .ok (i, _) => some i
  | .error _ => .none

end Sys2Proof
end

