-- ==== Sys2Proof/Machine/State.lean ====
section
/-! DEFINITION. The machine's state, as plain data: every piece of state the spec gives the module, the reasons
a step can stop, and the machine right after reset. Sections name the rules of spec/ each part follows. -/

namespace Sys2Proof.Machine

/-- A step stops with a fault of the model. -/
inductive Fault where
  /-- Raised by a page fill, a write-back or a durable step whose page entry names a persistent-tier block
  at or above 48 TiB, which does not exist (R22, R44). Safe: the hardware has nothing there either. -/
  | noTierBlock (pblk : Nat)
  deriving DecidableEq, Repr

/-- A step answers no meaning. -/
inductive Refusal where
  /-- Raised by an arm of `exec` that has no meaning yet. Safe: the machine stops. -/
  | notModelled (mnemonic : String)
  /-- Raised when a record that no rule of the loader lets be placed stands in a placed copy and is to fire
  (R71: it is no instruction). Safe: the machine stops. -/
  | notAnInstruction (word : BitVec 96)
  deriving DecidableEq, Repr

/-- Sparse data by number: pairs in strictly rising order of number, none holding the default value of its
table. What an unlisted number holds is given where the table is read. -/
abbrev Sparse (α : Type) := List (Nat × α)

/-! ### Tokens, packets, block instances (R54, R120-R138, R141, R167-R171) -/

/-- A scalar value, a vector value or null (R54, R55). -/
inductive TokVal where
  | null
  | scalar (w : Word)
  | vector (v : Vec)
  deriving DecidableEq, Repr

/-- The channel entry and scale register bound to a token at arrival (R170). -/
structure Binding where
  entry : BitVec 16
  sreg : BitVec 80
  deriving DecidableEq, Repr

/-- A token: its value, channel code (R167), scale beat (R171: quarter and scale), binding (R170), slack and
late mark (R141, R148) and poison flag (R380). -/
structure Tok where
  val : TokVal
  chan : BitVec 5
  beat : Option (BitVec 22)
  bind : Option Binding
  slack : Nat
  late : Bool
  poison : Bool
  deriving DecidableEq, Repr

/-- Where an instance stands: constellation (of its region's die, or the core for a context on H), slot and
slot sequence number (R120), with the address of its block, which a fault record names (R363). -/
structure Route where
  con : Nat
  slot : Nat
  seq : BitVec 4
  block : Word
  deriving DecidableEq, Repr

/-- A key of the matching store within its instance: node, iteration and whether it stands at depth 1
(R125, R134, R272). -/
structure Key where
  node : Nat
  iter : Nat
  deep : Bool
  deriving DecidableEq, Repr

/-- The operands of the record now firing, or of a held record now sent (R122, R127): the model's own latch
(log entry 2). A port the record does not have holds none. -/
structure Latch where
  ctx : CtxId
  route : Route
  key : Key
  l : Option Tok
  r : Option Tok
  x : Option Tok
  p : Option Tok
  slack : Nat
  released : Bool
  deriving DecidableEq, Repr

/-- One port of the matching store for one key (R125): the token once the port is filled, the producer groups
that have delivered, whether it stands as a residue, where in its context's spill area it is spilled (R137), and when it
filled. -/
structure Entry where
  key : Key
  port : Port
  tok : Option Tok
  groups : List Nat
  residue : Bool
  spilled : Option Nat
  at_ : Nat
  deriving DecidableEq, Repr

/-- A firing of a node in an instance, real or null (R129). -/
structure Fired where
  key : Key
  real : Bool
  deriving DecidableEq, Repr

/-- A token that reached a register target: Gn or Vn, the node that sent it, and the value, null for a null write
(R123, R129). -/
structure RegWrite where
  vec : Bool
  n : Nat
  node : Nat
  val : TokVal
  deriving DecidableEq, Repr

/-- An LSID of one iteration that a record has fired real for (R129); `done` once its access no longer holds
up commit. -/
structure LsidMark where
  iter : Nat
  lsid : Nat
  node : Nat
  done : Bool
  deriving DecidableEq, Repr

/-- What an ITNX firing did (R136, R273): sent a real or a null token, fired null where that is a vote, or fired in the
last iteration. -/
inductive NxOut where
  | sent | nullSent | vote | last
  deriving DecidableEq, Repr

/-- An ITNX firing of one iteration (R135). -/
structure NxMark where
  node : Nat
  iter : Nat
  out : NxOut
  deriving DecidableEq, Repr

/-- The loop level of an instance (R135, R136): the agreed trip count once a real ITIN gave it (0: an open
level), the oldest unretired iteration, the ITNX firings, the youngest token each ITOUT holds, the last
iteration once known, and whether the level has closed. -/
structure Level where
  count : Option Nat
  oldest : Nat
  nx : List NxMark
  outs : List (Nat × Nat × Tok)
  last : Option Nat
  closed : Bool
  deriving DecidableEq, Repr

/-- The random state an instance has set by RNGS or ACCEPT, firing real; a null firing leaves the advance of
R322. -/
structure RngWrite where
  key : Option Word
  counter : Word
  deriving DecidableEq, Repr

/-- A write of the channel table or of scale registers made at commit: one entry, entries 1 to 31 in order, a quarter (R319). -/
inductive ChanWrite where
  | entry (n : Nat) (v : BitVec 16)
  | table (vs : List (BitVec 16))
  | scale (sreg q : Nat) (v : BitVec 20)
  deriving DecidableEq, Repr

/-- A TRAP waiting for commit: its node and iteration, its code and its value (R352, R363). -/
structure Trapped where
  node : Nat
  iter : Nat
  code : BitVec 16
  value : Word
  deriving DecidableEq, Repr

/-- A register that a record has fired real for and whose value its request has still to return (R129): Gn or Vn, and
the node. -/
structure RegClaim where
  vec : Bool
  n : Nat
  node : Nat
  deriving DecidableEq, Repr

/-- What an instance holds for commit: register writes, LSIDs, flags (R161), random state (R322), channel
writes (R319), near-counter adds made at commit (R328), TRAPs (R352), and RETN's key and token (R348). `claims` are the
registers of records that have fired real and whose values their requests have still to return (R129). -/
structure Outputs where
  regs : List RegWrite
  claims : List RegClaim
  lsids : List LsidMark
  flags : Word
  rng : Option RngWrite
  chans : List ChanWrite
  kadds : List (Nat × Word)
  traps : List Trapped
  retn : Option (Key × Tok)
  deriving DecidableEq, Repr

/-- A fault held with its instance or about to be posted: the fields of R363 that the faulting element gives.
`ending` says whether the fault ends the instance (R131). -/
structure FaultRec where
  code : BitVec 8
  iter : Nat
  node : BitVec 8
  die : Nat
  px : Nat
  py : Nat
  cx : Nat
  cy : Nat
  block : Word
  addr : Word
  info : Word
  ending : Bool
  deriving DecidableEq, Repr

/-- A block instance (R120-R136). `born` counts the instances fetched: the order in which a context's instances were
fetched (R239). `ran` holds, by node, the slack that a ready record without operand ports has lost (R127, R145). -/
structure Inst where
  route : Route
  born : Nat
  ran : Sparse Nat
  pred : Option Succ
  exit : Option Succ
  entries : List Entry
  fired : List Fired
  level : Level
  out : Outputs
  held : List (Instr × Latch)
  faults : List FaultRec
  draining : Bool
  deriving DecidableEq, Repr

/-- The address of an instance's block. -/
def Inst.block (i : Inst) : Word := i.route.block

/-- The full name of a place in an object (R26): device, serial and offset. -/
structure FullAddr where
  dev : BitVec 16
  serial : BitVec 64
  ofs : Nat
  deriving DecidableEq, Repr

/-- A token that waits in the inbox of a halted or saved context, with the place, key, port and producer group it was sent to (R367,
R377). -/
structure Waiting where
  route : Route
  key : Key
  port : Port
  grp : Nat
  tok : Tok
  deriving DecidableEq, Repr

/-! ### Contexts and regions (R97-R106, R114-R118, R168, R169, R222, R350, R367, R377) -/

/-- The registers of a context (R5, R99, R161, R222, R322); an unlisted register holds 0. -/
structure Regs where
  g : Sparse Word
  v : Sparse Vec
  k : Sparse Word
  flags : Word
  rngk : Word
  rngc : Word
  deriving DecidableEq, Repr

/-- What started a context: item j of a job (R97), a SPAWN whose outstanding request is `req` in `parent`
(R104), task `task` (R111), or Nocturne (R384). -/
inductive Origin where
  | item (j : Nat)
  | child (parent : CtxId) (req : Nat)
  | task (t : Nat)
  | nocturne
  deriving DecidableEq, Repr

/-- The fixed surroundings of a context (R37, R61, R94, R99, R137, R345, R354), with the job and the item of the
launch it descends from (R100, R101), the task, if any (R113), and the contexts it descends from, outermost first (R350). -/
structure Env where
  job : Nat
  item : Nat
  wid : Word
  atp : BitVec 128
  msq : Nat
  dslk : BitVec 8
  super : Bool
  endpoint : Nat
  origin : Origin
  task : Option Nat
  anc : List CtxId
  deriving DecidableEq, Repr

/-- How far a cancel mark has come at a context (R350). -/
inductive Mark where
  | none | sent | seen
  deriving DecidableEq, Repr

/-- A context (R102, R121). `next` is the successor, or the stop, that the last committed instance handed
over (R130), `rstack` the predictor's return stack (R270), `watch` the watchdog's count (R132), `halt` the
resume address of a halted context (R367), `pending` the registers CADDRs have left pending, each with its
request (R224), `drained` whether a saving dusk has drained it (R371), `inbox` the tokens sent to it while it is halted (R367). -/
structure Ctx where
  id : CtxId
  env : Env
  regs : Regs
  insts : List Inst
  next : Option Succ
  rstack : List Word
  watch : Nat
  halt : Option Word
  mark : Mark
  pending : List (Nat × Nat)
  drained : Bool
  inbox : List Waiting
  deriving DecidableEq, Repr

/-- What a port-table entry is bound to (R58, R116, R194, R209): a streamer, an island or the lattice of the
region's die, or a compute stage's input port that takes tokens of the kind given (R89; log entry 11). -/
inductive EngPort where
  | streamer (k : Nat)
  | island (k : Nat)
  | lattice
  | stage (n : Nat) (vec : Bool)
  deriving DecidableEq, Repr

/-- An entry of the saved-context table (R377): the save area's name, and what the save record of R374 has no
field for: the context's surroundings, and the places its saved instances had, oldest first. `flags` is the record's flags word. -/
structure SavedCtx where
  colour : Nat
  gen : Nat
  at_ : FullAddr
  env : Env
  routes : List Route
  flags : Word
  deriving DecidableEq, Repr

/-- A dusk under way in a region (R355, R371): the form, whether the loader started it to free the region (R117), the drain counter, the
nodes that have forwarded the marker, those whose sink add has been made, and the marker's slack and late mark (R141). -/
structure Dusk where
  save : Bool
  free : Bool
  counter : Word
  atp : BitVec 128
  marks : List (Word × Nat)
  sinks : Nat
  drained : Nat
  slack : Nat
  late : Bool
  deriving DecidableEq, Repr

/-- A placed copy of a block in a region (R115, R118): its block address, home constellation, and its records,
H0 and H1 first (R67). -/
structure Placed where
  addr : Word
  con : Nat
  recs : List RecordWord
  deriving DecidableEq, Repr

/-- A region (R98, R102, R114-R116, R358, R168, R169, R377, R378). On H a region is one core (R382): die 8, and the
constellation is the core. `started` counts the items started in it (R97). `chans` and `sregs` hold each constellation's copy (keys: constellation times 32
plus entry; constellation times 64 plus 4 times register plus quarter; unlisted 0x0140 and 0x7_F000);
`gens` the colours' current generations (unlisted 0); `seqs` the slot sequences (constellation times 32 plus slot;
unlisted 0). `bad` holds the PEs of its constellations that the bad-node registers masked when the loader placed it
(key: constellation; R24, R358). -/
structure Region where
  num : Nat
  index : Nat
  job : Nat
  started : Nat
  die : Nat
  cons : List Nat
  bad : Sparse (BitVec 16)
  ports : Sparse EngPort
  placed : List Placed
  pool : List Nat
  gens : Sparse (BitVec 6)
  chans : Sparse (BitVec 16)
  sregs : Sparse (BitVec 20)
  seqs : Sparse (BitVec 4)
  spill : BitVec 64
  saved : List SavedCtx
  orphans : Nat
  torn : List (Nat × Nat)
  dusk : Option Dusk
  deriving DecidableEq, Repr

/-! ### Packets and requests (R125, R141, R178, R239-R242) -/

/-- Where a packet in transit goes: a port of a node with the producer group it comes from, a register write
of an instance, or the port of an engine, with the key of the record that sent it. A route whose slot is 32 is that of the first
instance of a context, before it is fetched (R104, R111; log entry 2). -/
inductive Dest where
  | node (route : Route) (key : Key) (port : Port) (grp : Nat)
  | reg (route : Route) (node : Nat) (vec : Bool) (n : Nat)
  | port (p : EngPort) (route : Route) (key : Key)
  deriving DecidableEq, Repr

/-- A stream (R181): the accesses that one PE sends to one home tile for one context. -/
structure Stream where
  pe : Nat × Nat × Nat
  home : Nat × Nat
  deriving DecidableEq, Repr

/-- A packet in transit that carries a token (R141). `loud` marks a packet of a record with trap-on-late
(R150); `req` is the request that its arrival completes (R106); `instr` is the COPY or engine record that sent it to an engine,
and `slack0` its slack as sent (R144). `streams` are those of the reply it carries (R181), and `born` the number of the instance that
sent a COPY or an engine record (R249). -/
structure Packet where
  id : Nat
  ctx : CtxId
  dest : Dest
  tok : Tok
  loud : Bool
  req : Option Nat
  instr : Option Instr
  slack0 : Nat
  streams : List Stream
  born : Nat
  deriving DecidableEq, Repr

/-- How far one piece of an access has come: its checks under way at a peer device (R28), parked on an absent or filling page
(R46), with its home, carried to a peer device, or performed. -/
inductive PStage where
  | probing | parked | ready | peer | done
  deriving DecidableEq, Repr

/-- One piece of an access: one granule (R178), lane, line or member, with its near address, what its name step
found (R41), the bytes it loaded, its packet's slack and late mark (R141), and whether an ECC error has poisoned its reply (R380). -/
structure Piece where
  near : Word
  size : Nat
  lane : Nat
  dev : BitVec 16
  serial : BitVec 64
  ofs : Nat
  pte : Nat
  stage : PStage
  data : List Byte
  slack : Nat
  late : Bool
  poison : Bool
  deriving DecidableEq, Repr

/-- A valid aperture entry (R38). -/
structure Aperture where
  rights : Nat
  length : Nat
  dev : BitVec 16
  base : Nat
  serial : BitVec 64
  deriving DecidableEq, Repr

/-- How far a request has come: in a tile's port queue or waiting for a walker (R42), being walked, at its homes, a
registered waiter (R225), under a durable step (R253), or waiting for what it asked for (R105, R106, R345,
R354). -/
inductive Stage where
  | queued | walking | homes | waiter | durable | colour | answer | done
  deriving DecidableEq, Repr

/-- An outstanding request of a record (R122, R239, R345): the record with its operands, and its packet's
slack as sent and now, late mark, and progress. `served`: its server has begun to serve it (R144). `go` marks a write that
commit has let go (R130). `value` holds a threshold, an old value, the lines or pages done, or the members that failed. `born` is the number of the
instance that sent it (R239), `aps` the aperture entries it has read, one for each span (R40), and `named` the objects whose name step here
it has passed while it waits for the walk of a page (R49). `void` marks a load whose instance has been squashed: a port discards its reply
(R336). `item` is the launch item of its context (R100), and `fails` the faults that its lanes have met, each with its lane, code and near
address, until it is known which is the lowest (R337). -/
structure Req where
  id : Nat
  born : Nat
  instr : Instr
  latch : Latch
  slack0 : Nat
  slack : Nat
  late : Bool
  stage : Stage
  served : Bool
  go : Bool
  pieces : List Piece
  aps : List (Option Aperture)
  named : List (BitVec 64)
  void : Bool
  item : Nat
  fails : List (Nat × BitVec 8 × Word)
  value : Word
  deriving DecidableEq, Repr

/-- Who makes an add that no record's request carries: an engine for a request of an instance (R191, R210), named by its
die and port; a meridian unit for a successor of the task that context ran (R113), the module for an item of a job, by its number (R100), a dusk sink of a region (R355), a
fault queue (R366), a host link (R390). -/
inductive AddSrc where
  | engine (ctx : CtxId) (route : Route) (die : Nat) (port : EngPort) | succ (ctx : CtxId) | item (job item : Nat) | sink (region : Nat) | signal (q : Nat) | host (link : Nat)
  deriving DecidableEq, Repr

/-- A counter add that hardware makes, on its way to its home (R144, R245). -/
structure PendAdd where
  id : Nat
  dst : FullAddr
  amt : Word
  scope : Scope
  slack : Nat
  late : Bool
  src : AddSrc
  deriving DecidableEq, Repr

/-- Who waits on a counter: a CWAIT's request, a task, or a peer's access (R225, R109, R28). -/
inductive Waits where
  | req (r : Nat) | task (t : Nat) | peer (acc : Nat)
  deriving DecidableEq, Repr

/-- A waiter registered at a counter's home, in a tile's entry or in the side-area list (R230, R231). -/
structure Waiter where
  at_ : FullAddr
  thr : Word
  slack : Nat
  order : Nat
  side : Bool
  who : Waits
  deriving DecidableEq, Repr

/-- A place in the program order of a context (R239): instance, iteration, LSID. -/
abbrev OpKey := Nat × Nat × Nat

/-- A release record kept at a counter's home (R248): the releasing agent's die, constellation and context, the scope, and
the agent's place in its context's program order; of an item's DONE add, the job and the item, whose contexts it speaks for. -/
structure Release where
  at_ : FullAddr
  die : Nat
  con : Nat
  scope : Scope
  ctx : CtxId
  key : OpKey
  item : Option (Nat × Nat)
  deriving DecidableEq, Repr

/-- A durable step applied at its home and not yet in the persistent tier (R253): the counter, its value, and the
requests it wakes and answers once durable, with the slack and late mark of the step's combined packet (R144). -/
structure DurStep where
  at_ : FullAddr
  old : Word
  slack : Nat
  late : Bool
  replies : List (Nat × Word)
  deriving DecidableEq, Repr

/-! ### Names, pages and storage (R29-R51, R138, R184) -/

/-- A pool of storage handed out from `next` below `limit`, after what has been freed (R45; log entry 6). -/
structure Pool where
  next : Nat
  limit : Nat
  freed : List Nat
  deriving DecidableEq, Repr

/-- A page between two states (R46): filling; being migrated to a new frame or evicted, with the previous
state. -/
inductive MoveKind where
  | fill | migrate (frame : Nat) | evict
  deriving DecidableEq, Repr

/-- A page move in progress (R46): its page entry, kind, frame, page size, and whether it was dirty. -/
structure Move where
  pte : Nat
  kind : MoveKind
  frame : Nat
  size : Nat
  dirty : Bool
  deriving DecidableEq, Repr

/-- A write-back of a whole page in progress, and whether a store has arrived since it began (R46). -/
structure WriteBack where
  pte : Nat
  size : Nat
  hit : Bool
  deriving DecidableEq, Repr

/-- What a tile's translation cache or walker holds: a name, or a page of it (R42). -/
structure CacheKey where
  serial : BitVec 64
  page : Option Nat
  deriving DecidableEq, Repr

/-- A page's heat counts of the window at one tile (R184): elements delivered, and nc stalled. -/
structure Heat where
  serial : BitVec 64
  page : Nat
  dlv : Nat
  stv : Nat
  deriving DecidableEq, Repr

/-- A memory tile's translation state (R42): cached keys, the four walkers and the heat counts of the window. -/
structure Tile where
  cache : List CacheKey
  walkers : List (Option CacheKey)
  heat : List Heat
  deriving DecidableEq, Repr

/-- The page a page entry belongs to, for the entries the tiles have met (log entry 6). -/
structure Owned where
  pte : Nat
  serial : BitVec 64
  page : Nat
  deriving DecidableEq, Repr

/-- An aperture entry cached by a constellation (R40): table serial and index. -/
structure ApCache where
  die : Nat
  con : Nat
  ats : BitVec 64
  index : Nat
  deriving DecidableEq, Repr

/-- Names and residency (R27, R29, R32, R45, R46, R49, R50). `served` are the peers that have sent accesses to names here. -/
structure Names where
  devNum : BitVec 16
  peers : List (BitVec 16)
  horizon : BitVec 64
  mirrors : List (BitVec 64)
  root : Nat
  frames : List Pool
  lowWater : Nat
  pages : Sparse (BitVec 32)
  blocks : Pool
  tables : Pool
  tiles : Sparse Tile
  apertures : List ApCache
  moves : List Move
  writebacks : List WriteBack
  owners : List Owned
  dying : List (BitVec 64)
  served : List (BitVec 64 × BitVec 16)
  pagerWoken : Bool
  deriving DecidableEq, Repr

/-! ### Engines (R186-R219, R196) -/

/-- A request at an engine: the record that sent it, or a third-party reply or forwarded token (R191), with the place it was sent
from, its vector, who is charged, its slack as sent and now, the number of the check it failed, whether an access has stopped it
(R190), the pieces a streamer has performed (R192), how the destination's object offsets stand to its near addresses, mod 8 (R178), and what
a zero-strip or an expand has read: rows, or the count and the pairs (R188). -/
structure EngReq where
  id : Nat
  instr : Option Instr
  vec : Vec
  ctx : CtxId
  route : Route
  key : Key
  atp : BitVec 128
  slack0 : Nat
  slack : Nat
  late : Bool
  bad : Option Nat
  stopped : Bool
  did : List Nat
  base : Nat
  got : Sparse (List Word)
  deriving DecidableEq, Repr

/-- A streamer: its port queue and the requests it serves (R192). -/
structure Streamer where
  queue : List EngReq
  serving : List EngReq
  deriving DecidableEq, Repr

/-- An island: its port queue, accepted requests, accumulator cells (key: row times 128 plus column; unlisted
0), the job last bound, and the region it is bound into (R199, R200, R209). -/
structure Island where
  queue : List EngReq
  serving : List EngReq
  acc : Sparse (BitVec 32)
  job : Option Nat
  deriving DecidableEq, Repr

/-- An asterism slot: its entries (unlisted 0) and whether it is valid (R212-R214). -/
structure Asterism where
  entries : Sparse (BitVec 128)
  valid : Bool
  deriving DecidableEq, Repr

/-- A lattice (R212): unlisted planes, outputs and tables hold 0. -/
structure Lattice where
  queue : List EngReq
  serving : List EngReq
  planes : Sparse (BitVec 256)
  outs : Sparse (BitVec 256)
  table0 : Sparse (BitVec 64)
  table1 : Sparse (BitVec 64)
  slots : Sparse Asterism
  selected : Option Nat
  job : Option Nat
  deriving DecidableEq, Repr

/-- A group entry of the package switch (R196, R413): job, number, and members, absent ones none. -/
structure Group where
  job : Nat
  num : BitVec 8
  members : List (Option FullAddr)
  deriving DecidableEq, Repr

/-- The engines: streamers keyed die times 8 plus k, islands keyed die times 18 plus k, lattices by die, the group
table, and the queues of stage input ports. Unlisted engines are idle with all state zero. -/
structure Engines where
  streamers : Sparse Streamer
  islands : Sparse Island
  lattices : Sparse Lattice
  groups : List Group
  stages : List (Nat × Tok)
  deriving DecidableEq, Repr

/-! ### Tasks, loader, jobs (R92-R101, R107-R118, R370) -/

/-- A task handed to a meridian unit (R109): the TCB's near address and full name, DEPA's full name, the issuer and its aperture
table, the contexts it descends from, the die of the unit, the sixteen words read, how it stands (R108), its slack and time of release in
the ready queue, its place in wake order (R230), the context that runs it, the last fault attributed to this run, the value that satisfied DEPA, whether an acquire is still to come (R112),
and whether it is cancelled (R349). -/
structure Task where
  id : Nat
  near : Word
  at_ : FullAddr
  dep : FullAddr
  issuer : CtxId
  job : Nat
  item : Nat
  atp : BitVec 128
  anc : List CtxId
  die : Nat
  words : List Word
  status : BitVec 4
  tries : Nat
  slack : Nat
  order : Nat
  woke : Nat
  ctx : Option CtxId
  lastf : BitVec 8
  woken : Option Word
  promote : Bool
  cancelled : Bool
  deriving DecidableEq, Repr

/-- A graph the loader knows (R83, R114, R116, R168): its entry block's object and offset, its blocks' near addresses,
its region size, port bindings and channel entries. -/
structure Graph where
  serial : BitVec 64
  entry : Nat
  blocks : List Nat
  size : Nat
  ports : Sparse EngPort
  chans : List (Nat × BitVec 16)
  deriving DecidableEq, Repr

/-- A launch the loader has accepted or refused, with its job record (R96, R101, R370): header words, the header's
near address and name, the submitter, the graph, the index of the next region to place, the regions freed that are to be placed again, with the items
started in each (R381), its order and slack in the waiting
line (R114), the items started and not finished (by j), the number finished, the cancel mark, and whether its record has been read with DONE complete
(R370). -/
structure Job where
  id : Nat
  words : List Word
  near : Word
  at_ : FullAddr
  atp : BitVec 128
  submitter : Nat
  graph : Option Graph
  nextRegion : Nat
  again : List (Nat × Nat)
  order : Nat
  slack : Nat
  running : List Nat
  finished : Nat
  cancelled : Bool
  refused : Bool
  complete : Bool
  read : Bool
  record : List Word
  checked : List Word
  deriving DecidableEq, Repr

/-- What the model keeps of a saved context beside its record: its name, its surroundings, its instances, of whose entries only the producer
groups that have delivered and the residues stay, and the producer groups of its inbox entries in order, by the name of the save area
(log entry 21), and the flags word as it was saved. -/
structure Kept where
  at_ : FullAddr
  id : CtxId
  env : Env
  flags : Word
  insts : List Inst
  groups : List Nat
  deriving DecidableEq, Repr

/-- The loader (R96, R98, R114). -/
structure Loader where
  graphs : List Graph
  jobs : List Job
  regions : List Region
  predictor : List (Nat × Nat × Word × Succ)
  saves : List Kept
  deriving DecidableEq, Repr

/-! ### Faults, messages, hub (R354, R363-R370, R382-R393) -/

/-- What the loader knows of a record in a fault queue: the job it is charged to, and the context it halts (R368, R370). -/
structure Note where
  job : Nat
  halts : Option CtxId
  deriving DecidableEq, Repr

/-- Fault queues (R366): records of a queue oldest first, LOSS pending, counts accepted, the signal object, and
the bad-node registers (R24, R358). `notes` goes with the records of the queues, one for each (log entry 14). -/
structure Faults where
  queues : List (List (BitVec 256))
  loss : List Bool
  accepted : List (BitVec 64)
  signal : Option (BitVec 64)
  cmask : List (BitVec 64)
  pmask : Sparse (BitVec 16)
  notes : List (List Note)
  deriving DecidableEq, Repr

/-- A message at an endpoint (R354, R385): the sixteen N32 lanes, the sender, the MSGR that waits for the
answer, and whether a RETIRE record sent it. -/
structure Msg where
  id : Nat
  ep : Nat
  sender : Nat
  atp : BitVec 128
  req : Option Nat
  retire : Bool
  body : BitVec 512
  deriving DecidableEq, Repr

/-- A binding of a client's code object under way (R388): the near address of an image still to be read, or the object made from it, none
where the object server has refused. -/
structure CodeBind where
  image : Option Word
  serial : Option (BitVec 64)
  deriving DecidableEq, Repr

/-- The owner state of a 2 MiB window region that is not plainly DEVICE (R389): link, window, region, whether HOST
owns it, whether the hold time runs, and whether a snoop is out. -/
structure Owner where
  link : Nat
  window : Nat
  region : Nat
  host : Bool
  held : Bool
  snooping : Bool
  deriving DecidableEq, Repr

/-- An access of a host to a window, waiting in its link's order (R389, R390). -/
structure HostAcc where
  off : Nat
  size : Nat
  write : Option (List Byte)
  deriving DecidableEq, Repr

/-- A host-client link (R386-R390): whether CXL is on at its port (R386), its client's aperture-table pointer, BAR0 registers, code object,
the binding under way, launches that wait, accesses that wait, oldest first, and the answers sent to the host. -/
structure HostLink where
  cxl : Bool
  atp : BitVec 128
  lstat : Word
  errcnt : Word
  codelen : Word
  busy : Bool
  refusedCode : Bool
  wkind : Sparse (BitVec 2)
  code : Option (BitVec 64)
  binding : Option CodeBind
  launches : List Word
  accesses : List HostAcc
  answers : List (List Byte)
  deriving DecidableEq, Repr

/-- A packet sent to a peer and not yet acknowledged, with the port that the switch took for it (R391, R392). -/
structure Sent where
  dev : BitVec 16
  seq : BitVec 32
  port : Nat
  payload : PeerPayload
  tries : Nat
  slack : Nat
  late : Bool
  deriving DecidableEq, Repr

/-- A peer's access being served here (R28), with the request and piece its answer names, its slack and late mark (R141);
`held` marks a write or a PERSIST whose checks have passed here and which its device has still to let go (R50); `renew` is the slack it was
sent with, of one with renew set (R144), and `named` whether it has passed its name step and waits for a page (R49). -/
structure PeerAcc where
  id : Nat
  dev : BitVec 16
  req : Nat
  piece : Nat
  serial : BitVec 64
  ofs : Nat
  size : Nat
  op : PeerOp
  slack : Nat
  late : Bool
  held : Bool
  renew : Option Nat
  named : Bool
  deriving DecidableEq, Repr

/-- The ports to hosts and peers (R386-R393). `wanted` are the regions (link, window, region) that a unit has been turned away from while
the host owned them (R389; log entry 24), `sacks` the acknowledgements sent to peers, with base and bitmap (R392). -/
structure Hub where
  msgs : List Msg
  links : List HostLink
  owners : List Owner
  wanted : List (Nat × Nat × Nat)
  routes : Sparse (BitVec 32)
  sendSeq : Sparse (BitVec 32)
  recvSeq : Sparse (BitVec 32)
  early : List (BitVec 16 × BitVec 32 × PeerPayload)
  unacked : List Sent
  sacks : List (BitVec 16 × BitVec 32 × BitVec 64)
  peerAccs : List PeerAcc
  degradedPeers : List (BitVec 16)
  crcFails : List (Link × Nat)
  deriving DecidableEq, Repr

/-- What the management controller and the SPDM responder send (R394-R399): lengths and layouts as the rules
give them. -/
inductive Response where
  | resync (bytes : List Byte)
  | event (name : String) (arg : Nat)
  | spdm (code : String) (bytes : List Byte)
  deriving DecidableEq, Repr

/-- Management (R388, R393-R400). `temps` are the junction temperatures of the nine dies, and `badImage` says that the firmware stored for the
next bring-up does not verify (R397). -/
structure Mgmt where
  mainUp : Bool
  degraded : BitVec 64
  replace : Bool
  temps : List (BitVec 8)
  badImage : Bool
  copy : List Byte
  secver : BitVec 32
  build : BitVec 32
  counter : BitVec 32
  leaf : Nat
  spdm : Nat
  out : List Response
  deriving DecidableEq, Repr

/-! ### Units that act whole in one step (log entry 13) -/

/-- What acts: a request of a record, a request at an engine, or one piece of it, the fetch of a context's block, a job of the loader, a task, a
hardware add, a host link, an access of a peer, a context's saved state, a server for a message, a region whose dusk marker moves, or a server
for a link's registers. -/
inductive Doer where
  | req (r : Nat) | engine (e : Nat) | piece (e k : Nat) | fetch (c : CtxId) | job (j : Nat) | task (t : Nat) | add (a : Nat) | link (l : Nat)
  | acc (a : Nat) | ctx (c : CtxId) | msg (m : Nat) | region (g : Nat) | server (l : Nat)
  deriving DecidableEq, Repr

/-- What an access of a unit has come to at a peer device, or at an empty pool: under way, its bytes, or its fault
(R28, R45). -/
inductive AwayAns where
  | sent | bytes (bs : List Byte) | fault (code : BitVec 8)
  deriving DecidableEq, Repr

/-- An access of a unit that is carried to a peer device (R28), or, with the operation `drop`, that is parked on an absent page
whose pool is empty, or held at a moving page (R46). -/
structure Away where
  id : Nat
  who : Doer
  at_ : FullAddr
  size : Nat
  op : PeerOp
  ans : AwayAns
  deriving DecidableEq, Repr

/-- An aperture entry that a unit has read for an access whose name step has passed: of which table, for which near address, and the entry (R40,
R49). -/
structure Bound where
  who : Doer
  ats : BitVec 64
  addr : Word
  entry : Option Aperture
  deriving DecidableEq, Repr

/-- What a unit must wait for before it can act: the fill of a page by a tile of the die given (R46), a frame for an object that it makes (R45), a
page that moves or a granule that is held (R46, R253, R389), or an access at a peer (R28). -/
inductive Pause where
  | page (die : Nat) (f : FullAddr)
  | frame
  | held
  | peer (f : FullAddr) (size : Nat) (op : PeerOp)
  deriving DecidableEq, Repr

/-! ### The schedule (log entry 1) -/

/-- The name of a ready key: its context, instance and key (R127). -/
structure FireKey where
  ctx : CtxId
  route : Route
  key : Key
  deriving DecidableEq, Repr

/-- One move of one agent: an event of the machine, a firing (R127), the sending of a held record (R122), the
arrival of tokens that reach matching stores in one nc (R404), the choice of an arbiter among the packets in its queues, in the order they
entered them (R146), the start of a write-back by the pager (R46), a message from software to an endpoint (R385), the loader's reading of the oldest record of a
fault queue (R368), the start of a context by Nocturne on a hub core, with its block, aperture table, DSLK and G registers (R382, R384),
what system software sets: a horizon (R31), the low-water mark (R45), a class P object's data image (R408); what the outside gives: the
CXL mode of a link (R386), a flit that passes (R393), a junction temperature (R395), firmware that does or does not verify (R397); a link's
turn to perform its oldest access (R389); and an ECC error that meets the word a piece of an access is to read
(R380; log entry 70). -/
inductive Action where
  | event (i : Instr)
  | fire (k : FireKey)
  | send (k : FireKey)
  | arrivals (pkts : List Nat)
  | arbiter (pkts : List Nat)
  | startWriteback (pte : Nat)
  | message (ep sender : Nat) (body : BitVec 512)
  | readFault (q : Nat)
  | hubStart (core : Nat) (block : Word) (atp : BitVec 128) (dslk : BitVec 8) (g : Sparse Word)
  | raiseHorizon (h : BitVec 64)
  | setLowWater (n : Nat)
  | eccError (req piece : Nat)
  | dataImage (serial : BitVec 64) (bytes : List Byte)
  | setCxl (link : Nat) (on : Bool)
  | flitPasses (l : Link)
  | temperature (die : Nat) (celsius : BitVec 8)
  | firmware (verifies : Bool)
  | hostNext (link : Nat)
  deriving DecidableEq, Repr

/-- The whole machine. `turn` counts the moves that the model's own order has named (log entry 1). `doer` and `pause` stand for
the unit that acts and what it meets within one step, `away` for what its accesses have come to, and `bound` for the aperture entries it has
read (log entry 13). `marks` are the cancel marks sent to contexts that ended or were saved before they saw them, still to be passed on (R350). -/
structure State where
  agenda : List Action
  turn : Nat
  latch : Latch
  doer : Option Doer
  pause : Option Pause
  away : List Away
  bound : List Bound
  marks : List CtxId
  nextId : Nat
  freeCount : Nat
  ticks : Word
  mem : List Host.Cell
  names : Names
  ctxs : List Ctx
  loader : Loader
  packets : List Packet
  reqs : List Req
  adds : List PendAdd
  waiters : List Waiter
  releases : List Release
  durable : List DurStep
  engines : Engines
  tasks : List Task
  faults : Faults
  hub : Hub
  mgmt : Mgmt
  deriving DecidableEq, Repr

/-! ### Reset -/

/-- A context name that names none. -/
def CtxId.zero : CtxId := ⟨0, 0, 0⟩

/-- The latch at reset: nothing is firing (log entry 2). -/
def Latch.empty : Latch :=
  ⟨CtxId.zero, ⟨0, 0, 0#4, 0⟩, ⟨0, 0, false⟩, none, none, none, none, 0, false⟩

/-- The pools of one die: frames of 64 KiB, 2 MiB, 64 MiB and 1 GiB, in 64 KiB units from the die's base. The tables of R32, R33
and R43 stand in the first 16 GiB of D0's 128 (log entry 6). -/
def framePools (die : Nat) : List Pool :=
  let b := die * 2097152
  [⟨if die = 0 then b + 262144 else b, b + 786432, []⟩, ⟨b + 786432, b + 1310720, []⟩,
   ⟨b + 1310720, b + 1572864, []⟩, ⟨b + 1572864, b + 2097152, []⟩]

/-- Names and storage at reset (R27, R29, R32; log entries 5 and 6). -/
def Names.reset : Names where
  devNum := 0#16
  peers := []
  horizon := 1#64
  mirrors := List.replicate 8 1#64
  root := 0
  frames := (List.range 8).flatMap framePools
  lowWater := 0
  pages := []
  blocks := ⟨1, 805306368, []⟩
  tables := ⟨128, 4194304, []⟩
  tiles := []
  apertures := []
  moves := []
  writebacks := []
  owners := []
  dying := []
  served := []
  pagerWoken := false

/-- A host link at reset (R388). -/
def HostLink.reset : HostLink := ⟨true, 0, 0, 0, 0, false, false, [], none, none, [], [], []⟩

/-- The machine right after reset: powered, before bring-up (R400), with nothing placed and nothing running.
Values the spec gives no reset for are those of log entries 1-9. -/
def State.reset : State where
  agenda := []
  turn := 0
  latch := Latch.empty
  doer := none
  pause := none
  away := []
  bound := []
  marks := []
  nextId := 0
  freeCount := 0
  ticks := 0
  mem := []
  names := Names.reset
  ctxs := []
  loader := ⟨[], [], [], [], []⟩
  packets := []
  reqs := []
  adds := []
  waiters := []
  releases := []
  durable := []
  engines := ⟨[], [], [], [], []⟩
  tasks := []
  faults := ⟨List.replicate 9 [], List.replicate 9 false, List.replicate 9 0, none,
    List.replicate 8 0, [], List.replicate 9 []⟩
  hub := ⟨[], [HostLink.reset, HostLink.reset], [], [], [], [], [], [], [], [], [], [], []⟩
  mgmt := ⟨false, 0, false, List.replicate 9 0, false, [], 0, 0, 0, 0, 0, []⟩

end Sys2Proof.Machine
end

