-- ==== Sys2Proof/Machine/Mem.lean ====
section
/-! DEFINITION. Sparse tables and the physical memory of the module (R2, R13, R22, R32, R44, R176, R178):
one space of byte addresses that holds DRAM, the scratch of the tiles and the persistent tier. -/

namespace Sys2Proof.Machine

/-! ### Sparse tables -/

/-- What stands under a number; `d` where nothing is listed. -/
def Sparse.get {α : Type} (d : α) : Sparse α → Nat → α
  | [], _ => d
  | (a, v) :: rest, k => if a = k then v else Sparse.get d rest k

/-- The table without a number. -/
def Sparse.del {α : Type} : Sparse α → Nat → Sparse α
  | [], _ => []
  | (a, v) :: rest, k => if a = k then rest else (a, v) :: Sparse.del rest k

/-- The table with `v` under `k`, in rising order. -/
def Sparse.insert {α : Type} : Sparse α → Nat → α → Sparse α
  | [], k, v => [(k, v)]
  | (a, w) :: rest, k, v =>
    if k < a then (k, v) :: (a, w) :: rest
    else if k = a then (k, v) :: rest
    else (a, w) :: Sparse.insert rest k v

/-- Writing `v` under `k`: writing the default removes the entry, so equal tables are equal data. -/
def Sparse.put {α : Type} [DecidableEq α] (d : α) (t : Sparse α) (k : Nat) (v : α) : Sparse α :=
  if v = d then Sparse.del t k else Sparse.insert t k v

/-- The canonical form from a lower bound: numbers strictly rising, no entry equal to the default. -/
def Sparse.wfFrom {α : Type} [DecidableEq α] (d : α) : Nat → Sparse α → Bool
  | _, [] => true
  | lo, (a, v) :: rest => decide (lo ≤ a) && decide (v ≠ d) && Sparse.wfFrom d (a + 1) rest

/-- The canonical form. -/
def Sparse.wf {α : Type} [DecidableEq α] (d : α) (t : Sparse α) : Bool := Sparse.wfFrom d 0 t

/-! ### Bytes of the physical space -/

/-- What an unlisted byte reads as (R46 and R179 for pages the module fills; otherwise log entry 4). -/
def unlistedByte : Byte := 0#8

/-- The first address of the scratch tiles: tile m of die d starts at `scratchBase` plus 2 MiB times
(64 d + m) (R13, R179). -/
def scratchBase : Nat := 2 ^ 40

/-- The first address of the persistent tier: block b starts at `tierBase` plus 64 KiB times b (R22, R44). -/
def tierBase : Nat := 2 ^ 41

/-- The number of 64 KiB blocks in 48 TiB (R22). -/
def tierBlocks : Nat := 805306368

/-- Memory in its canonical form. -/
def Memory.wf (m : List Host.Cell) : Bool := Sparse.wf unlistedByte m

/-- One byte. -/
def Memory.read (m : List Host.Cell) (a : Nat) : Byte := Sparse.get unlistedByte m a

/-- One byte written. -/
def Memory.write (m : List Host.Cell) (a : Nat) (b : Byte) : List Host.Cell := Sparse.put unlistedByte m a b

/-- `n` bytes from `a`, lowest address first. -/
def Memory.readN (m : List Host.Cell) : Nat → Nat → List Byte
  | _, 0 => []
  | a, n + 1 => Memory.read m a :: Memory.readN m (a + 1) n

/-- Bytes written from `a` upward. -/
def Memory.writeN (m : List Host.Cell) : Nat → List Byte → List Host.Cell
  | _, [] => m
  | a, b :: bs => Memory.writeN (Memory.write m a b) (a + 1) bs

/-- The little-endian value of `n` bytes (R2). -/
def Memory.readLE (m : List Host.Cell) (a n : Nat) : Nat := ofBytesLE (Memory.readN m a n)

/-- An aligned 64-bit word. -/
def Memory.word (m : List Host.Cell) (a : Nat) : Word := BitVec.ofNat 64 (Memory.readLE m a 8)

/-- A 64-bit word written (R2). -/
def Memory.setWord (m : List Host.Cell) (a : Nat) (w : Word) : List Host.Cell :=
  Memory.writeN m a (toBytesLE 8 w.toNat)

/-- Every byte of `[a, a + n)` as an unlisted byte. -/
def Memory.clear (m : List Host.Cell) (a n : Nat) : List Host.Cell :=
  m.filter fun c => !(decide (a ≤ c.1) && decide (c.1 < a + n))

/-- The listed bytes of `[a, a + n)`, by their offset from `a`. -/
def Memory.slice (m : List Host.Cell) (a n : Nat) : List Host.Cell :=
  (m.filter fun c => decide (a ≤ c.1) && decide (c.1 < a + n)).map fun c => (c.1 - a, c.2)

/-- Listed bytes written at an offset. -/
def Memory.paste (m : List Host.Cell) (a : Nat) : List Host.Cell → List Host.Cell
  | [] => m
  | (o, b) :: rest => Memory.paste (Memory.write m (a + o) b) a rest

/-- `n` bytes copied from `src` to `dst`, the source read first (a page fill, write-back or migration, R46). -/
def Memory.copy (m : List Host.Cell) (src dst n : Nat) : List Host.Cell :=
  Memory.paste (Memory.clear m dst n) dst (Memory.slice m src n)

/-! ### Lists of things with names -/

/-- The elements that satisfy `p`, changed by `f`. -/
def updWhere {α : Type} (p : α → Bool) (f : α → α) (l : List α) : List α :=
  l.map fun x => if p x then f x else x

/-- An element of a list changed at an index. -/
def updAt {α : Type} (l : List α) (n : Nat) (f : α → α) : List α :=
  match l, n with
  | [], _ => []
  | x :: xs, 0 => f x :: xs
  | x :: xs, n + 1 => x :: updAt xs n f

/-- A list without repeats: of equal elements the last stays. -/
def distinct {α : Type} [BEq α] : List α → List α
  | [] => []
  | x :: xs => if xs.contains x then distinct xs else x :: distinct xs

/-- The field of `w` that starts at bit `lo` and is `n` bits wide, as a number. -/
def bits {k : Nat} (w : BitVec k) (lo n : Nat) : Nat := (w.extractLsb' lo n).toNat

end Sys2Proof.Machine
end

