-- ==== Sys2Proof/Machine/Ops.lean ====
section
/-! DEFINITION. The shared operations: finding contexts, instances and blocks; slack; packets; counting register
writes; near counters; posting a fault, halting and ending a context, which is what taking an exception is on this
module (R131, R363-R370). -/

namespace Sys2Proof

/-- The target fields of a record, MOVX's further ones last (R56, R264). -/
def Instr.targets (i : Instr) : List Target :=
  match i, i.hdr with
  | .movx h _ t2 t3, _ => [h.t0, h.t1, t2, t3]
  | _, some h => [h.t0, h.t1]
  | _, none => []

/-- ITIN and ITNX form one producer group (R125). -/
def Instr.isIt : Instr → Bool
  | .itin _ _ | .itnx _ _ => true
  | _ => false

/-- The nodes a record's targets name. -/
def Instr.nodeTargets (i : Instr) : List Nat :=
  i.targets.filterMap fun t => match t with
    | .node n _ => some n.toNat
    | _ => none

/-- The counter a record names as near (R223). -/
def Instr.near : Instr → Option Nat
  | .cadd _ _ _ n | .caddr _ _ _ n | .cwait _ _ _ n | .cpoll _ _ _ n => n.map BitVec.toNat
  | _ => none

end Sys2Proof

namespace Sys2Proof.Machine

/-! ### Finding and changing contexts, instances, regions, jobs -/

/-- The context of that name. -/
def State.ctx? (s : State) (c : CtxId) : Option Ctx := s.ctxs.find? fun x => x.id == c

/-- The region of that module-wide number (R98). -/
def State.region? (s : State) (n : Nat) : Option Region := s.loader.regions.find? fun r => r.num == n

/-- The job of that number. -/
def State.job? (s : State) (j : Nat) : Option Job := s.loader.jobs.find? fun x => x.id == j

/-- The outstanding request of that number. -/
def State.req? (s : State) (r : Nat) : Option Req := s.reqs.find? fun x => x.id == r

/-- The task of that number. -/
def State.task? (s : State) (t : Nat) : Option Task := s.tasks.find? fun x => x.id == t

/-- The instance in that place. -/
def Ctx.inst? (c : Ctx) (r : Route) : Option Inst := c.insts.find? fun i => i.route == r

/-- The context changed by `f`. -/
def State.updCtx (s : State) (c : CtxId) (f : Ctx → Ctx) : State :=
  { s with ctxs := updWhere (fun x => x.id == c) f s.ctxs }

/-- The instance changed by `f`. -/
def State.updInst (s : State) (c : CtxId) (r : Route) (f : Inst → Inst) : State :=
  s.updCtx c fun x => { x with insts := updWhere (fun i => i.route == r) f x.insts }

/-- What an instance holds for commit, changed by `f`. -/
def State.updOut (s : State) (c : CtxId) (r : Route) (f : Outputs → Outputs) : State :=
  s.updInst c r fun i => { i with out := f i.out }

/-- The region changed by `f`. -/
def State.updRegion (s : State) (n : Nat) (f : Region → Region) : State :=
  { s with loader := { s.loader with regions := updWhere (fun r => r.num == n) f s.loader.regions } }

/-- The job changed by `f`. -/
def State.updJob (s : State) (j : Nat) (f : Job → Job) : State :=
  { s with loader := { s.loader with jobs := updWhere (fun x => x.id == j) f s.loader.jobs } }

/-- The request changed by `f`. -/
def State.updReq (s : State) (r : Nat) (f : Req → Req) : State :=
  { s with reqs := updWhere (fun x => x.id == r) f s.reqs }

/-- The request taken away. -/
def State.dropReq (s : State) (r : Nat) : State := { s with reqs := s.reqs.filter fun x => x.id != r }

/-- The task changed by `f`. -/
def State.updTask (s : State) (t : Nat) (f : Task → Task) : State :=
  { s with tasks := updWhere (fun x => x.id == t) f s.tasks }

/-- A number no packet, request or add has yet (log entry 2). -/
def State.bump (s : State) : State := { s with nextId := s.nextId + 1 }

/-- A fresh value the spec leaves open (log entry 3). -/
def State.free (s : State) : Word × State := (Config.freeWord s.freeCount, { s with freeCount := s.freeCount + 1 })

/-- The region of a context (R98). -/
def State.regionOf (s : State) (c : CtxId) : Option Region := s.region? c.region

/-- The die of a context's region, 8 for H (R366). -/
def State.dieOf (s : State) (c : CtxId) : Nat :=
  match s.regionOf c with
  | some r => r.die
  | none => 8

/-! ### Placed blocks (R67-R69, R115) -/

/-- The H0 record. -/
def Placed.h0 (p : Placed) : RecordWord := p.recs.getD 0 0

/-- The H1 record. -/
def Placed.h1 (p : Placed) : RecordWord := p.recs.getD 1 0

/-- SIZE plus 1: the number of nodes. -/
def Placed.size (p : Placed) : Nat := bits p.h0 81 7 + 1

/-- RE: the block is re-entrant. -/
def Placed.re (p : Placed) : Bool := p.h0.getLsbD 72

/-- DSLK. -/
def Placed.dslk (p : Placed) : BitVec 8 := p.h0.extractLsb' 64 8

/-- WMASK. -/
def Placed.wmask (p : Placed) : BitVec 64 := p.h0.extractLsb' 0 64

/-- LB plus 1: the loop bound. -/
def Placed.lb (p : Placed) : Nat := bits p.h1 84 4 + 1

/-- VMASK. -/
def Placed.vmask (p : Placed) : BitVec 16 := p.h1.extractLsb' 64 16

/-- SMASK. -/
def Placed.smask (p : Placed) : BitVec 32 := p.h1.extractLsb' 32 32

/-- MMASK. -/
def Placed.mmask (p : Placed) : BitVec 32 := p.h1.extractLsb' 0 32

/-- The word of node `n`. -/
def Placed.word (p : Placed) (n : Nat) : RecordWord := p.recs.getD (n + 2) 0

/-- The record of node `n`. -/
def Placed.node (p : Placed) (n : Nat) : Option Instr :=
  if n < p.size then (decode (p.word n)).toOption else none

/-- Every node with its record. -/
def Placed.nodes (p : Placed) : List (Nat × Instr) :=
  (List.range p.size).filterMap fun n => (p.node n).map fun i => (n, i)

/-- The block placed at an address in a region. -/
def Region.block? (r : Region) (a : Word) : Option Placed := r.placed.find? fun p => p.addr == a

/-- The producer group of a node: its own number, or 128 for ITIN and ITNX (R125). -/
def groupOf (n : Nat) (i : Instr) : Nat := if i.isIt then 128 else n

/-- The producer groups of a port (R125). -/
def Placed.groups (p : Placed) (node : Nat) (port : Port) : List Nat :=
  distinct ((p.nodes.filter fun ni => ni.2.targets.any fun t => t == .node (BitVec.ofNat 7 node) port).map
    fun ni => groupOf ni.1 ni.2)

/-- One round of R134: the targets of ITIN and of the records at depth 1, ITOUT apart, stand at depth 1. -/
def deepRound (ns : List (Nat × Instr)) (deep : List Nat) : List Nat :=
  distinct (deep ++ ns.flatMap fun ni =>
    match ni.2 with
    | .itin _ _ => ni.2.nodeTargets
    | .itout _ _ => []
    | i => if deep.contains ni.1 then i.nodeTargets else [])

/-- R134 carried on until every depth is known. -/
def deepFix (ns : List (Nat × Instr)) : Nat → List Nat → List Nat
  | 0, deep => deep
  | n + 1, deep => deepFix ns n (deepRound ns deep)

/-- The nodes at depth 1 (R134). -/
def Placed.deep (p : Placed) : List Nat := if p.re then deepFix p.nodes p.size [] else []

/-- The nodes that carry an LSID (R70). -/
def Placed.carriers (p : Placed) (lsid : Nat) : List Nat :=
  (p.nodes.filter fun ni => ni.2.lsid == some lsid).map fun ni => ni.1

/-- The LSIDs of MMASK at the depth given (R128, R134). -/
def Placed.lsidsAt (p : Placed) (deep : Bool) : List Nat :=
  let d := p.deep
  (List.range 32).filter fun l => p.mmask.getLsbD l &&
    ((p.carriers l).any fun n => d.contains n == deep)

/-- The node that a register target stands on, with the kind it takes: the nodes that name Gn or Vn. -/
def Placed.regWriters (p : Placed) (vec : Bool) (n : Nat) : List Nat :=
  (p.nodes.filter fun ni => ni.2.targets.zipIdx.any fun ti =>
    ti.1 == .reg (BitVec.ofNat 6 n) &&
      ((if ti.2 = 1 then ni.2.out1 else ni.2.out0) == some .vector) == vec).map fun ni => ni.1

/-- The block an instance runs. -/
def State.blockOf (s : State) (c : CtxId) (i : Inst) : Option Placed :=
  (s.regionOf c).bind fun r => r.block? i.block

/-! ### Slack (R60, R141-R144) -/

/-- The value of a slack code: m times 4 to the e (R60). -/
def slkValue (c : BitVec 8) : Nat := bits c 0 5 * 4 ^ bits c 5 3

/-- The slack of a packet a record sends: its code's value, or the ready slack where the code is 0x00 (R143). -/
def sendSlack (code : BitVec 8) (ready : Nat) : Nat := if code = 0#8 then ready else slkValue code

/-- A new token: late from the moment it is made when its slack is 0 (R143, R148). -/
def newTok (v : TokVal) (chan : BitVec 5) (beat : Option (BitVec 22)) (slack : Nat) : Tok :=
  ⟨v, chan, beat, none, slack, slack == 0, false⟩

/-- A null token. -/
def nullTok (slack : Nat) : Tok := newTok .null 0#5 none slack

/-- A token's value is null. -/
def Tok.isNull (t : Tok) : Bool := t.val == .null

/-- The scalar a token carries. -/
def Tok.word (t : Tok) : Word :=
  match t.val with
  | .scalar w => w
  | .vector v => v.extractLsb' 0 64
  | .null => 0

/-- The vector a token carries. -/
def Tok.vec (t : Tok) : Vec :=
  match t.val with
  | .vector v => v
  | .scalar w => w.setWidth 1024
  | .null => 0

/-- The least slack among tokens (R143). -/
def leastSlack : List Tok → Option Nat
  | [] => none
  | t :: ts => match leastSlack ts with
    | none => some t.slack
    | some n => some (min t.slack n)

/-! ### Fault records (R363-R366) -/

def codeIllrec : BitVec 8 := 0x01
def codeNoport : BitVec 8 := 0x02
def codeIncomplete : BitVec 8 := 0x03
def codeNameDead : BitVec 8 := 0x04
def codeNameUnissued : BitVec 8 := 0x05
def codeAperture : BitVec 8 := 0x06
def codeProt : BitVec 8 := 0x07
def codeAlign : BitVec 8 := 0x08
def codeResidency : BitVec 8 := 0x09
def codeCopyshape : BitVec 8 := 0x0A
def codeThresh : BitVec 8 := 0x0B
def codeCntadd : BitVec 8 := 0x0C
def codeParity : BitVec 8 := 0x0D
def codeLate : BitVec 8 := 0x0E
def codeAccbounds : BitVec 8 := 0x0F
def codeLxctx : BitVec 8 := 0x10
def codeGroup : BitVec 8 := 0x11
def codeLooptag : BitVec 8 := 0x12
def codeSpawn : BitVec 8 := 0x13
def codeTrap : BitVec 8 := 0x14
def codePriv : BitVec 8 := 0x15
def codeLink : BitVec 8 := 0x16
def codeCancelled : BitVec 8 := 0x17
def codeLitw : BitVec 8 := 0x18
def codeSpill : BitVec 8 := 0x19
def codePersist : BitVec 8 := 0x1A
def codeOrphan : BitVec 8 := 0x1B

/-- The PEs of a constellation that the loader's reading of the bad-node registers leaves, in ascending 4 py + px
(R115, R358). -/
def goodPes (mask : BitVec 16) : List Nat := (List.range 16).filter fun p => !mask.getLsbD p

/-- The PE of a node of a block on a constellation of a region, as the loader placed it (R115, R358); a hub core is one (R382). -/
def Region.peOf (g : Region) (con node : Nat) : Nat :=
  if g.die = 8 then 0 else
  let ps := goodPes (Sparse.get 0#16 g.bad con)
  ps.getD (node % ps.length) 0

/-- The PE of a node of a context's block on a constellation. -/
def State.peOf (s : State) (c : CtxId) (con node : Nat) : Nat :=
  match s.regionOf c with
  | some g => g.peOf con node
  | none => 0

/-- Whether a fault raised by a record is deferred (R131). -/
def deferredCode (c : BitVec 8) : Bool := c == codeCopyshape || c == codeGroup || c == codeLate

/-- The fault of a record: its place, iteration and node (R363). -/
def State.recordFault (s : State) (c : CtxId) (r : Route) (k : Key) (block : Word) (code : BitVec 8)
    (addr info : Word) : FaultRec :=
  let die := s.dieOf c
  let pe := s.peOf c r.con k.node
  { code := code, iter := k.iter, node := BitVec.ofNat 8 k.node, die := die,
    px := if die = 8 then 0 else pe % 4, py := if die = 8 then 0 else pe / 4,
    cx := r.con % 8, cy := r.con / 8, block := block, addr := addr, info := info,
    ending := !deferredCode code }

/-- A fault that an engine, a home, the switch, a port or a meridian unit raises (R364): NODE 0xFB, with the
kind, index and code-specific bits of INFO. -/
def unitFault (die kind index : Nat) (code : BitVec 8) (addr : Word) (low : Nat) : FaultRec :=
  { code := code, iter := 0, node := 0xFB, die := die, px := 0, py := 0, cx := 0, cy := 0, block := 0,
    addr := addr,
    info := BitVec.ofNat 4 kind ++ BitVec.ofNat 12 index ++ BitVec.ofNat 48 low, ending := false }

/-- The four words of a fault record (R363). -/
def FaultRec.words (f : FaultRec) (c : CtxId) (loss : Bool) : BitVec 256 :=
  let w0 : Word := f.code ++ BitVec.ofNat 10 c.colour ++ BitVec.ofNat 6 c.gen ++ BitVec.ofNat 24 f.iter ++
    f.node ++ BitVec.ofNat 4 f.die ++ BitVec.ofNat 2 f.px ++ BitVec.ofNat 2 f.py
  let w1 : Word := f.block.extractLsb' 11 53 ++ BitVec.ofNat 3 f.cx ++ BitVec.ofNat 3 f.cy ++ 0#4 ++
    BitVec.ofBool loss
  f.info ++ f.addr ++ w1 ++ w0

/-- A record enters fault queue `q`, or is discarded with LOSS pending when the queue holds 4,096 (R366). The signal add takes slack 507,904: R144's
table does not list it (DESIGN CHOICE, log entry 76). -/
def State.enqueueFault (s : State) (q : Nat) (c : CtxId) (f : FaultRec) : State :=
  let fq := s.faults
  if (fq.queues.getD q []).length ≥ 4096 then
    { s with faults := { fq with loss := updAt fq.loss q fun _ => true } }
  else
    let rec_ := f.words c (fq.loss.getD q false)
    let fq' : Faults := { fq with queues := updAt fq.queues q (fun l => l ++ [rec_]),
                                  loss := updAt fq.loss q (fun _ => false),
                                  accepted := updAt fq.accepted q (fun n => n + 1) }
    let s' := { s with faults := fq' }
    match fq.signal with
    | none => s'
    | some o => { s'.bump with adds := s'.adds ++
        [⟨s'.nextId, ⟨s.names.devNum, o, 8 * q⟩, 1, .module, 507904, false, .signal q⟩] }

/-- A record is posted to a queue, with what the loader knows of it, unless it is discarded (R366, R368). -/
def State.postTo (s : State) (q : Nat) (c : CtxId) (f : FaultRec) (n : Note) : State :=
  let t := s.enqueueFault q c f
  if (s.faults.queues.getD q []).length ≥ 4096 then t
  else { t with faults := { t.faults with notes := updAt t.faults.notes q fun l => l ++ [n] } }

/-- FAULTS and LASTF of a job record (R370). -/
def State.chargeJob (s : State) (j : Nat) (code : BitVec 8) : State :=
  s.updJob j fun x =>
    { x with record := updAt (updAt x.record 1 (fun w => w + 1)) 3 (fun _ => code.setWidth 64) }

/-- Flags ORed into FLAGS of a job record (R161, R370). -/
def State.jobFlags (s : State) (j : Nat) (f : Word) : State :=
  s.updJob j fun x => { x with record := updAt x.record 0 (fun w => w ||| f) }

/-- The job of a context name's region. -/
def State.jobOf (s : State) (c : CtxId) : Nat :=
  match s.ctx? c with
  | some x => x.env.job
  | none => match s.regionOf c with
    | some r => r.job
    | none => 0

/-- A fault record that names `n` is posted and charged to a context: it enters the queue of the die of the context's region and is
charged to the context's job and, where a task runs in it, to the task (R113, R366, R369). -/
def State.postAs (s : State) (c n : CtxId) (f : FaultRec) : State :=
  let s1 := s.postTo (s.dieOf c) n f ⟨s.jobOf c, if f.ending || f.code == codeTrap then some c else none⟩
  { s1 with tasks := updWhere (fun t => t.ctx == some c) (fun t => { t with lastf := f.code }) s1.tasks }

/-- A fault record of a context is posted. -/
def State.post (s : State) (c : CtxId) (f : FaultRec) : State := s.postAs c c f

/-! ### Sending packets (R125, R141) -/

/-- A packet enters the networks. -/
def State.sendPacket (s : State) (c : CtxId) (d : Dest) (t : Tok) (loud : Bool) (req : Option Nat) : State :=
  { s.bump with packets := s.packets ++ [⟨s.nextId, c, d, t, loud, req, none, t.slack, [], 0⟩] }

/-- A token sent to a target as a packet: to a node's port, to a register of the instance, or to the engine port
that a port-table entry binds (R56, R116). -/
def State.sendTo (s : State) (c : CtxId) (r : Route) (k : Key) (grp : Nat) (vec : Bool) (t : Target)
    (tok : Tok) (loud : Bool) (req : Option Nat) : State :=
  match t with
  | .none => s
  | .node n p => s.sendPacket c (.node r ⟨n.toNat, k.iter, k.deep⟩ p grp) tok loud req
  | .reg n => s.sendPacket c (.reg r k.node vec n.toNat) tok loud req
  | .port q =>
    match (s.regionOf c).bind fun g => (g.ports.find? fun e => e.1 == q.toNat).map fun e => e.2 with
    | some p => s.sendPacket c (.port p r k) tok loud req
    | none => s

/-! ### Replies (R144, R149) -/

/-- The header of a record; an event has none and sends nothing. -/
def hdrOf (i : Instr) : Hdr := i.hdr.getD ⟨.always, .none, .none, 0#8⟩

/-- The memory literal of a record. -/
def memLitOf : Instr → Option MemLit
  | .ld _ _ m _ | .st _ _ m | .vld _ _ m _ | .vst _ _ m | .vldg _ _ m _ | .vsts _ _ m | .ldr _ _ m _ | .pref _ m _
  | .red _ _ m _ | .vredm _ _ m _ | .persist _ m _ | .cadd _ m _ _ | .caddr _ m _ _ | .cwait _ m _ _ | .cpoll _ m _ _ =>
    some m
  | _ => none

/-- Trap-on-late is set (R150). -/
def loudOf (i : Instr) : Bool :=
  match memLitOf i with
  | some m => m.late
  | none => false

/-- Renew is set (R144). -/
def renewOf (i : Instr) : Bool :=
  match memLitOf i with
  | some m => m.renew
  | none => false

/-- The requests that return nothing to their context (R149). -/
def returnsNothing : Instr → Bool
  | .st _ _ _ | .vst _ _ _ | .vsts _ _ _ | .red _ _ _ _ | .vredm _ _ _ _ | .cadd _ _ _ _ | .persist _ _ _ | .pref _ _ _ => true
  | _ => false

/-- A target is an engine's port. -/
def isPortTarget : Target → Bool
  | .port _ => true
  | _ => false

/-- A request's two replies, with its slack and late flag, poisoned where what they carry is (R144, R380); a port discards that of a squashed
instance (R336). -/
def State.reply2 (s : State) (q : Req) (v0 v1 : TokVal) (chan : BitVec 5) (slack : Nat) (late : Bool) : State :=
  let h := hdrOf q.instr
  let k := q.latch.key
  let tok := fun (v : TokVal) => { (newTok v chan none slack) with late := late || slack == 0, poison := q.pieces.any fun p => p.poison }
  let send := fun (t : State) (vec : Bool) (x : Target) (v : TokVal) =>
    if q.void && isPortTarget x then t
    else t.sendTo q.latch.ctx q.latch.route k k.node vec x (tok v) (loudOf q.instr) (some q.id)
  send (send s (q.instr.out0 == some .vector) h.t0 v0) (q.instr.out1 == some .vector) h.t1 v1

/-! ### Near counters (R222, R225) -/

/-- A waiter with threshold `t` is satisfied by `v` (R221). -/
def satisfied (v t : Word) : Bool := (v - t).toNat < 2 ^ 63

/-- What a saved context's instance holds for commit, changed by `f` (log entry 21). -/
def State.updKept (s : State) (c : CtxId) (r : Route) (f : Inst → Inst) : State :=
  let keep := fun (k : Kept) => { k with insts := updWhere (fun i => i.route == r) f k.insts }
  { s with loader := { s.loader with saves := updWhere (fun k => k.id == c) keep s.loader.saves } }

/-- What an instance holds for commit, changed by `f`, whether its context runs or is saved. -/
def State.updOutAny (s : State) (c : CtxId) (r : Route) (f : Outputs → Outputs) : State :=
  (s.updOut c r f).updKept c r fun i => { i with out := f i.out }

/-- An access no longer holds up commit (R129). -/
def State.lsidDone (s : State) (r : Req) : State :=
  match r.instr.lsid with
  | none => s
  | some l => s.updOutAny r.latch.ctx r.latch.route fun o =>
    let mine := fun (m : LsidMark) => m.lsid == l && m.iter == r.latch.key.iter && m.node == r.latch.key.node
    { o with lsids := updWhere mine (fun m => { m with done := true }) o.lsids }

/-- A request sends its reply, and is over: it no longer holds up commit. -/
def State.answer (s : State) (q : Req) (v0 v1 : TokVal) (chan : BitVec 5) (slack : Nat) (late : Bool) : State :=
  ((s.reply2 q v0 v1 chan slack late).lsidDone q).dropReq q.id

/-- The slack of a request as it now stands: the least among the packets of its pieces. -/
def Req.slackNow (q : Req) : Nat :=
  match q.pieces with
  | [] => q.slack
  | p :: ps => ps.foldl (fun a e => min a e.slack) p.slack

/-- A request is late, or a packet of one of its pieces is (R148). -/
def Req.lateNow (q : Req) : Bool := q.late || q.pieces.any fun p => p.late

/-- The slack a reply starts with (R144). -/
def Req.replySlack (q : Req) : Nat := if renewOf q.instr then q.slack0 else q.slackNow

/-- A waiting CWAIT is woken with the value given, with the slack it registered (R144, R225). -/
def State.wakeReq (s : State) (r : Req) (v : Word) : State := s.answer r (.scalar v) (.scalar v) 0 r.slack false


/-- The CWAITs of a context that stall on near counter `n` (R225). -/
def State.nearWaits (s : State) (c : CtxId) (n : Nat) : List Req :=
  s.reqs.filter fun r => r.latch.ctx == c && r.stage == .waiter && r.instr.near == some n

/-- An add to near counter `n`: the context's, which wakes the CWAITs it satisfies; in the save record of a saved
context; dropped where the context no longer exists (R222, R225, R369). The adds to a save record are made by
`State.addSavedK`, which needs translation; here the context runs or is halted. -/
def State.addK (s : State) (c : CtxId) (n : Nat) (amt : Word) : State :=
  match s.ctx? c with
  | none => s
  | some x =>
    let v := Sparse.get 0 x.regs.k n + amt
    let s1 := s.updCtx c fun y => { y with regs := { y.regs with k := Sparse.put 0 y.regs.k n v } }
    (s1.nearWaits c n).foldl (fun t r => if satisfied v r.value then t.wakeReq r v else t) s1

/-! ### Counting register writes (R128, R129) -/

/-- A fault is held with its instance (R131). -/
def State.holdFault (s : State) (c : CtxId) (r : Route) (f : FaultRec) : State :=
  s.updInst c r fun i => { i with faults := i.faults ++ [f] }

/-- A register is counted: a real write has reached it, the record that claimed it has sent what it returns, or every record
that carries it has sent null (R129). -/
def Inst.regCounted (i : Inst) (p : Placed) (vec : Bool) (n : Nat) : Bool :=
  let ws := i.out.regs.filter fun w => w.vec == vec && w.n == n
  ws.any (fun w => w.val != .null) ||
    (i.out.claims.any fun e => e.vec == vec && e.n == n && ws.any fun w => w.node == e.node) ||
    ((p.regWriters vec n).all fun m => ws.any fun w => w.node == m)

/-- An LSID is counted for an iteration: a record has fired real for it, or every record that carries it has
fired null (R129). -/
def Inst.lsidCounted (i : Inst) (p : Placed) (l iter : Nat) : Bool :=
  (i.out.lsids.any fun m => m.lsid == l && m.iter == iter) ||
    ((p.carriers l).all fun n => i.fired.any fun f => f.key.node == n && f.key.iter == iter && !f.real)

/-- The EXIT records in ascending node number. -/
def Placed.exits (p : Placed) : List Nat := (p.nodes.filter fun ni => ni.2.isExit).map fun ni => ni.1

/-- A bit mask of the numbers below `n` that satisfy `f`. -/
def maskOf (n : Nat) (f : Nat → Bool) : Nat :=
  (List.range n).foldl (fun a i => if f i then a + 2 ^ i else a) 0

/-- The address field of INCOMPLETE (R133): bit i for Gi uncounted. -/
def Inst.missingG (i : Inst) (p : Placed) : Word :=
  BitVec.ofNat 64 (maskOf 64 fun n => p.wmask.getLsbD n && !i.regCounted p false n)

/-- The EXITs an uncounted exit names: those that have not fired; all of them where every one has fired null, as R87 has its
bitmap name the exit (R133, R402; DEDUCED, log entry 15). -/
def Inst.missingExits (i : Inst) (p : Placed) : List Nat :=
  if i.exit.isSome then []
  else
    let left := p.exits.filter fun n => !(i.fired.any fun f => f.key.node == n)
    if left.isEmpty then p.exits else left

/-- The information word of INCOMPLETE (R133). -/
def Inst.missingInfo (i : Inst) (p : Placed) (cause : Nat) : Word :=
  let left := i.missingExits p
  let ex := maskOf 7 fun j => (p.exits[j]?).any fun n => left.contains n
  let shallow := p.lsidsAt false
  let ls := maskOf 32 fun l => p.mmask.getLsbD l &&
    !(i.lsidCounted p l (if shallow.contains l then 0 else i.level.oldest))
  let vs := maskOf 16 fun n => p.vmask.getLsbD n && !i.regCounted p true n
  0#5 ++ BitVec.ofNat 3 cause ++ 0#1 ++ BitVec.ofNat 7 ex ++ BitVec.ofNat 32 ls ++ BitVec.ofNat 16 vs

/-- INCOMPLETE for a key of an instance, with its cause (R126, R129, R133, R135, R136). -/
def State.incomplete (s : State) (c : CtxId) (i : Inst) (k : Key) (cause : Nat) : FaultRec :=
  match s.blockOf c i with
  | some p =>
    let f := s.recordFault c i.route k i.block codeIncomplete (i.missingG p) (i.missingInfo p cause)
    { f with iter := if p.re then i.level.oldest else 0 }
  | none => s.recordFault c i.route k i.block codeIncomplete 0 (BitVec.ofNat 64 (cause * 2 ^ 56))

/-! ### Halting and ending a context (R103, R106, R131, R367) -/

/-- An instance is non-speculative when every older instance of its context has fired a real exit that
matched its prediction (R122). -/
def Ctx.settled (x : Ctx) (r : Route) : Bool :=
  (x.insts.takeWhile fun i => i.route != r).all fun i => i.exit.isSome && i.pred == i.exit

/-- The instance in `r` of context `c` is non-speculative. -/
def State.nonSpec (s : State) (c : CtxId) (r : Route) : Bool :=
  match s.ctx? c with
  | none => false
  | some x => x.settled r

/-- A request that a squash or an ending fault of its instance undoes: a held write, a CWAIT, a SPAWN that has no colour yet. Neither recalls a load already sent,
nor another request already sent under R122 (R124, R131, R242, R252). -/
def Req.undone (r : Req) : Bool :=
  r.instr.writes || r.stage == .colour || (match r.instr with | .cwait _ _ _ _ => true | _ => false)

/-- An older instance of the context, or a PERSIST of one, still holds up the release that a request of the instance waits for
(R208, R249). -/
def Ctx.behind (x : Ctx) (reqs : List Req) (r : Route) : Bool :=
  ((x.insts.takeWhile fun i => i.route != r).any fun i => !i.draining) ||
  (match x.inst? r with
    | some i => reqs.any fun q => q.latch.ctx == x.id && decide (q.born < i.born) &&
        (match q.instr with | .persist _ _ _ => true | _ => false)
    | none => false)

/-- A token that a record of an instance has sent to an engine's port waits there, and is recalled by a squash or an ending fault: of a
speculative instance, and of a COPY or an engine record whose release has not come (R122, R124, R193, R208). -/
def State.recalled (s : State) (c : CtxId) (rs : List Route) (p : Packet) : Bool :=
  p.ctx == c && (match p.dest with
    | .port _ r _ => rs.contains r &&
        (!s.nonSpec c r || (p.instr.isSome && (s.ctx? c).any fun x => x.behind s.reqs r))
    | _ => false)

/-! ### Packets to peers (R391, R392) -/

/-- The port that the package switch takes for a packet to a peer: of those in its mask the one with the most free queue space, the lowest on a
tie (R391); a packet takes its place until it is acknowledged (log entry 77). -/
def State.portFor (s : State) (dev : BitVec 16) : Nat :=
  let queued := fun (p : Nat) => s.hub.unacked.countP fun u => u.port == p
  (((List.range 32).filter fun p => (Sparse.get 0#32 s.hub.routes dev.toNat).getLsbD p).foldl (fun best p => match best with
    | none => some p
    | some b => if queued p < queued b then some p else some b) none).getD 0

/-- A packet sent to a peer, with the next sequence number to it, kept until it is acknowledged (R391, R392). -/
def State.toPeer (s : State) (dev : BitVec 16) (p : PeerPayload) (slack : Nat) (late : Bool) : State :=
  let n := Sparse.get 0#32 s.hub.sendSeq dev.toNat
  { s with hub := { s.hub with sendSeq := Sparse.put 0#32 s.hub.sendSeq dev.toNat (n + 1#32),
                               unacked := s.hub.unacked ++ [⟨dev, n, s.portFor dev, p, 0, min slack 507904, late⟩] } }

/-- The number under which hardware sends a peer what no request or unit waits for: from 2^64 on, by the context it is made for (R28). -/
def ctxTag (c : CtxId) : Nat := 2 ^ 64 + c.region * 2 ^ 16 + c.colour * 64 + c.gen

/-- The context that such a number names. -/
def ctxOfTag (n : Nat) : CtxId := ⟨(n - 2 ^ 64) / 2 ^ 16, n / 64 % 1024, n % 64⟩

/-- What the accesses of the units given came to, and the entries they have read, are forgotten, and what their checks hold at peers is given up
there (R28, R50), by packets of slack 507,904 (DESIGN CHOICE, log entry 76). -/
def State.endAway (s : State) (d : Doer → Bool) : State :=
  (s.away.filter fun e => d e.who).foldl (fun (t : State) e =>
    match e.op with
    | .check _ => t.toPeer e.at_.dev (.access e.id 0 e.at_.serial e.at_.ofs e.size .drop 507904 false none) 507904 false
    | _ => t) { s with away := s.away.filter fun e => !d e.who, bound := s.bound.filter fun b => !d b.who }

/-- The pieces that a discarded request had checked at peer devices are given up there (R28, R50), by packets of slack 507,904 (DESIGN CHOICE, log
entry 76). -/
def State.giveUp (s : State) (q : Req) : State :=
  let probed := q.instr.writes || match q.instr with
    | .persist _ _ _ => true
    | _ => false
  q.pieces.zipIdx.foldl (fun t p =>
    if p.1.dev != t.names.devNum && probed && (p.1.stage == .probing || p.1.stage == .ready) then
      t.toPeer p.1.dev (.access q.id p.2 p.1.serial p.1.ofs p.1.size .drop 507904 false none) 507904 false
    else t) s

/-- Requests of the instances given are discarded, with their waiters (R124, R242), and what they had checked at peers. -/
def State.discard (s : State) (c : CtxId) (rs : List Route) : State :=
  let mine := fun (r : Req) => r.latch.ctx == c && rs.contains r.latch.route && r.undone
  let ids := (s.reqs.filter mine).map fun r => r.id
  let s1 := (s.reqs.filter mine).foldl State.giveUp s
  { s1 with
    packets := s.packets.filter fun p => !s.recalled c rs p
    reqs := s.reqs.filter fun r => !mine r
    waiters := s.waiters.filter fun w => match w.who with
      | .req r => !ids.contains r
      | _ => true }

/-- The replies of loads of squashed instances, still to come, are void: a port discards them (R336). -/
def State.voidReqs (s : State) (c : CtxId) (rs : List Route) : State :=
  { s with reqs := updWhere (fun q => q.latch.ctx == c && rs.contains q.latch.route) (fun q => { q with void := true }) s.reqs }

/-- The instances given are squashed: their requests are discarded, what is left of them is void, and a fetch under way is forgotten (R124, R336). -/
def State.squash (s : State) (c : CtxId) (rs : List Route) : State :=
  ((s.discard c rs).voidReqs c rs).endAway fun d => d == .fetch c

/-- A returned or ended child gives its value to the SPAWN that waits for it (R106, R348). -/
def State.returnTo (s : State) (req : Nat) (v : TokVal) (slack : Option Nat) : State :=
  match s.req? req with
  | none => s
  | some r =>
    match r.instr.hdr with
    | none => s
    | some h =>
      let tok := newTok v 0 none (slack.getD r.slack)
      let l := r.latch
      let s1 := s.sendTo l.ctx l.route l.key l.key.node false h.t0 tok false (some req)
      let s2 := s1.sendTo l.ctx l.route l.key l.key.node false h.t1 tok false (some req)
      if s2.packets.any fun p => p.req == some req then s2 else s2.dropReq req

/-- A colour joins the back of its region's pool (R103). -/
def State.releaseColour (s : State) (c : CtxId) : State :=
  s.updRegion c.region fun g => { g with pool := g.pool ++ [c.colour] }

/-- A context ends: its flags go to the job record, its colour returns to the pool, and its SPAWN receives the
value given, null where it has returned none (R103, R106, R348, R370). A cancel mark that it has not seen stays, to be passed on (R350). -/
def State.endCtx (s : State) (c : CtxId) (ret : TokVal) (slack : Option Nat) : State :=
  match s.ctx? c with
  | none => s
  | some x =>
    let s1 := s.squash c (x.insts.map fun i => i.route)
    let s2 := (s1.jobFlags x.env.job x.regs.flags).releaseColour c
    let s3 := { s2 with ctxs := s2.ctxs.filter fun y => y.id != c
                        marks := if x.mark == .sent then s2.marks ++ [c] else s2.marks }
    match x.env.origin with
    | .child _ req => s3.returnTo req ret slack
    | _ => s3

/-- FPOL of a task's TCB (R107). -/
def Task.fpol (t : Task) : Nat := bits (t.words.getD 4 0) 11 2

/-- A context halts: its instances are discarded and it keeps its registers and colour; under a TCB with FPOL RETRY
or SKIP it ends at once, and a context whose cancel mark has been seen ends too (R131, R350, R367). -/
def State.halt (s : State) (c : CtxId) (resume : Word) : State :=
  match s.ctx? c with
  | none => s
  | some x =>
    let rs := x.insts.map fun i => i.route
    let s1 := ((s.discard c rs).voidReqs c (rs.drop 1)).endAway fun d => d == .fetch c
    let s2 := s1.updCtx c fun y => { y with insts := [], halt := some resume, next := none, watch := 0 }
    let ends := match x.env.origin with
      | .task t => match s.task? t with
        | some t => t.fpol = 1 || t.fpol = 2
        | none => false
      | _ => false
    if ends || x.mark == .seen then s2.endCtx c .null none else s2

/-- The effect of posting one held fault: the record, and 1 to K15 for GROUP (R131, R197). -/
def State.postHeld (s : State) (c : CtxId) (f : FaultRec) : State :=
  let s1 := s.post c f
  if f.code == codeGroup then s1.addK c 15 1 else s1

/-- The oldest instance's held faults are posted in order; the first ending one halts the context
(R131). This is the shared operation of taking an exception. -/
def State.settle (s : State) (c : CtxId) : State :=
  match (s.ctx? c).bind fun x => x.insts.head? with
  | none => s
  | some i =>
    let soft := i.faults.takeWhile fun f => !f.ending
    let s1 := soft.foldl (fun t f => t.postHeld c f) s
    let s2 := s1.updInst c i.route fun j => { j with faults := j.faults.drop soft.length }
    match i.faults.drop soft.length with
    | [] => s2
    | f :: _ => (s2.postHeld c f).halt c i.block

/-- A fault raised by a record of an instance: held with the instance, and posted when that is the oldest (R131). -/
def State.raise (s : State) (c : CtxId) (r : Route) (f : FaultRec) : State := (s.holdFault c r f).settle c

/-! ### Colours and new contexts (R99, R102, R104) -/

/-- The colour the pool hands out next: the first whose next generation is not that of a saved context (R102,
R377). -/
def Region.nextColour (g : Region) : Option Nat :=
  g.pool.find? fun c =>
    let n := (Sparse.get 0#6 g.gens c + 1#6).toNat
    !(g.saved.any fun e => e.colour == c && e.gen == n)

/-- Drawing a colour increments its generation (R102). -/
def State.drawColour (s : State) (region : Nat) : Option (State × CtxId) :=
  match s.region? region with
  | none => none
  | some g =>
    match g.nextColour with
    | none => none
    | some c =>
      let n := Sparse.get 0#6 g.gens c + 1#6
      some (s.updRegion region fun g => { g with pool := g.pool.erase c, gens := Sparse.put 0#6 g.gens c n,
                                                 torn := g.torn.filter fun t => t != (c, n.toNat) },
        ⟨region, c, n.toNat⟩)

/-- A context in the state of R99. -/
def Ctx.fresh (id : CtxId) (env : Env) (g : Sparse Word) (entry : Word) : Ctx where
  id := id
  env := env
  regs := ⟨g, [], [], 0, 0, 0⟩
  insts := []
  next := some (.block entry)
  rstack := []
  watch := 0
  halt := none
  mark := .none
  pending := []
  drained := false
  inbox := []

/-- A context is added to the machine. -/
def State.addCtx (s : State) (x : Ctx) : State :=
  { s with ctxs := s.ctxs ++ [x] }

/-- An endpoint number no context has yet: Nocturne gives every context one (R354; log entry 12). Endpoints
below 64 are the servers' and the hosts'. -/
def State.newEndpoint (s : State) : Nat := s.nextId + 64

/-! ### Speculation (R122) -/

/-- The instances after the one in `r` are squashed and leave no trace (R124). -/
def State.squashYounger (s : State) (c : CtxId) (r : Route) : State :=
  match s.ctx? c with
  | none => s
  | some x =>
    let young := (x.insts.dropWhile fun i => i.route != r).drop 1
    (s.squash c (young.map fun i => i.route)).updCtx c fun y =>
      { y with insts := y.insts.filter fun i => !(young.any fun j => j.route == i.route) }

end Sys2Proof.Machine
end

