-- ==== Sys2Proof/Machine/Access.lean ====
section
/-! DEFINITION. Names, apertures, page entries and residency: the checks of R41 with R177 in their place, the name
table and descriptors (R32, R33), the page walk (R43, R44), and the residency moves (R46) that translation and
the units that act whole in one step share. -/

namespace Sys2Proof.Machine

/-! ### Rights and classes -/

/-- The rights of R38 and R41. -/
inductive Right where
  | r | w | x | c | d
  deriving DecidableEq, Repr

/-- A right's bit in RIGHTS and in MAXR (R33, R38). -/
def Right.bit : Right → Nat
  | .r => 0 | .w => 1 | .x => 2 | .c => 3 | .d => 4

/-- A rights field grants every right listed. -/
def grants (f : Nat) (ks : List Right) : Bool := ks.all fun k => f.testBit k.bit

/-- The rights that MAXR of each class may hold (R34), none for a reserved class. -/
def classRights (cls : Nat) : Option Nat :=
  match cls with
  | 0 => some 0b01011
  | 1 => some 0b11011
  | 2 => some 0b01011
  | 4 => some 0b00101
  | 5 => some 0b00101
  | _ => none

/-- A class whose pages have persistent-tier blocks: P and X-on-P (R34, R44). -/
def durableClass (cls : Nat) : Bool := cls == 1 || cls == 5

/-- The page size a PGSZ code names (R33). -/
def pageBytes (pgsz : Nat) : Nat :=
  match pgsz with
  | 0 => 2 ^ 16
  | 1 => 2 ^ 21
  | 2 => 2 ^ 26
  | _ => 2 ^ 30

/-! ### The name table and descriptors (R32, R33) -/

/-- The address under index `i` of a table at `a`, none where 0 stands. -/
def tableEntry (m : List Host.Cell) (a i : Nat) : Option Nat :=
  let v := Memory.readLE m (a + 8 * i) 8 % 2 ^ 40
  if v = 0 then none else some v

/-- The address of the entry that the name table holds for a serial's descriptor: four levels of sixteen bits
from bit 63 downward (R32). -/
def State.descAddr (s : State) (serial : BitVec 64) : Option Nat := do
  let a1 ← tableEntry s.mem s.names.root (bits serial 48 16)
  let a2 ← tableEntry s.mem a1 (bits serial 32 16)
  let a3 ← tableEntry s.mem a2 (bits serial 16 16)
  tableEntry s.mem a3 (bits serial 0 16)

/-- A descriptor's fields (R33). -/
structure Desc where
  serial : BitVec 64
  addr : Nat
  dying : Bool
  cls : Nat
  pgsz : Nat
  depth : Nat
  maxr : Nat
  length : Nat
  homedie : Nat
  root : Nat
  side : Nat
  deriving DecidableEq, Repr

/-- The descriptor of a serial; a reserved STATE or a nonzero reserved field makes it absent (R33). -/
def State.desc? (s : State) (serial : BitVec 64) : Option Desc := do
  let a ← s.descAddr serial
  let w := fun i => Memory.word s.mem (a + 8 * i)
  let st := bits (w 1) 62 2
  if (st = 1 ∨ st = 2) ∧ bits (w 2) 0 60 = 0 ∧ bits (w 3) 40 24 = 0 ∧ bits (w 4) 40 24 = 0 ∧ w 5 = 0 ∧ w 6 = 0 ∧
      w 7 = 0 then
    some { serial := serial, addr := a, dying := st = 2, cls := bits (w 1) 59 3, pgsz := bits (w 1) 57 2,
           depth := bits (w 1) 54 3, maxr := bits (w 1) 49 5, length := bits (w 1) 0 49,
           homedie := bits (w 2) 60 4, root := bits (w 3) 0 40, side := bits (w 4) 0 40 }
  else none

/-- The descriptor stands LIVE. -/
def State.live? (s : State) (serial : BitVec 64) : Option Desc :=
  match s.desc? serial with
  | some d => if d.dying then none else some d
  | none => none

/-! ### Page entries (R43, R44) -/

/-- STATE of a page entry. -/
def pteState (w : Word) : Nat := bits w 61 3
/-- PBLK. -/
def ptePblk (w : Word) : Nat := bits w 31 30
/-- FRAME. -/
def pteFrame (w : Word) : Nat := bits w 0 24
/-- A page entry. -/
def mkPte (st pblk frame : Nat) : Word :=
  BitVec.ofNat 3 st ++ BitVec.ofNat 30 pblk ++ 0#7 ++ BitVec.ofNat 24 frame

/-- The walk from a node down to the leaf entry of page `page`, `depth` levels of 9 bits, highest first; none under an
absent subtree (R43). -/
def walkFrom (m : List Host.Cell) : Nat → Nat → Nat → Option Nat
  | _, 0, _ => none
  | node, 1, page => some (node + 8 * (page % 512))
  | node, d + 2, page =>
    match tableEntry m node (page / 512 ^ (d + 1) % 512) with
    | none => none
    | some a => walkFrom m a (d + 1) page

/-- The address of a page's entry, none under an absent subtree. -/
def State.leaf? (s : State) (d : Desc) (page : Nat) : Option Nat := walkFrom s.mem d.root d.depth page

/-- Storage of `n` units from a pool: freed single units first, then from `next`, aligned to `n`. -/
def Pool.take (p : Pool) (n : Nat) (reuse : Bool) : Option (Nat × Pool) :=
  match reuse, p.freed with
  | true, f :: fs => some (f, { p with freed := fs })
  | _, _ =>
    let a := (p.next + n - 1) / n * n
    if a + n ≤ p.limit then some (a, { p with next := a + n }) else none

/-- Storage given back. -/
def Pool.give (p : Pool) (a : Nat) : Pool := { p with freed := p.freed ++ [a] }

/-- A cleared 4 KiB table node (log entry 6). -/
def State.newNode (s : State) : Option (Nat × State) :=
  match s.names.tables.take 1 true with
  | none => none
  | some (n, p) => some (n * 4096,
      { s with names := { s.names with tables := p }, mem := Memory.clear s.mem (n * 4096) 4096 })

/-- The leaf entry of a page with the nodes above it made where they are absent (log entry 6). -/
def State.makeLeaf : State → Nat → Nat → Nat → Option (Nat × State)
  | _, _, 0, _ => none
  | s, node, 1, page => some (node + 8 * (page % 512), s)
  | s, node, d + 2, page =>
    let i := page / 512 ^ (d + 1) % 512
    match tableEntry s.mem node i with
    | some a => s.makeLeaf a (d + 1) page
    | none =>
      match s.newNode with
      | none => none
      | some (a, s1) =>
        State.makeLeaf { s1 with mem := Memory.setWord s1.mem (node + 8 * i) (BitVec.ofNat 64 a) } a (d + 1) page

/-! ### Where bytes of an object stand -/

/-- The physical address of the first byte of a page that has a frame (R44, R179). -/
def frameAddr (d : Desc) (pte : Word) : Nat :=
  if d.cls = 2 then scratchBase + (d.homedie * 64 + bits pte 5 6) * 2 ^ 21 + bits pte 0 5 * 2 ^ 16
  else pteFrame pte * 2 ^ 16

/-- The physical address of a persistent-tier block. -/
def tierAddr (pblk : Nat) : Nat := tierBase + pblk * 2 ^ 16

/-- Where a byte of an object now stands: in its frame where the page has one, otherwise in its persistent-tier
block; none for a page of class V that has never been filled, which reads as zero (R46). -/
def State.byteHome (s : State) (d : Desc) (ofs : Nat) : Option Nat :=
  let pb := pageBytes d.pgsz
  match s.leaf? d (ofs / pb) with
  | none => none
  | some a =>
    let pte := Memory.word s.mem a
    let st := pteState pte
    if st = 2 ∨ st = 3 ∨ st = 4 then some (frameAddr d pte + ofs % pb)
    else if durableClass d.cls then some (tierAddr (ptePblk pte) + ofs % pb)
    else none

/-- Bytes of an object as they now stand. -/
def State.objRead (s : State) (d : Desc) : Nat → Nat → List Byte
  | _, 0 => []
  | ofs, n + 1 =>
    (match s.byteHome d ofs with
      | some a => Memory.read s.mem a
      | none => 0#8) :: s.objRead d (ofs + 1) n

/-- A 64-bit word of an object as it now stands. -/
def State.objWord (s : State) (d : Desc) (ofs : Nat) : Word :=
  match s.byteHome d ofs with
  | some a => Memory.word s.mem a
  | none => 0

/-! ### Apertures (R36-R38, R41) -/

/-- ATC of an aperture-table pointer. -/
def atc (atp : BitVec 128) : Nat := bits atp 64 21
/-- ATS. -/
def ats (atp : BitVec 128) : BitVec 64 := atp.extractLsb' 0 64

/-- The 256 bits of entry `i` of a table, 0 where the table object is not live. -/
def State.apertureBits (s : State) (serial : BitVec 64) (i : Nat) : BitVec 256 :=
  match s.live? serial with
  | none => 0
  | some d => s.objWord d (32 * i + 24) ++ s.objWord d (32 * i + 16) ++ s.objWord d (32 * i + 8) ++
      s.objWord d (32 * i)

/-- Entry `i` of the table a pointer names, where it is valid. -/
def State.aperture? (s : State) (atp : BitVec 128) (i : Nat) : Option Aperture :=
  if i = 0 ∨ i ≥ atc atp then none
  else
    let e := s.apertureBits (ats atp) i
    if e.getLsbD 255 then
      some ⟨bits e 192 5, bits e 128 45, e.extractLsb' 112 16, bits e 64 48, e.extractLsb' 0 64⟩
    else none

/-- The checks of R41 against an aperture entry as it was read, in R41's order, with the alignment of R177 after the rights
check: the full address (R26). `al` is the alignment, 1 for none. -/
def Aperture.check (ap : Option Aperture) (a : Word) (size : Nat) (ks : List Right) (al : Nat) :
    Except (BitVec 8) FullAddr :=
  let off := bits a 0 44
  match ap with
  | none => .error codeAperture
  | some e =>
    if off + size > e.length then .error codeAperture
    else if !grants e.rights ks then .error codeProt
    else if (e.base + off) % al ≠ 0 then .error codeAlign
    else .ok ⟨e.dev, e.serial, e.base + off⟩

/-- The aperture entry that a near address names. -/
def State.entryOf (s : State) (atp : BitVec 128) (a : Word) : Option Aperture := s.aperture? atp (bits a 44 20)

/-- What the aperture part of R41 gives, by the table as it stands. -/
def State.apertureStep (s : State) (atp : BitVec 128) (a : Word) (size : Nat) (ks : List Right) (al : Nat) :
    Except (BitVec 8) FullAddr :=
  Aperture.check (s.entryOf atp a) a size ks al

/-- The name step of R41 on this device, against the mirror of the die that walks, for H that of D0 (R30, R32; log entry 5). -/
def State.nameStep (s : State) (die : Nat) (f : FullAddr) (size : Nat) (ks : List Right) :
    Except (BitVec 8) Desc :=
  if f.serial.toNat ≥ (s.names.mirrors.getD (if die = 8 then 0 else die) 0).toNat then .error codeNameUnissued
  else match s.live? f.serial with
    | none => .error codeNameDead
    | some d =>
      if !grants d.maxr ks then .error codeProt
      else if f.ofs + size > d.length then .error codeAperture
      else .ok d

/-- Where an access goes after its name step: this device, with the descriptor, or a peer device (R28). -/
inductive Located where
  | here (f : FullAddr) (d : Desc)
  | peer (f : FullAddr)
  deriving DecidableEq, Repr

/-- The name step of an access that has passed it before and waits for a page: a name that has died since still stands for it (R49). -/
def State.nameStepOf (s : State) (named : Bool) (die : Nat) (f : FullAddr) (size : Nat) (ks : List Right) : Except (BitVec 8) Desc :=
  match s.nameStep die f size ks with
  | .error e => if named && e == codeNameDead then (match s.desc? f.serial with | some d => .ok d | none => .error e) else .error e
  | .ok d => .ok d

/-- The checks of R41 up to the page step, in order, against the aperture entry read; `named` says whether the name step has been passed
before (R27, R28, R49, R177). -/
def State.locateBy (s : State) (named : Bool) (die : Nat) (ap : Option Aperture) (a : Word) (size : Nat) (ks : List Right) (al : Nat) :
    Except (BitVec 8) Located :=
  match Aperture.check ap a size ks al with
  | .error e => .error e
  | .ok f =>
    if f.dev = s.names.devNum then
      match s.nameStepOf named die f size ks with
      | .error e => .error e
      | .ok d => .ok (.here f d)
    else if f.dev.toNat ≥ 9216 || !(s.names.peers.contains f.dev) then .error codeNameUnissued
    else .ok (.peer f)

/-- The entry that the unit that acts has read of a table before, when its name step passed, while it waits (R40, R49; log entry 13). -/
def State.boundAt (s : State) (atp : BitVec 128) (a : Word) : Option Bound :=
  match s.doer with
  | none => none
  | some d => s.bound.find? fun b => b.who == d && b.ats == ats atp && b.addr == a

/-- The entry that an access of a unit goes by: the one it has read, or else the table's as it stands (R40). -/
def State.entryFor (s : State) (atp : BitVec 128) (a : Word) : Option Aperture :=
  match s.boundAt atp a with
  | some b => b.entry
  | none => s.entryOf atp a

/-- The checks of R41 up to the page step, in order, by the entry that the unit that acts has read, or else by the table as it stands (R27, R28,
R40, R177). -/
def State.locate (s : State) (die : Nat) (atp : BitVec 128) (a : Word) (size : Nat) (ks : List Right) (al : Nat) :
    Except (BitVec 8) Located :=
  s.locateBy (s.boundAt atp a).isSome die (s.entryFor atp a) a size ks al

/-- The unit that acts has read an aperture entry and passed its name step (R40, R49). -/
def State.noteBound (s : State) (atp : BitVec 128) (a : Word) : State :=
  match s.doer with
  | none => s
  | some d => if (s.boundAt atp a).isSome then s else { s with bound := s.bound ++ [⟨d, ats atp, a, s.entryOf atp a⟩] }

/-! ### Host-owned regions (R389) -/

/-- The 2 MiB window region of a link that holds a byte of an object on this device: the client table's aperture `window + 2` binds it
there (R387, R389). -/
def State.inWindow (s : State) (serial : BitVec 64) (ofs : Nat) (link window region : Nat) : Bool :=
  match s.hub.links[link]? with
  | none => false
  | some l => match s.aperture? l.atp (window + 2) with
    | none => false
    | some e =>
      let lo := e.base + region * 2 ^ 21
      e.dev == s.names.devNum && e.serial == serial && decide (lo ≤ ofs) && decide (ofs < lo + 2 ^ 21) && decide (ofs < e.base + e.length)

/-- The host-owned region that holds a byte, if any (R389). -/
def State.hostRegion (s : State) (serial : BitVec 64) (ofs : Nat) : Option Owner :=
  s.hub.owners.find? fun o => o.host && s.inWindow serial ofs o.link o.window o.region

/-- A unit has met a region that a host owns, other than by that host's own link (R389; log entry 24). -/
def State.noteWanted (s : State) (serial : BitVec 64) (ofs : Nat) : State :=
  match s.hostRegion serial ofs with
  | none => s
  | some o =>
    let w := (o.link, o.window, o.region)
    if s.hub.wanted.contains w || s.doer == some (.link o.link) then s
    else { s with hub := { s.hub with wanted := s.hub.wanted ++ [w] } }

/-! ### Homes and tiles (R42, R176) -/

/-- The home of a physical address: die and tile (R176). -/
def homeOf (a : Nat) : Nat × Nat :=
  if a < scratchBase then (a / 2 ^ 37, a / 128 % 64)
  else if a < tierBase then ((a - scratchBase) / 2 ^ 21 / 64, (a - scratchBase) / 2 ^ 21 % 64)
  else (8, 0)

/-- A tile with nothing cached and four idle walkers. -/
def Tile.idle : Tile := ⟨[], [none, none, none, none], []⟩

/-- The tile of a die. -/
def State.tile (s : State) (t : Nat × Nat) : Tile := Sparse.get Tile.idle s.names.tiles (t.1 * 64 + t.2)

/-- The tile changed by `f`. -/
def State.updTile (s : State) (t : Nat × Nat) (f : Tile → Tile) : State :=
  { s with names := { s.names with tiles := Sparse.put Tile.idle s.names.tiles (t.1 * 64 + t.2) (f (s.tile t)) } }

/-- A key enters a tile's cache of 512 entries. -/
def Tile.remember (t : Tile) (k : CacheKey) : Tile :=
  let c := (t.cache.filter fun e => e != k) ++ [k]
  { t with cache := c.drop (c.length - 512) }

/-! ### Residency (R45, R46) -/

/-- A page entry written. -/
def State.setPte (s : State) (a : Nat) (w : Word) : State := { s with mem := Memory.setWord s.mem a w }

/-- A frame for a page of size code `pgsz` from the pool of die `die` (R45), in 64 KiB units; for H, of D0 (log entry 5). The pager
is woken when the pool falls below the low-water mark, or is empty. -/
def State.takeFrame (s : State) (die pgsz : Nat) : Option Nat × State :=
  let i := (if die = 8 then 0 else die) * 4 + pgsz
  match (s.names.frames[i]?).bind fun p => p.take (pageBytes pgsz / 2 ^ 16) true with
  | none => (none, { s with names := { s.names with pagerWoken := true } })
  | some (f, p) =>
    let left := p.freed.length + (p.limit - p.next) / (pageBytes pgsz / 2 ^ 16)
    (some f, { s with names := { s.names with frames := s.names.frames.set i p,
                                              pagerWoken := s.names.pagerWoken || left < s.names.lowWater } })

/-- A frame given back to the pool of its die (R45, R46). -/
def State.giveFrame (s : State) (frame pgsz : Nat) : State :=
  let i := frame / 2097152 * 4 + pgsz
  { s with names := { s.names with frames := updAt s.names.frames i fun p => p.give frame } }

/-- The first address of the frame of a page move. -/
def Move.base (m : Move) : Nat := m.frame * 2 ^ 16

/-- The size code of a page size. -/
def pgszOf (bytes : Nat) : Nat := if bytes = 2 ^ 16 then 0 else if bytes = 2 ^ 21 then 1 else if bytes = 2 ^ 26 then 2 else 3

/-- The owner of a page entry noted (log entry 6). -/
def State.noteOwner (s : State) (d : Desc) (pte page : Nat) : State :=
  if s.names.owners.any fun o => o.pte == pte then s
  else { s with names := { s.names with owners := s.names.owners ++ [⟨pte, d.serial, page⟩] } }

/-- The entry of a page of an object, made where it is absent, with its owner noted (log entry 6). -/
def State.leafFor (s : State) (d : Desc) (page : Nat) : Option (Nat × State) :=
  match s.makeLeaf d.root d.depth page with
  | none => none
  | some (pte, s1) => some (pte, s1.noteOwner d pte page)

/-- An absent page takes a frame and is filling (R46): of a page with a persistent-tier block, its contents are to be
read from the block; of another, zeros are to be written. -/
def State.startFill (s : State) (die : Nat) (d : Desc) (pte : Nat) : Option State :=
  match s.takeFrame die d.pgsz with
  | (none, _) => none
  | (some f, s1) =>
    let w := Memory.word s1.mem pte
    some { (s1.setPte pte (mkPte 1 (ptePblk w) 0)) with
      names := { s1.names with moves := s1.names.moves ++ [⟨pte, .fill, f, pageBytes d.pgsz, false⟩] } }

/-- Tags parked on a page go on to their home, in arrival order (R46). -/
def State.unpark (s : State) (pte : Nat) : State :=
  let go := fun (r : Req) =>
    updWhere (fun p => p.pte == pte && p.stage == .parked) (fun p => { p with stage := .ready }) r.pieces
  { s with reqs := s.reqs.map fun r => { r with pieces := go r } }

/-- A fill completes: the frame holds the block's contents, or zeros, FRAME is written, and parked tags are released
(R46). -/
def State.finishFill (s : State) (m : Move) : State :=
  let w := Memory.word s.mem m.pte
  let pb := ptePblk w
  let mem := if pb = 0 then Memory.clear s.mem m.base m.size
    else Memory.copy s.mem (tierAddr pb) m.base m.size
  let s1 := { s with mem := mem, names := { s.names with moves := s.names.moves.filter fun x => x.pte != m.pte } }
  (s1.setPte m.pte (mkPte 2 pb m.frame)).unpark m.pte

/-- A migration completes: the new frame holds the page and FRAME is written (R46). -/
def State.finishMigrate (s : State) (m : Move) (frame : Nat) : State :=
  let w := Memory.word s.mem m.pte
  let mem := Memory.copy s.mem m.base (frame * 2 ^ 16) m.size
  let s1 := { s with mem := mem, names := { s.names with moves := s.names.moves.filter fun x => x.pte != m.pte } }
  ((s1.setPte m.pte (mkPte (if m.dirty then 3 else 2) (ptePblk w) frame)).giveFrame m.frame (pgszOf m.size)).unpark
    m.pte

/-- An eviction is abandoned: the page stays in its frame, resident-dirty, and held operations are applied (R46). -/
def State.abandonEvict (s : State) (m : Move) : State :=
  let w := Memory.word s.mem m.pte
  let s1 := { s with names := { s.names with moves := s.names.moves.filter fun x => x.pte != m.pte } }
  (s1.setPte m.pte (mkPte 3 (ptePblk w) m.frame)).unpark m.pte

/-- A page moving or filling comes to rest: what is under way completes, an eviction being abandoned (R46). -/
def State.finishMove (s : State) (pte : Nat) : State :=
  match s.names.moves.find? fun m => m.pte == pte with
  | none => s
  | some m =>
    match m.kind with
    | .fill => s.finishFill m
    | .migrate f => s.finishMigrate m f
    | .evict => s.abandonEvict m

/-- A store to a page makes it dirty, and a write-back under way will not clean it (R46). -/
def State.dirty (s : State) (pte : Nat) : State :=
  let w := Memory.word s.mem pte
  let s1 := if pteState w = 2 then s.setPte pte (mkPte 3 (ptePblk w) (pteFrame w)) else s
  let wb := updWhere (fun b => b.pte == pte) (fun b => { b with hit := true }) s1.names.writebacks
  { s1 with names := { s1.names with writebacks := wb } }

/-- A page made resident within the step: an absent page is filled, and a page under way comes to rest, but for one that is only read while it
moves (R46, R185; log entry 13). The answer is the page's entry address; RESIDENCY where no frame is free, or no table node is left for its entry
(log entries 6 and 13). -/
def State.residentNow (s : State) (die : Nat) (d : Desc) (ofs : Nat) (write : Bool) : Except (BitVec 8) (Nat × State) :=
  match s.leafFor d (ofs / pageBytes d.pgsz) with
  | none => .error codeResidency
  | some (pte, s1) =>
    let st := pteState (Memory.word s1.mem pte)
    if st > 4 then .error codeResidency
    else if st = 2 ∨ st = 3 ∨ (st = 4 ∧ !write) then .ok (pte, s1)
    else if st = 1 ∨ st = 4 then .ok (pte, s1.finishMove pte)
    else match s1.startFill die d pte with
      | none => .error codeResidency
      | some s2 => .ok (pte, s2.finishMove pte)

/-- The unit that acts must wait: the first thing it meets stands (log entry 13). -/
def State.pauseFor (s : State) (w : Pause) : State := if s.pause.isSome then s else { s with pause := some w }

/-- The granule at a place is held for a unit: a durable step is under way there, or the host owns its region, which its own link
alone may use (R253, R389). -/
def State.heldFor (s : State) (serial : BitVec 64) (ofs : Nat) : Bool :=
  (s.durable.any fun d => d.at_.dev == s.names.devNum && d.at_.serial == serial && d.at_.ofs / 8 == ofs / 8) ||
  (match s.doer, s.hostRegion serial ofs with
    | some (.link l), some o => o.link != l
    | _, o => o.isSome)

/-- The pager has declined the frame that the unit that acts waits for (R45, R46). -/
def State.frameDeclined (s : State) (serial : BitVec 64) (pb page : Nat) : Bool :=
  s.away.any fun e => s.doer == some e.who && e.op == .drop && e.at_.serial == serial && e.at_.ofs / pb == page &&
    e.ans == .fault codeResidency

/-- The tile of a unit's die, or of D0 for the hub's and a peer's, whose cache and walkers its accesses use: the first (R42, R45; log entry 78). -/
def unitTile (die : Nat) : Nat × Nat := (if die = 8 then 0 else die, 0)

/-- A name and a page that a unit's access meets are looked up in its tile's cache; where they are not there a free walker walks them within the
step, and the unit waits while all four are busy (R42, R45; log entries 13 and 78). -/
def State.unitWalk (s : State) (die : Nat) (serial : BitVec 64) (page : Nat) : State :=
  let t := s.tile (unitTile die)
  let name : CacheKey := ⟨serial, none⟩
  let key : CacheKey := ⟨serial, some page⟩
  if t.cache.contains name && t.cache.contains key then s
  else if t.walkers.all Option.isSome then s.pauseFor .held
  else s.updTile (unitTile die) fun t => (if t.cache.contains name then t else t.remember name).remember key

/-- The page that an access of a unit touches: the address of its entry, where it has a frame, the old one while it moves and the access
only reads (R185). Otherwise the unit waits: for the fill of an absent page, for a page that fills or moves, or for a held granule (R46,
R253, R389). RESIDENCY where the pager declines. Where nothing acts as a unit, the page comes to rest within the step (log
entry 13). -/
def State.resident (s : State) (die : Nat) (d : Desc) (ofs : Nat) (write : Bool) : Except (BitVec 8) (Nat × State) :=
  if s.doer.isNone then s.residentNow die d ofs write
  else
    let page := ofs / pageBytes d.pgsz
    match ((s.noteWanted d.serial ofs).unitWalk die d.serial page).leafFor d page with
    | none => .error codeResidency
    | some (pte, s1) =>
      let st := pteState (Memory.word s1.mem pte)
      if st > 4 then .error codeResidency
      else if s1.heldFor d.serial ofs || decide (st = 1) then .ok (pte, s1.pauseFor .held)
      else if st = 4 ∧ write then .ok (pte, s1.pauseFor (.page die ⟨s.names.devNum, d.serial, ofs⟩))
      else if st = 0 then
        if s1.frameDeclined d.serial (pageBytes d.pgsz) page then .error codeResidency
        else .ok (pte, s1.pauseFor (.page die ⟨s.names.devNum, d.serial, ofs⟩))
      else .ok (pte, s1)

/-! ### Heat (R184) -/

/-- A count added to a page's heat at a tile. -/
def addHeat (h : List Heat) (serial : BitVec 64) (page dlv stv : Nat) : List Heat :=
  if h.any fun e => e.serial == serial && e.page == page then
    updWhere (fun e => e.serial == serial && e.page == page) (fun e => { e with dlv := e.dlv + dlv, stv := e.stv + stv }) h
  else h ++ [⟨serial, page, dlv, stv⟩]

/-- Elements delivered from a page are counted at the tile port that delivers them (R184). -/
def State.countHeat (s : State) (a : Nat) (serial : BitVec 64) (page n : Nat) : State :=
  s.updTile (homeOf a) fun t => { t with heat := addHeat t.heat serial page n 0 }

/-- The elements of `w` bits that a read of `n` bytes delivers (R184, R186; log entry 66). -/
def elemsIn (w n : Nat) : Nat := (8 * n + w - 1) / w

/-- Bytes read within one page by a unit, as elements of `w` bits; one that waits reads none (R184). -/
def State.readNowAs (w : Nat) (s : State) (die : Nat) (f : FullAddr) (d : Desc) (n : Nat) :
    Except (BitVec 8) (List Byte × State) :=
  match s.resident die d f.ofs false with
  | .error e => .error e
  | .ok (pte, s1) =>
    let a := frameAddr d (Memory.word s1.mem pte) + f.ofs % pageBytes d.pgsz
    .ok (Memory.readN s1.mem a n, if s1.pause.isSome then s1 else s1.countHeat a d.serial (f.ofs / pageBytes d.pgsz) (elemsIn w n))

/-- Bytes read within one page by a unit, as one element (log entry 66). -/
def State.readNow (s : State) (die : Nat) (f : FullAddr) (d : Desc) (n : Nat) : Except (BitVec 8) (List Byte × State) :=
  State.readNowAs 64 s die f d n

/-- Bytes written within one page by a unit. -/
def State.writeNow (s : State) (die : Nat) (f : FullAddr) (d : Desc) (bs : List Byte) : Except (BitVec 8) State :=
  match s.resident die d f.ofs true with
  | .error e => .error e
  | .ok (pte, s1) =>
    if s1.pause.isSome then .ok s1
    else
      let a := frameAddr d (Memory.word s1.mem pte) + f.ofs % pageBytes d.pgsz
      .ok ({ s1 with mem := Memory.writeN s1.mem a bs }.dirty pte)

/-! ### Units that wait (R28, R46; log entry 13) -/

/-- The granules of a range: offset and size of each (R178). -/
def granules : Nat → Nat → Nat → List (Nat × Nat)
  | 0, _, _ => []
  | fuel + 1, ofs, n => if n = 0 then [] else
      let k := min n (8 - ofs % 8)
      (ofs, k) :: granules fuel (ofs + k) (n - k)

/-- The parts of a unit's access that are carried to a peer: its granules with their bytes, or the whole of a check or an add. -/
def peerParts (f : FullAddr) (size : Nat) (op : PeerOp) : List (FullAddr × Nat × PeerOp) :=
  let gs := (granules size f.ofs size).map fun g => ({ f with ofs := g.1 }, g.2)
  match op with
  | .load | .fetch => gs.map fun g => (g.1, g.2, op)
  | .store bs => gs.map fun g => (g.1, g.2, .store ((bs.drop (g.1.ofs - f.ofs)).take g.2))
  | _ => [(f, size, op)]

/-- What one part of an access of the unit that acts has come to. -/
def State.awayAns (s : State) (p : FullAddr × Nat × PeerOp) : Option AwayAns :=
  (s.away.find? fun e => s.doer == some e.who && e.at_ == p.1 && e.size == p.2.1 && e.op == p.2.2).map fun e => e.ans

/-- An access of the unit that acts at a peer device: its bytes, none where it must still wait, or the fault of its first part that
met one (R28). -/
def State.askPeer (s : State) (f : FullAddr) (size : Nat) (op : PeerOp) : Except (BitVec 8) (Option (List Byte)) :=
  (peerParts f size op).foldl (fun acc p =>
    match acc, s.awayAns p with
    | .error e, _ => .error e
    | .ok _, some (.fault c) => .error c
    | .ok (some bs), some (.bytes b) => .ok (some (bs ++ b))
    | .ok _, _ => .ok none) (.ok (some []))

/-- A range written or read granule by granule: the next chunk up to an 8-byte boundary (R178). -/
def chunk (ofs n : Nat) : Nat := min n (8 - ofs % 8)

/-- Bytes of any range read by a unit that acts whole in one step, as elements of `w` bits, `fuel` chunks. -/
def State.readRange (w : Nat) (s : State) (die : Nat) (f : FullAddr) (d : Desc) : Nat → Nat → Except (BitVec 8) (List Byte × State)
  | 0, _ => .ok ([], s)
  | fuel + 1, n =>
    if n = 0 then .ok ([], s)
    else
      let k := chunk f.ofs n
      match State.readNowAs w s die f d k with
      | .error e => .error e
      | .ok (bs, s1) =>
        match State.readRange w s1 die { f with ofs := f.ofs + k } d fuel (n - k) with
        | .error e => .error e
        | .ok (rest, s2) => .ok (bs ++ rest, s2)

/-- Bytes of any range written by a unit that acts whole in one step, `fuel` chunks. -/
def State.writeRange (s : State) (die : Nat) (f : FullAddr) (d : Desc) : Nat → List Byte → Except (BitVec 8) State
  | 0, _ => .ok s
  | fuel + 1, bs =>
    if bs = [] then .ok s
    else
      let k := chunk f.ofs bs.length
      match s.writeNow die f d (bs.take k) with
      | .error e => .error e
      | .ok s1 => s1.writeRange die { f with ofs := f.ofs + k } d fuel (bs.drop k)

/-! ### Adds and flags of a saved context (R369, R374) -/

/-- The saved-context table's entry for a context name (R377). -/
def State.saved? (s : State) (c : CtxId) : Option SavedCtx :=
  (s.regionOf c).bind fun g => g.saved.find? fun e => e.colour == c.colour && e.gen == c.gen

/-- The machine with its pages brought to rest within the step, whatever acts (log entry 13). -/
def State.atRest (s : State) (f : State → State) : State :=
  { f { s with doer := none } with doer := s.doer }

/-- What hardware does to a word of a save record: an add, an OR or an AND (R369, R379). -/
inductive SavedOp where
  | add (w : Word) | or (w : Word) | and (w : Word)
  deriving DecidableEq, Repr

/-- The word after it. -/
def SavedOp.apply : SavedOp → Word → Word
  | .add w, v => v + w
  | .or w, v => v ||| w
  | .and w, v => v &&& w

/-- What a peer device is asked to do for it (R28). -/
def SavedOp.peer : SavedOp → PeerOp
  | .add w => .add w false
  | .or w => .combine (.int .i64) .or w
  | .and w => .combine (.int .i64) .and w

/-- RESIDENCY of an access at rest, whose page the pager, woken, finds no frame for: its home posts it (R45, R364; log entry 13). -/
def State.restFault (s : State) (c : CtxId) (code : BitVec 8) : State :=
  ({ s with names := { s.names with pagerWoken := true } } : State).post c (unitFault 0 5 0 code 0 0)

/-- A word of a context's save record changed; in a record at a peer device, there, under the number of the context, by a packet of slack 507,904
(R28; log entries 13 and 76). -/
def State.updSaved (s : State) (c : CtxId) (e : SavedCtx) (ofs : Nat) (op : SavedOp) : State :=
  let f : FullAddr := { e.at_ with ofs := e.at_.ofs + ofs }
  if f.dev ≠ s.names.devNum then s.bump.toPeer f.dev (.access (ctxTag c) 0 f.serial f.ofs 8 op.peer 507904 false none) 507904 false
  else s.atRest fun s =>
    match s.live? f.serial with
    | none => s
    | some d =>
      match s.readNow 0 f d 8 with
      | .error code => s.restFault c code
      | .ok (bs, s1) =>
        match s1.writeNow 0 f d (toBytesLE 8 (op.apply (BitVec.ofNat 64 (ofBytesLE bs))).toNat) with
        | .error code => s1.restFault c code
        | .ok s2 => s2

/-- An add to near counter `n` of a context that runs, is halted, or is saved; dropped where it no longer exists
(R222, R369). -/
def State.addKAny (s : State) (c : CtxId) (n : Nat) (amt : Word) : State :=
  match s.ctx? c with
  | some _ => s.addK c n amt
  | none =>
    match s.saved? c with
    | some e => s.updSaved c e (2688 + 8 * n) (.add amt)
    | none => s

/-- Flags charged to a context outside its instances: to the context, to the save record of a saved one, or to the job record where the
context no longer exists (R369, R370). -/
def State.flagAny (s : State) (c : CtxId) (f : Word) : State :=
  match s.ctx? c with
  | some _ => s.updCtx c fun x => { x with regs := { x.regs with flags := x.regs.flags ||| f } }
  | none =>
    match s.saved? c with
    | some e =>
      let mine := fun (x : SavedCtx) => x.colour == c.colour && x.gen == c.gen
      (s.updRegion c.region fun g => { g with saved := updWhere mine (fun x => { x with flags := x.flags ||| f }) g.saved }).updSaved
        c e 48 (.or f)
    | none => s.jobFlags (s.jobOf c) f

/-- A fault that an engine, a home or the switch charges to a context: the record, and 1 to its K15 (R190, R365,
R369). -/
def State.chargeAny (s : State) (c : CtxId) (f : FaultRec) : State := (s.post c f).addKAny c 15 1

/-! ### Deliveries (R129, R149, R150) -/

/-- A context runs, is halted or is saved. -/
def State.exists_ (s : State) (c : CtxId) : Bool := (s.ctx? c).isSome || (s.saved? c).isSome

/-- A late packet adds 1 to K14 at delivery, in the save record of a saved context, and posts LATE under trap-on-late: held with its
instance where that still stands, otherwise posted at once (R131, R149, R150). Where the context no longer exists the count is
dropped, and nothing is posted. -/
def State.lateDelivery (s : State) (c : CtxId) (r : Route) (k : Key) (tok : Tok) (loud : Bool) : State :=
  if tok.late && s.exists_ c then
    let s1 := s.addKAny c 14 1
    if loud then
      match (s1.ctx? c).bind fun x => x.inst? r with
      | some i => s1.raise c r (s1.recordFault c r k i.block codeLate 0 0)
      | none => s1.post c (s1.recordFault c r k r.block codeLate 0 0)
    else s1
  else s

/-- A register has been counted real, or claimed, by another node than the one given: a node at depth 0 fires once, and what it sends twice to
one register is one firing (R129). -/
def Inst.regTaken (i : Inst) (vec : Bool) (n node : Nat) : Bool :=
  (i.out.regs.any fun w => w.vec == vec && w.n == n && w.node != node && w.val != .null) ||
  i.out.claims.any fun e => e.vec == vec && e.n == n && e.node != node

/-- A register has been counted real from the node given, whose T0 and T1 both name it: what T0 takes stands (DESIGN CHOICE, log entry 71). -/
def Inst.regHas (i : Inst) (vec : Bool) (n node : Nat) : Bool :=
  i.out.regs.any fun w => w.vec == vec && w.n == n && w.node == node && w.val != .null

/-- What a register target has received counts as its register's write (R129). -/
def Outputs.count (o : Outputs) (vec : Bool) (n node : Nat) (v : TokVal) : Outputs := { o with regs := o.regs ++ [⟨vec, n, node, v⟩] }

/-- A register target receives its token: a second real one for a counted register faults INCOMPLETE with cause 2
and is dropped, uncounted; a late one is counted in K14 (R129, R149). -/
def State.countReg (s : State) (c : CtxId) (r : Route) (k : Key) (vec : Bool) (n : Nat) (tok : Tok)
    (loud : Bool) : State :=
  match (s.ctx? c).bind fun x => x.inst? r with
  | none => s
  | some i =>
    if !tok.isNull && i.regTaken vec n k.node then s.raise c r (s.incomplete c i k 2)
    else
      let s1 := s.lateDelivery c r k tok loud
      if i.regHas vec n k.node then s1 else s1.updOut c r fun o => o.count vec n k.node tok.val

/-- A token a firing sends to a target: a register write is counted at once, anything else is a packet. -/
def State.emit (s : State) (c : CtxId) (r : Route) (k : Key) (grp : Nat) (vec : Bool) (t : Target) (tok : Tok) :
    State :=
  match t with
  | .reg n => s.countReg c r k vec n.toNat tok false
  | t => s.sendTo c r k grp vec t tok false none

end Sys2Proof.Machine
end

