-- ==== Sys2Proof/Machine/Level.lean ====
section
/-! DEFINITION. Loop levels (R134-R136, R272-R274) and what an instance reads from older instances in flight
(R123, R224, R322). -/

namespace Sys2Proof.Machine

/-! ### Loop levels -/

/-- The ITIN records of a block. -/
def Placed.itins (p : Placed) : List Nat :=
  (p.nodes.filter fun ni => match ni.2 with | .itin _ _ => true | _ => false).map fun ni => ni.1

/-- The ITNX records of a block. -/
def Placed.itnxs (p : Placed) : List Nat :=
  (p.nodes.filter fun ni => match ni.2 with | .itnx _ _ => true | _ => false).map fun ni => ni.1

/-- A node has fired for a key. -/
def Inst.hasFired (i : Inst) (node iter : Nat) : Bool := i.fired.any fun f => f.key.node == node && f.key.iter == iter

/-- The level has opened: every ITIN has fired (R135). -/
def Inst.levelOpen (i : Inst) (p : Placed) : Bool := p.re && p.itins != [] && p.itins.all fun n => i.hasFired n 0

/-- A key is admitted: at depth 0 always; at depth 1 while its iteration is below the oldest unretired one plus the loop
bound (R135). -/
def Inst.admitted (i : Inst) (p : Placed) (k : Key) : Bool :=
  !k.deep || (i.levelOpen p && decide (k.iter < i.level.oldest + p.lb))

/-- The ITNX marks of an iteration. -/
def Inst.nxOf (i : Inst) (iter : Nat) : List NxMark := i.level.nx.filter fun m => m.iter == iter

/-- Every ITNX has fired for an iteration (R135). -/
def Inst.nxDone (i : Inst) (p : Placed) (iter : Nat) : Bool :=
  p.itnxs.all fun n => (i.nxOf iter).any fun m => m.node == n

/-- In an open level, every ITNX has fired null for an iteration: it is the last (R136). -/
def Inst.nxLast (i : Inst) (p : Placed) (iter : Nat) : Bool :=
  i.nxDone p iter && (i.nxOf iter).all fun m => m.out == .vote

/-- In an open level, ITNX records have fired null and real for one iteration (R136). -/
def Inst.nxMixed (i : Inst) (iter : Nat) : Bool :=
  ((i.nxOf iter).any fun m => m.out == .vote) && (i.nxOf iter).any fun m => m.out != .vote

/-- Iteration `iter` is complete (R135). -/
def Inst.iterDone (i : Inst) (p : Placed) (iter : Nat) : Bool :=
  i.nxDone p iter && (p.lsidsAt true).all fun l => i.lsidCounted p l iter

/-- The oldest iteration retires if it is complete: its residues are freed and the next is admitted; the last one closes
the level (R135). -/
def Inst.retire1 (i : Inst) (p : Placed) : Inst :=
  let o := i.level.oldest
  if i.levelOpen p && !i.level.closed && i.iterDone p o then
    let es := i.entries.filter fun e => !(e.residue && e.key.deep && e.key.iter == o)
    let es := es.map fun e => if e.key.deep && e.key.iter == o + 1 then { e with spilled := none } else e
    if i.level.last == some o then { i with entries := es, level := { i.level with closed := true } }
    else { i with entries := es, level := { i.level with oldest := o + 1 } }
  else i

/-- Iterations retire in ascending order while they are complete (R135); each complete one has a mark of its own. -/
def Inst.retire (i : Inst) (p : Placed) : Nat → Inst
  | 0 => i
  | n + 1 => Inst.retire (i.retire1 p) p n

/-- The level retires every iteration that is complete. Where no ITNX and no depth-1 LSID holds an iteration open, all of them retire
at once, down to the last (R135). -/
def Inst.retireAll (i : Inst) (p : Placed) : Inst :=
  if p.itnxs.isEmpty && (p.lsidsAt true).isEmpty then
    match i.level.last with
    | some z => Inst.retire1 { i with
        level := { i.level with oldest := if i.levelOpen p && !i.level.closed then z else i.level.oldest }
        entries := i.entries.filter fun e => !(i.levelOpen p && e.residue && e.key.deep && decide (e.key.iter < z)) } p
    | none => i
  else i.retire p (i.level.nx.length + i.out.lsids.length + i.fired.length + 1)

/-- The loop level after a firing (R135). -/
def State.advanceLevel (s : State) (c : CtxId) (r : Route) : State :=
  match (s.ctx? c).bind fun x => x.inst? r with
  | none => s
  | some i =>
    match s.blockOf c i with
    | none => s
    | some p => if p.re then s.updInst c r fun j => j.retireAll p else s

/-- The last iteration is known: each ITOUT that holds its token sends it at depth 0 (R136, R274). -/
def State.sendOuts (s : State) (c : CtxId) (r : Route) (last : Nat) : State :=
  match (s.ctx? c).bind fun x => x.inst? r with
  | none => s
  | some i =>
    match s.blockOf c i with
    | none => s
    | some p =>
      let held := i.level.outs.filter fun o => o.2.1 == last
      let s1 := s.updInst c r fun j =>
        { j with level := { j.level with last := some last, outs := j.level.outs.filter fun o => o.2.1 != last } }
      held.foldl (fun t o =>
        match p.node o.1 with
        | some (.itout h vk) =>
          let k : Key := ⟨o.1, 0, false⟩
          let send := fun (u : State) (x : Target) => u.emit c r k o.1 vk x o.2.2
          send (send t h.t0) h.t1
        | _ => t) s1

/-! ### What a READ and the draw records take (R123, R322) -/

/-- The instances of a context older than the one in `r` and not yet committing, youngest first. -/
def Ctx.olderThan (x : Ctx) (r : Route) : List Inst :=
  ((x.insts.takeWhile fun i => i.route != r).filter fun i => !i.draining).reverse

/-- A register as a READ in the instance that these older instances precede takes it; none while it must wait (R123,
R224). -/
def State.regBefore (s : State) (x : Ctx) (vec : Bool) (n : Nat) : List Inst → Option TokVal
  | [] =>
    if !vec && x.pending.any fun e => e.1 == n then none
    else some (if vec then .vector (Sparse.get 0 x.regs.v n) else .scalar (if n = 0 then 0 else Sparse.get 0 x.regs.g n))
  | i :: older =>
    match s.blockOf x.id i with
    | none => none
    | some p =>
      let named := if vec then p.vmask.getLsbD n else p.wmask.getLsbD n
      if !named then s.regBefore x vec n older
      else match i.out.regs.find? fun w => w.vec == vec && w.n == n && w.val != .null with
        | some w =>
          (match p.node w.node with
          | some (.caddr _ _ _ _) => none
          | _ => some w.val)
        | none => if i.regCounted p vec n then s.regBefore x vec n older else none

/-- The largest DRW of a block's draw records plus one, 0 where it has none (R322). -/
def Placed.draws (p : Placed) : Nat :=
  p.nodes.foldl (fun a ni => match ni.2 with
    | .rngn _ d | .rngf _ d | .sample _ d => Nat.max a (d.toNat + 1)
    | _ => a) 0

/-- The record of a block that sets the random state. -/
def Placed.rngWriter (p : Placed) : Option Nat :=
  (p.nodes.find? fun ni => match ni.2 with | .rngs _ | .accept _ _ _ => true | _ => false).map fun ni => ni.1

/-- The random state after an instance, given the state before it (R322). -/
def Inst.rngAfter (i : Inst) (p : Placed) (kc : Word × Word) : Word × Word :=
  match i.out.rng with
  | some w => (w.key.getD kc.1, w.counter)
  | none => (kc.1, kc.2 + BitVec.ofNat 64 p.draws)

/-- RNGK and RNGC as the instance that these older instances precede reads them; none while it must wait (R123,
R322). -/
def State.rngBefore (s : State) (x : Ctx) : List Inst → Option (Word × Word)
  | [] => some (x.regs.rngk, x.regs.rngc)
  | i :: older =>
    match s.blockOf x.id i with
    | none => none
    | some p =>
      match p.rngWriter with
      | some n =>
        if !i.hasFired n 0 then none
        else match i.out.rng with
          | some ⟨some k, c⟩ => some (k, c)
          | _ => (s.rngBefore x older).map (i.rngAfter p)
      | none => (s.rngBefore x older).map (i.rngAfter p)

/-- The register that the instance in `r` of context `x` reads. -/
def State.readReg (s : State) (x : Ctx) (r : Route) (n : RegName) : Option TokVal :=
  match n with
  | .g n => s.regBefore x false n.toNat (x.olderThan r)
  | .v n => s.regBefore x true n.toNat (x.olderThan r)

/-- The random state that the instance in `r` of context `x` reads. -/
def State.readRng (s : State) (x : Ctx) (r : Route) : Option (Word × Word) := s.rngBefore x (x.olderThan r)

end Sys2Proof.Machine
end

