-- ==== Sys2Proof/Machine/Flags.lean ====
section
/-! DEFINITION. The flags word (R161), and integer arithmetic with the flags it sets (R156, R157, R280-R288): exact
on integers, narrowed at the end. -/

namespace Sys2Proof.Machine

/-- NX: inexact (R161). -/
def flagNX : Word := 1
/-- UF: tiny and inexact, or a tapered value raised to minpos (R161). -/
def flagUF : Word := 2
/-- OF: overflow (R161). -/
def flagOF : Word := 4
/-- NV: invalid (R161). -/
def flagNV : Word := 8
/-- DZ: divide by zero (R161). -/
def flagDZ : Word := 16
/-- SAT: saturated (R161). -/
def flagSAT : Word := 32

/-- A result: its bits in the low part of a word, and the flags it sets. -/
structure Res where
  val : Word
  flags : Word
  deriving DecidableEq, Repr

/-- A result that sets no flag. -/
def Res.plain (v : Word) : Res := ⟨v, 0⟩

/-! ### Reading and narrowing integers (R156) -/

/-- The value of the low `w` bits of an operand. -/
def readInt (w : Nat) (signed : Bool) (x : Word) : Int :=
  let n := x.toNat % 2 ^ w
  if signed && decide (2 ^ (w - 1) ≤ n) then (n : Int) - 2 ^ w else n

/-- An integer narrowed to `w` bits and extended to 64 by its signedness. -/
def extInt (w : Nat) (signed : Bool) (v : Int) : Word :=
  let n := (v % (2 ^ w : Int)).toNat
  BitVec.ofInt 64 (if signed && decide (2 ^ (w - 1) ≤ n) then (n : Int) - 2 ^ w else n)

end Sys2Proof.Machine

namespace Sys2Proof

/-- An operand read for an integer type. -/
def IntTy.read (t : IntTy) (x : Word) : Int := Machine.readInt t.width t.signed x

end Sys2Proof

namespace Sys2Proof.Machine

end Sys2Proof.Machine

namespace Sys2Proof

/-- A result of an integer type. -/
def IntTy.ext (t : IntTy) (v : Int) : Word := Machine.extInt t.width t.signed v

end Sys2Proof

namespace Sys2Proof.Machine

end Sys2Proof.Machine

namespace Sys2Proof

/-- The least value of an integer type. -/
def IntTy.lo (t : IntTy) : Int := if t.signed then -(2 ^ (t.width - 1) : Int) else 0

end Sys2Proof

namespace Sys2Proof.Machine

end Sys2Proof.Machine

namespace Sys2Proof

/-- The greatest value of an integer type. -/
def IntTy.hi (t : IntTy) : Int := if t.signed then 2 ^ (t.width - 1) - 1 else 2 ^ t.width - 1

end Sys2Proof

namespace Sys2Proof.Machine

/-! ### The arithmetic records (R280) -/

/-- ADD, SUB, MUL: exact, then modulo 2^w. -/
def intArith (f : Int → Int → Int) (t : IntTy) (a b : Word) : Res := .plain (t.ext (f (t.read a) (t.read b)))

/-- MULH: the high half of the exact product. -/
def intMulh (t : IntTy) (a b : Word) : Res :=
  .plain (t.ext ((t.read a * t.read b) / (2 ^ t.width : Int)))

/-- MULW: the exact product as the type twice as wide (R281). -/
def intMulw (t : IntTy) (a b : Word) : Res :=
  .plain (extInt (2 * t.width) t.signed (t.read a * t.read b))

/-- DIV: toward zero; 0 and DZ for a zero divisor (R157). -/
def intDiv (t : IntTy) (a b : Word) : Res :=
  if t.read b = 0 then ⟨0, flagDZ⟩ else .plain (t.ext ((t.read a).tdiv (t.read b)))

/-- REM: the sign of the dividend; the dividend and DZ for a zero divisor (R157). -/
def intRem (t : IntTy) (a b : Word) : Res :=
  if t.read b = 0 then ⟨t.ext (t.read a), flagDZ⟩ else .plain (t.ext ((t.read a).tmod (t.read b)))

/-- MIN. -/
def intMin (t : IntTy) (a b : Word) : Res :=
  .plain (t.ext (if t.read a ≤ t.read b then t.read a else t.read b))

/-- MAX. -/
def intMax (t : IntTy) (a b : Word) : Res :=
  .plain (t.ext (if t.read a ≥ t.read b then t.read a else t.read b))

/-- A value clamped to the range of a type, with SAT when it was outside. -/
def intClamp (t : IntTy) (v : Int) : Res :=
  if v < t.lo then ⟨t.ext t.lo, flagSAT⟩ else if v > t.hi then ⟨t.ext t.hi, flagSAT⟩ else .plain (t.ext v)

/-- ADDS. -/
def intAdds (t : IntTy) (a b : Word) : Res := intClamp t (t.read a + t.read b)

/-- SUBS. -/
def intSubs (t : IntTy) (a b : Word) : Res := intClamp t (t.read a - t.read b)

/-! ### Shifts, counts, fields (R284-R287) -/

/-- SHL. -/
def intShl (t : IntTy) (a b : Word) : Res :=
  let n := b.toNat % t.width
  .plain (t.ext ((a.toNat % 2 ^ t.width) * 2 ^ n : Nat))

/-- SHR: zeros from the left. -/
def intShr (t : IntTy) (a b : Word) : Res :=
  let n := b.toNat % t.width
  .plain (t.ext ((a.toNat % 2 ^ t.width) / 2 ^ n : Nat))

/-- SAR: copies of bit w - 1 from the left, whatever the signedness. -/
def intSar (t : IntTy) (a b : Word) : Res :=
  let n := b.toNat % t.width
  .plain (t.ext (readInt t.width true a / (2 ^ n : Int)))

/-- ROL. -/
def intRol (t : IntTy) (a b : Word) : Res :=
  let w := t.width
  let n := b.toNat % w
  let v := a.toNat % 2 ^ w
  .plain (t.ext ((v * 2 ^ n % 2 ^ w + v / 2 ^ (w - n)) : Nat))

/-- ROR. -/
def intRor (t : IntTy) (a b : Word) : Res :=
  let w := t.width
  let n := b.toNat % w
  let v := a.toNat % 2 ^ w
  .plain (t.ext ((v / 2 ^ n + v * 2 ^ (w - n) % 2 ^ w) : Nat))

/-- Leading zeros among the low `w` bits. -/
def clzAt : Nat → Nat → Nat
  | 0, _ => 0
  | w + 1, x => if x.testBit w then 0 else 1 + clzAt w x

/-- Trailing zeros among the low `w` bits. -/
def ctzAt : Nat → Nat → Nat
  | 0, _ => 0
  | w + 1, x => if x % 2 = 1 then 0 else 1 + ctzAt w (x / 2)

/-- Ones among the low `w` bits. -/
def popAt : Nat → Nat → Nat
  | 0, _ => 0
  | w + 1, x => x % 2 + popAt w (x / 2)

/-- BFX: the field of `len` bits at `pos`, zero- or sign-extended (R286). -/
def bitField (pos len : Nat) (sx : Bool) (x : Word) : Word := extInt len sx ((x.toNat / 2 ^ pos : Nat) : Int)

/-- BFI: the field of `len` bits at `pos` replaced by the low bits of `y` (R286). -/
def bitInsert (pos len : Nat) (x y : Word) : Word :=
  let mask : Word := BitVec.ofNat 64 ((2 ^ len - 1) * 2 ^ pos)
  (x &&& ~~~mask) ||| ((y <<< pos) &&& mask)

/-! ### Conditions (R288) -/

end Sys2Proof.Machine

namespace Sys2Proof

/-- A TST condition on 64-bit values. -/
def Cond.holds (c : Cond) (a b : Word) : Bool :=
  match c with
  | .eq => a == b
  | .ne => a != b
  | .lt => a.slt b
  | .le => a.sle b
  | .gt => b.slt a
  | .ge => b.sle a
  | .ltn => a.ult b
  | .len => a.ule b
  | .gtn => b.ult a
  | .gen => b.ule a

end Sys2Proof

namespace Sys2Proof.Machine

/-- 1 or 0 as N64. -/
def boolWord (b : Bool) : Word := if b then 1 else 0

end Sys2Proof.Machine
end

