-- ==== Sys2Proof/Machine/Fp.lean ====
section
/-! DEFINITION. IEEE binary arithmetic (R158-R161, R291-R299): a value is decoded exactly, the operation is exact, and
one rounding gives the pattern and the flags. EXP2 and LOG2 bound the irrational result until both bounds round
alike. -/

namespace Sys2Proof.Machine

/-- An IEEE format: exponent and fraction bits (R158). -/
structure FpFmt where
  eb : Nat
  fb : Nat
  deriving DecidableEq, Repr

/-- The formats of R158. -/
def fmtOf : FpTy → FpFmt
  | .f16 => ⟨5, 10⟩
  | .b16 => ⟨8, 7⟩
  | .f32 => ⟨8, 23⟩
  | .f64 => ⟨11, 52⟩

/-- The exponent bias. -/
def FpFmt.bias (f : FpFmt) : Nat := 2 ^ (f.eb - 1) - 1
/-- The width in bits. -/
def FpFmt.width (f : FpFmt) : Nat := 1 + f.eb + f.fb
/-- The least exponent of a unit in the last place. -/
def FpFmt.qmin (f : FpFmt) : Int := 1 - (f.bias : Int) - f.fb

/-- A decoded value: NaN, signalling or not; an infinity; or m times 2 to the e, zero when m is 0. -/
inductive FpVal where
  | nan (sig : Bool)
  | inf (neg : Bool)
  | fin (neg : Bool) (m : Nat) (e : Int)
  deriving DecidableEq, Repr

/-- The pattern of a sign, exponent field and fraction. -/
def FpFmt.pack (f : FpFmt) (neg : Bool) (ex fr : Nat) : Word :=
  BitVec.ofNat 64 ((if neg then 2 ^ (f.eb + f.fb) else 0) + ex * 2 ^ f.fb + fr)

/-- The canonical quiet NaN (R158). -/
def FpFmt.qnan (f : FpFmt) : Word := f.pack false (2 ^ f.eb - 1) (2 ^ (f.fb - 1))
/-- An infinity. -/
def FpFmt.infinity (f : FpFmt) (neg : Bool) : Word := f.pack neg (2 ^ f.eb - 1) 0
/-- A zero. -/
def FpFmt.zero (f : FpFmt) (neg : Bool) : Word := f.pack neg 0 0
/-- The largest finite value. -/
def FpFmt.maxFinite (f : FpFmt) (neg : Bool) : Word := f.pack neg (2 ^ f.eb - 2) (2 ^ f.fb - 1)

/-- Decoding of the low bits of a word; subnormals are kept (R159). -/
def FpFmt.decode (f : FpFmt) (w : Word) : FpVal :=
  let n := w.toNat
  let fr := n % 2 ^ f.fb
  let ex := n / 2 ^ f.fb % 2 ^ f.eb
  let neg := n.testBit (f.eb + f.fb)
  if ex = 2 ^ f.eb - 1 then
    if fr = 0 then .inf neg else .nan (!fr.testBit (f.fb - 1))
  else if ex = 0 then .fin neg fr f.qmin
  else .fin neg (2 ^ f.fb + fr) (f.qmin + ex - 1)

/-- Whether a value is NaN. -/
def FpVal.isNan : FpVal → Bool
  | .nan _ => true
  | _ => false

/-- Whether a value is a signalling NaN. -/
def FpVal.isSnan : FpVal → Bool
  | .nan s => s
  | _ => false

/-- NV for signalling NaN operands (R159). -/
def nvOf (vs : List FpVal) : Word := if vs.any FpVal.isSnan then flagNV else 0

/-- The sign of a value. -/
def FpVal.neg : FpVal → Bool
  | .nan _ => false
  | .inf s => s
  | .fin s _ _ => s

/-- The number of bits of `m`, 0 for 0. -/
def bitLen (m : Nat) : Nat := if m = 0 then 0 else Nat.log2 m + 1

/-! ### Rounding (R160) -/

/-- `m` times 2 to the `e`, plus less than one unit where `sticky`, in units of 2 to the `q`: the floor, whether the rest is
above one half, exactly one half, and nonzero. -/
def splitAt (m : Nat) (e q : Int) (sticky : Bool) : Nat × Bool × Bool × Bool :=
  if q ≤ e then (m * 2 ^ (e - q).toNat, false, false, sticky)
  else
    let sh := (q - e).toNat
    let rem := m % 2 ^ sh
    let half := 2 ^ (sh - 1)
    (m / 2 ^ sh, decide (rem > half) || (rem == half && sticky), rem == half && !sticky, rem != 0 || sticky)

/-- Whether a rounding mode takes the value above the floor (R160). -/
def Rm_up (rm : Rm) (neg odd above half inexact : Bool) : Bool :=
  match rm with
  | .rne => above || (half && odd)
  | .rz => false
  | .ru => inexact && !neg
  | .rd => inexact && neg
  | .rna => above || half

/-- One rounding of (-1)^neg times (m + [sticky]) times 2^e into a format, with NX, UF (tininess after rounding) and OF
(R160, R161). `m` is nonzero, or the value is exactly zero. -/
def roundTo (f : FpFmt) (rm : Rm) (neg : Bool) (m : Nat) (e : Int) (sticky : Bool) : Res :=
  if m = 0 ∧ sticky = false then .plain (f.zero neg)
  else
    let E := e + bitLen m - 1
    let emin : Int := 1 - (f.bias : Int)
    let q := max (E - f.fb) f.qmin
    let (n, above, half, inexact) := splitAt m e q sticky
    let n1 := if Rm_up rm neg (n % 2 == 1) above half inexact then n + 1 else n
    let (nu, aboveU, halfU, inexactU) := splitAt m e (E - f.fb) sticky
    let nu1 := if Rm_up rm neg (nu % 2 == 1) aboveU halfU inexactU then nu + 1 else nu
    let tiny := decide (E < emin) && !(E == emin - 1 && nu1 == 2 ^ (f.fb + 1))
    let nx : Word := if inexact then flagNX else 0
    let uf : Word := if tiny && inexact then flagUF else 0
    let (n2, q2) := if n1 = 2 ^ (f.fb + 1) then (2 ^ f.fb, q + 1) else (n1, q)
    if n2 < 2 ^ f.fb then ⟨f.pack neg 0 n2, nx ||| uf⟩
    else
      let ex := q2 - f.qmin + 1
      if ex ≥ 2 ^ f.eb - 1 then
        let toInf := match rm with
          | .rne | .rna => true
          | .rz => false
          | .ru => !neg
          | .rd => neg
        ⟨if toInf then f.infinity neg else f.maxFinite neg, flagOF ||| flagNX⟩
      else ⟨f.pack neg ex.toNat (n2 - 2 ^ f.fb), nx ||| uf⟩

/-- An exact signed dyadic value rounded; an exact zero is +0, or -0 under RD (R292). -/
def roundInt (f : FpFmt) (rm : Rm) (v e : Int) : Res :=
  if v = 0 then .plain (f.zero (rm == .rd)) else roundTo f rm (v < 0) v.natAbs e false

/-- A NaN result with NV. -/
def invalid (f : FpFmt) : Res := ⟨f.qnan, flagNV⟩

/-! ### Arithmetic (R291, R292) -/

/-- The signed integer of a finite value at exponent `e0`. -/
def scaled (neg : Bool) (m : Nat) (e e0 : Int) : Int :=
  let v : Int := (m * 2 ^ (e - e0).toNat : Nat)
  if neg then -v else v

/-- The sum of two finite values as an exact integer and exponent. -/
def exactAdd (n1 : Bool) (m1 : Nat) (e1 : Int) (n2 : Bool) (m2 : Nat) (e2 : Int) : Int × Int :=
  let e0 := min e1 e2
  (scaled n1 m1 e1 e0 + scaled n2 m2 e2 e0, e0)

/-- FADD of decoded values. -/
def addVal (f : FpFmt) (rm : Rm) (a b : FpVal) : Res :=
  match a, b with
  | .nan _, _ | _, .nan _ => ⟨f.qnan, nvOf [a, b]⟩
  | .inf s, .inf t => if s = t then .plain (f.infinity s) else invalid f
  | .inf s, _ => .plain (f.infinity s)
  | _, .inf t => .plain (f.infinity t)
  | .fin s m e, .fin t n g =>
    if m = 0 ∧ n = 0 then .plain (f.zero (if s = t then s else rm == .rd))
    else
      let (v, e0) := exactAdd s m e t n g
      roundInt f rm v e0

/-- The value with its sign changed. -/
def FpVal.flip : FpVal → FpVal
  | .nan s => .nan s
  | .inf s => .inf (!s)
  | .fin s m e => .fin (!s) m e

/-- FMUL of decoded values. -/
def mulVal (f : FpFmt) (rm : Rm) (a b : FpVal) : Res :=
  match a, b with
  | .nan _, _ | _, .nan _ => ⟨f.qnan, nvOf [a, b]⟩
  | .inf s, .inf t => .plain (f.infinity (s != t))
  | .inf s, .fin t n _ => if n = 0 then invalid f else .plain (f.infinity (s != t))
  | .fin s m _, .inf t => if m = 0 then invalid f else .plain (f.infinity (s != t))
  | .fin s m e, .fin t n g => roundTo f rm (s != t) (m * n) (e + g) false

/-- FDIV of decoded values. -/
def divVal (f : FpFmt) (rm : Rm) (a b : FpVal) : Res :=
  match a, b with
  | .nan _, _ | _, .nan _ => ⟨f.qnan, nvOf [a, b]⟩
  | .inf _, .inf _ => invalid f
  | .inf s, .fin t _ _ => .plain (f.infinity (s != t))
  | .fin s _ _, .inf t => .plain (f.zero (s != t))
  | .fin s m e, .fin t n g =>
    if n = 0 then
      if m = 0 then invalid f else ⟨f.infinity (s != t), flagDZ⟩
    else
      let k := f.fb + 4 + bitLen n
      roundTo f rm (s != t) (m * 2 ^ k / n) (e - g - k) (m * 2 ^ k % n != 0)

/-- The integer square root, `n` binary digits of it, from the highest. -/
def isqrtFrom (x : Nat) : Nat → Nat → Nat
  | 0, r => r
  | n + 1, r => let c := r + 2 ^ n; isqrtFrom x n (if c * c ≤ x then c else r)

/-- The integer square root. -/
def isqrt (x : Nat) : Nat := isqrtFrom x (bitLen x / 2 + 1) 0

/-- FSQRT of a decoded value. -/
def sqrtVal (f : FpFmt) (rm : Rm) (a : FpVal) : Res :=
  match a with
  | .nan _ => ⟨f.qnan, nvOf [a]⟩
  | .inf s => if s then invalid f else .plain (f.infinity false)
  | .fin s m e =>
    if m = 0 then .plain (f.zero s)
    else if s then invalid f
    else
      let (m1, e1) := if e % 2 = 0 then (m, e) else (2 * m, e - 1)
      let k := f.fb + 4
      let x := m1 * 2 ^ (2 * k)
      let r := isqrt x
      roundTo f rm false r (e1 / 2 - k) (r * r != x)

/-- FMA: a times b plus x with one rounding (R292). -/
def fmaVal (f : FpFmt) (rm : Rm) (a b x : FpVal) : Res :=
  let zeroInf : Bool := match a, b with
    | .inf _, .fin _ n _ => n == 0
    | .fin _ m _, .inf _ => m == 0
    | _, _ => false
  if zeroInf then invalid f
  else match a, b, x with
    | .nan _, _, _ | _, .nan _, _ | _, _, .nan _ => ⟨f.qnan, nvOf [a, b, x]⟩
    | .fin s m e, .fin t n g, .fin u k h =>
      let p := s != t
      if m * n = 0 ∧ k = 0 then .plain (f.zero (if p = u then p else rm == .rd))
      else
        let (v, e0) := exactAdd p (m * n) (e + g) u k h
        roundInt f rm v e0
    | .fin _ _ _, .fin _ _ _, .inf u => .plain (f.infinity u)
    | _, _, .inf u => if (a.neg != b.neg) = u then .plain (f.infinity u) else invalid f
    | _, _, _ => .plain (f.infinity (a.neg != b.neg))

/-! ### Comparisons (R293, R295) -/

/-- The order of two values that are not NaN, -0 and +0 alike. -/
def fpCmp (a b : FpVal) : Ordering :=
  match a, b with
  | .inf s, .inf t => if s = t then .eq else if s then .lt else .gt
  | .inf s, _ => if s then .lt else .gt
  | _, .inf t => if t then .gt else .lt
  | .fin s m e, .fin t n g =>
    let e0 := min e g
    compare (scaled s m e e0) (scaled t n g e0)
  | _, _ => .eq

/-- Strictly below, with -0 below +0. -/
def fpBelow (a b : FpVal) : Bool :=
  match fpCmp a b with
  | .lt => true
  | .gt => false
  | .eq => a.neg && !b.neg

/-- FMIN and FMAX on patterns (R293). -/
def fpMinMax (f : FpFmt) (isMax : Bool) (x y : Word) : Res :=
  let a := f.decode x
  let b := f.decode y
  let r := if a.isNan then (if b.isNan then f.qnan else y)
    else if b.isNan then x
    else if isMax then (if fpBelow a b then y else x)
    else (if fpBelow b a then y else x)
  ⟨r.extractLsb' 0 64 &&& BitVec.ofNat 64 (2 ^ f.width - 1), nvOf [a, b]⟩

/-- FTST (R295). -/
def fpTest (f : FpFmt) (c : FCond) (x y : Word) : Res :=
  let a := f.decode x
  let b := f.decode y
  let un := a.isNan || b.isNan
  let o := fpCmp a b
  let holds := match c with
    | .eq => !un && o == .eq
    | .ne => un || o != .eq
    | .lt => !un && o == .lt
    | .le => !un && o != .gt
    | .gt => !un && o == .gt
    | .ge => !un && o != .lt
    | .un => un
    | .or => !un
  let ordered := match c with
    | .lt | .le | .gt | .ge => true
    | _ => false
  ⟨boolWord holds, if ordered && un then flagNV else nvOf [a, b]⟩

/-- The low bits of a pattern of a format. -/
def FpFmt.low (f : FpFmt) (x : Word) : Word := x &&& BitVec.ofNat 64 (2 ^ f.width - 1)

/-- FABS, FNEG and FCPYS (R294): `sign` gives the new sign bit. -/
def fpSign (f : FpFmt) (sign : Bool → Bool) (x : Word) : Res :=
  let a := f.decode x
  if a.isNan then ⟨f.qnan, nvOf [a]⟩
  else
    let s := x.toNat.testBit (f.eb + f.fb)
    .plain (BitVec.ofNat 64 ((x.toNat % 2 ^ (f.eb + f.fb)) + (if sign s then 2 ^ (f.eb + f.fb) else 0)))

/-- FCLS (R298). -/
def fpClass (f : FpFmt) (x : Word) : Word :=
  match f.decode x with
  | .nan s => if s then 0x100 else 0x200
  | .inf s => if s then 0x001 else 0x080
  | .fin s m _ =>
    if m = 0 then (if s then 0x008 else 0x010)
    else if m < 2 ^ f.fb then (if s then 0x004 else 0x020)
    else (if s then 0x002 else 0x040)

/-! ### Integral values and conversions (R160, R296, R297) -/

/-- A finite value rounded to an integer, and whether it changed. -/
def toIntegral (rm : Rm) (neg : Bool) (m : Nat) (e : Int) : Int × Bool :=
  let (n, above, half, inexact) := splitAt m e 0 false
  let n1 : Int := (if Rm_up rm neg (n % 2 == 1) above half inexact then n + 1 else n : Nat)
  (if neg then -n1 else n1, inexact)

/-- FRND (R297). -/
def fpRound (f : FpFmt) (rm : Rm) (x : Word) : Res :=
  match f.decode x with
  | .nan s => ⟨f.qnan, if s then flagNV else 0⟩
  | .inf s => .plain (f.infinity s)
  | .fin s m e =>
    if e ≥ 0 ∨ m = 0 then .plain (f.low x)
    else
      let (v, changed) := toIntegral rm s m e
      ⟨(roundTo f .rne s v.natAbs 0 false).val, if changed then flagNX else 0⟩

/-- A decoded value converted to an IEEE format (R296). -/
def toFp (f : FpFmt) (rm : Rm) (v : FpVal) : Res :=
  match v with
  | .nan s => ⟨f.qnan, if s then flagNV else 0⟩
  | .inf s => .plain (f.infinity s)
  | .fin s m e => roundTo f rm s m e false

/-- A decoded value converted to an integer type (R160): out of range saturates with NV, NaN sends 0 with NV. A value
beyond 2^70 needs no rounding to be out of range. -/
def toIntTy (t : IntTy) (rm : Rm) (v : FpVal) : Res :=
  match v with
  | .nan _ => ⟨0, flagNV⟩
  | .inf s => ⟨t.ext (if s then t.lo else t.hi), flagNV⟩
  | .fin s m e =>
    if m ≠ 0 ∧ e + bitLen m > 70 then ⟨t.ext (if s then t.lo else t.hi), flagNV⟩
    else
      let (n, inexact) := toIntegral rm s m e
      if n < t.lo then ⟨t.ext t.lo, flagNV⟩
      else if n > t.hi then ⟨t.ext t.hi, flagNV⟩
      else ⟨t.ext n, if inexact then flagNX else 0⟩

/-! ### EXP2, LOG2 and RSQ (R299) -/

/-- RSQ of a decoded value: the floor of 2^k / sqrt(m), exactly, and whether it is exact. -/
def rsqVal (f : FpFmt) (rm : Rm) (a : FpVal) : Res :=
  match a with
  | .nan _ => ⟨f.qnan, nvOf [a]⟩
  | .inf s => if s then invalid f else .plain (f.zero false)
  | .fin s m e =>
    if m = 0 then ⟨f.infinity s, flagDZ⟩
    else if s then invalid f
    else
      let (m1, e1) := if e % 2 = 0 then (m, e) else (2 * m, e - 1)
      let k := f.fb + 4 + bitLen m1
      let r := isqrt (2 ^ (2 * k) / m1)
      roundTo f rm false r (-(e1 / 2) - k) (r * r * m1 != 2 ^ (2 * k))

/-- The terms of a sum of `x^k / k!` in units of 2^-q, `n` of them from `t`, the term of number `k`. -/
def expSum (q x : Nat) : Nat → Nat → Nat → Nat
  | 0, _, _ => 0
  | n + 1, k, t => t + expSum q x n (k + 1) (t * x / 2 ^ q / (k + 1))

/-- The terms of the series of atanh: `y^(2k+1) / (2k+1)`, `y2` the square of `y`, in units of 2^-q. -/
def atanhSum (q y2 : Nat) : Nat → Nat → Nat → Nat
  | 0, _, _ => 0
  | n + 1, k, p => p / (2 * k + 1) + atanhSum q y2 n (k + 1) (p * y2 / 2 ^ q)

/-- The natural logarithm of num/den, between 1 and 2, in units of 2^-q. -/
def lnAt (q num den : Nat) : Nat :=
  let y := (num - den) * 2 ^ q / (num + den)
  2 * atanhSum q (y * y / 2 ^ q) (q / 3 + 2) 0 y

/-- ln 2 in units of 2^-q. -/
def ln2At (q : Nat) : Nat := lnAt q 2 1

/-- The error bound of the series above, in their units: every step is a floor, and fewer than 2^(20) units are lost
where q is below 2^14. -/
def slop : Nat := 2 ^ 20

/-- Both bounds of a positive value rounded: the common result where they agree. -/
def agree (f : FpFmt) (rm : Rm) (neg : Bool) (lo hi : Nat) (e : Int) : Option Res :=
  let a := roundTo f rm neg lo e true
  let b := roundTo f rm neg hi e true
  if a = b then some a else none

/-- Bounds at growing precision until they round alike; the last bounds' lower result otherwise. -/
def refine (f : FpFmt) (rm : Rm) (neg : Bool) (bounds : Nat → Nat × Nat × Int) : Nat → Nat → Res
  | 0, q => let (lo, _, e) := bounds q; roundTo f rm neg lo e true
  | n + 1, q =>
    let (lo, hi, e) := bounds q
    match agree f rm neg lo hi e with
    | some r => r
    | none => refine f rm neg bounds n (2 * q)

/-- EXP2 of a decoded value. -/
def exp2Val (f : FpFmt) (rm : Rm) (a : FpVal) : Res :=
  match a with
  | .nan _ => ⟨f.qnan, nvOf [a]⟩
  | .inf s => if s then .plain (f.zero false) else .plain (f.infinity false)
  | .fin s m e =>
    let lim : Int := 2 ^ f.eb + 200
    if m = 0 then roundTo f rm false 1 0 false
    else if e + bitLen m > f.eb + 3 then
      roundTo f rm false 1 (if s then -lim else lim) false
    else if e ≥ 0 then roundTo f rm false 1 (scaled s m e 0) false
    else
      let sh := (-e).toNat
      let v : Int := if s then -(m : Int) else m
      let n := v / (2 ^ sh : Int)
      let fr := (v % (2 ^ sh : Int)).toNat
      if fr = 0 then roundTo f rm false 1 n false
      else if e + bitLen m < -200 then
        -- |a| is far below one unit of any format: 1 plus or minus a little
        if s then roundTo f rm false (2 ^ 300 - 1) (-300) true else roundTo f rm false (2 ^ 300) (-300) true
      else
        refine f rm false (fun q =>
          let x := (fr * 2 ^ q / 2 ^ sh) * ln2At q / 2 ^ q
          let y := expSum q x (q / 2 + 4) 0 (2 ^ q)
          (y - slop, y + slop, n - q)) 5 400

/-- LOG2 of a decoded value. -/
def log2Val (f : FpFmt) (rm : Rm) (a : FpVal) : Res :=
  match a with
  | .nan _ => ⟨f.qnan, nvOf [a]⟩
  | .inf s => if s then invalid f else .plain (f.infinity false)
  | .fin s m e =>
    if m = 0 then ⟨f.infinity true, flagDZ⟩
    else if s then invalid f
    else
      let L := bitLen m
      let E := e + L - 1
      if m = 2 ^ (L - 1) then
        if E = 0 then .plain (f.zero false) else roundTo f rm (E < 0) E.natAbs 0 false
      else
        let neg := decide (E < 0)
        refine f rm neg (fun q =>
          let fr := lnAt q m (2 ^ (L - 1)) * 2 ^ q / ln2At q
          let v := if neg then E.natAbs * 2 ^ q - fr else E.natAbs * 2 ^ q + fr
          (v - slop, v + slop, -(q : Int))) 5 400

end Sys2Proof.Machine
end

