-- ==== Sys2Proof/Machine/Tapered.lean ====
section
/-! DEFINITION. Tapered formats (R162-R164), BS20 block scales (R165, R166), and the scalar conversions between any two
types (R296), which the vector and copy conversions share. -/

namespace Sys2Proof.Machine

/-- The length of the run of bits equal to `b`, from bit `i - 1` downward. -/
def runLen (p : Nat) (b : Bool) : Nat → Nat
  | 0 => 0
  | i + 1 => if p.testBit i == b then 1 + runLen p b i else 0

/-- A tapered pattern decoded: NaR as a quiet NaN (R162, R163). -/
def TapTy_decode (t : TapTy) (x : Word) : FpVal :=
  let w := match t with | .t8 => 8 | .t6 => 6
  let p := x.toNat % 2 ^ w
  if p = 0 then .fin false 0 0
  else if p = 2 ^ (w - 1) then .nan false
  else
    let s := p.testBit (w - 1)
    let m := if s then 2 ^ w - p else p
    let n := w - 1                              -- bits below the sign
    let one := m.testBit (n - 1)
    let r := runLen m one n
    let k : Int := if one then (r : Int) - 1 else -(r : Int)
    let rest := n - r - 1                       -- bits below the terminating bit
    match t with
    | .t6 => .fin s (2 ^ rest + m % 2 ^ rest) (k - rest)
    | .t8 =>
      if rest = 0 then .fin s 1 (2 * k)
      else
        let e : Int := if m.testBit (rest - 1) then 1 else 0
        let fb := rest - 1
        .fin s (2 ^ fb + m % 2 ^ fb) (2 * k + e - fb)

/-- The value of a positive tapered pattern times 2 to the 12, an integer. -/
def tapScaled (t : TapTy) (p : Nat) : Nat :=
  match TapTy_decode t (BitVec.ofNat 64 p) with
  | .fin _ m e => (m * 2 ^ (e + 12).toNat)
  | _ => 0

/-- The greatest positive pattern at most `n` whose value is at most num/den. -/
def tapFloor (t : TapTy) (num den : Nat) : Nat → Nat
  | 0 => 0
  | n + 1 => if tapScaled t (n + 1) * den ≤ num * 4096 then n + 1 else tapFloor t num den n

/-- The largest positive pattern, maxpos, 0x7F or 0x1F. -/
def tapMax : TapTy → Nat
  | .t8 => 127
  | .t6 => 31

/-- NaR. -/
def tapNar : TapTy → Word
  | .t8 => 0x80
  | .t6 => 0x20

/-- The width of a tapered pattern. -/
def tapWidth : TapTy → Nat
  | .t8 => 8
  | .t6 => 6

/-- R164 for the nonzero magnitude num/den. -/
def tapRound (t : TapTy) (neg : Bool) (num den : Nat) : Res :=
  let M := tapMax t
  let v := fun p => tapScaled t p * den          -- against num * 4096
  let a := num * 4096
  let (m, fl) :=
    if v M ≤ a then (M, if v M < a then flagSAT else 0)
    else if a ≤ v 1 then (1, if a < v 1 then flagUF else 0)
    else
      let p := tapFloor t num den M
      let lo := a - v p
      let hi := v (p + 1) - a
      ((if lo < hi then p else if hi < lo then p + 1 else if p % 2 = 0 then p else p + 1), 0)
  let nx : Word := if v m = a then 0 else flagNX
  ⟨BitVec.ofNat 64 (if neg then 2 ^ tapWidth t - m else m), fl ||| nx⟩

/-- R164 for a decoded value divided by den times 2^sh; 1 and 0 for the value itself. A signalling NaN sets NV
(R159). -/
def toTapered (t : TapTy) (v : FpVal) (den : Nat) (sh : Int) : Res :=
  match v with
  | .nan sig => ⟨tapNar t, if sig then flagNV else 0⟩
  | .inf s => ⟨BitVec.ofNat 64 (if s then 2 ^ tapWidth t - tapMax t else tapMax t), flagSAT ||| flagNX⟩
  | .fin s m e =>
    if m = 0 then .plain 0
    else
      let x := e - sh
      tapRound t s (m * 2 ^ x.toNat) (den * 2 ^ (-x).toNat)

/-! ### BS20 scales (R165, R166) -/

/-- E of a scale. -/
def bsExp (s : BitVec 20) : Nat := bits s 12 8

/-- The mantissa of a scale, 4096 + F. -/
def bsMant (s : BitVec 20) : Nat := 4096 + bits s 0 12

/-- The exponent that goes with the mantissa: E - 127 - 12. -/
def bsE (s : BitVec 20) : Int := (bsExp s : Int) - 139

/-- maxpos of a tapered type as a power of two: 4096 or 16. -/
def maxposLog : TapTy → Nat
  | .t8 => 12
  | .t6 => 4

/-- R166: the least BS20 value at or above amax / maxpos. -/
def bs20For (amax : FpVal) (t : TapTy) : BitVec 20 :=
  match amax with
  | .nan _ | .inf _ => 0xFF000
  | .fin _ m e =>
    if m = 0 then 0
    else
      let g := e - maxposLog t                   -- t = m * 2^g
      let lg := g + bitLen m - 1                 -- floor(log2 t)
      if lg < -126 ∨ (lg = -126 ∧ m = 2 ^ (bitLen m - 1)) then 0x01000
      else
        -- t / 2^lg = m / 2^(L-1); F is the ceiling of its fraction times 4096
        let d := 2 ^ (bitLen m - 1)
        let fr := (m - d) * 4096
        let F := (fr + d - 1) / d
        let E := lg + 127
        if F = 4096 then BitVec.ofInt 20 ((E + 1) * 4096) else BitVec.ofInt 20 (E * 4096 + F)

/-- An element decoded with a scale: NaN for NaN, NaR or a NaN block, +0.0 for a zero block, otherwise one rounding of the
product (R170, R318). -/
def scaleF32 (v : FpVal) (s : BitVec 20) : Res :=
  let f := fmtOf .f32
  match v with
  | .nan sig => ⟨f.qnan, if sig then flagNV else 0⟩
  | _ =>
    if bsExp s = 255 then .plain f.qnan
    else if bsExp s = 0 then .plain (f.zero false)
    else match v with
      | .fin neg m e => roundTo f .rne neg (m * bsMant s) (e + bsE s) false
      | .inf neg => .plain (f.infinity neg)
      | .nan _ => .plain f.qnan

/-! ### Conversions between any two types (R296) -/

/-- The bits of an operand read as a type, decoded: integers are exact values. -/
def decodeTy (t : Ty) (x : Word) : FpVal :=
  match t with
  | .int it => let v := it.read x; .fin (v < 0) v.natAbs 0
  | .fp ft => (fmtOf ft).decode x
  | .tap tt => TapTy_decode tt x

/-- FCVT from `s` to `d` (R296). -/
def convert (d s : Ty) (rm : Rm) (x : Word) : Res :=
  match d, s with
  | .int dt, .int st => intClamp dt (st.read x)
  | .int dt, _ => toIntTy dt rm (decodeTy s x)
  | .fp ft, _ => toFp (fmtOf ft) rm (decodeTy s x)
  | .tap tt, _ => toTapered tt (decodeTy s x) 1 0

end Sys2Proof.Machine
end

