-- ==== Sys2Proof/Machine/Operands.lean ====
section
/-! DEFINITION. Every operand form: tokens on ports, immediates (R64), channel decoding at operand fetch (R170), vector
lanes (R301), and the address of a memory record (R332). -/

namespace Sys2Proof.Machine

/-! ### Immediates (R64, R265) -/

/-- An FP32 pattern converted exactly to F64; a NaN keeps its payload and its quiet bit. -/
def f32ToF64 (x : Word) : Word :=
  let f := fmtOf .f32
  match f.decode x with
  | .nan _ => (fmtOf .f64).pack (x.toNat.testBit 31) 2047 (x.toNat % 2 ^ 23 * 2 ^ 29)
  | v => (toFp (fmtOf .f64) .rne v).val

/-- An immediate read for a type. -/
def immWord (t : Ty) (v : Lit) : Word :=
  match t with
  | .int _ => v.signExtend 64
  | .fp .f64 => f32ToF64 (v.setWidth 64)
  | _ => v.setWidth 64

/-- An immediate as a 64-bit value: LIT sign-extended. -/
def immSigned (v : Lit) : Word := v.signExtend 64

/-! ### Channel decoding (R168, R170) -/

/-- FMT of a channel entry as a type. -/
def chanFmt (e : BitVec 16) : Option Ty := Ty.ofCode (e.extractLsb' 5 5)

/-- One element of a token bound to a channel becomes an F32 operand. -/
def chanElem (b : Binding) (x : Word) : Res :=
  let q := bits b.entry 11 2
  let v := match chanFmt b.entry with
    | some t => decodeTy t x
    | none => .nan false
  if b.entry.getLsbD 10 then scaleF32 v (b.sreg.extractLsb' (20 * q) 20)
  else toFp (fmtOf .f32) .rne v

/-- The width of the elements a channel entry names, 8 for T6 lanes. -/
def chanLane (e : BitVec 16) : Nat :=
  match chanFmt e with
  | some t => t.lane
  | none => 32

/-- A scalar operand of a record of type `t` (R259): raw bits, or the decoded element where the type is F32 and the token
carries a bound channel. -/
def scalarOp (t : Ty) (k : Tok) : Res :=
  match t, k.chan.toNat, k.bind with
  | .fp .f32, _ + 1, some b => chanElem b k.word
  | _, _, _ => .plain k.word

/-! ### Lanes (R301) -/

/-- Lane `i` of width `w`. -/
def lane (w : Nat) (v : Vec) (i : Nat) : Word := (v.extractLsb' (w * i) w).setWidth 64

/-- The lanes of width `w`, lane 0 first. -/
def lanesOf (w : Nat) (v : Vec) : List Word := (List.range (1024 / w)).map (lane w v)

/-- The number whose lanes of width `w` are given, lane 0 first. -/
def packLanes (w : Nat) : List Word → Nat
  | [] => 0
  | x :: xs => x.toNat % 2 ^ w + 2 ^ w * packLanes w xs

/-- The vector whose lanes of width `w` are given; lanes not given are zero. -/
def ofLanes (w : Nat) (ls : List Word) : Vec := BitVec.ofNat 1024 (packLanes w ls)

/-- A T6 lane is written with bits 7:6 zero (R163). -/
def laneBits (t : Ty) (x : Word) : Word :=
  match t with
  | .tap .t6 => x &&& 0x3F
  | _ => x

/-- Results of lanes: their values and the OR of their flags (R303). -/
def orFlags (rs : List Res) : Word := rs.foldl (fun a r => a ||| r.flags) 0

/-- A vector operand of a record of lane type `t`: raw lanes, or the 32 lanes that the bound channel decodes where the type
is F32 (R170, R303). -/
def vectorOp (t : Ty) (k : Tok) : List Res :=
  match t, k.chan.toNat, k.bind with
  | .fp .f32, _ + 1, some b =>
    let q := bits b.entry 11 2
    let w := chanLane b.entry
    (List.range 32).map fun i => chanElem b (lane w k.vec (32 * q + i))
  | _, _, _ => (lanesOf t.lane k.vec).map Res.plain

/-! ### The latch's operands -/

/-- Port L. -/
def Latch.opL (a : Latch) : Tok := a.l.getD (nullTok 0)
/-- Port R. -/
def Latch.opR (a : Latch) : Tok := a.r.getD (nullTok 0)
/-- Port X. -/
def Latch.opX (a : Latch) : Tok := a.x.getD (nullTok 0)

/-- The tokens on the ports the record has. -/
def Latch.toks (a : Latch) : List Tok := a.l.toList ++ a.r.toList ++ a.x.toList ++ a.p.toList

/-- The predicate does not match, or is null (R55). -/
def Latch.predFails (a : Latch) (pr : Pred) : Bool :=
  match pr with
  | .always => false
  | .onTrue => match a.p with | some t => t.isNull || t.word == 0 | none => true
  | .onFalse => match a.p with | some t => t.isNull || t.word != 0 | none => true

/-- The record fires null: its predicate does not match, or a port holds a null (R55, R125). -/
def Latch.firesNull (a : Latch) (pr : Pred) : Bool :=
  a.predFails pr || (a.l.toList ++ a.r.toList ++ a.x.toList).any Tok.isNull

/-- A poisoned operand (R380). -/
def Latch.poisoned (a : Latch) : Bool := a.toks.any fun t => t.poison

/-- The second scalar operand of a record of type `t`: port R, or the immediate. -/
def Latch.rhs (a : Latch) (t : Ty) (b : Rhs) : Res :=
  match b with
  | .port => scalarOp t a.opR
  | .imm v => .plain (immWord t v)

/-- The second operand of a rounding record and its mode: an immediate rounds with RNE (R64). -/
def Latch.frhs (a : Latch) (t : Ty) (b : FRhs) : Res × Rm :=
  match b with
  | .port rm => (scalarOp t a.opR, rm)
  | .imm v => (.plain (immWord t v), .rne)

/-- The second vector operand of a record of lane type `t`. -/
def Latch.vrhs (a : Latch) (t : Ty) (b : Rhs) : List Res :=
  match b with
  | .port => vectorOp t a.opR
  | .imm v => List.replicate t.lanes (.plain (immWord t v))

/-- The second vector operand of a rounding record and its mode. -/
def Latch.vfrhs (a : Latch) (t : Ty) (b : FRhs) : List Res × Rm :=
  match b with
  | .port rm => (vectorOp t a.opR, rm)
  | .imm v => (List.replicate t.lanes (.plain (immWord t v)), .rne)

/-- The access address of a memory record: L plus the signed offset, modulo 2^64 (R332). -/
def Latch.address (a : Latch) (m : MemLit) : Word := a.opL.word + m.ofs.signExtend 64

end Sys2Proof.Machine
end

