-- ==== Sys2Proof/Machine/Run.lean ====
section
/-! DEFINITION. The firing of one record, shared by every record's meaning (R55, R122, R125, R129, R143, R258, R345,
R380): null firing, privilege, poison, holding, and sending results. -/

namespace Sys2Proof.Machine

/-- The instance that fires. -/
def State.myInst (s : State) : Option Inst := (s.ctx? s.latch.ctx).bind fun x => x.inst? s.latch.route

/-- The context that fires. -/
def State.me (s : State) : Option Ctx := s.ctx? s.latch.ctx

/-- The slack of a packet the firing record sends (R143). -/
def State.outSlack (s : State) (i : Instr) : Nat := sendSlack (hdrOf i).slk s.latch.slack

/-- What the firing node sends to one target, under the key given, a null token included (R55, R125). -/
def State.out (s : State) (i : Instr) (k : Key) (vec : Bool) (t : Target) (tok : Tok) : State :=
  s.emit s.latch.ctx s.latch.route k (groupOf k.node i) vec t tok

/-- Tokens to T0 and T1, under the firing key (R258). -/
def State.send2 (s : State) (i : Instr) (t0 t1 : Tok) : State :=
  let h := hdrOf i
  let k := s.latch.key
  (s.out i k (i.out0 == some .vector) h.t0 t0).out i k (i.out1 == some .vector) h.t1 t1

/-- One raw value to both targets. -/
def State.result (s : State) (i : Instr) (v : TokVal) : State :=
  let t := newTok v 0 none (s.outSlack i)
  s.send2 i t t

/-- One token forwarded to both targets, with its value, channel and scale beat (R167). -/
def State.forward (s : State) (i : Instr) (k : Tok) : State :=
  let t := newTok k.val k.chan k.beat (s.outSlack i)
  s.send2 i t t

/-- Flags are held with the instance (R161). -/
def State.holdFlags (s : State) (f : Word) : State :=
  s.updOut s.latch.ctx s.latch.route fun o => { o with flags := o.flags ||| f }

/-- The firing is noted, real or null (R129). -/
def State.mark (s : State) (real : Bool) : State :=
  s.updInst s.latch.ctx s.latch.route fun i => { i with fired := i.fired ++ [⟨s.latch.key, real⟩] }

/-- Null tokens to every target (R55, R125); COPY and the engine records send their engine nothing (R193, R208). -/
def State.emitNull (s : State) (i : Instr) : State :=
  let t := nullTok (s.outSlack i)
  let k := s.latch.key
  match i with
  | .movx h vk t2 t3 =>
    [h.t0, h.t1, t2, t3].foldl (fun s' x => s'.out i k vk x t) s
  | .copy _ _ _ => s
  | i => if i.isEngine then s.out i k false (hdrOf i).t1 t else s.send2 i t t

/-- A fault of the firing record (R131, R363). -/
def State.faultHere (s : State) (code : BitVec 8) (addr info : Word) : State :=
  match s.myInst with
  | none => s
  | some i => s.raise s.latch.ctx s.latch.route
      (s.recordFault s.latch.ctx s.latch.route s.latch.key i.block code addr info)

/-- INCOMPLETE raised by the firing record, with its cause (R129, R133). -/
def State.incompleteHere (s : State) (cause : Nat) : State :=
  match s.myInst with
  | none => s
  | some i => s.raise s.latch.ctx s.latch.route (s.incomplete s.latch.ctx i s.latch.key cause)

/-- The firing context has supervisor privilege (R345). -/
def State.super (s : State) : Bool :=
  match s.me with
  | some x => x.env.super
  | none => false

/-- A record whose request returns a register's value, or which writes its registers as its request is sent: what it claims at its firing, so that
a second real firing sends no request (R129). -/
def Instr_claims (i : Instr) : Bool :=
  i.holdsCommit || (match i with
    | .ld _ _ _ _ | .vld _ _ _ _ | .vldg _ _ _ _ | .ldr _ _ _ _ | .mldred _ _ _ | .gset _ _ | .caddr _ _ _ _ | .cwait _ _ _ _
    | .cpoll _ _ _ _ => true
    | _ => false)

/-- The register targets of a record: vector or not, and number. -/
def Instr_regTargets (i : Instr) : List (Bool × Nat) :=
  i.targets.zipIdx.filterMap fun ti => match ti.1 with
    | .reg n => some ((if ti.2 = 1 then i.out1 else i.out0) == some .vector, n.toNat)
    | _ => none

/-- A node port that a record sends to already holds a real token for its key, or its residue: what the record would send collides there
(R126, R129). -/
def State.collides (s : State) (i : Instr) : Bool :=
  match s.myInst with
  | none => false
  | some x => i.targets.any fun t => match t with
    | .node n p => (x.entries.find? fun e => e.key == ⟨n.toNat, s.latch.key.iter, s.latch.key.deep⟩ && e.port == p).any fun e =>
        e.residue || e.tok.any fun k => !k.isNull
    | _ => false

/-- A second real firing for an LSID of this iteration, or for a register whose value a request returns, that has been counted: the
output count detects it, and no request is sent, but where its token collides at a node port (R129). -/
def State.outTaken (s : State) (i : Instr) : Bool :=
  match s.myInst with
  | none => false
  | some x =>
    (match i.lsid with
    | some l => (x.out.lsids.any fun m => m.lsid == l && m.iter == s.latch.key.iter) && !s.collides i
    | none => false) ||
    (Instr_claims i && (Instr_regTargets i).any fun t => x.regTaken t.1 t.2 s.latch.key.node)

/-- The LSID of a record firing real is counted, and the registers whose values its request returns are claimed; a write's access no longer
holds up commit's counting (R129). -/
def State.markLsid (s : State) (i : Instr) : State :=
  let cl := if Instr_claims i then (Instr_regTargets i).map fun t => (⟨t.1, t.2, s.latch.key.node⟩ : RegClaim) else []
  let ls := match i.lsid with
    | none => []
    | some l => [(⟨s.latch.key.iter, l, s.latch.key.node, i.writes⟩ : LsidMark)]
  if cl.isEmpty && ls.isEmpty then s
  else s.updOut s.latch.ctx s.latch.route fun o => { o with lsids := o.lsids ++ ls, claims := o.claims ++ cl }

/-- The firing record's request is held until its instance is non-speculative (R122). -/
def State.hold (s : State) (i : Instr) : State :=
  s.updInst s.latch.ctx s.latch.route fun x => { x with held := x.held ++ [(i, s.latch)] }

/-- A held record that is sent acts on the latch as it stood when it fired (R122). -/
def State.sent (s : State) : State := { s with latch := { s.latch with released := false } }

/-- The firing of a record without what it does to its loop level: PRIV before any other check (R345), then PARITY of a poisoned operand (R380); a null
firing (`onNull`); a second real firing of an LSID or a claimed register (R129); the holding of a speculative held record (R122); otherwise
the record's effect. A held record that is sent has fired before. -/
def State.fireCore (s : State) (i : Instr) (onNull eff : State → State) : State :=
  let a := s.latch
  if a.released then eff s.sent
  else
    let isNull := a.firesNull (hdrOf i).pr
    if i.privileged && !s.super && !isNull then (s.mark true).faultHere codePriv 0 0
    else if a.poisoned then (s.mark true).faultHere codeParity 0 0
    else if isNull then onNull (s.mark false)
    else if s.outTaken i then (s.mark true).incompleteHere 2
    else
      let s1 := (s.mark true).markLsid i
      if i.held && !s1.nonSpec a.ctx a.route then s1.hold i else eff s1

/-- The firing of a record, after which its loop level advances (R135). A poisoned operand faults PARITY at an engine record as at any other, as R380
has it, where R208 says that an engine record never faults as a record (DESIGN CHOICE, log entry 82). -/
def State.fireWith (s : State) (i : Instr) (onNull eff : State → State) : State :=
  (s.fireCore i onNull eff).advanceLevel s.latch.ctx s.latch.route

/-- The firing of a record that sends null tokens when it fires null. -/
def State.fire (s : State) (i : Instr) (eff : State → State) : State := s.fireWith i (fun t => t.emitNull i) eff

/-- A record that computes one scalar: its flags are held and the value goes to both targets (R258). -/
def State.fireRes (s : State) (i : Instr) (f : Latch → Res) : State :=
  s.fire i fun t =>
    let r := f t.latch
    (t.holdFlags r.flags).result i (.scalar r.val)

/-- A record that computes one vector from lanes (R303). -/
def State.fireVec (s : State) (i : Instr) (t : Ty) (f : Latch → List Res) : State :=
  s.fire i fun u =>
    let rs := f u.latch
    (u.holdFlags (orFlags rs)).result i (.vector (ofLanes t.lane (rs.map fun r => laneBits t r.val)))

/-- Flags of operand decoding joined to a result (R170). -/
def Res.with (r : Res) (fs : List Word) : Res := ⟨r.val, fs.foldl (fun a f => a ||| f) r.flags⟩

end Sys2Proof.Machine
end

