-- ==== Sys2Proof/Machine/Ready.lean ====
section
/-! DEFINITION. Ready records (R125, R127, R147), what firing takes from the matching store (R61, R125, R143), and
the release of held requests (R122). -/

namespace Sys2Proof.Machine

/-- The ports a record needs filled: its operand ports, and P when it is predicated (R54). -/
def Instr_allPorts (i : Instr) : List Port :=
  i.ports.map (fun pk => pk.1) ++ (match i.hdr with
    | some h => if h.pr = .always then [] else [.p]
    | none => [])

/-- The entry of a key's port. -/
def Inst.entry? (i : Inst) (k : Key) (p : Port) : Option Entry := i.entries.find? fun e => e.key == k && e.port == p

/-- The token a port holds for a key, none where it is not filled, or is a residue. -/
def Inst.portTok (i : Inst) (k : Key) (p : Port) : Option Tok :=
  match i.entry? k p with
  | some e => if e.residue then none else e.tok
  | none => none

/-- The operands that a record would fire with. -/
def Inst.latchFor (i : Inst) (c : CtxId) (k : Key) (slack : Nat) : Latch :=
  ⟨c, i.route, k, i.portTok k .l, i.portTok k .r, i.portTok k .x, i.portTok k .p, slack, false⟩

/-- The slack that a record with no operand ports starts with (R61). -/
def portlessSlack (x : Ctx) (p : Placed) (i : Instr) : Nat :=
  if (hdrOf i).slk ≠ 0#8 then slkValue (hdrOf i).slk
  else if p.dslk ≠ 0#8 then slkValue p.dslk else slkValue x.env.dslk

/-- The ready slack of a record with no operand ports: R61's, less what it has lost while ready (R127), and no more than the slack
of its predicate; otherwise the least slack among its tokens (R143). -/
def readySlack (x : Ctx) (p : Placed) (inst : Inst) (node : Nat) (i : Instr) (toks : List Tok) : Nat :=
  if i.ports = [] then portlessSlack x p i - Sparse.get 0 inst.ran node else (leastSlack toks).getD 0

/-- The state that a record must be able to read before it fires: the register of a READ, the random state of a draw record
or ACCEPT (R123, R224). A null firing waits for nothing. -/
def State.canRead (s : State) (x : Ctx) (r : Route) (i : Instr) (a : Latch) : Bool :=
  a.firesNull (hdrOf i).pr ||
  match i with
  | .read _ n => (s.readReg x r n).isSome
  | .rngn _ _ | .rngf _ _ | .sample _ _ | .accept _ _ _ => (s.readRng x r).isSome
  | _ => true

/-- A node that has forwarded a dusk marker fires no token that reaches it after, and a context that a saving dusk has drained fires
nothing (R371). -/
def State.holdsBack (s : State) (x : Ctx) (block : Word) (node : Nat) : Bool :=
  x.drained ||
  (match (s.regionOf x.id).bind fun g => g.dusk with
  | some d => d.marks.contains (block, node)
  | none => false)

/-- A node of a region holds its own record: every record that a region being freed still has on its PE has forwarded the marker (R117; log
entry 57). -/
def State.recordLoaded (s : State) (g : Region) (con node : Nat) : Bool :=
  let pe := g.peOf con node
  s.loader.regions.all fun o => match o.dusk with
    | some d => !d.free || o.num == g.num || o.die != g.die ||
        o.placed.all fun p => p.con != con ||
          (List.range p.size).all fun n => o.peOf con n != pe || (p.node n).isNone || d.marks.contains (p.addr, n)
    | none => true

/-- The node of a context's block holds its record. -/
def State.nodeLoaded (s : State) (c : CtxId) (con node : Nat) : Bool :=
  match s.regionOf c with
  | some g => s.recordLoaded g con node
  | none => true

/-- A die, or H as die 8, carries work: its supply is held (R21, R395). -/
def State.dieWorks (s : State) (die : Nat) : Bool := !(decide (die < 9) && s.mgmt.degraded.getLsbD die)

/-- The die of a context carries no work (R21). -/
def State.outOfWork (s : State) (c : CtxId) : Bool := !s.dieWorks (s.dieOf c)

/-- A key of a node is ready: every port filled, not yet fired, admitted, and its reads at hand (R125, R135), on a die that works. -/
def State.isReady (s : State) (x : Ctx) (inst : Inst) (p : Placed) (k : Key) (i : Instr) : Bool :=
  let ports := Instr_allPorts i
  !inst.draining && !s.outOfWork x.id && inst.admitted p k && !s.holdsBack x inst.block k.node &&
  s.nodeLoaded x.id inst.route.con k.node &&
  (ports.all fun q => (inst.portTok k q).isSome) &&
  (!ports.isEmpty || (!k.deep && k.iter == 0 && !inst.hasFired k.node 0)) &&
  s.canRead x inst.route i (inst.latchFor x.id k 0)

/-- The ready keys of an instance, with the record and the slack of each. -/
def State.readyKeys (s : State) (x : Ctx) (inst : Inst) : List (Key × Instr × Nat) :=
  match s.blockOf x.id inst with
  | none => []
  | some p =>
    p.nodes.flatMap fun ni =>
      let keys := if (Instr_allPorts ni.2).isEmpty then [(⟨ni.1, 0, false⟩ : Key)]
        else distinct ((inst.entries.filter fun e => e.key.node == ni.1).map fun e => e.key)
      (keys.filter fun k => s.isReady x inst p k ni.2).map fun k =>
        let toks := (Instr_allPorts ni.2).filterMap fun q => inst.portTok k q
        (k, ni.2, readySlack x p inst ni.1 ni.2 toks)

/-- An entry whose record has fired: a residue while groups have still to deliver, and gone after (R125). -/
def residue (p : Placed) (e : Entry) : Option Entry :=
  if (p.groups e.key.node e.port).all fun g => e.groups.contains g then none
  else some { e with tok := none, residue := true, spilled := none }

/-- Firing takes the tokens of a key. -/
def Inst.take (i : Inst) (p : Placed) (k : Key) : Inst :=
  { i with entries := i.entries.filterMap fun e => if e.key == k && !e.residue then residue p e else some e }

/-! ### The order in which a PE fires (R127, R147) -/

/-- A candidate for firing: its key, its own slack, the slack it competes with, when its last port filled, and its block's address. -/
structure Cand where
  fk : FireKey
  own : Nat
  slack : Nat
  filled : Nat
  addr : Nat

/-- When the last port of a key filled. -/
def Inst.filledAt (i : Inst) (k : Key) : Nat :=
  ((i.entries.filter fun e => e.key == k).map fun e => e.at_).foldl Nat.max 0

/-- Between contexts of one node: less slack, earlier filling, lower colour (R127, step 1). -/
def Cand.first (a b : Cand) : Bool :=
  if a.own ≠ b.own then a.own < b.own
  else if a.filled ≠ b.filled then a.filled < b.filled
  else a.fk.ctx.colour < b.fk.ctx.colour

/-- Between nodes: less of the slack that R147 gives, lower node, earlier filling, lower block address (R127, step 2). -/
def Cand.before (a b : Cand) : Bool :=
  if a.slack ≠ b.slack then a.slack < b.slack
  else if a.fk.key.node ≠ b.fk.key.node then a.fk.key.node < b.fk.key.node
  else if a.filled ≠ b.filled then a.filled < b.filled
  else a.addr < b.addr

/-- The first of a list by an order. -/
def firstBy {α : Type} (before : α → α → Bool) : List α → Option α
  | [] => none
  | a :: as => match firstBy before as with
    | none => some a
    | some b => if before b a then some b else some a

/-- Two candidates are of one node: of one block, placed once in one region (R115). -/
def Cand.sameNode (a b : Cand) : Bool :=
  a.fk.key.node == b.fk.key.node && a.addr == b.addr && a.fk.route.con == b.fk.route.con && a.fk.ctx.region == b.fk.ctx.region

/-- A candidate joins those of its node: `wins` says whether it is preferred to the one there, and the slack competed with is the least
of both (R127, R147). -/
def joinCand (wins : Cand → Cand → Bool) (acc : List Cand) (c : Cand) : List Cand :=
  if acc.any fun d => d.sameNode c then
    updWhere (fun d => d.sameNode c) (fun d => { (if wins c d then c else d) with slack := min c.slack d.slack }) acc
  else acc ++ [c]

/-- The candidates of one context: of each node, the oldest instance's oldest ready iteration, whatever its slack (R127). -/
def State.candidates (s : State) (x : Ctx) : List Cand :=
  if x.halt.isSome then [] else
  let ks := x.insts.flatMap fun i => (s.readyKeys x i).map fun k =>
    (⟨⟨x.id, i.route, k.1⟩, k.2.2, k.2.2, i.filledAt k.1, i.block.toNat⟩ : Cand)
  ks.foldl (joinCand fun c d => c.fk.route == d.fk.route && decide (c.fk.key.iter < d.fk.key.iter)) []

/-- The candidates of every node of the module. -/
def State.allCands (s : State) : List Cand := (s.ctxs.flatMap s.candidates).foldl (joinCand Cand.first) []

/-- The PE of a key: region, constellation and PE. -/
def State.peOfKey (s : State) (f : FireKey) : Nat × Nat × Nat :=
  (f.ctx.region, f.route.con, s.peOf f.ctx f.route.con f.key.node)

/-- The record that the PE of a key fires next (R127). -/
def State.peChoice (s : State) (f : FireKey) : Option FireKey :=
  (firstBy Cand.before (s.allCands.filter fun c => s.peOfKey c.fk == s.peOfKey f)).map fun c => c.fk

/-- The record that fires next among those that the PEs choose (R127). -/
def State.nextFire (s : State) : Option FireKey := (firstBy Cand.before s.allCands).map fun c => c.fk

/-- What is to fire: the record with the state that holds its operands in the latch, or a word that is no instruction; none
where the key is not ready, or its PE chooses another (R127). -/
def State.prepareFire (s : State) (f : FireKey) : Option (Except RecordWord (Instr × State)) :=
  match s.ctx? f.ctx with
  | none => none
  | some x =>
    match x.inst? f.route with
    | none => none
    | some inst =>
      match s.blockOf f.ctx inst with
      | none => none
      | some p =>
        if f.key.node < p.size ∧ x.halt.isNone then
          match decode (p.word f.key.node) with
          | .error _ => some (.error (p.word f.key.node))
          | .ok i =>
            if s.isReady x inst p f.key i && s.peChoice f == some f then
              let toks := (Instr_allPorts i).filterMap fun q => inst.portTok f.key q
              let a := inst.latchFor f.ctx f.key (readySlack x p inst f.key.node i toks)
              some (.ok (i, { (s.updInst f.ctx f.route fun j => j.take p f.key) with latch := a }))
            else none
        else none

/-- A held request is released once its instance is non-speculative: its operands go back into the latch (R122). -/
def State.prepareSend (s : State) (f : FireKey) : Option (Instr × State) :=
  match s.ctx? f.ctx with
  | none => none
  | some x =>
    match x.inst? f.route with
    | none => none
    | some inst =>
      match inst.held.find? fun h => h.2.key == f.key with
      | none => none
      | some (i, a) =>
        if x.halt.isNone && !s.outOfWork f.ctx && s.nonSpec f.ctx f.route then
          let s1 := s.updInst f.ctx f.route fun j => { j with held := j.held.filter fun h => h.2.key != f.key }
          some (i, { s1 with latch := { a with released := true } })
        else none

/-- A held request that may be sent (R122), the first of the oldest instance. -/
def State.nextSend (s : State) : Option FireKey :=
  s.ctxs.findSome? fun x =>
    if x.halt.isSome || s.outOfWork x.id then none
    else x.insts.findSome? fun i =>
      match i.held with
      | [] => none
      | h :: _ => if x.settled i.route then some ⟨x.id, i.route, h.2.key⟩ else none

end Sys2Proof.Machine
end

