-- ==== Sys2Proof/Machine/Order.lean ====
section
/-! DEFINITION. What an access touches, and the program order of a context's memory operations (R239-R249, R177, R178,
R332-R339): spans and pieces, earlier operations, forwarding of held writes, what a release waits for. -/

namespace Sys2Proof.Machine

/-! ### Spans and pieces -/

/-- One span that R41 checks: near address, size, alignment, lane. -/
structure Span where
  addr : Word
  size : Nat
  al : Nat
  lane : Nat
  deriving DecidableEq, Repr

/-- The bytes of an element of a type in memory (R334). -/
def tyBytes (t : Ty) : Nat := t.width / 8

/-- The spans of an indexed record, absent lanes left out (R337). -/
def laneSpans (t : Ty) (a : Latch) (m : MemLit) : List Span :=
  let w := t.lane
  (List.range (1024 / w)).filterMap fun j =>
    let idx := lane w a.opR.vec j
    if idx.toNat + 1 = 2 ^ w then none
    else some ⟨a.address m + idx * BitVec.ofNat 64 (w / 8), w / 8, w / 8, j⟩

/-- The spans of a memory or counter record, in the order of their checks (R177, R252, R332-R341); none for a near counter, a
group record or a PERSIST of length 0. -/
def spansOf (i : Instr) (a : Latch) : List Span :=
  match i with
  | .ld _ t m _ | .ldr _ t m _ | .st _ t m | .red _ t m _ => [⟨a.address m, tyBytes t, tyBytes t, 0⟩]
  | .vld _ _ m _ | .vst _ _ m => [⟨a.address m, 128, 128, 0⟩]
  | .vldg _ t m _ | .vsts _ t m | .vredm _ t m _ => laneSpans t a m
  | .cadd _ m _ none | .caddr _ m _ none | .cwait _ m _ none | .cpoll _ m _ none => [⟨a.address m, 8, 8, 0⟩]
  | .pref _ m _ => [⟨a.address m, 1, 1, 0⟩]
  | .persist _ m _ => if a.opR.word = 0 then [] else [⟨a.address m, a.opR.word.toNat, 1, 0⟩]
  | _ => []

/-- The rights an access needs (R41, R332, R343). -/
def rightsOf : Instr → List Right
  | .st _ _ _ | .vst _ _ _ | .vsts _ _ _ | .red _ _ _ _ | .vredm _ _ _ _ => [.w]
  | .cadd _ _ .durable _ | .caddr _ _ .durable _ => [.c, .d]
  | .cadd _ _ _ _ | .caddr _ _ _ _ | .cwait _ _ _ _ | .cpoll _ _ _ _ => [.c]
  | .persist _ _ _ => [.d]
  | _ => [.r]

/-- A span at its full address as pieces: a VLD or VST as sixteen granules, a load of a group member as eight, anything else
as one piece (R178). -/
def cutSpan (i : Instr) (near : Word) (size lane : Nat) (f : FullAddr) (stage : PStage) : List Piece :=
  match i with
  | .vld _ _ _ _ | .vst _ _ _ => (List.range 16).map fun k =>
      ⟨near + BitVec.ofNat 64 (8 * k), 8, k, f.dev, f.serial, f.ofs + 8 * k, 0, stage, [], 0, false, false⟩
  | .mldred _ _ _ => (List.range 8).map fun k => ⟨0, 8, 8 * lane + k, f.dev, f.serial, f.ofs + 8 * k, 0, stage, [], 0, false, false⟩
  | _ => [⟨near, size, lane, f.dev, f.serial, f.ofs, 0, stage, [], 0, false, false⟩]

/-- The aperture-table pointer of a context, or, of one that has ended and whose requests go on, that of its launch (R94, R131). -/
def State.atpOf (s : State) (c : CtxId) : BitVec 128 :=
  match s.ctx? c, s.saved? c, s.job? (s.jobOf c) with
  | some x, _, _ => x.env.atp
  | none, some e, _ => e.env.atp
  | none, none, some j => j.atp
  | none, none, none => 0

/-- The aperture entries of the spans of an access: those it has read, by the table as it stands for the others (R40). -/
def State.entriesFor (s : State) (c : CtxId) (i : Instr) (a : Latch) (read : List (Option Aperture)) :
    List (Span × Option Aperture) :=
  (spansOf i a).zipIdx.map fun pn => (pn.1, (read[pn.2]?).getD (s.entryOf (s.atpOf c) pn.1.addr))

/-- The pieces an access would have, as its operands and the aperture entries give them. -/
def State.piecesOf (s : State) (c : CtxId) (i : Instr) (a : Latch) (read : List (Option Aperture)) : List Piece :=
  (s.entriesFor c i a read).flatMap fun pe =>
    match Aperture.check pe.2 pe.1.addr pe.1.size (rightsOf i) pe.1.al with
    | .ok f => cutSpan i pe.1.addr pe.1.size pe.1.lane f .ready
    | .error _ => []

/-! ### What operations touch -/

/-- A place an operation touches: a near counter, or bytes of an object. -/
structure Foot where
  near : Option Nat
  dev : BitVec 16
  serial : BitVec 64
  ofs : Nat
  size : Nat
  deriving DecidableEq, Repr

/-- Two places share a near counter or an aligned 8-byte granule (R240). -/
def Foot.meets (f g : Foot) : Bool :=
  match f.near, g.near with
  | some a, some b => a == b
  | none, none => f.dev == g.dev && f.serial == g.serial && f.size != 0 && g.size != 0 &&
      decide (f.ofs / 8 ≤ (g.ofs + g.size - 1) / 8) && decide (g.ofs / 8 ≤ (f.ofs + f.size - 1) / 8)
  | _, _ => false

/-- The place of a piece. -/
def Piece.foot (p : Piece) : Foot := ⟨none, p.dev, p.serial, p.ofs, p.size⟩

/-- How an operation stands in the order of R240. -/
inductive OpKind where
  | load | write | persist | acquire | other
  deriving DecidableEq, Repr

/-- The kind of a memory record. -/
def opKind : Instr → OpKind
  | .ld _ _ _ _ | .vld _ _ _ _ | .vldg _ _ _ _ | .ldr _ _ _ _ | .mldred _ _ _ => .load
  | .persist _ _ _ => .persist
  | .cwait _ _ _ _ | .cpoll _ _ _ _ => .acquire
  | i => if i.writes then .write else .other

/-- The line of a PERSIST that comes next, counted from the first line it overlaps, and the number of lines (R252). -/
def Piece.lines (p : Piece) : Nat := if p.size = 0 then 0 else (p.ofs + p.size - 1) / 128 - p.ofs / 128 + 1

/-- What a PERSIST has still to do of its range. -/
def persistRest (p : Piece) (line : Nat) : Piece :=
  let o := (p.ofs / 128 + line) * 128
  if line = 0 then p else { p with ofs := o, size := p.ofs + p.size - o }

/-- The pieces of a request that are not performed; those its operands give, before its translation. -/
def State.restOf (s : State) (r : Req) : List Piece :=
  match r.stage with
  | .queued | .walking => s.piecesOf r.latch.ctx r.instr r.latch r.aps
  | .answer | .done => []
  | _ =>
    match r.instr with
    | .persist _ _ _ => r.pieces.map fun p => persistRest p r.value.toNat
    | _ => r.pieces.filter fun p => p.stage != .done

/-- The places a request has still to touch. -/
def State.feetOf (s : State) (r : Req) : List Foot :=
  match r.instr.near with
  | some k => if r.stage == .answer || r.stage == .done then [] else [⟨some k, 0, 0, 0, 8⟩]
  | none => (s.restOf r).map Piece.foot

/-- The places that operands give. -/
def State.feetAt (s : State) (c : CtxId) (i : Instr) (a : Latch) : List Foot :=
  match i.near with
  | some k => [⟨some k, 0, 0, 0, 8⟩]
  | none => (s.piecesOf c i a []).map Piece.foot

/-! ### Program order (R239) -/

/-- Earlier in program order. -/
def OpKey.before (a b : OpKey) : Bool :=
  decide (a.1 < b.1) || (a.1 == b.1 && (decide (a.2.1 < b.2.1) || (a.2.1 == b.2.1 && decide (a.2.2 < b.2.2))))

/-- The iteration of a key, 0 at depth 0. -/
def Key.iteration (k : Key) : Nat := if k.deep then k.iter else 0

/-- The place of a request. -/
def Req.opKey (r : Req) : OpKey := (r.born, r.latch.key.iteration, r.instr.lsid.getD 0)

/-- The instance of a request stands, or has committed with it; a request that a squash or an ending fault left behind has no place
among its context's operations (R124, R242). -/
def Req.stands (x : Ctx) (r : Req) : Bool :=
  r.go || (match r.instr with | .persist _ _ _ => true | _ => false) || x.insts.any fun i => i.born == r.born

/-- The ports that decide where a record accesses memory (R240). -/
def addrPorts (i : Instr) : List Port :=
  match i with
  | .vldg _ _ _ _ | .vsts _ _ _ | .vredm _ _ _ _ | .persist _ _ _ => [.l, .r]
  | i => if i.near.isSome then [] else [.l]

/-- The tokens on a record's address ports are there for a key. -/
def Inst.addrKnown (i : Inst) (k : Key) (r : Instr) : Bool := (addrPorts r).all fun q => (i.portTok k q).isSome

/-- A record that holds up later operations until it has returned: an acquire (R246), or a GSET, which a later MLDRED follows
(R196). -/
def Instr_returns : Instr → Bool
  | .cwait _ _ _ _ | .cpoll _ _ _ _ | .gset _ _ => true
  | _ => false

/-- An LSID of one iteration is resolved: its record's address is known, or it has been counted null (R239); of an acquire or
a GSET, that it has returned. -/
def Inst.resolved (j : Inst) (p : Placed) (l iter : Nat) (deep : Bool) : Bool :=
  match j.out.lsids.find? fun m => m.lsid == l && m.iter == iter with
  | some m => (match p.node m.node with
    | some i => !Instr_returns i || m.done
    | none => true)
  | none =>
    j.lsidCounted p l iter ||
      (match p.carriers l with
      | [n] => (match p.node n with
        | some i => !Instr_returns i && j.addrKnown ⟨n, iter, deep⟩ i
        | none => false)
      | _ => false)

/-- The numbers from `a` up to `b`. -/
def span (a b : Nat) : List Nat := (List.range (b + 1 - a)).map fun k => a + k

/-- Every memory operation of instance `j` is resolved. -/
def Inst.allResolved (j : Inst) (p : Placed) : Bool :=
  ((p.lsidsAt false).all fun l => j.resolved p l 0 false) &&
  ((p.lsidsAt true).isEmpty || j.level.closed ||
    (match j.level.last with
    | none => false
    | some z => decide (z < j.level.oldest + p.lb) &&
      (span j.level.oldest z).all fun it => (p.lsidsAt true).all fun l => j.resolved p l it true))

/-- The operations of instance `j` before iteration `it` and LSID `l` are resolved. -/
def Inst.resolvedBefore (j : Inst) (p : Placed) (it l : Nat) : Bool :=
  let deep := p.lsidsAt true
  ((p.lsidsAt false).all fun k => decide (it = 0 ∧ l ≤ k) || j.resolved p k 0 false) &&
  (deep.isEmpty || (span j.level.oldest it).all fun e => deep.all fun k =>
    decide (e = it ∧ l ≤ k) || j.resolved p k e true)

/-- Every operation of the context before a place is resolved (R240). -/
def State.resolvedBefore (s : State) (x : Ctx) (k : OpKey) : Bool :=
  x.insts.all fun j =>
    if j.draining || decide (j.born > k.1) then true
    else match s.blockOf x.id j with
      | none => true
      | some p => if j.born < k.1 then j.allResolved p else j.resolvedBefore p k.2.1 k.2.2

/-- The iterations of an LSID that may stand before a place: of an older instance all that are still open, of the instance itself those
up to the place's. -/
def Inst.openIters (j : Inst) (p : Placed) (deep : Bool) (k : OpKey) : List Nat :=
  if !deep then [0]
  else if j.level.closed then []
  else span j.level.oldest (if j.born < k.1 then j.level.last.getD (j.level.oldest + p.lb - 1) else k.2.1)

/-- A record of the kind given, earlier in its context's program order than a place, has not been sent and may still be: it is held, or
its LSID is not counted (R246, R252). -/
def State.unsentBefore (s : State) (x : Ctx) (kind : Instr → Bool) (k : OpKey) : Bool :=
  x.insts.any fun j =>
    if j.draining || decide (j.born > k.1) then false
    else
      (j.held.any fun h => kind h.1 && OpKey.before (j.born, h.2.key.iteration, h.1.lsid.getD 0) k) ||
      (match s.blockOf x.id j with
      | none => false
      | some p =>
        let deep := p.deep
        p.nodes.any fun ni => kind ni.2 &&
          (match ni.2.lsid with
          | none => false
          | some l => (j.openIters p (deep.contains ni.1) k).any fun it =>
              OpKey.before (j.born, it, l) k && !j.lsidCounted p l it))

/-- An acquire (R246). -/
def Instr_acquires : Instr → Bool
  | .cwait _ _ _ _ | .cpoll _ _ _ _ => true
  | _ => false

/-- Every acquire of the context before a place has returned its value (R246). -/
def State.acquiredBefore (s : State) (x : Ctx) (k : OpKey) : Bool :=
  !s.unsentBefore x Instr_acquires k &&
  s.reqs.all fun q => !(q.latch.ctx == x.id && Instr_acquires q.instr && q.stands x && q.opKey.before k)

/-! ### What an operation waits for (R240, R226) -/

/-- Another operation of the context: its place, kind, whether a later load may take its held write, and what it touches. -/
structure Op where
  key : OpKey
  kind : OpKind
  fwd : Bool
  feet : List Foot
  deriving DecidableEq, Repr

/-- The operations an instance has not sent, whose addresses are known: held requests, and records whose address ports are
filled. -/
def State.unsentOps (s : State) (x : Ctx) (j : Inst) : List Op :=
  let n := j.born
  let held := j.held.filterMap fun ia => ia.1.lsid.map fun l =>
    (⟨(n, ia.2.key.iteration, l), opKind ia.1, false, s.feetAt x.id ia.1 ia.2⟩ : Op)
  match s.blockOf x.id j with
  | none => held
  | some p =>
    held ++ p.nodes.flatMap fun ni =>
      match ni.2.lsid with
      | none => []
      | some l =>
        if p.carriers l == [ni.1] then
          let keys := distinct ((j.entries.filter fun e => e.key.node == ni.1).map fun e => e.key)
          (keys.filter fun k => j.addrKnown k ni.2).map fun k =>
            (⟨(n, k.iteration, l), opKind ni.2, false, s.feetAt x.id ni.2 (j.latchFor x.id k 0)⟩ : Op)
        else []

/-- Every other operation of the context whose address is known and which is not performed. -/
def State.otherOps (s : State) (x : Ctx) (r : Req) : List Op :=
  ((s.reqs.filter fun q => q.latch.ctx == x.id && q.id != r.id && q.instr.lsid.isSome && q.stands x).map fun q =>
    (⟨q.opKey, opKind q.instr, true, s.feetOf q⟩ : Op)) ++
  x.insts.flatMap fun j => if j.draining then [] else s.unsentOps x j

/-- An earlier operation on a common granule holds up a later one: a load takes held writes, a PERSIST holds up writes alone,
and an acquire does not see what its own instance holds (R226, R240, R252). -/
def Op.holdsUp (e : Op) (kind : OpKind) (sameInst : Bool) : Bool :=
  match kind, e.kind with
  | _, .other | _, .acquire => false
  | .load, .write => !e.fwd
  | .load, .load => true
  | .load, .persist => false
  | .write, _ => true
  | .persist, .persist => false
  | .persist, _ => true
  | .acquire, .write => !sameInst
  | .acquire, .load => true
  | .acquire, .persist => false
  | .other, _ => false

/-- A LAUNCH. -/
def Instr_launches : Instr → Bool
  | .launch _ => true
  | _ => false

/-- An older instance's LAUNCH has still to write the TCB that a load is to read, or may still come to (R418). -/
def State.launchAhead (s : State) (x : Ctx) (r : Req) (feet : List Foot) : Bool :=
  let tcb := fun (a : Latch) => match s.apertureStep (s.atpOf x.id) a.opL.word 128 [] 1 with
    | .ok f => feet.any fun g => Foot.meets ⟨none, f.dev, f.serial, f.ofs, 128⟩ g
    | .error _ => false
  opKind r.instr == .load &&
  ((s.reqs.any fun q => q.latch.ctx == x.id && decide (q.born < r.born) && Instr_launches q.instr && q.stage == .queued && tcb q.latch) ||
   x.insts.any fun j => decide (j.born < r.born) && !j.draining &&
    ((j.held.any fun h => Instr_launches h.1 && tcb h.2) ||
     (match s.blockOf x.id j with
      | none => false
      | some p => p.nodes.any fun ni => Instr_launches ni.2 && !j.fired.any fun f => f.key.node == ni.1)))

/-- A request may touch the places given: every earlier operation of its context is resolved, and none on a common granule
holds it up (R240). -/
def State.orderOk (s : State) (r : Req) (feet : List Foot) : Bool :=
  match s.ctx? r.latch.ctx with
  | none => true
  | some x =>
    let k := r.opKey
    !r.stands x ||
    s.resolvedBefore x k && !s.launchAhead x r feet &&
    (s.otherOps x r).all fun o =>
      !(o.key.before k && o.holdsUp (opKind r.instr) (o.key.1 == k.1) &&
        o.feet.any fun f => feet.any fun g => f.meets g)

/-! ### What a write does to bytes (R224, R334-R339) -/

/-- A combine (R339). -/
def combine (t : Ty) (f : MemFn) (old v : Word) : Word :=
  match t with
  | .int it =>
    match f with
    | .add => (intArith (fun a b => a + b) it old v).val
    | .min => (intMin it old v).val
    | .max => (intMax it old v).val
    | .and => old &&& v
    | .or => old ||| v
    | .xor => old ^^^ v
  | .fp ft =>
    let g := fmtOf ft
    match f with
    | .min => (fpMinMax g false old v).val
    | .max => (fpMinMax g true old v).val
    | _ => (addVal g .rne (g.decode old) (g.decode v)).val
  | .tap _ => old

/-- The word that bytes hold (R2). -/
def leWord (bs : List Byte) : Word := BitVec.ofNat 64 (ofBytesLE bs)

/-- The bytes a write leaves in its piece, given those that stood there. -/
def pieceWrite (i : Instr) (a : Latch) (p : Piece) (old : List Byte) : List Byte :=
  match i with
  | .st _ _ _ => toBytesLE p.size a.opR.word.toNat
  | .vst _ _ _ => toBytesLE p.size (lane 64 a.opR.vec p.lane).toNat
  | .vsts _ t _ => toBytesLE p.size (lane t.lane a.opX.vec p.lane).toNat
  | .red _ t _ f => toBytesLE p.size (combine t f (leWord old) a.opR.word).toNat
  | .vredm _ t _ f => toBytesLE p.size (combine t f (leWord old) (lane t.lane a.opX.vec p.lane)).toNat
  | .cadd _ _ _ _ | .caddr _ _ _ _ => toBytesLE p.size (leWord old + a.opR.word).toNat
  | _ => old

/-- Bytes `new` in place of those at `at_` of a list. -/
def splice (bs : List Byte) (at_ : Nat) (new : List Byte) : List Byte :=
  bs.take at_ ++ new ++ bs.drop (at_ + new.length)

/-- A write's piece forwarded into the granule that starts at `base` (R240). -/
def forwardInto (i : Instr) (a : Latch) (base : Nat) (bs : List Byte) (p : Piece) : List Byte :=
  if p.ofs / 8 * 8 = base then
    let at_ := p.ofs - base
    splice bs at_ (pieceWrite i a p ((bs.drop at_).take p.size))
  else bs

/-- Requests in program order. -/
def insertReq (r : Req) : List Req → List Req
  | [] => [r]
  | q :: qs => if OpKey.before r.opKey q.opKey then r :: q :: qs else q :: insertReq r qs

/-- The held writes of the context earlier than a request, in program order. -/
def State.heldWrites (s : State) (r : Req) : List Req :=
  let earlier := s.reqs.filter fun q => q.latch.ctx == r.latch.ctx && q.instr.writes && q.opKey.before r.opKey
  earlier.foldl (fun l q => insertReq q l) []

/-- A granule's bytes as a load of the context takes them: what stands at its home under the context's own earlier held writes
(R240). -/
def State.granuleFor (s : State) (r : Req) (p : Piece) (bs : List Byte) : List Byte :=
  let base := p.ofs / 8 * 8
  (s.heldWrites r).foldl (fun acc q =>
    ((s.restOf q).filter fun e => e.dev == p.dev && e.serial == p.serial && e.stage != .peer).foldl
      (fun a e => forwardInto q.instr q.latch base a e) acc) bs

/-! ### Homes, scopes and releases (R176, R244, R245, R251) -/

/-- The tile at which a context's accesses are walked: its constellation's local tile; for a context on H, the tile of die 0
with its core's number (R45, log entry 5). -/
def State.walkTile (s : State) (c : CtxId) (con : Nat) : Nat × Nat :=
  let d := s.dieOf c
  if d = 8 then (0, con) else (d, con)

/-- The physical address of a byte whose page has a frame. -/
def State.frameByte (s : State) (d : Desc) (ofs : Nat) : Option Nat :=
  let pb := pageBytes d.pgsz
  match s.leaf? d (ofs / pb) with
  | none => none
  | some a =>
    let w := Memory.word s.mem a
    let st := pteState w
    if st = 2 ∨ st = 3 ∨ st = 4 then some (frameAddr d w + ofs % pb) else none

/-- The home of a piece on this device: its frame's, or the walking tile where its page has no frame (R176). -/
def State.pieceHome (s : State) (c : CtxId) (con : Nat) (p : Piece) : Nat × Nat :=
  match (s.desc? p.serial).bind fun d => s.frameByte d p.ofs with
  | some a => homeOf a
  | none => s.walkTile c con

/-- A scope, measured from an agent on a die and constellation of a region, covers a home of this module (R244). -/
def covers (sc : Scope) (die con : Nat) (cons : List Nat) (h : Nat × Nat) : Bool :=
  if die = 8 then true
  else match sc with
    | .constellation => h == (die, con)
    | .region => h.1 == die && cons.contains h.2
    | .die => h.1 == die
    | _ => true

/-- Scopes that reach peer homes. -/
def scopeWide : Scope → Bool
  | .domain | .durable => true
  | _ => false

/-- The first byte of each line that a PERSIST's piece still has of each page, or of the first 64 of them, which meet every tile of a frame (R176,
R252). -/
def State.lineStarts (s : State) (p : Piece) : List Piece :=
  let per := (match s.desc? p.serial with | some d => pageBytes d.pgsz | none => 2 ^ 16) / 128
  let first := p.ofs / 128
  let page := first / per
  let pages := if p.lines = 0 then 0 else (first + p.lines - 1) / per + 1 - page
  (List.range pages).flatMap fun j =>
    let a := max first ((page + j) * per)
    let b := min (first + p.lines) ((page + j + 1) * per)
    (List.range (min 64 (b - a))).map fun k => persistRest p (a - first + k)

/-- An earlier operation of the context, as a release at a scope by an agent on the die and constellation given waits for it
(R245). -/
def State.releaseWaits (s : State) (c : CtxId) (con : Nat) (sc : Scope) (q : Req) : Bool :=
  let cons := match s.regionOf c with
    | some g => g.cons
    | none => []
  let at_ := fun (p : Piece) =>
    if p.dev = s.names.devNum then covers sc (s.dieOf c) con cons (s.pieceHome c q.latch.route.con p) else scopeWide sc
  match opKind q.instr with
  | .other => false
  | .persist => sc == .durable || (s.restOf q).any fun p => (s.lineStarts p).any at_
  | _ => q.instr.near.isNone && (s.restOf q).any at_

/-- A release by a request at a scope is complete: every earlier operation at a home the scope covers has been performed and, at
durable scope, every earlier PERSIST has added to its counter (R245). -/
def State.released (s : State) (r : Req) (sc : Scope) : Bool :=
  match s.ctx? r.latch.ctx with
  | none => true
  | some x =>
    ((s.reqs.filter fun q => q.latch.ctx == x.id && q.id != r.id && q.stands x && q.opKey.before r.opKey).all
      fun q => !s.releaseWaits x.id r.latch.route.con sc q) &&
    !(sc == .durable && s.unsentBefore x (fun i => opKind i == .persist) r.opKey)

/-- The memory operations of the instances older than the one in `r` are released at die scope, as an engine request, a LAUNCH
and a GSET ask (R249). -/
def State.olderReleased (s : State) (c : CtxId) (r : Route) (born : Nat) : Bool :=
  match s.ctx? c with
  | none => true
  | some x =>
    (x.insts.all fun j => decide (j.born ≥ born) || j.draining) &&
    s.reqs.all fun q => q.latch.ctx != c || decide (q.born ≥ born) || !q.stands x || !s.releaseWaits c r.con .die q

/-- A durable step is under way at the granule, or the host owns its region (R253, R389). -/
def State.locked (s : State) (p : Piece) : Bool :=
  (p.dev == s.names.devNum && (s.hostRegion p.serial p.ofs).isSome) ||
  s.durable.any fun d => d.at_.dev == p.dev && d.at_.serial == p.serial && d.at_.ofs / 8 == p.ofs / 8

/-- A waiting CWAIT. -/
def Req.waits (q : Req) : Bool :=
  q.stage == .waiter && (match q.instr with | .cwait _ _ _ _ => true | _ => false)

/-- A request that a saving dusk withdraws: a registered waiter, a write that commit has not let go, a SPAWN that has not started its
child, a load that waits behind a registered waiter of its context (R371, R372; log entry 22). -/
def State.withdrawable (s : State) (q : Req) : Bool :=
  q.waits || q.stage == .colour || (q.instr.writes && !q.go) ||
  (opKind q.instr == .load && !q.served && s.reqs.any fun w => w.latch.ctx == q.latch.ctx && w.waits)

/-- What a hardware add waits for: the earlier successor adds of its task (R113), or counter writes of its link (R390), and the operations of its
release at homes its scope covers: of a successor add the PERSISTs of the task's context; of a DONE add the operations of the item's contexts; of
a dusk sink's those of the region's contexts that the dusk does not withdraw (R100, R245, R355). An engine's writes are performed before its add
is made (R191). -/
def State.hwWaits (s : State) (h : PendAdd) : Bool :=
  let earlier := s.adds.any fun a => a.src == h.src && decide (a.id < h.id)
  match h.src with
  | .succ c => earlier || s.reqs.any fun e => e.latch.ctx == c && s.releaseWaits c e.latch.route.con h.scope e
  | .item j k => s.reqs.any fun e =>
      s.jobOf e.latch.ctx == j && e.item == k && e.stage != .waiter && s.releaseWaits e.latch.ctx e.latch.route.con h.scope e
  | .sink g => s.reqs.any fun e =>
      e.latch.ctx.region == g && !s.withdrawable e && s.releaseWaits e.latch.ctx e.latch.route.con h.scope e
  | .host _ => earlier
  | _ => false

end Sys2Proof.Machine
end

