-- ==== Sys2Proof/Machine/Blocks.lean ====
section
/-! DEFINITION. The loader's checks of blocks (R56-R58, R67-R73, R134, R172, R193, R207, R269, R322, R333, R340, R346). -/

namespace Sys2Proof.Machine

/-! ### Parts of records -/

/-- The token kind of a port of a record, none where the record has no such port (R54). -/
def Instr_portKind (i : Instr) (p : Port) : Option Kind :=
  match p with
  | .p => (match i.hdr with
    | some h => if h.pr = .always then none else some .scalar
    | none => none)
  | q => (i.ports.find? fun pk => pk.1 == q).map fun pk => pk.2

/-- The target fields of a word in the order of R73: T0, T1, then MOVX's third and fourth. -/
def targetFields (w : RecordWord) : List (BitVec 12) :=
  let r := Raw.unpack w
  [r.t0, r.t1] ++ (if r.op = 0x03 then [r.lit.extractLsb' 12 12, r.lit.extractLsb' 0 12] else [])

/-- A word with the target fields given, in that order, in place of its own. -/
def withTargets (w : RecordWord) (ts : List (BitVec 12)) : RecordWord :=
  let r := Raw.unpack w
  let lit := if r.op = 0x03 then r.lit.extractLsb' 24 24 ++ ts.getD 2 0xC00 ++ ts.getD 3 0xC00 else r.lit
  { r with t0 := ts.getD 0 0xC00, t1 := ts.getD 1 0xC00, lit := lit }.pack

/-- The instruction of a word whose fields other than its targets pass: with no target, or with the T0 that the record's entry asks
for, a register or a port. -/
def bareRecord (w : RecordWord) : Option Instr :=
  [[], [0x43F#12], [0x800#12]].findSome? fun ts => (decode (withTargets w ts)).toOption

/-- An engine port accepts what a record sends it (R58, R193, R207). -/
def EngPort.accepts (e : EngPort) (i : Instr) (k : Kind) : Bool :=
  match e, i with
  | .streamer _, .copy _ _ _ => true
  | .streamer _, .vld _ _ _ _ | .streamer _, .vldg _ _ _ _ => true
  | .streamer _, i => i.forwards && k == .vector
  | .island _, .mma _ _ _ | .island _, .mmaz _ _ | .island _, .accld _ _ | .island _, .accst _ _ _ => true
  | .lattice, .lxtab _ _ | .lattice, .lxctx _ _ | .lattice, .lxrun _ _ | .lattice, .lxtin _ _ | .lattice, .lxtout _ _ => true
  | .stage _ _, .copy _ _ _ => false
  | .stage _ v, i => !i.isEngine && (k == .vector) == v
  | _, _ => false

/-- A record whose T0 must name an engine (R193, R207). -/
def Instr_feedsEngine : Instr → Bool
  | .copy _ _ _ => true
  | i => i.isEngine

/-! ### Targets (R56, R58) -/

/-- The refusal of target `idx` of a record, none where it passes. -/
def checkTarget (ports : Sparse EngPort) (size : Nat) (nodes : Nat → Option Instr) (i : Instr) (idx : Nat) (t : Target) :
    Option (BitVec 8) :=
  let k := if idx = 0 then i.out0 else match i with
    | .movx _ _ _ _ => i.out0
    | _ => i.out1
  match t with
  | .none => if Instr_feedsEngine i && idx == 0 then some codeNoport else none
  | .node n p =>
    if n.toNat ≥ size then some codeIllrec
    else if Instr_feedsEngine i && idx == 0 then some codeNoport
    else match k, nodes n.toNat with
      | none, _ => some codeNoport
      | some _, none => none
      | some k, some c => if Instr_portKind c p == some k then none else some codeNoport
  | .reg _ => if Instr_feedsEngine i || k.isNone then some codeNoport else none
  | .port q =>
    if i.isEngine && idx == 1 then some codeNoport
    else match k, (ports.find? fun e => e.1 == q.toNat) with
      | some k, some e => if e.2.accepts i k then none else some codeNoport
      | _, _ => some codeNoport

/-- The code with which a target that R56 and R57 allow but the record's own entry does not is refused: NOPORT, a target of the wrong
kind, for the memory records (R333), otherwise ILLREC. -/
def targetCode (w : RecordWord) : BitVec 8 :=
  let op := (Raw.unpack w).op.toNat
  if 0x70 ≤ op ∧ op ≤ 0x79 then codeNoport else codeIllrec

/-- The refusal of target `idx` of a word whose other fields pass: a value that no target may hold, or one after an empty target (R56, R57,
R264); the record's own entry; then R58. -/
def checkField (ports : Sparse EngPort) (size : Nat) (nodes : Nat → Option Instr) (w : RecordWord) (bare : Instr) (idx : Nat) :
    Option (BitVec 8) :=
  let ts := targetFields w
  let c := ts.getD idx 0xC00
  let k := if idx = 1 then (match bare with | .movx _ _ _ _ => bare.out0 | _ => bare.out1) else bare.out0
  match Target.ofCode c with
  | none => some codeIllrec
  | some t =>
    if !t.okFor k || (match t with | .node n _ => decide (n.toNat ≥ size) | _ => false) || (decide (idx > 0) && ts.getD (idx - 1) 0xC00 == 0xC00 && c != 0xC00) then some codeIllrec
    else match decode (withTargets w (ts.take (idx + 1))) with
      | .error _ => some (targetCode w)
      | .ok i => checkTarget ports size nodes i idx t

/-- The refusal of one record, none where it passes: its other fields, then each target in order (R73). -/
def checkRecord (ports : Sparse EngPort) (size : Nat) (nodes : Nat → Option Instr) (w : RecordWord) : Option (BitVec 8) :=
  match bareRecord w with
  | none => some codeIllrec
  | some bare => (List.range (targetFields w).length).findSome? (checkField ports size nodes w bare)

/-- The refusal of SPAWN's entry block, whose records are given: RE 0 (R104), or an argument's node without a scalar L port (R346). -/
def checkSpawn (na : Nat) (recs : List RecordWord) : Option (BitVec 8) :=
  let b : Placed := ⟨0, 0, recs⟩
  if !b.re then some codeIllrec
  else if (List.range (na + 1)).any fun j =>
      (match b.node j with
      | some i => Instr_portKind i .l != some .scalar
      | none => true) then some codeNoport
  else none

/-- SPAWN's number of arguments less one, and its entry. -/
def Instr_spawns : Instr → Option (Nat × BitVec 33)
  | .spawn _ na blk | .spawnNowait _ na blk => some (na.val, blk)
  | _ => none

/-! ### Headers and masks (R68-R70, R72) -/

/-- The H0 record is refused (R60, R68, R72). -/
def badH0 (w : RecordWord) : Bool :=
  bits w 88 8 != 0xF0 || bits w 78 3 == 0 || bits w 73 5 != 0 || !slkOk (w.extractLsb' 64 8) || w.getLsbD 0

/-- The H1 record is refused (R69, R72). -/
def badH1 (h0 w : RecordWord) : Bool :=
  bits w 88 8 != 0xF1 || bits w 80 4 != 0 || (!h0.getLsbD 72 && bits w 84 4 != 0)

/-- The masks and the count of R70 agree with the records. -/
def masksOk (p : Placed) : Bool :=
  let lsids := p.nodes.filterMap fun ni => ni.2.lsid.map fun l => (l, ni.2.writes)
  ((List.range 64).all fun n => p.wmask.getLsbD n == !(p.regWriters false n).isEmpty) &&
  ((List.range 16).all fun n => p.vmask.getLsbD n == !(p.regWriters true n).isEmpty) &&
  ((List.range 32).all fun l =>
    p.mmask.getLsbD l == (lsids.any fun e => e.1 == l) &&
    (!p.smask.getLsbD l || p.mmask.getLsbD l) &&
    (lsids.all fun e => e.1 != l || e.2 == p.smask.getLsbD l)) &&
  p.exits.length == bits p.h0 78 3

/-! ### Depths, draws, delay FIFOs (R134, R172, R322) -/

/-- The producers of a node's port. -/
def Placed.producers (p : Placed) (node : Nat) (port : Port) : List (Nat × Instr) :=
  p.nodes.filter fun ni => ni.2.targets.any fun t => t == .node (BitVec.ofNat 7 node) port

/-- The depth of the tokens a record sends: deep from ITIN, at depth 0 from ITOUT (R134). -/
def sendsDeep (deep : List Nat) (ni : Nat × Instr) : Bool :=
  match ni.2 with
  | .itin _ _ => true
  | .itout _ _ => false
  | _ => deep.contains ni.1

/-- A draw record, or one that sets the random state, and whether it sets it (R322). -/
def Instr_random : Instr → Option Bool
  | .rngs _ | .accept _ _ _ => some true
  | .rngn _ _ | .rngf _ _ | .sample _ _ => some false
  | _ => none

/-- A record breaks R134 or R322. -/
def badDepth (p : Placed) (deep : List Nat) (c : Nat × Instr) : Bool :=
  let feeds := [Port.l, .r, .p, .x].flatMap fun q => p.producers c.1 q
  let isDeep := deep.contains c.1
  let mixed := (feeds.any fun f => sendsDeep deep f) && feeds.any fun f => !sendsDeep deep f
  let level := match c.2 with
    | .itin _ _ => !p.re || isDeep
    | .itnx _ _ | .itout _ _ => !p.re || !isDeep
    | _ => false
  let writesReg := c.2.targets.any fun t => match t with
    | .reg _ => true
    | _ => false
  mixed || level || (c.2.isExit && isDeep) || (writesReg && sendsDeep deep c) ||
  (match Instr_random c.2 with
  | some sets => isDeep || (sets && p.nodes.any fun ni => decide (ni.1 < c.1) && Instr_random ni.2 == some true)
  | none => false)

/-- A record is a delay FIFO. -/
def isFifo : Instr → Bool
  | .mov _ _ dly => dly
  | _ => false

/-- A record breaks R172. -/
def badDelay (p : Placed) (c : Nat × Instr) : Bool :=
  match c.2 with
  | .mov _ _ true => c.2.targets.any fun t => match t with
    | .none => false
    | .node n .l => (match p.node n.toNat with
      | some (.cvq _ _ _) => false
      | _ => true)
    | _ => true
  | .cvq _ t _ =>
    let ls := p.producers c.1 .l
    let rs := p.producers c.1 .r
    let from_ := fun (n : Nat) => (p.producers n .l).map fun x => x.1
    (ls.any fun f => !isFifo f.2) ||
    rs.any fun a => match a.2 with
      | .amax _ u => decide (u ≠ t) || ls.any fun f => from_ f.1 != from_ a.1
      | _ => false
  | _ => false

/-! ### A whole block (R73) -/

/-- The first refusal of a block's records, with its code and node, in the order of R73; the checks that need the whole block's
records follow those of R70 (log entry 16). `entry` gives the records of a SPAWN's entry block. -/
def checkBlock (ports : Sparse EngPort) (entry : BitVec 33 → Option (List RecordWord)) (recs : List RecordWord) :
    Option (BitVec 8 × BitVec 8) :=
  let p : Placed := ⟨0, 0, recs⟩
  if badH0 p.h0 then some (codeIllrec, 0x80)
  else if badH1 p.h0 p.h1 then some (codeIllrec, 0x81)
  else
    let nodes := p.node
    let one := fun (n : Nat) =>
      match checkRecord ports p.size nodes (p.word n) with
      | some c => some (c, BitVec.ofNat 8 n)
      | none =>
        match (nodes n).bind Instr_spawns with
        | some (na, blk) =>
          (match entry blk with
          | some rs => (checkSpawn na rs).map fun c => (c, BitVec.ofNat 8 n)
          | none => none)
        | none => none
    match (List.range p.size).findSome? one with
    | some e => some e
    | none =>
      if !masksOk p then some (codeIllrec, 0xFF)
      else
        let deep := deepFix p.nodes p.size []
        (p.nodes.find? fun c => badDepth p deep c || badDelay p c).map fun c => (codeIllrec, BitVec.ofNat 8 c.1)

/-! ### Reading a block (R67, R271) -/

/-- The records that the bytes of a block give. -/
def recordsOf : Nat → List Byte → List RecordWord
  | 0, _ => []
  | n + 1, bs => BitVec.ofNat 96 (ofBytesLE (bs.take 12)) :: recordsOf n (bs.drop 12)

end Sys2Proof.Machine
end

