-- ==== Sys2Proof/Machine/Commit.lean ====
section
/-! DEFINITION. When an instance commits and what commit does (R123, R128-R131, R161, R224, R319, R322, R328, R345, R348,
R350, R352), and the end of an instance once its held writes are performed. -/

namespace Sys2Proof.Machine

/-! ### When an instance may commit (R130, R345) -/

/-- Every register of WMASK and VMASK is counted. -/
def Inst.regsCounted (i : Inst) (p : Placed) : Bool :=
  ((List.range 64).all fun n => !p.wmask.getLsbD n || i.regCounted p false n) &&
  ((List.range 16).all fun n => !p.vmask.getLsbD n || i.regCounted p true n)

/-- Every depth-0 output is counted (R128, R130). -/
def Inst.outputsCounted (i : Inst) (p : Placed) : Bool :=
  i.regsCounted p && ((p.lsidsAt false).all fun l => i.lsidCounted p l 0) && i.exit.isSome

/-- Packets in transit toward an instance. -/
def State.inTransit (s : State) (c : CtxId) (r : Route) : Bool :=
  s.packets.any fun p => p.ctx == c && (match p.dest with
    | .node q _ _ _ | .reg q _ _ _ => q == r
    | .port _ _ _ => false)

/-- The requests of an instance. -/
def State.reqsOf (s : State) (c : CtxId) (r : Route) : List Req :=
  s.reqs.filter fun q => q.latch.ctx == c && q.latch.route == r

/-- A write's checks are done, here and at its peer device, so that no fault can come of it after commit: none of its pieces is parked on a page
that waits for a frame, which the pager may decline (R46, R131, R183). -/
def State.checked (s : State) (q : Req) : Bool :=
  q.stage != .queued && q.stage != .walking && q.pieces.all fun p =>
    p.stage != .probing && !(p.stage == .parked && pteState (Memory.word s.mem p.pte) == 0)

/-- Nothing the instance has sent holds commit up: its loads and acquires have returned, its writes and PERSISTs are checked,
and its task and system records have completed (R131, R345). -/
def State.requestsDone (s : State) (c : CtxId) (i : Inst) : Bool :=
  i.held.isEmpty && (i.out.lsids.all fun m => m.done) &&
  (s.reqsOf c i.route).all fun q => !q.instr.holdsCommit && (!q.instr.writes || s.checked q)

/-- A request of an instance stands at an engine, or its completion add is under way (R132). -/
def State.engineBusy (s : State) (c : CtxId) (r : Route) : Bool :=
  let has := fun (q : List EngReq) => q.any fun e => e.ctx == c && e.route == r
  (s.engines.streamers.any fun e => has e.2.queue || has e.2.serving) ||
  (s.engines.islands.any fun e => has e.2.queue || has e.2.serving) ||
  (s.engines.lattices.any fun e => has e.2.queue || has e.2.serving) ||
  (s.adds.any fun a => match a.src with | .engine d q _ _ => d == c && q == r | _ => false) ||
  s.packets.any fun p => p.ctx == c && p.instr.isSome && (match p.dest with | .port _ q _ => q == r | _ => false)

/-- Nothing moves in an instance, or toward it, and nothing it waits for is outstanding: no ready record, no held request still to be
sent, no token in transit, no load reply, engine completion, counter wake or spawn return (R132). -/
def State.quiet (s : State) (x : Ctx) (i : Inst) : Bool :=
  (s.readyKeys x i).isEmpty && i.held.isEmpty && !s.inTransit x.id i.route && !s.engineBusy x.id i.route &&
  (s.reqsOf x.id i.route).all fun q => q.instr.writes || returnsNothing q.instr

/-- The loop level, if opened, has closed (R130, R135). -/
def Inst.levelDone (i : Inst) (p : Placed) : Bool := p.itins.isEmpty || i.level.closed || !i.levelOpen p

/-- The counted real register writes: vector or not, number, writing node, value. -/
def Inst.realWrites (i : Inst) : List RegWrite := i.out.regs.filter fun w => w.val != .null

/-- A CADDR of this context has left pending a register that the instance writes (R224). -/
def Ctx.waitsPending (x : Ctx) (i : Inst) : Bool :=
  i.realWrites.any fun w => !w.vec && x.pending.any fun e => e.1 == w.n

/-- The oldest instance of a context may commit. -/
def State.mayCommit (s : State) (x : Ctx) (i : Inst) (p : Placed) : Bool :=
  x.halt.isNone && !s.outOfWork x.id && !x.drained && !i.draining && i.faults.isEmpty && i.outputsCounted p && i.levelDone p &&
  s.requestsDone x.id i && !x.waitsPending i

/-! ### What commit writes -/

/-- One counted register write; the register a CADDR names is left pending (R224). -/
def Ctx.writeReg (x : Ctx) (p : Placed) (reqs : List Req) (w : RegWrite) : Ctx :=
  match w.val with
  | .null => x
  | .vector v => { x with regs := { x.regs with v := Sparse.put 0 x.regs.v w.n v } }
  | .scalar v =>
    match p.node w.node with
    | some (.caddr _ _ _ _) =>
      (match reqs.find? fun q => q.latch.key.node == w.node with
      | some q => { x with pending := x.pending ++ [(w.n, q.id)] }
      | none => x)
    | _ => { x with regs := { x.regs with g := Sparse.put 0 x.regs.g w.n v } }

/-- The registers, the flags word and the random state are written (R130). -/
def Ctx.writeBack (x : Ctx) (p : Placed) (i : Inst) (reqs : List Req) : Ctx :=
  let x1 := i.out.regs.foldl (fun y w => y.writeReg p reqs w) x
  let kc := i.rngAfter p (x.regs.rngk, x.regs.rngc)
  { x1 with regs := { x1.regs with flags := x1.regs.flags ||| i.out.flags, rngk := kc.1, rngc := kc.2 }, watch := 0 }

/-- A write of the channel table or of scale registers in every constellation of the region (R319). -/
def Region.chanWrite (g : Region) (w : ChanWrite) : Region :=
  g.cons.foldl (fun g con =>
    match w with
    | .entry n v => { g with chans := Sparse.put 0x0140#16 g.chans (con * 32 + n) v }
    | .table vs => { g with chans := (vs.zipIdx 1).foldl (fun t vi => Sparse.put 0x0140#16 t (con * 32 + vi.2) vi.1) g.chans }
    | .scale sr q v => { g with sregs := Sparse.put 0x7F000#20 g.sregs (con * 64 + 4 * sr + q) v }) g

/-! ### The end of an instance -/

/-- The record that ends a cancelled context: of kind 8, the meridian unit's (R350, R364; log entry 14). -/
def State.cancelRecord (s : State) (c : CtxId) : FaultRec :=
  { unitFault (s.dieOf c) 8 0 codeCancelled 0 0 with ending := true }

/-- The TRAPs of an instance in ascending node order; those of one node, which fired in different iterations, in the order of their firing
(R352; DESIGN CHOICE, log entry 72). -/
def insertTrap (t : Trapped) : List Trapped → List Trapped
  | [] => [t]
  | u :: us => if t.node < u.node then t :: u :: us else u :: insertTrap t us

/-- Real TRAPs post after their instance's commit (R352). -/
def State.postTraps (s : State) (c : CtxId) (i : Inst) : State :=
  (i.out.traps.foldl (fun l t => insertTrap t l) []).foldl (fun u t =>
    u.post c (u.recordFault c i.route ⟨t.node, t.iter, false⟩ i.block codeTrap (t.code.setWidth 64) t.value)) s

/-- What follows the commit of an instance once its writes are performed: its slot is free, the successor or the stop goes to
the context, TRAPs are posted and halt it, RETN's value returns, and a context that has seen its cancel mark ends (R130, R106,
R348, R350, R352). -/
def State.finishInst (s : State) (c : CtxId) (i : Inst) : State :=
  let s1 := s.updCtx c fun x => { x with insts := x.insts.filter fun j => j.route != i.route, next := i.exit }
  let s2 := s1.postTraps c i
  let marked : Bool := match s2.ctx? c with
    | some x => x.mark == .seen
    | none => false
  let cancel := fun (t : State) => if marked then t.post c (t.cancelRecord c) else t
  let ret := match i.out.retn with
    | some t => (t.2.val, some t.2.slack)
    | none => (.null, none)
  match i.exit with
  | some .stop => (cancel s2).endCtx c ret.1 ret.2
  | e =>
    if marked then (cancel s2).endCtx c .null none
    else if i.out.traps.isEmpty then s2.settle c
    else match e with
      | some (.block a) => s2.halt c a
      | _ => s2

/-- A committed instance whose held writes are all performed comes to its end. -/
def State.drained (s : State) (c : CtxId) (r : Route) : State :=
  match (s.ctx? c).bind fun x => x.inst? r with
  | none => s
  | some i =>
    if i.draining && (s.reqsOf c r).all fun q => !q.instr.writes || q.stage == .answer || q.stage == .done then
      let ended := fun (q : Req) => q.latch.ctx == c && q.latch.route == r && q.instr.writes && q.stage == .done
      ({ s with reqs := s.reqs.filter fun q => !ended q }).finishInst c i
    else s

/-! ### Commit -/

/-- The oldest instance of context `c` commits: registers, flags and random state are written, and its held writes are let
go, to be performed in ascending iteration, then ascending LSID (R130). A RETN in an instance that commits with an exit other
than STOP faults SPAWN, and the child ends (R106). None where it may not commit. -/
def State.commitNow (s : State) (c : CtxId) : Option State :=
  match s.ctx? c with
  | none => none
  | some x =>
    match x.insts with
    | [] => none
    | i :: _ =>
      match s.blockOf c i with
      | none => none
      | some p =>
        if !s.mayCommit x i p then none
        else if i.out.retn.isSome && i.exit != some .stop then
          let key := (i.out.retn.map fun t => t.1).getD ⟨0, 0, false⟩
          some ((s.post c (s.recordFault c i.route key i.block codeSpawn 0 0)).endCtx c .null none)
        else
          let reqs := s.reqsOf c i.route
          let s1 := s.updCtx c fun y => y.writeBack p i reqs
          let s2 := s1.updRegion c.region fun g => i.out.chans.foldl Region.chanWrite g
          let s3 := i.out.kadds.foldl (fun t ka => t.addK c ka.1 ka.2) s2
          let s4 := s3.updInst c i.route fun j => { j with draining := true }
          let mine := fun (q : Req) => q.latch.ctx == c && q.latch.route == i.route && q.instr.writes
          let s5 := { s4 with reqs := updWhere mine (fun q => { q with go := true }) s4.reqs }
          some (s5.drained c i.route)

/-- COMMIT (R130). -/
def execCommit (c : CtxId) (s : State) : Host.Outcome State Fault Refusal := .next ((s.commitNow c).getD s)

/-! ### The watchdog (R132) -/

/-- The LSIDs that are not counted of the iterations of a level that are known to come, with their iterations: those admitted, and, of the later
ones of a known count, the last, which stands for them all (R132, R135). -/
def Inst.deepUncounted (i : Inst) (p : Placed) : List (Nat × Nat) :=
  if i.levelOpen p && !i.level.closed then
    let top := i.level.oldest + p.lb - 1
    let its := match i.level.last with
      | some z => span i.level.oldest (min z top) ++ (if z > top then [z] else [])
      | none => span i.level.oldest top
    its.flatMap fun it =>
      ((p.lsidsAt true).filter fun l => !i.lsidCounted p l it).map fun l => (it, l)
  else []

/-- A record has fired for the key of its depth-0 outputs: an ITOUT, whose token leaves the level once, in the last iteration (R274). -/
def Inst.firedOut (i : Inst) (p : Placed) (n : Nat) : Bool :=
  match p.node n with
  | some (.itout _ _) => i.level.last.any fun z => i.hasFired n z
  | _ => i.hasFired n 0

/-- The records that carry an output not counted and that have not fired for its key, an uncounted exit naming its EXITs (R133,
R402). -/
def Inst.blamed (i : Inst) (p : Placed) : List Nat :=
  let regs := (List.range 64).flatMap fun n =>
    if p.wmask.getLsbD n && !i.regCounted p false n then p.regWriters false n else []
  let vecs := (List.range 16).flatMap fun n =>
    if p.vmask.getLsbD n && !i.regCounted p true n then p.regWriters true n else []
  let shallow := (p.lsidsAt false).flatMap fun l => if i.lsidCounted p l 0 then [] else p.carriers l
  ((regs ++ vecs ++ shallow).filter fun n => !i.firedOut p n) ++ i.missingExits p ++
    ((i.deepUncounted p).flatMap fun e => (p.carriers e.2).filter fun n => !i.hasFired n e.1)

/-- The least of a list. -/
def leastOf : List Nat → Option Nat
  | [] => none
  | n :: ns => match leastOf ns with
    | none => some n
    | some m => some (min n m)

/-- The oldest instance of a context has an uncounted output, nothing ready, nothing in transit toward it and nothing
outstanding (R132). A context that a saving dusk has drained runs no further, and nothing counts there (log entry 22). -/
def State.stuck (s : State) (x : Ctx) : Bool :=
  match x.insts with
  | [] => false
  | i :: _ =>
    match s.blockOf x.id i with
    | none => false
    | some p =>
      x.halt.isNone && !x.drained && !i.draining && (!i.outputsCounted p || i.deepUncounted p != []) && s.quiet x i

/-- The commit watchdog fires: INCOMPLETE with cause 0, ending, naming the record of R402 (R132). None before 4,096 idle
ac. -/
def State.watchdogNow (s : State) (c : CtxId) : Option State :=
  match s.ctx? c with
  | none => none
  | some x =>
    match x.insts with
    | [] => none
    | i :: _ =>
      match s.blockOf c i with
      | none => none
      | some p =>
        if x.watch ≥ 4096 && s.stuck x then
          some (s.raise c i.route (s.incomplete c i ⟨(leastOf (i.blamed p)).getD 0, 0, false⟩ 0))
        else none

/-- COMMIT_WATCHDOG (R132). -/
def execCommitWatchdog (c : CtxId) (s : State) : Host.Outcome State Fault Refusal := .next ((s.watchdogNow c).getD s)

end Sys2Proof.Machine
end

