-- ==== Sys2Proof/Machine/Links.lean ====
section
/-! DEFINITION. The networks between dies, to H and to peers, as far as what they reach decides a fault: mesh and bridges
(R10-R12, R393), scale-up ports (R391, R392), and the degraded bits (R395, R396). -/

namespace Sys2Proof.Machine

/-- The dies that boundary `n` joins, in the order of R11. -/
def boundaryEnds (n : Nat) : Nat × Nat :=
  match n with
  | 0 => (0, 1) | 1 => (1, 2) | 2 => (2, 3) | 3 => (4, 5) | 4 => (5, 6) | 5 => (6, 7)
  | 6 => (0, 4) | 7 => (1, 5) | 8 => (2, 6) | _ => (3, 7)

/-- The bit of DEGRADED that a link has (R395). -/
def Link_bit : Link → Nat
  | .boundary n => 9 + n
  | .bridge d => 19 + d

/-- The boundaries that work. -/
def State.workingBoundaries (s : State) : List (Nat × Nat) :=
  ((List.range 10).filter fun n => !s.mgmt.degraded.getLsbD (9 + n)).map boundaryEnds

/-- A working boundary joins two dies. -/
def State.joined (s : State) (a b : Nat) : Bool := s.workingBoundaries.any fun e => e == (a, b) || e == (b, a)

/-- The dies of R12's route between two compute dies: along the source row to the destination's column, then across the rows. -/
def rowFirst (a b : Nat) : List Nat :=
  let cols := if a % 4 ≤ b % 4 then (List.range (b % 4 - a % 4 + 1)).map fun k => a + k
    else (List.range (a % 4 - b % 4 + 1)).map fun k => a - k
  if a / 4 = b / 4 then cols else cols ++ [b]

/-- Every hop of a path of compute dies crosses a working boundary. -/
def State.pathWorks (s : State) : List Nat → Bool
  | a :: b :: rest => s.joined a b && s.pathWorks (b :: rest)
  | _ => true

/-- The paths of `n` hops from a die over working boundaries, in lexicographic order of their die numbers. -/
def State.paths (s : State) : Nat → Nat → List (List Nat)
  | 0, a => [[a]]
  | n + 1, a => ((List.range 8).filter (s.joined a)).flatMap fun b => (State.paths s n b).map fun p => a :: p

/-- The shortest path between two compute dies that avoids failed boundaries, of equal ones the least in lexicographic order
(R393). -/
def State.detour (s : State) (a b : Nat) : Option (List Nat) :=
  (List.range 8).findSome? fun n => (s.paths n a).find? fun p => p.getLast? == some b

/-- The route between two compute dies: R12's while it uses no failed boundary (R393). -/
def State.meshRoute (s : State) (a b : Nat) : Option (List Nat) :=
  if s.pathWorks (rowFirst a b) then some (rowFirst a b) else s.detour a b

/-- The bridge of a first-row die works. -/
def State.bridgeWorks (s : State) (d : Nat) : Bool := decide (d < 4) && !s.mgmt.degraded.getLsbD (19 + d)

/-- The first-row die through which a compute die reaches H: that of its own column, or, where R12's route or its bridge has
failed, the one with a working bridge that is nearest in hops, the lower number on a tie (R10, R12, R393). -/
def State.gate (s : State) (a : Nat) : Option Nat :=
  if s.bridgeWorks (a % 4) && s.pathWorks (rowFirst a (a % 4)) then some (a % 4)
  else
    let near := ((List.range 4).filter s.bridgeWorks).filterMap fun d => (s.meshRoute a d).map fun p => (p.length, d)
    (near.foldl (fun best e => match best with
      | none => some e
      | some b => if e.1 < b.1 then some e else some b) none).map fun e => e.2

/-- The dies a packet passes from one die to another, both included; die 8 is H; none where no path remains (R10, R12, R393). -/
def State.route (s : State) (a b : Nat) : Option (List Nat) :=
  if a = b then some [a]
  else if b = 8 then (s.gate a).bind fun d => (s.meshRoute a d).map fun p => p ++ [8]
  else if a = 8 then (s.gate b).bind fun d => (s.meshRoute d b).map fun p => 8 :: p
  else s.meshRoute a b

/-- A path remains between two dies (R393). -/
def State.linked (s : State) (a b : Nat) : Bool := (s.route a b).isSome

/-- The boundaries and bridges a packet crosses from one die to another, as pairs of dies in order (R12, R393). -/
def State.crossings (s : State) (a b : Nat) : List (Nat × Nat) :=
  match s.route a b with
  | some p => p.zip (p.drop 1)
  | none => []

/-- The route-table entry of a peer holds a working port (R391, R392). -/
def State.reaches (s : State) (dev : BitVec 16) : Bool := Sparse.get 0#32 s.hub.routes dev.toNat != 0#32

/-! ### Units that wait (R28, R45, R46; log entry 13) -/

/-- The parts of an access at a peer that the unit has not sent yet go out, each kept until it is answered. -/
def State.askParts (s : State) (d : Doer) (slack : Nat) (late : Bool) (ps : List (FullAddr × Nat × PeerOp)) : State :=
  ps.foldl (fun (t : State) p =>
    if t.away.any fun e => e.who == d && e.at_ == p.1 && e.size == p.2.1 && e.op == p.2.2 then t
    else
      ({ t.bump with away := t.away ++ [⟨t.nextId, d, p.1, p.2.1, p.2.2, .sent⟩] } : State).toPeer p.1.dev
        (.access t.nextId 0 p.1.serial p.1.ofs p.2.1 p.2.2 (min slack 507904) late none) slack late) s

/-- What a unit that must wait sets going: the fill of its page, or its parking and the pager's wake where the pool is empty; its place among the
writes held at a moving page (R46); its access at a peer; none where nothing new is to be done. -/
def State.await (s : State) (d : Doer) (slack : Nat) (late : Bool) (w : Pause) : Option State :=
  match w with
  | .held => none
  | .frame => if s.names.pagerWoken then none else some { s with names := { s.names with pagerWoken := true } }
  | .peer f size op =>
    let t := s.askParts d slack late (peerParts f size op)
    if t.away.length = s.away.length then none else some t
  | .page die f =>
    match s.desc? f.serial with
    | none => none
    | some e =>
      match s.leafFor e (f.ofs / pageBytes e.pgsz) with
      | none => none
      | some (pte, s1) =>
        let st := pteState (Memory.word s1.mem pte)
        let noted := s1.away.any fun a => a.who == d && a.op == .drop && a.at_ == f
        let stand := fun (t : State) => { t.bump with away := t.away ++ [⟨t.nextId, d, f, 0, .drop, .sent⟩] }
        if st = 4 then (if noted then none else some (stand s1))
        else if st ≠ 0 then none
        else match s1.startFill die e pte with
          | some s2 => some s2
          | none => if noted then none else some (stand { s1 with names := { s1.names with pagerWoken := true } })

/-- A unit acts whole in one step, once all it touches is there; until then it sets going what it must wait for, keeps the aperture entries it has
read and the regions it wants of a host (R40, R389), and nothing else of it happens. None where it does not act, or waits with nothing new to do
(log entry 13). -/
def State.whole (s : State) (d : Doer) (slack : Nat) (late : Bool) (f : State → Option State) : Option State :=
  match f { s with doer := some d, pause := none } with
  | none => none
  | some t =>
    match t.pause with
    | none => some (({ t with doer := none } : State).endAway fun e => e == d)
    | some w =>
      let s1 := { s with bound := t.bound, hub := { s.hub with wanted := t.hub.wanted } }
      (s1.await d slack late w).or
        (if t.bound.length = s.bound.length && t.hub.wanted.length == s.hub.wanted.length then none else some s1)

/-- What a unit does next, unless it must wait. -/
def State.goOn (s : State) (f : State → Option State) : Option State := if s.pause.isSome then some s else f s

/-- The rights of an access, by their bits. -/
def rightsBits (ks : List Right) : Nat := ks.foldl (fun a r => a + 2 ^ r.bit) 0

/-- An access of a unit at a peer device, as far as it has come: its fault, its bytes, or, while the unit must wait, no bytes at all
(R28). LINK where the route-table entry holds no working port (R392). -/
def State.atPeer (s : State) (f : FullAddr) (size : Nat) (op : PeerOp) : Except (BitVec 8) (List Byte × State) :=
  match s.askPeer f size op with
  | .error e => .error e
  | .ok (some bs) => .ok (bs, s)
  | .ok none => if s.reaches f.dev then .ok ([], s.pauseFor (.peer f size op)) else .error codeLink

/-- The constellations masked across the module (R358). -/
def State.maskedCount (s : State) : Nat :=
  (s.faults.cmask.map fun m => (List.range 64).countP fun i => m.getLsbD i).sum

/-- The limits of R396 are passed. -/
def State.pastLimits (s : State) : Bool :=
  bits s.mgmt.degraded 0 23 != 0 || s.mgmt.degraded.getLsbD 57 ||
  decide (((List.range 32).countP fun i => s.mgmt.degraded.getLsbD (23 + i)) > 8) || decide (s.maskedCount > 64)

/-- REPLACE_REQUESTED is raised once the limits are passed, with its platform event (R396). -/
def State.checkReplace (s : State) : State :=
  if s.pastLimits && !s.mgmt.replace then
    { s with mgmt := { s.mgmt with replace := true, out := s.mgmt.out ++ [.event "REPLACE_REQUESTED" 0] } }
  else s

/-- A bit of DEGRADED set (R395, R396). -/
def State.degrade (s : State) (bit : Nat) : State :=
  ({ s with mgmt := { s.mgmt with degraded := s.mgmt.degraded ||| BitVec.ofNat 64 (2 ^ bit) } }).checkReplace

end Sys2Proof.Machine
end

