-- ==== Sys2Proof/Machine/Tiles.lean ====
section
/-! DEFINITION. The memory tiles and the pager: TILE_ACCESS and the walkers (R41, R42, R177), the page step (R43-R46),
prefetch (R341), page fills, write-backs, migration and eviction (R46), the heat window (R184). -/

namespace Sys2Proof.Machine

/-! ### Requests -/

/-- A request of the firing record in its first stage (R122, R239). -/
def State.request (s : State) (i : Instr) (st : Stage) (v : Word) : State :=
  let sl := s.outSlack i
  let born := (s.myInst.map fun j => j.born).getD 0
  { s.bump with reqs := s.reqs ++
      [⟨s.nextId, born, i, s.latch, sl, sl, sl == 0, st, false, false, [], [], [], false, (s.me.map fun x => x.env.item).getD 0, [], v⟩] }

/-- A server begins to serve a request: a late one that returns nothing is delivered now (R149, R150). -/
def State.serve (s : State) (q : Req) : State :=
  if q.served then s
  else
    let s1 := s.updReq q.id fun r => { r with served := true }
    if q.lateNow && returnsNothing q.instr then
      s1.lateDelivery q.latch.ctx q.latch.route q.latch.key (newTok .null 0 none 0) (loudOf q.instr)
    else s1

/-- The instance that sent a request still stands. -/
def State.reqInst (s : State) (q : Req) : Option Inst := (s.ctx? q.latch.ctx).bind fun x => x.inst? q.latch.route

/-- A fault record of a request, ending: held with its instance, which may be a saved one's (R131, R332; log entry 21). Where that is gone nothing
is left for it to end. The request is over. -/
def State.reqEnds (s : State) (q : Req) (f : Inst → FaultRec) : State :=
  match s.reqInst q with
  | some i => (s.dropReq q.id).raise q.latch.ctx q.latch.route (f i)
  | none => (s.dropReq q.id).updKept q.latch.ctx q.latch.route fun i => { i with faults := i.faults ++ [f i] }

/-- A fault of a request's access, at the near address given: the record's, or, for LINK, the port's or the hop's (R364, R392,
R393). -/
def State.reqFault (s : State) (q : Req) (code : BitVec 8) (addr : Word) : State :=
  s.reqEnds q fun i =>
    if code == codeLink then
      { unitFault (s.dieOf q.latch.ctx) 7 0 code addr 0 with ending := true }
    else s.recordFault q.latch.ctx q.latch.route q.latch.key i.block code addr 0

/-- LINK at the scale-up ports (R392). -/
def State.peerFault (s : State) (q : Req) (addr : Word) : State :=
  s.reqEnds q fun _ => { unitFault 8 6 0 codeLink addr 0 with ending := true }

/-! ### Tiles (R42) -/

/-- The outcome of the checks of an access: a fault, with its lane, the failing near address and the pieces of the lanes before it; a key that
must be walked; or the pieces. -/
inductive Check where
  | fault (lane : Nat) (code : BitVec 8) (addr : Word) (before : List Piece)
  | walk (k : CacheKey)
  | ok (ps : List Piece)

/-- The checks of one span in the order of R41 against the aperture entry it has read, with R177 after the rights check and PERSIST's own
after them (R40, R252). A name step passed before, by an access that waited for a page's walk, stands (R49). -/
def State.checkSpan (s : State) (tile : Nat × Nat) (i : Instr) (named : List (BitVec 64)) (p : Span) (ap : Option Aperture) : Check :=
  match Aperture.check ap p.addr p.size (rightsOf i) p.al with
  | .error e => .fault p.lane e p.addr []
  | .ok f =>
    let persists := opKind i == .persist
    if f.dev ≠ s.names.devNum then
      if f.dev.toNat ≥ 9216 || !(s.names.peers.contains f.dev) then .fault p.lane codeNameUnissued p.addr []
      else .ok (cutSpan i p.addr p.size p.lane f (if i.writes || persists then .probing else .ready))
    else match s.nameStepOf (named.contains f.serial) tile.1 f p.size (rightsOf i) with
      | .error e =>
        if e == codeNameUnissued || e == codeNameDead || (s.tile tile).cache.contains ⟨f.serial, none⟩ then .fault p.lane e p.addr []
        else .walk ⟨f.serial, none⟩
      | .ok d =>
        let t := s.tile tile
        let key : CacheKey := ⟨f.serial, some (f.ofs / pageBytes d.pgsz)⟩
        if !(t.cache.contains ⟨f.serial, none⟩ || named.contains f.serial) then .walk ⟨f.serial, none⟩
        else if persists then
          (if d.cls ≠ 1 then .fault p.lane codePersist p.addr [] else .ok (cutSpan i p.addr p.size p.lane f .ready))
        else if !t.cache.contains key then .walk key
        else .ok (cutSpan i p.addr p.size p.lane f .ready)

/-- The checks of every span, in order; the first that fails is the record's fault (R337). -/
def State.checkSpans (s : State) (tile : Nat × Nat) (i : Instr) (named : List (BitVec 64)) : List (Span × Option Aperture) → Check
  | [] => .ok []
  | p :: ps =>
    match s.checkSpan tile i named p.1 p.2 with
    | .ok qs =>
      (match s.checkSpans tile i named ps with
      | .ok rest => .ok (qs ++ rest)
      | .fault l e a b => .fault l e a (qs ++ b)
      | e => e)
    | e => e

/-- A request joins the walk of a key under way, or takes a free walker; none when all four are busy with others (R42). Where it is a page that is
walked, the name step has been passed (R49). -/
def State.takeWalker (s : State) (tile : Nat × Nat) (q : Req) (k : CacheKey) : Option State :=
  let t := s.tile tile
  let waits := s.updReq q.id fun r =>
    { r with stage := .walking, named := if k.page.isSome && !r.named.contains k.serial then r.named ++ [k.serial] else r.named }
  if t.walkers.contains (some k) then some waits
  else match t.walkers.findIdx? fun w => w.isNone with
    | some n => some (waits.updTile tile fun t => { t with walkers := updAt t.walkers n fun _ => some k })
    | none => none

/-- An access reads its aperture entries, once; they are cached by its constellation, at most 64 (R40). An entry read before an APSET
completes holds for the access. -/
def State.readApertures (s : State) (q : Req) : State :=
  let c := q.latch.ctx
  let es := s.entriesFor c q.instr q.latch q.aps
  if q.aps.length = es.length then s
  else
    let s1 := s.updReq q.id fun r => { r with aps := es.map fun e => e.2 }
    let die := s.dieOf c
    let con := q.latch.route.con
    let ks : List ApCache := es.map fun e => ⟨die, con, ats (s.atpOf c), bits e.1.addr 44 20⟩
    let mine := fun (e : ApCache) => e.die == die && e.con == con
    let own := ((s.names.apertures.filter mine).filter fun e => !ks.contains e) ++ distinct ks
    { s1 with names := { s1.names with
        apertures := (s1.names.apertures.filter fun e => !mine e) ++ own.drop (own.length - 64) } }

/-! ### The page step (R43-R46) -/

/-- The page step of one piece on this device: with its home, parked on an absent or filling page, or RESIDENCY, also where no table node is
left for the page's entry (log entry 6). -/
def State.placePiece (s : State) (die : Nat) (p : Piece) : Except (BitVec 8) (Piece × State) :=
  match s.desc? p.serial with
  | none => .error codeNameDead
  | some d =>
    let page := p.ofs / pageBytes d.pgsz
    match s.leafFor d page with
    | none => .error codeResidency
    | some (pte, s1) =>
      let p1 := { p with pte := pte }
      let st := pteState (Memory.word s1.mem pte)
      if st > 4 then .error codeResidency
      else if st = 0 then
        (match s1.startFill die d pte with
        | some s2 => .ok ({ p1 with stage := .parked }, s2)
        | none => .ok ({ p1 with stage := .parked }, { s1 with names := { s1.names with pagerWoken := true } }))
      else if st = 1 then .ok ({ p1 with stage := .parked }, s1)
      else if !s1.linked die (homeOf (frameAddr d (Memory.word s1.mem pte))).1 then .error codeLink
      else .ok ({ p1 with stage := .ready }, s1)

/-- The page steps of the pieces on this device. -/
def State.placePieces (s : State) (die : Nat) : List Piece → Except (BitVec 8 × Word) (List Piece × State)
  | [] => .ok ([], s)
  | p :: ps =>
    if p.dev ≠ s.names.devNum then
      (match s.placePieces die ps with
      | .ok (rest, s2) => .ok (p :: rest, s2)
      | .error e => .error e)
    else match s.placePiece die p with
      | .error e => .error (e, p.near)
      | .ok (p1, s1) =>
        (match s1.placePieces die ps with
        | .ok (rest, s2) => .ok (p1 :: rest, s2)
        | .error e => .error e)

/-! ### Prefetch (R341) -/

/-- PREF of a peer's object: asked of its device in one packet, with the bounds of the aperture in the object (R28, R341; log entry 17). It is
delivered when the peer serves it (R149). -/
def State.prefPeer (s : State) (q : Req) (a : Word) (f : FullAddr) (pages : Nat) (ap : Option Aperture) : State :=
  if f.dev.toNat ≥ 9216 || !(s.names.peers.contains f.dev) || !s.reaches f.dev then (s.serve q).dropReq q.id
  else
    let lo := (ap.map fun e => e.base).getD 0
    let p : Piece := ⟨a, 1, 0, f.dev, f.serial, f.ofs, 0, .peer, [], q.slack, q.late, false⟩
    (s.updReq q.id fun r => { r with stage := .homes, pieces := [p] }).toPeer f.dev
      (.access q.id 0 f.serial f.ofs 1 (.warm pages lo (lo + (ap.map fun e => e.length).getD 0)) q.slack q.late none) q.slack q.late

/-- PREF at its walking tile, once its order allows it (R239, R246): it warms one page at a step, the next of those it names, from the first byte of
the page that holds its address on, until one fails a check of R41 against the aperture entry `ap` that it has read (R40); a page that the tile
has not walked takes a walker (R42, R341). `value` counts the pages warmed. -/
def State.prefNow (s0 : State) (tile : Nat × Nat) (q : Req) (m : MemLit) (pgs : Nat) (ap : Option Aperture) : Option State :=
  if !s0.orderOk q [] then none
  else
    let s := s0.serve q
    let spent := some (s.dropReq q.id)
    let n := q.value.toNat
    let a := q.latch.address m
    match Aperture.check ap a 1 [.r] 1 with
    | .error _ => spent
    | .ok f0 =>
      if f0.dev ≠ s.names.devNum then some (s0.prefPeer q a f0 (pgs + 1) ap)
      else
        let pb := match s.desc? f0.serial with
          | some d => pageBytes d.pgsz
          | none => 2 ^ 16
        let at_ := a - BitVec.ofNat 64 (f0.ofs % pb) + BitVec.ofNat 64 (n * pb)
        let next := fun (t : State) =>
          if n ≥ pgs then some (t.dropReq q.id) else some (t.updReq q.id fun r => { r with value := r.value + 1 })
        if f0.ofs % pb > bits a 0 44 ∨ bits at_ 44 20 ≠ bits a 44 20 then spent
        else match s.locateBy (q.named.contains f0.serial) tile.1 ap at_ 1 [.r] 1 with
        | .ok (.here f d) =>
          let t := s.tile tile
          let key : CacheKey := ⟨f.serial, some (f.ofs / pageBytes d.pgsz)⟩
          if !(t.cache.contains ⟨f.serial, none⟩ || q.named.contains f.serial) then s.takeWalker tile q ⟨f.serial, none⟩
          else if !t.cache.contains key then s.takeWalker tile q key
          else (match s.leafFor d (f.ofs / pageBytes d.pgsz) with
            | none => spent
            | some (pte, s1) =>
              let st := pteState (Memory.word s1.mem pte)
              if st > 4 then spent
              else next (if st = 0 then (s1.startFill tile.1 d pte).getD s1 else s1))
        | _ => spent

/-! ### Group members (R196, R197) -/

/-- The group entry of a job and number. -/
def State.group? (s : State) (job : Nat) (g : BitVec 8) : Option Group :=
  s.engines.groups.find? fun e => e.job == job && e.num == g

/-- The job a context belongs to. -/
def State.jobIn (s : State) (c : CtxId) : Nat :=
  match s.ctx? c with
  | some x => x.env.job
  | none => 0

/-- The checks of one member's load on this device: a key to walk, the failure of the load, or its pieces; a member on a peer
device is carried there (R197). -/
def State.checkMember (s : State) (tile : Nat × Nat) (i : Instr) (named : List (BitVec 64)) (j : Nat) (f : FullAddr) : Check :=
  if f.ofs % 64 ≠ 0 then .fault j codeAlign 0 []
  else if f.dev ≠ s.names.devNum then
    if f.dev.toNat ≥ 9216 || !(s.names.peers.contains f.dev) then .fault j codeNameUnissued 0 []
    else if !s.reaches f.dev then .fault j codeLink 0 []
    else .ok (cutSpan i 0 64 j f .ready)
  else match s.nameStepOf (named.contains f.serial) tile.1 f 64 [.r] with
    | .error e =>
      if e == codeNameUnissued || e == codeNameDead || (s.tile tile).cache.contains ⟨f.serial, none⟩ then .fault j e 0 []
      else .walk ⟨f.serial, none⟩
    | .ok d =>
      let t := s.tile tile
      let key : CacheKey := ⟨f.serial, some (f.ofs / pageBytes d.pgsz)⟩
      if !(t.cache.contains ⟨f.serial, none⟩ || named.contains f.serial) then .walk ⟨f.serial, none⟩
      else if !t.cache.contains key then .walk key
      else .ok (cutSpan i 0 64 j f .ready)

/-- A member's full address with the record's offset. -/
def memberAt (f : FullAddr) (ofs : BitVec 32) : FullAddr :=
  { f with ofs := ((f.ofs : Int) + ofs.toInt).toNat }

/-- The members' loads: a key to walk, or the pieces with the mask of the members that fail (R197, R411). -/
def State.checkMembers (s : State) (tile : Nat × Nat) (i : Instr) (named : List (BitVec 64)) (ofs : BitVec 32) :
    List (Option FullAddr × Nat) → Except CacheKey (List Piece × Nat)
  | [] => .ok ([], 0)
  | (none, j) :: ms =>
    (match s.checkMembers tile i named ofs ms with
    | .ok (ps, fl) => .ok (ps, fl + 2 ^ j)
    | .error k => .error k)
  | (some f, j) :: ms =>
    let bad := (f.ofs : Int) + ofs.toInt < 0
    match (if bad then Check.fault j codeAperture 0 [] else s.checkMember tile i named j (memberAt f ofs)) with
    | .walk k => .error k
    | .fault _ _ _ _ =>
      (match s.checkMembers tile i named ofs ms with
      | .ok (ps, fl) => .ok (ps, fl + 2 ^ j)
      | .error k => .error k)
    | .ok qs =>
      (match s.checkMembers tile i named ofs ms with
      | .ok (ps, fl) => .ok (qs ++ ps, fl)
      | .error k => .error k)

/-- The page steps of the members' pieces; a member whose page step fails joins the mask. -/
def State.placeMembers (s : State) (die : Nat) (ps : List Piece) (failed : Nat) : List Piece × Nat × State :=
  ps.foldl (fun acc p =>
    let (out, fl, t) := acc
    if p.dev ≠ t.names.devNum then (out ++ [p], fl, t)
    else match t.placePiece die p with
      | .ok (p1, t1) => (out ++ [p1], fl, t1)
      | .error _ => (out ++ [{ p with stage := .done }], fl ||| 2 ^ (p.lane / 8), t)) ([], failed, s)

/-- INFO of a GROUP record: the group number's low bits and the lowest absent member, 0xFF for another cause (R411). -/
def groupInfo (g : Word) (j : Nat) : Word := BitVec.ofNat 64 (g.toNat % 256 + 256 * j)

/-- A GROUP fault of a request: held with its instance, or posted at once where that is gone (R131, R197, R411). -/
def State.groupFault (s : State) (q : Req) (info : Word) : State :=
  match s.reqInst q with
  | some i => s.raise q.latch.ctx q.latch.route
      (s.recordFault q.latch.ctx q.latch.route q.latch.key i.block codeGroup 0 info)
  | none => s.chargeAny q.latch.ctx (s.recordFault q.latch.ctx q.latch.route q.latch.key q.latch.route.block codeGroup 0 info)

/-- MLDRED at the switch: its group entry, and its members' loads (R197). A GSET before it has been performed (R196). -/
def State.mldredNow (s : State) (tile : Nat × Nat) (q : Req) (ofs : BitVec 32) : Option State :=
  if !s.orderOk q [] then none
  else
    let g := q.latch.opL.word
    match (if g.toNat ≥ 256 then none else s.group? (s.jobOf q.latch.ctx) (g.setWidth 8)) with
    | none => some ((s.groupFault q (groupInfo g 0xFF)).answer q .null .null 0 q.replySlack q.late)
    | some e =>
      match s.checkMembers tile q.instr q.named ofs e.members.zipIdx with
      | .error k => s.takeWalker tile q k
      | .ok (ps, fl) =>
        let (ps1, fl1, s1) := s.placeMembers (s.dieOf q.latch.ctx) ps fl
        let ps2 := ps1.map fun p => { p with slack := q.slack, late := q.late }
        some (s1.updReq q.id fun r => { r with stage := .homes, pieces := ps2, value := BitVec.ofNat 64 fl1 })

/-! ### TILE_ACCESS (R41) -/

/-- The checks of a piece are sent to its peer. -/
def State.peerProbe (s : State) (q : Req) (k : Nat) (p : Piece) : State :=
  s.toPeer p.dev (.access q.id k p.serial p.ofs p.size (.probe (rightsBits (rightsOf q.instr))) q.slack q.late none) q.slack q.late

/-- The pieces of a write or a PERSIST that stand on peer devices are checked there before commit, by a packet of their own (R28, R131;
log entry 17). -/
def State.probePeers (s : State) (q : Req) (ps : List Piece) : State :=
  ps.zipIdx.foldl (fun t p => if p.1.stage == .probing then t.peerProbe q p.2 p.1 else t) s

/-- A request whose checks have passed goes on to its homes. A record with no present lane makes no access (R337). -/
def State.toHomes (s : State) (q : Req) (ps : List Piece) : State :=
  let ps := ps.map fun p => { p with slack := q.slack, late := q.late }
  let s1 := (s.updReq q.id fun r => { r with stage := .homes, pieces := ps }).probePeers q ps
  match opKind q.instr, ps with
  | .load, [] => s1.answer q (.vector 0) (.vector 0) (match q.instr with | .vldg _ _ _ ch => ch | _ => 0) q.replySlack q.late
  | .write, [] => if q.instr.near.isSome then s1 else s1.updReq q.id fun r => { r with stage := .done }
  | .persist, ps => if ps.any fun p => p.stage == .probing then s1 else s1.lsidDone q
  | _, _ => s1

/-- The entry of a region's port table (R116). -/
def State.portAt (s : State) (c : CtxId) (q : Nat) : Option EngPort :=
  (s.regionOf c).bind fun g => (g.ports.find? fun e => e.1 == q).map fun e => e.2

/-- Where an LDR's reply goes: the entry's binding, if bits 63:10 are zero and it takes a scalar token (R340). -/
def State.ldrPort (s : State) (c : CtxId) (r : Word) : Option EngPort :=
  if r.toNat ≥ 1024 then none
  else match s.portAt c r.toNat with
    | some (.stage n false) => some (.stage n false)
    | _ => none

/-- The requests at a tile that wait in its port queue or for a walker. -/
def State.atTile (s : State) (tile : Nat × Nat) (st : Stage) : List Req :=
  s.reqs.filter fun q => q.stage == st && s.walkTile q.latch.ctx q.latch.route.con == tile

/-- A lane has met a fault here while lanes before it stand on peers: theirs are checked there first, since the lowest lane's fault is the record's
(R337, R340; log entry 17). -/
def State.probeFirst (s : State) (q : Req) (far : List Piece) (lane : Nat) (code : BitVec 8) (addr : Word) : State :=
  match far.find? fun p => !s.reaches p.dev with
  | some p => s.peerFault q p.near
  | none =>
    if far.isEmpty then s.reqFault q code addr
    else
      let ps := far.map fun p => { p with stage := .probing, slack := q.slack, late := q.late }
      (s.updReq q.id fun r => { r with stage := .homes, pieces := ps, fails := [(lane, code, addr)] }).probePeers q ps

/-- The tile translates an access: the checks of R41 and R177, a walk where a name or page is not cached, then the page step,
parking on an absent or filling page (R42, R46). None where the request is not waiting, or no walker is free for it. -/
def State.translate (s0 : State) (q : Req) : Option State :=
    if q.stage != .queued || q.instr.holdsCommit then none
    else
      let s := s0.readApertures q
      let tile := s.walkTile q.latch.ctx q.latch.route.con
      match q.instr with
      | .pref _ m pgs => s.prefNow tile q m pgs.toNat (((s0.entriesFor q.latch.ctx q.instr q.latch q.aps).head?.map fun e => e.2).getD none)
      | .mldred _ _ ofs => s.mldredNow tile q ofs
      | .gset _ _ => none
      | i =>
        if (match i with | .persist _ _ _ => decide (q.latch.opR.word.toNat ≥ 2 ^ 44) | _ => false) then
          some (s.reqFault q codeAperture (match memLitOf i with | some m => q.latch.address m | none => 0))
        else match s.checkSpans tile i q.named (s0.entriesFor q.latch.ctx i q.latch q.aps) with
          | .fault l e a before => some (s.probeFirst q (before.filter fun p => p.dev != s.names.devNum) l e a)
          | .walk k => s.takeWalker tile q k
          | .ok ps =>
            let near := match memLitOf i with | some m => q.latch.address m | none => 0
            if (match i with
                | .cadd _ _ _ _ | .caddr _ _ _ _ => decide (q.latch.opR.word.toNat ≥ 2 ^ 48) | _ => false) then
              some (s.reqFault q codeCntadd near)
            else if (ps.any fun p => p.dev != s.names.devNum && !s.reaches p.dev) then
              some (s.peerFault q (match ps with | p :: _ => p.near | [] => 0))
            else if opKind i == .persist then some (s.toHomes q ps)
            else match s.placePieces (s.dieOf q.latch.ctx) ps with
              | .error (e, a) => some (s.reqFault q e a)
              | .ok (ps1, s1) =>
                if (match i with | .ldr _ _ _ _ => (s.ldrPort q.latch.ctx q.latch.opR.word).isNone | _ => false) then
                  some (s1.probeFirst q (ps1.filter fun p => p.dev != s1.names.devNum) 1 codeNoport near)
                else some (s1.toHomes q ps1)

/-- What a queue serves first: less slack, so a late packet before all others, then the older (R146, R148). A queue's packets enter it
one by one, so no choice is left to round-robin. -/
def Req.urgent (a b : Req) : Bool := decide (a.slack < b.slack) || (a.slack == b.slack && decide (a.id < b.id))

/-- TILE_ACCESS on the request given, if the tile's arbiter chooses it: no request of its port queue that could go on comes before it (R146,
R180). -/
def State.tileNow (s : State) (r : Nat) : Option State :=
  match s.req? r with
  | none => none
  | some q =>
    if (s.atTile (s.walkTile q.latch.ctx q.latch.route.con) .queued).any fun e => e.urgent q && (s.translate e).isSome then none
    else s.translate q

/-- A walker has read the descriptor and nodes: what it walked is cached, the accesses that waited for it go on, and a miss
waiting in the port queue takes the freed walker (R42). -/
def State.walkDone (s : State) (tile : Nat × Nat) (w : Nat) : Option State :=
  match (s.tile tile).walkers[w]? with
  | some (some k) =>
    let s1 := s.updTile tile fun t => { t.remember k with walkers := updAt t.walkers w fun _ => none }
    let ids := (s1.atTile tile .walking).map fun q => q.id
    let s2 := { s1 with reqs := updWhere (fun q => ids.contains q.id) (fun q => { q with stage := .queued }) s1.reqs }
    let s3 := (ids.filterMap s2.req?).foldl (fun t q => ((t.req? q.id).bind t.translate).getD t) s2
    match firstBy Req.urgent (s3.atTile tile .queued) with
    | some q => some ((s3.translate q).getD s3)
    | none => some s3
  | _ => none

/-- TABLE_WALK_COMPLETE (R42). -/
def execTableWalkComplete (die tile walker : Nat) (s : State) : Host.Outcome State Fault Refusal :=
  .next ((s.walkDone (die, tile) walker).getD s)

/-! ### The pager (R45, R46) -/

/-- The owner of a page entry. -/
def State.owner? (s : State) (pte : Nat) : Option (Desc × Nat) :=
  match s.names.owners.find? fun o => o.pte == pte with
  | some o => (s.desc? o.serial).map fun d => (d, o.page)
  | none => none

/-- Accesses parked on absent pages try again for a frame (R45, R46). -/
def State.retryParked (s : State) : State :=
  let parked := s.reqs.flatMap fun q => (q.pieces.filter fun p => p.stage == .parked).map fun p => (q, p)
  parked.foldl (fun t qp =>
    if pteState (Memory.word t.mem qp.2.pte) = 0 then
      match t.desc? qp.2.serial with
      | some d => (t.startFill (t.walkTile qp.1.latch.ctx qp.1.latch.route.con).1 d qp.2.pte).getD t
      | none => t
    else t) s

/-- A block of the persistent tier that does not exist (R22). -/
def badBlock (w : Word) (durable : Bool) : Option Nat :=
  if durable && decide (ptePblk w ≥ tierBlocks) then some (ptePblk w) else none

/-- The block a page move or write-back would touch does not exist. -/
def State.badMove (s : State) (pte : Nat) : Option Nat :=
  match s.owner? pte with
  | some (d, _) => badBlock (Memory.word s.mem pte) (durableClass d.cls)
  | none => none

/-- The move under way at a page. -/
def State.move? (s : State) (pte : Nat) : Option Move := s.names.moves.find? fun m => m.pte == pte

/-- A fill completes (R46). -/
def State.fillDone (s : State) (pte : Nat) : Option State :=
  match s.move? pte with
  | some m => (match m.kind with | .fill => some (s.finishFill m) | _ => none)
  | none => none

/-- PAGE_FILL_COMPLETE (R46). A fill reads a block of the persistent tier; one at or above 48 TiB does not exist (R22). -/
def execPageFillComplete (pte : Nat) (s : State) : Host.Outcome State Fault Refusal :=
  match s.fillDone pte with
  | none => .next s
  | some s1 => match s.badMove pte with
    | some b => .fault (.noTierBlock b)
    | none => .next s1

/-- A write all of whose pieces are over. A CADDR that none has applied returns a value that the spec leaves open (R224; log entry 3). -/
def State.writeDone (s : State) (r : Nat) : State :=
  match s.req? r with
  | none => s
  | some q =>
    if q.pieces.all fun p => p.stage == .done then
      match q.instr with
      | .caddr _ _ _ _ => (s.free.2.updReq r fun e => { e with stage := .answer, value := s.free.1 }).drained q.latch.ctx q.latch.route
      | _ => (s.updReq r fun e => { e with stage := .done }).drained q.latch.ctx q.latch.route
    else s

/-- One access parked on a page whose fill the pager declines: RESIDENCY, ending where its instance has not committed, charged to
its context where it has, a failed member in an MLDRED (R131, R183, R197). -/
def State.declineOne (s : State) (q : Req) (pte : Nat) : State :=
  match q.pieces.find? fun p => p.pte == pte && p.stage == .parked with
  | none => s
  | some p =>
    let mine := fun (e : Piece) => e.pte == pte && e.stage == .parked
    let gone := fun (r : Req) => { r with pieces := updWhere mine (fun e => { e with stage := .done }) r.pieces }
    match q.instr with
    | .mldred _ _ _ => s.updReq q.id fun r => { gone r with value := r.value ||| BitVec.ofNat 64 (2 ^ (p.lane / 8)) }
    | _ =>
      if q.go then
        ((s.updReq q.id gone).chargeAny q.latch.ctx
          (unitFault (s.walkTile q.latch.ctx q.latch.route.con).1 5 (s.walkTile q.latch.ctx q.latch.route.con).2 codeResidency
            p.near 0)).writeDone q.id
      else s.reqFault q codeResidency p.near

/-- A unit's access is parked on the page whose entry is at `pte` (R46). -/
def State.unitParked (s : State) (pte : Nat) (e : Away) : Bool :=
  e.op == .drop && e.ans == .sent && (match s.desc? e.at_.serial with
    | some d => s.leaf? d (e.at_.ofs / pageBytes d.pgsz) == some pte
    | none => false)

/-- The pager frees no frame: every access parked on the absent page, a unit's and a hardware add's among them, faults RESIDENCY (R45,
R46). -/
def State.declineNow (s : State) (pte : Nat) : Option State :=
  let parked := s.reqs.filter fun q => q.pieces.any fun p => p.pte == pte && p.stage == .parked
  if pteState (Memory.word s.mem pte) = 0 && (!parked.isEmpty || s.away.any (s.unitParked pte)) then
    let s1 := { s with names := { s.names with pagerWoken := false },
                       away := updWhere (s.unitParked pte) (fun e => { e with ans := .fault codeResidency }) s.away }
    some (parked.foldl (fun t q => t.declineOne q pte) s1)
  else none

/-- PAGER_DECLINE (R45). -/
def execPagerDecline (pte : Nat) (s : State) : Host.Outcome State Fault Refusal := .next ((s.declineNow pte).getD s)

/-- A resident page begins to move: FRAME is kept and the previous state recorded (R46). Class S pages never move. -/
def State.startMove (s : State) (pte : Nat) (evict : Bool) (die : Nat) : Option State :=
  match s.owner? pte with
  | none => none
  | some (d, page) =>
    let w := Memory.word s.mem pte
    let st := pteState w
    if (st = 2 ∨ st = 3) ∧ d.cls ≠ 2 ∧ !(s.names.writebacks.any fun b => b.pte == pte) ∧
        !(s.durable.any fun u => u.at_.serial == d.serial && u.at_.ofs / pageBytes d.pgsz == page) then
      let moving := fun (t : State) (k : MoveKind) =>
        let t1 := t.setPte pte (mkPte 4 (ptePblk w) (pteFrame w))
        { t1 with names := { t1.names with
            moves := t1.names.moves ++ [⟨pte, k, pteFrame w, pageBytes d.pgsz, st = 3⟩] } }
      if evict then (if durableClass d.cls then some (moving s .evict) else none)
      else match s.takeFrame die d.pgsz with
        | (some f, s1) => some (moving s1 (.migrate f))
        | (none, _) => none
    else none

/-- PAGER_MIGRATE_START (R46): to a frame of the die given. -/
def execPagerMigrateStart (pte die : Nat) (s : State) : Host.Outcome State Fault Refusal :=
  .next ((s.startMove pte false die).getD s)

/-- PAGER_EVICT_START (R46): a page of class P or X-on-P. -/
def execPagerEvictStart (pte : Nat) (s : State) : Host.Outcome State Fault Refusal :=
  .next ((s.startMove pte true 0).getD s)

/-- A migration completes, and the old frame is free for parked accesses (R46). -/
def State.migrateDone (s : State) (pte : Nat) : Option State :=
  match s.move? pte with
  | some m => (match m.kind with | .migrate f => some (s.finishMigrate m f).retryParked | _ => none)
  | none => none

/-- MIGRATION_COMPLETE (R46). -/
def execMigrationComplete (pte : Nat) (s : State) : Host.Outcome State Fault Refusal :=
  .next ((s.migrateDone pte).getD s)

/-- The entry of the page that holds a byte of an object here. -/
def State.leafAt (s : State) (serial : BitVec 64) (ofs : Nat) : Option Nat :=
  (s.desc? serial).bind fun d => s.leaf? d (ofs / pageBytes d.pgsz)

/-- A peer's access writes at its home. -/
def peerWrites : PeerOp → Bool
  | .store _ | .stores _ | .combine _ _ _ | .add _ _ => true
  | _ => false

/-- A store, combine or counter add, of a record, a unit, hardware or a peer, is held in the ordering buffer of a moving page's old home (R46). -/
def State.heldAt (s : State) (pte : Nat) : Bool :=
  (s.away.any (s.unitParked pte)) ||
  (s.adds.any fun a => a.dst.dev == s.names.devNum && s.leafAt a.dst.serial a.dst.ofs == some pte && !s.hwWaits a) ||
  (s.hub.peerAccs.any fun a => !a.held && peerWrites a.op && s.leafAt a.serial a.ofs == some pte) ||
  s.reqs.any fun q => q.instr.writes && q.go && q.stage == .homes &&
    q.pieces.any fun p => p.pte == pte && p.stage == .ready && s.orderOk q [p.foot]

/-- An eviction completes: abandoned where operations are held; otherwise a dirty page is written back and the frame returns to the
pool (R46). -/
def State.evictDone (s : State) (pte : Nat) : Option State :=
  match s.move? pte with
  | some m =>
    (match m.kind with
    | .evict =>
      if s.heldAt pte then some (s.abandonEvict m)
      else
        let w := Memory.word s.mem pte
        let mem := if m.dirty then Memory.copy s.mem m.base (tierAddr (ptePblk w)) m.size else s.mem
        let s1 := { s with mem := mem, names := { s.names with moves := s.names.moves.filter fun x => x.pte != pte } }
        some ((s1.setPte pte (mkPte 0 (ptePblk w) 0)).giveFrame m.frame (pgszOf m.size)).retryParked
    | _ => none)
  | none => none

/-- EVICTION_COMPLETE (R46). A dirty page goes to its block of the persistent tier, which must exist (R22). -/
def execEvictionComplete (pte : Nat) (s : State) : Host.Outcome State Fault Refusal :=
  match s.evictDone pte with
  | none => .next s
  | some s1 => match s.badMove pte with
    | some b => .fault (.noTierBlock b)
    | none => .next s1

/-- An outstanding PERSIST covers a page. -/
def State.persistCovers (s : State) (d : Desc) (page : Nat) : Bool :=
  let pb := pageBytes d.pgsz
  s.reqs.any fun q => opKind q.instr == .persist && q.stage == .homes && q.pieces.any fun p =>
    p.dev == s.names.devNum && p.serial == d.serial && decide (p.ofs ≤ page * pb) && decide ((page + 1) * pb ≤ p.ofs + p.size)

/-- The write-back of a whole dirty page begins while a PERSIST covers it, all of it: hardware writes a page to the persistent tier then and
at its eviction alone (R46, R182; log entry 13). -/
def State.startWriteback (s : State) (pte : Nat) : Option State :=
  match s.owner? pte with
  | none => none
  | some (d, page) =>
    if s.persistCovers d page ∧ pteState (Memory.word s.mem pte) = 3 ∧ durableClass d.cls ∧ !(s.names.writebacks.any fun b => b.pte == pte) then
      some { s with names := { s.names with writebacks := s.names.writebacks ++ [⟨pte, pageBytes d.pgsz, false⟩] } }
    else none

/-- A write-back completes: the page is clean unless a store arrived after it began (R46). -/
def State.writebackDone (s : State) (pte : Nat) : Option State :=
  match s.names.writebacks.find? fun b => b.pte == pte with
  | none => none
  | some b =>
    let w := Memory.word s.mem pte
    let mem := Memory.copy s.mem (pteFrame w * 2 ^ 16) (tierAddr (ptePblk w)) b.size
    let s1 := { s with mem := mem,
                       names := { s.names with writebacks := s.names.writebacks.filter fun x => x.pte != pte } }
    some (if b.hit then s1 else s1.setPte pte (mkPte 2 (ptePblk w) (pteFrame w)))

/-- WRITEBACK_COMPLETE (R46). The block it writes must exist (R22). -/
def execWritebackComplete (pte : Nat) (s : State) : Host.Outcome State Fault Refusal :=
  match s.writebackDone pte with
  | none => .next s
  | some s1 => match s.badMove pte with
    | some b => .fault (.noTierBlock b)
    | none => .next s1

/-! ### Heat (R184) -/

/-- A heat word after a window: halved, with the counts added, each half saturating. -/
def heatWord (w : Word) (e : Heat) : Word :=
  let top := 2 ^ 32 - 1
  BitVec.ofNat 32 (min top (bits w 32 32 / 2 + e.stv)) ++ BitVec.ofNat 32 (min top (bits w 0 32 / 2 + e.dlv))

/-- One page's counts folded into its heat word. -/
def State.foldHeat (s : State) (e : Heat) : State :=
  match s.desc? e.serial with
  | none => s
  | some d =>
    let a := d.side + 8 * e.page
    { s with mem := Memory.setWord s.mem a (heatWord (Memory.word s.mem a) e) }

/-- HEAT_WINDOW_END (R184): every tile folds its counts into the heat words and clears them. -/
def execHeatWindowEnd (s : State) : Host.Outcome State Fault Refusal :=
  let s1 := s.names.tiles.foldl (fun t e => e.2.heat.foldl State.foldHeat t) s
  let tiles := s.names.tiles.foldl (fun ts e => Sparse.put Tile.idle ts e.1 { e.2 with heat := [] }) s.names.tiles
  .next { s1 with names := { s1.names with tiles := tiles } }

end Sys2Proof.Machine
end

