-- ==== Sys2Proof/Machine/Home.lean ====
section
/-! DEFINITION. What homes do: loads, stores and combines a granule at a time (R178, R185, R240), counters, waiters and durable
steps (R221-R231, R248, R253), PERSIST (R252), group loads (R196, R197), and the replies of all of them (R144, R336). -/

namespace Sys2Proof.Machine

/-! ### Waiters (R225, R230, R231) -/

/-- Two names name one place. -/
def FullAddr.same (a b : FullAddr) : Bool := a.dev == b.dev && a.serial == b.serial && a.ofs == b.ofs

/-- The place of a piece as a full address. -/
def Piece.full (p : Piece) : FullAddr := ⟨p.dev, p.serial, p.ofs⟩

/-- The home tile of a place of a live or dying object of this device, where its page has a frame. -/
def State.tileOf (s : State) (f : FullAddr) : Option (Nat × Nat) :=
  if f.dev = s.names.devNum then ((s.desc? f.serial).bind fun d => s.frameByte d f.ofs).map homeOf else none

/-- A waiter is registered: in one of the 2,048 entries of its counter's home tile, or in the list of 4,096 in the object's side
area; none where both are full (R231). -/
def State.register (s : State) (f : FullAddr) (thr : Word) (slack : Nat) (who : Waits) : Option State :=
  let home := s.tileOf f
  let inTile := s.waiters.countP fun w => !w.side && s.tileOf w.at_ == home
  let inSide := s.waiters.countP fun w => w.side && w.at_.serial == f.serial
  if inTile < 2048 then
    some { s.bump with waiters := s.waiters ++ [⟨f, thr, slack, s.nextId, false, who⟩] }
  else if inSide < 4096 then
    some { s.bump with waiters := s.waiters ++ [⟨f, thr, slack, s.nextId, true, who⟩] }
  else none

/-- A waiter woken with a value (R225); a wake to a peer carries the slack its waiter registered (R144). The tasks that one step wakes take one
time of release (R417), each its own place in wake order. -/
def State.wake (s : State) (order : Nat) (w : Waiter) (v : Word) : State :=
  match w.who with
  | .req r => (match s.req? r with
    | some q => s.wakeReq q v
    | none => s)
  | .task t => s.bump.updTask t fun x => { x with woken := some v, order := order, woke := s.nextId }
  | .peer a =>
    match s.hub.peerAccs.find? fun x => x.id == a with
    | none => s
    | some x =>
      ({ s with hub := { s.hub with peerAccs := s.hub.peerAccs.filter fun y => y.id != a } }).toPeer x.dev
        (.reply x.req x.piece (toBytesLE 8 v.toNat) w.slack (w.slack == 0)) w.slack (w.slack == 0)

/-- The order in which one step wakes waiters: the threshold that was due first, least slack, order of registration (R230). -/
def Waiter.before (old : Word) (a b : Waiter) : Bool :=
  let da := (a.thr - old).toNat
  let db := (b.thr - old).toNat
  if da ≠ db then da < db else if a.slack ≠ b.slack then a.slack < b.slack else a.order < b.order

/-- A waiter in its place among those to be woken. -/
def insertWaiter (old : Word) (w : Waiter) : List Waiter → List Waiter
  | [] => [w]
  | x :: xs => if Waiter.before old w x then w :: x :: xs else x :: insertWaiter old w xs

/-- The step from `old` to `new` at a counter wakes the waiters it satisfies, in the order of R230. -/
def State.wakeAll (s : State) (f : FullAddr) (old new : Word) : State :=
  let due := fun (w : Waiter) => w.at_.same f && !satisfied old w.thr && satisfied new w.thr
  let ws := (s.waiters.filter due).foldl (fun l w => insertWaiter old w l) []
  if ws.isEmpty then s
  else ws.foldl (fun t w => t.wake s.nextId w new) { s.bump with waiters := s.waiters.filter fun w => !due w }

/-! ### Order at a home -/

/-- A piece whose home holds it back: its page is moving, or a durable step is under way at its granule (R46, R253). -/
def State.stalled (s : State) (p : Piece) : Bool :=
  p.dev == s.names.devNum && (pteState (Memory.word s.mem p.pte) == 4 || s.locked p)

/-- A write let go that stands before another in the order of R130 and is not held back itself. -/
def State.drainsBefore (s : State) (q : Req) (k : Nat) (e : Req) : Bool :=
  e.latch.ctx == q.latch.ctx && e.instr.writes && e.go && e.stage == .homes &&
  (if e.id = q.id then (e.pieces.take k).any fun p => p.stage == .ready && !s.stalled p
   else e.opKey.before q.opKey &&
    (e.instr.near.isSome || e.pieces.any fun p => p.stage == .ready && !s.stalled p))

/-- Every write before piece `k` of a request in the order of R130 is performed or held back. -/
def State.drainOk (s : State) (q : Req) (k : Nat) : Bool := s.reqs.all fun e => !s.drainsBefore q k e

/-- The scope of a counter record. -/
def scopeOf : Instr → Scope
  | .cadd _ _ sc _ | .caddr _ _ sc _ | .cwait _ _ sc _ | .cpoll _ _ sc _ => sc
  | _ => .module

/-- A piece changed. -/
def State.updPiece (s : State) (r k : Nat) (f : Piece → Piece) : State :=
  s.updReq r fun q => { q with pieces := updAt q.pieces k f }

/-! ### Loads -/

/-- The word an element of a type stands for (R156, R259, R334). -/
def loadWord (t : Ty) (bs : List Byte) : Word :=
  match t with
  | .int it => it.ext (it.read (leWord bs))
  | _ => leWord bs

/-- The bytes of pieces in lane order. -/
def piecesBytes (ps : List Piece) : List Byte := ps.flatMap fun p => p.data

/-- The value a load returns, once its pieces are there (R334, R335, R338). -/
def loadValue (i : Instr) (ps : List Piece) : TokVal :=
  match i with
  | .ld _ t _ _ | .ldr _ t _ _ => .scalar (loadWord t (piecesBytes ps))
  | .vld _ t _ _ =>
    let v : Vec := BitVec.ofNat 1024 (ofBytesLE (piecesBytes ps))
    .vector (match t with
      | .tap .t6 => ofLanes 8 ((lanesOf 8 v).map fun x => x &&& 0x3F)
      | _ => v)
  | .vldg _ t _ _ =>
    .vector (ofLanes t.lane ((List.range t.lanes).map fun j =>
      match ps.find? fun p => p.lane == j with
      | some p => leWord p.data
      | none => 0))
  | _ => .null

/-- The channel code of a load's reply (R167). -/
def loadChan : Instr → BitVec 5
  | .ld _ _ _ ch | .vld _ _ _ ch | .vldg _ _ _ ch | .ldr _ _ _ ch => ch
  | _ => 0

/-! ### Streams and reorder buffers (R181) -/

/-- The streams that a request stands in: one for each home tile, on this device, of its pieces. -/
def State.streamsOf (s : State) (q : Req) : List Stream :=
  let pe := s.peOfKey ⟨q.latch.ctx, q.latch.route, q.latch.key⟩
  distinct ((q.pieces.filter fun p => p.dev == s.names.devNum).map fun p => ⟨pe, s.pieceHome q.latch.ctx q.latch.route.con p⟩)

/-- A load that its homes answer from their reorder buffers; a member's load goes to the switch. -/
def inStream (i : Instr) : Bool :=
  match i with
  | .mldred _ _ _ => false
  | _ => opKind i == .load

/-- A request has still to reply in its streams: a load or an acquire whose pieces are performed, or may be now, or a CADDR that has been applied. -/
def State.replies (s : State) (e : Req) : Bool :=
  match e.instr with
  | .caddr _ _ _ _ => e.stage == .answer
  | i => (inStream i || opKind i == .acquire) && e.stage == .homes && e.fails.isEmpty &&
      ((e.pieces.all fun p => p.stage == .done) ||
        (s.orderOk e (e.pieces.map Piece.foot) && e.pieces.all fun p => p.stage == .done || (p.stage == .ready && !s.locked p)))

/-- A request that arrived earlier in one of the streams of a request has still to reply there (R181). -/
def State.streamAhead (s : State) (q : Req) : Bool :=
  let sts := s.streamsOf q
  s.reqs.any fun e => e.latch.ctx == q.latch.ctx && decide (e.id < q.id) && s.replies e && (s.streamsOf e).any fun st => sts.contains st

/-- A request's reply, with the streams it was sent in. -/
def State.inStreams (s : State) (q : Req) (f : State → State) : State :=
  let t := f s
  { t with packets := updWhere (fun p => p.req == some q.id) (fun p => { p with streams := s.streamsOf q }) t.packets }

/-- The loads whose data wait in a tile's reorder buffer for their turn. -/
def State.reordered (s : State) (home : Nat × Nat) : Nat :=
  s.reqs.countP fun e => inStream e.instr && e.stage == .homes && (e.pieces.all fun p => p.stage == .done) &&
    (s.streamsOf e).any fun st => st.home == home

/-- A load whose pieces are all there and whose turn has come in its streams sends its reply: to its targets, or, for LDR, to the port its
operand names, which discards that of a squashed instance (R181, R336, R340). A group load waits for the switch. -/
def State.loadDone (s : State) (r : Nat) : State :=
  match s.req? r with
  | none => s
  | some q =>
    if (q.pieces.all fun p => p.stage == .done) && inStream q.instr && !s.streamAhead q then
      match q.instr with
      | .ldr _ _ _ ch =>
        (match if q.void then none else s.ldrPort q.latch.ctx q.latch.opR.word with
        | none => (s.lsidDone q).dropReq r
        | some port =>
          let tok := { newTok (loadValue q.instr q.pieces) ch none q.replySlack with
            late := q.lateNow || q.replySlack == 0, poison := q.pieces.any fun p => p.poison }
          s.inStreams q fun t =>
            ((t.sendPacket q.latch.ctx (.port port q.latch.route q.latch.key) tok (loudOf q.instr) (some r)).lsidDone q).dropReq r)
      | i =>
        let v := loadValue i q.pieces
        s.inStreams q fun t => t.answer q v v (loadChan i) q.replySlack q.lateNow
    else s

/-- The next load of a context, in order of arrival, whose data wait in a reorder buffer and whose turn has come. -/
def State.nextReply (s : State) (c : CtxId) : Option Nat :=
  (s.reqs.find? fun e => e.latch.ctx == c && inStream e.instr && e.stage == .homes && !e.pieces.isEmpty &&
    (e.pieces.all fun p => p.stage == .done) && !s.streamAhead e).map fun e => e.id

/-- The replies whose turn has come leave the reorder buffers, `n` at most (R181). -/
def State.flushReplies (s : State) (c : CtxId) : Nat → State
  | 0 => s
  | n + 1 => match s.nextReply c with
    | none => s
    | some r => (s.loadDone r).flushReplies c n

/-- The bytes of a piece within those of its granule. -/
def Piece.part (p : Piece) (granule : List Byte) : List Byte := (granule.drop (p.ofs % 8)).take p.size

/-- A piece of a load is performed with the granule that its home gave. -/
def State.loadPiece (s : State) (q : Req) (k : Nat) (p : Piece) (granule : List Byte) : State :=
  let bs := p.part (s.granuleFor q p granule)
  let s1 := ((s.serve q).updPiece q.id k fun e => { e with stage := .done, data := bs }).loadDone q.id
  s1.flushReplies q.latch.ctx s1.reqs.length

/-! ### Accesses to a piece at its home -/

/-- A piece at its home: its page's entry and physical address; none where its page has no frame. -/
def State.atHome (s : State) (p : Piece) : Option (Word × Nat) :=
  match s.desc? p.serial with
  | none => none
  | some d =>
    let w := Memory.word s.mem p.pte
    let st := pteState w
    if st = 2 ∨ st = 3 ∨ st = 4 then some (w, frameAddr d w + p.ofs % pageBytes d.pgsz) else none

/-- Piece `k` of a request is over, with nothing done. -/
def State.pieceOver (s : State) (r k : Nat) : State := s.updPiece r k fun e => { e with stage := .done }

/-- A page or route failure that a piece meets after its checks: a failed member of a group load (R197); charged, with nothing done, where
its write has been let go; otherwise the record's fault (R131, R393). -/
def State.pieceFails (s : State) (q : Req) (k : Nat) (p : Piece) (code : BitVec 8) (peer : Bool) : State :=
  match q.instr with
  | .mldred _ _ _ => (s.pieceOver q.id k).updReq q.id fun r => { r with value := r.value ||| BitVec.ofNat 64 (2 ^ (p.lane / 8)) }
  | _ =>
    if q.go then
      let h := s.walkTile q.latch.ctx q.latch.route.con
      let f := if peer then unitFault 8 6 0 code p.near 0 else if code == codeLink then unitFault (s.dieOf q.latch.ctx) 7 0 code p.near 0
        else unitFault h.1 5 h.2 code p.near 0
      ((s.chargeAny q.latch.ctx f).pieceOver q.id k).writeDone q.id
    else if peer then s.peerFault q p.near
    else s.reqFault q code p.near

/-- A piece whose page has lost its frame is translated again (R46). -/
def State.rePlace (s : State) (q : Req) (k : Nat) (p : Piece) : State :=
  match s.placePiece (s.dieOf q.latch.ctx) p with
  | .ok (p1, s1) => s1.updPiece q.id k fun _ => p1
  | .error e => s.pieceFails q k p e false

/-- The elements of a load that one of its pieces carries (R184). -/
def pieceElems (i : Instr) (p : Piece) : Nat :=
  match i with
  | .vld _ t _ _ => p.size * 8 / t.lane
  | .mldred _ _ _ => p.size / 2
  | _ => 1

/-- A load's piece: served from the frame, the old one while the page moves (R185). -/
def State.homeLoad (s : State) (q : Req) (k : Nat) (p : Piece) : Option State :=
  if s.locked p || !s.orderOk q [p.foot] then none
  else match s.atHome p with
    | none => some (s.rePlace q k p)
    | some (_, a) =>
      match s.desc? p.serial with
      | none => none
      | some d =>
        if decide (s.reordered (homeOf a) ≥ 128) && s.streamAhead q then none
        else some ((s.countHeat a p.serial (p.ofs / pageBytes d.pgsz) (pieceElems q.instr p)).loadPiece q k p
          (Memory.readN s.mem (a - p.ofs % 8) 8))

/-- A store's or combine's piece, one step at its home (R178, R339); held while its page moves (R46). -/
def State.homeWrite (s : State) (q : Req) (k : Nat) (p : Piece) : Option State :=
  if !q.go || s.stalled p || !s.orderOk q [p.foot] || !s.drainOk q k then none
  else match s.atHome p with
    | none => some (s.rePlace q k p)
    | some (_, a) =>
      let new := pieceWrite q.instr q.latch p (Memory.readN s.mem a p.size)
      let s1 := ({ s with mem := Memory.writeN s.mem a new }).dirty p.pte
      some (((s1.serve q).updPiece q.id k fun e => { e with stage := .done }).writeDone q.id)

/-! ### Acquires (R225) -/

/-- What posts NAME_DEAD for a counter operation: its home tile, or, for a counter at a peer device, the scale-up port (R51, R364). -/
def State.deadFault (s : State) (q : Req) (p : Piece) : FaultRec :=
  if p.dev ≠ s.names.devNum then unitFault 8 6 0 codeNameDead p.near 0
  else
    let h := (s.tileOf p.full).getD (s.walkTile q.latch.ctx q.latch.route.con)
    unitFault h.1 5 h.2 codeNameDead p.near 0

/-- NAME_DEAD at a counter's home (R51): charged, and the record's targets receive nulls, those of a registered waiter with the slack it
registered (R144). -/
def State.deadAcquire (s : State) (q : Req) (p : Piece) : State :=
  let waiter := q.stage == .waiter
  let t := s.chargeAny q.latch.ctx (s.deadFault q p)
  t.inStreams q fun u => u.answer q .null .null 0 (if waiter then q.slack else q.replySlack) (!waiter && q.lateNow)

/-- A CWAIT or CPOLL is served against the value `v` of its counter; a CWAIT not satisfied waits as `wait` gives (R225). -/
def State.acquire (s : State) (q : Req) (v : Word) (addr : Word) (wait : State → Option State) : State :=
  let t := q.latch.opR.word
  if (t - v).toNat = 2 ^ 63 then s.reqFault q codeThresh addr
  else match q.instr with
    | .cpoll _ _ _ _ => s.inStreams q fun u => u.answer q (.scalar v) (.scalar (boolWord (satisfied v t))) 0 q.replySlack q.lateNow
    | _ =>
      if satisfied v t then s.inStreams q fun u => u.answer q (.scalar v) (.scalar v) 0 q.replySlack q.lateNow
      else match wait (s.updReq q.id fun r => { r with stage := .waiter, value := t, slack := q.slackNow, served := true }) with
        | some s1 => s1
        | none => s.reqFault q codeSpill addr

/-- A far CWAIT or CPOLL at its counter's home, once its turn in its stream has come (R181). -/
def State.homeAcquire (s : State) (q : Req) (k : Nat) (p : Piece) : Option State :=
  if s.locked p || !s.orderOk q [p.foot] || s.streamAhead q then none
  else match s.live? p.serial with
    | none => some (s.deadAcquire q p)
    | some _ =>
      match s.atHome p with
      | none => some (s.rePlace q k p)
      | some (_, a) =>
        some (s.acquire q (Memory.word s.mem a) p.near fun t =>
          t.register p.full q.latch.opR.word q.slackNow (.req q.id))

/-- A near CWAIT or CPOLL: no waiter entry is taken (R225). -/
def State.nearAcquire (s : State) (q : Req) (n : Nat) : Option State :=
  if !s.orderOk q [⟨some n, 0, 0, 0, 8⟩] then none
  else match s.ctx? q.latch.ctx with
    | none => none
    | some x => some (s.acquire q (Sparse.get 0 x.regs.k n) 0 fun t => some t)

/-! ### Near adds (R222, R224) -/

/-- A CADD or CADDR to near counter `n`, after its release. -/
def State.nearAdd (s : State) (q : Req) (n : Nat) : Option State :=
  if !q.go || !s.orderOk q [⟨some n, 0, 0, 0, 8⟩] || !s.drainOk q 0 || !s.released q (scopeOf q.instr) then none
  else match s.ctx? q.latch.ctx with
    | none => none
    | some x =>
      let old := Sparse.get 0 x.regs.k n
      let s1 := (s.serve q).addK x.id n q.latch.opR.word
      let st := match q.instr with
        | .caddr _ _ _ _ => Stage.answer
        | _ => Stage.done
      some ((s1.updReq q.id fun r => { r with stage := st, value := old }).drained q.latch.ctx q.latch.route)

/-! ### PERSIST (R252) -/

/-- The bytes of one line go to the page's block of the persistent tier. -/
def State.writeLine (s : State) (d : Desc) (ofs : Nat) (w : Word) : State :=
  let o := ofs / 128 * 128 % pageBytes d.pgsz
  { s with mem := Memory.writeN s.mem (tierAddr (ptePblk w) + o) (Memory.readN s.mem (frameAddr d w + o) 128) }

/-- A page whose line a PERSIST must write: resident-dirty, or moving and dirty before (R46, R252). -/
def State.dirtyPage (s : State) (pte : Nat) (w : Word) : Bool :=
  pteState w == 3 || (pteState w == 4 && s.names.moves.any fun m => m.pte == pte && m.dirty)

/-- One line of a PERSIST at its home, or at the walking tile, in the context's program order; the block that does not exist, if it
would be written (R22). -/
def State.persistLine (s : State) (q : Req) (p : Piece) : Option (State × Option Nat) :=
  let n := q.value.toNat
  let rest := persistRest p n
  let line : Foot := { rest.foot with size := min rest.size (128 - rest.ofs % 128) }
  if n ≥ p.lines || !s.orderOk q [line] || (s.hostRegion rest.serial rest.ofs).isSome || (s.durable.any fun u => line.meets ⟨none, u.at_.dev, u.at_.serial, u.at_.ofs, 8⟩) then none
  else
    let s1 := (s.serve q).updReq q.id fun r => { r with value := r.value + 1 }
    match s.desc? p.serial with
    | none => some (s1, none)
    | some d =>
      match s.leaf? d (rest.ofs / pageBytes d.pgsz) with
      | none => some (s1, none)
      | some pte =>
        let w := Memory.word s.mem pte
        if s.dirtyPage pte w then some (s1.writeLine d rest.ofs w, badBlock w true) else some (s1, none)

/-- Every line of a PERSIST is durable. -/
def Req.linesDone (q : Req) : Bool := q.pieces.all fun p => decide (q.value.toNat ≥ p.lines)

/-- A PERSIST earlier in its context's program order has not added to its counter: it is outstanding, or it may still be sent (R252). -/
def State.persistsBefore (s : State) (q : Req) : Bool :=
  (s.reqs.any fun e => opKind e.instr == .persist && e.latch.ctx == q.latch.ctx && e.id != q.id && e.opKey.before q.opKey) ||
  (match s.ctx? q.latch.ctx with
    | some x => s.unsentBefore x (fun i => opKind i == .persist) q.opKey
    | none => false)

/-- A PERSIST adds 1 to its near counter (R252). -/
def State.persistDone (s : State) (r : Nat) : Option State :=
  match s.req? r with
  | none => none
  | some q =>
    match q.instr with
    | .persist _ _ kn =>
      if q.stage == .homes && q.linesDone && !s.persistsBefore q then
        some ((((s.serve q).dropReq r).addKAny q.latch.ctx kn.toNat 1).drained q.latch.ctx q.latch.route)
      else none
    | _ => none

/-- PERSIST_COMPLETE (R252). -/
def execPersistComplete (req : Nat) (s : State) : Host.Outcome State Fault Refusal := .next ((s.persistDone req).getD s)

/-! ### Groups (R196, R197, R411) -/

/-- The address a member lane pair gives, where it passes the checks of R41 up to the name step and R177's alignment. -/
def State.gsetMember (s : State) (c : CtxId) (v : Vec) (j : Nat) : Option FullAddr :=
  match s.apertureStep (s.atpOf c) (lane 64 v j) 64 [.r] 64 with
  | .ok f => some f
  | .error _ => none

/-- GSET at the switch: the entry is written, and the count of members sent (R196). -/
def State.gsetNow (s : State) (q : Req) : Option State :=
  let r := q.latch.opR.word
  let g : BitVec 8 := r.setWidth 8
  let n := bits r 8 5
  let job := s.jobOf q.latch.ctx
  let earlier := s.reqs.any fun e => e.latch.ctx == q.latch.ctx && e.opKey.before q.opKey && e.stage != .homes &&
    (match e.instr with | .mldred _ _ _ => true | _ => false)
  if earlier || !s.orderOk q [] || !s.olderReleased q.latch.ctx q.latch.route q.born then none
  else if r.toNat ≥ 2 ^ 13 ∨ n = 0 ∨ n > 16 ∨ ((s.group? job g).isNone ∧ s.engines.groups.length ≥ 4096) then
    some ((s.groupFault q (groupInfo r 0xFF)).answer q (.scalar 0) (.scalar 0) 0 q.replySlack q.late)
  else
    let ms := (List.range n).map (s.gsetMember q.latch.ctx q.latch.opL.vec)
    let gs := (s.engines.groups.filter fun e => !(e.job == job && e.num == g)) ++ [⟨job, g, ms⟩]
    let cnt : Word := BitVec.ofNat 64 (ms.countP Option.isSome)
    let s1 := { s with engines := { s.engines with groups := gs } }
    some (s1.answer q (.scalar cnt) (.scalar cnt) 0 q.replySlack q.late)

/-- A B16 value as the F32 it equals, with the flag of a signalling NaN (R159, R197). -/
def b16ToF32 (x : Word) : Res := convert (.fp .f32) (.fp .b16) .rne x

/-- One lane of a group load: member 0 exact, the others added in turn (R197). -/
def reduceLane (vs : List (List Word)) (l : Nat) : Res :=
  let f := fmtOf .f32
  match vs with
  | [] => .plain 0
  | v :: rest => rest.foldl (fun acc u =>
      let b := b16ToF32 (u.getD l 0)
      let r := addVal f .rne (f.decode acc.val) (f.decode b.val)
      ⟨r.val, acc.flags ||| b.flags ||| r.flags⟩) (b16ToF32 (v.getD l 0))

/-- The lowest member of a mask. -/
def lowestBit (m : Word) : Nat := ((List.range 16).find? fun i => m.getLsbD i).getD 0xFF

/-- The switch reduces a group load whose members have all returned or failed; its result takes the least slack of the member replies, and
is late if any was (R144, R197). Its flags are held with its instance, which may be a saved one's, and discarded where that is gone (R124, R161;
log entry 21). -/
def State.reduceNow (s : State) (r : Nat) : Option State :=
  match s.req? r with
  | none => none
  | some q =>
    match q.instr with
    | .mldred _ _ _ =>
      if q.stage != .homes || q.pieces.any fun p => p.stage != .done then none
      else if q.value ≠ 0 then
        some ((s.groupFault q (groupInfo q.latch.opL.word (lowestBit q.value))).answer q .null .null 0 q.replySlack q.lateNow)
      else
        let members := distinct (q.pieces.map fun p => p.lane / 8)
        let vs := members.map fun j =>
          let bs := piecesBytes (q.pieces.filter fun p => p.lane / 8 == j)
          (List.range 32).map fun l => leWord ((bs.drop (2 * l)).take 2)
        let rs := (List.range 32).map (reduceLane vs)
        let v : TokVal := .vector (ofLanes 32 (rs.map fun x => x.val))
        let s1 := s.updOutAny q.latch.ctx q.latch.route fun o => { o with flags := o.flags ||| orFlags rs }
        some (s1.answer q v v 0 q.replySlack q.lateNow)
    | _ => none

/-- MLDRED_REDUCE (R197). -/
def execMldredReduce (req : Nat) (s : State) : Host.Outcome State Fault Refusal := .next ((s.reduceNow req).getD s)

/-! ### Pieces at a peer device (R28, R391) -/

/-- A load of the context is under way at a granule of a peer. -/
def State.loadAway (s : State) (q : Req) (p : Piece) : Bool :=
  s.reqs.any fun e => e.latch.ctx == q.latch.ctx && opKind e.instr == .load &&
    e.pieces.any fun x => x.stage == .peer && x.foot.meets p.foot

/-- What a piece asks of the peer that holds it. -/
def peerOp (q : Req) (p : Piece) : PeerOp :=
  match q.instr with
  | .red _ t _ f => .combine t f q.latch.opR.word
  | .vredm _ t _ f => .combine t f (lane t.lane q.latch.opX.vec p.lane)
  | .cadd _ _ sc _ | .caddr _ _ sc _ => .add q.latch.opR.word (sc == .durable)
  | .cwait _ _ _ _ => .wait q.latch.opR.word
  | .cpoll _ _ _ _ => .poll q.latch.opR.word
  | .persist _ _ _ => .persist
  | i => if i.writes then .store (pieceWrite i q.latch p []) else .load

/-- A scope narrower than module (R248). -/
def narrowScope (sc : Scope) : Bool := sc == .constellation || sc == .region || sc == .die

/-- A piece is carried to its peer: first the checks of a write or a PERSIST, then, once it may be performed, the access itself. An add of a scope
narrower than module is released at module scope first, as one that finds its counter's release records full: what a peer records of another device's
agents no rule says (R248; DESIGN CHOICE, log entry 17). A request that returns nothing is served, and so delivered late, there (R149). -/
def State.peerSend (s : State) (q : Req) (k : Nat) (p : Piece) : Option State :=
  if !s.reaches p.dev then some (s.pieceFails q k p codeLink true)
  else
    let sc := scopeOf q.instr
    let counts := match q.instr with
      | .cadd _ _ _ _ | .caddr _ _ _ _ => true
      | _ => false
    if !s.orderOk q [p.foot] then none
    else if q.instr.writes && (!q.go || !s.drainOk q k || s.loadAway q p || (counts && !s.released q (if narrowScope sc then .module else sc))) then none
    else
      some (((if returnsNothing q.instr then s else s.serve q).updPiece q.id k fun e => { e with stage := .peer }).toPeer p.dev
        (.access q.id k p.serial p.ofs p.size (peerOp q p) p.slack p.late (if renewOf q.instr then some q.slack0 else none)) p.slack p.late)

/-! ### HOME_PERFORM (R240) -/

/-- A home performs piece `k` of a request: the state, and the block of the persistent tier it would need and which does not exist.
None where the piece may not be performed yet, or the record's lanes are still checked at peers for its fault (R337). A load whose data stand in a reorder buffer replies when its turn has come (R181). -/
def State.homeStep (s : State) (q : Req) (k : Nat) : Option (State × Option Nat) :=
  if q.stage != .homes || !q.fails.isEmpty then none
  else match q.instr with
    | .gset _ _ => (s.gsetNow q).map fun t => (t, none)
    | i =>
      match i.near with
      | some n =>
        (match opKind i with
        | .acquire => (s.nearAcquire q n).map fun t => (t, none)
        | _ => (s.nearAdd q n).map fun t => (t, none))
      | none =>
        match q.pieces[k]? with
        | none => none
        | some p =>
          if p.stage == .done && inStream i && (q.pieces.all fun e => e.stage == .done) && !s.streamAhead q then
            some (s.flushReplies q.latch.ctx s.reqs.length, none)
          else if p.stage != .ready then none
          else if p.dev ≠ s.names.devNum then (s.peerSend q k p).map fun t => (t, none)
          else match opKind i with
            | .load => (s.homeLoad q k p).map fun t => (t, none)
            | .acquire => (s.homeAcquire q k p).map fun t => (t, none)
            | .persist => s.persistLine q p
            | _ =>
              match i with
              | .cadd _ _ _ _ | .caddr _ _ _ _ => none
              | _ => (s.homeWrite q k p).map fun t => (t, none)

/-- The bank of a tile that serves a physical address: one of the sixteen of its scratch, or its DRAM as one (R176, R179). -/
def bankAt (pa : Nat) : (Nat × Nat) × Nat := (homeOf pa, if pa < scratchBase then 16 else pa / 128 % 16)

/-- The bank that serves a piece on this device. -/
def State.bankOf (s : State) (p : Piece) : Option ((Nat × Nat) × Nat) :=
  if p.stage != .ready || p.dev != s.names.devNum then none else (s.atHome p).map fun wa => bankAt wa.2

/-- An ECC error that cannot be corrected meets the word that a piece, waiting at its home, is to read: its reply is poisoned (R380; log
entry 70). -/
def State.eccError (s : State) (r k : Nat) : State :=
  s.updPiece r k fun p => if p.stage == .ready then { p with poison := true } else p

/-! ### Counter steps (R228, R229, R253) -/

/-- One add of a combined step: a record's request, an add that hardware makes, or a peer's (R28). -/
inductive Add where
  | req (q : Req) (p : Piece)
  | hw (a : PendAdd)
  | acc (a : PeerAcc)
  deriving DecidableEq, Repr

/-- The counter an add goes to, on the device given for a peer's. -/
def Add.place (dev : BitVec 16) : Add → FullAddr
  | .req _ p => p.full
  | .hw a => a.dst
  | .acc a => ⟨dev, a.serial, a.ofs⟩

/-- The amount. -/
def Add.amount : Add → Word
  | .req q _ => q.latch.opR.word
  | .hw a => a.amt
  | .acc a => (match a.op with
    | .add v _ => v
    | _ => 0)

/-- The scope. -/
def Add.scope : Add → Scope
  | .req q _ => scopeOf q.instr
  | .hw a => a.scope
  | .acc a => (match a.op with
    | .add _ true => .durable
    | _ => .domain)

/-- The number, slack and late mark of an add's packet (R141). -/
def Add.tag : Add → Nat × Nat × Bool
  | .req q _ => (q.id, q.slackNow, q.lateNow)
  | .hw a => (a.id, a.slack, a.late)
  | .acc a => (a.id, a.slack, a.late)

/-- Between adds at one counter: less slack, then the older (R146). -/
def Add.urgent (a b : Add) : Bool :=
  decide (a.tag.2.1 < b.tag.2.1) || (a.tag.2.1 == b.tag.2.1 && decide (a.tag.1 < b.tag.1))

/-- A peer's CWAIT waits at its counter. -/
def State.peerWaits (s : State) (a : PeerAcc) : Bool := s.waiters.any fun w => w.who == .peer a.id

/-- A peer's access waits: a counter's durable step or a host's region stands in its way, or an access before it in its device's order to
the same granules (R240, R253, R389). -/
def State.peerHeld (s : State) (a : PeerAcc) : Bool :=
  let foot : Foot := ⟨none, s.names.devNum, a.serial, a.ofs, a.size⟩
  (s.hostRegion a.serial a.ofs).isSome || (s.durable.any fun u => foot.meets ⟨none, u.at_.dev, u.at_.serial, u.at_.ofs, 8⟩) ||
  (s.hub.peerAccs.takeWhile fun x => x.id != a.id).any fun x =>
    x.dev == a.dev && !x.held && x.op != .promote && !s.peerWaits x && foot.meets ⟨none, s.names.devNum, x.serial, x.ofs, x.size⟩

/-- The rights that a peer's access needs of the object's MAXR (R28, R41). -/
def peerRights : PeerOp → List Right
  | .probe m | .check m => [Right.r, .w, .x, .c, .d].filter fun r => m.testBit r.bit
  | .load => [.r]
  | .fetch => [.x]
  | .store _ | .stores _ | .combine _ _ _ => [.w]
  | .add _ durable => if durable then [.c, .d] else [.c]
  | .wait _ | .poll _ | .peek => [.c]
  | .persist => [.d]
  | .warm _ _ _ => [.r]
  | .retire | .drop | .promote => []

/-- The name step of a peer's access, against this device's names; one passed before by an access that waits for a page stands, but for a
counter's (R28, R41, R49, R51). -/
def State.peerName (s : State) (a : PeerAcc) : Except (BitVec 8) Desc :=
  s.nameStepOf (a.named && !(peerRights a.op).contains .c) 0 ⟨s.names.devNum, a.serial, a.ofs⟩ a.size (peerRights a.op)

/-- A peer's add that its home applies: its name step passes, or finds the name dead there (R51). -/
def State.peerAdd (s : State) (a : PeerAcc) : Bool :=
  (match a.op with
  | .add _ _ => true
  | _ => false) &&
  (match s.peerName a with
  | .ok _ => true
  | .error e => e == codeNameDead)

/-- The add of that number: a far CADD or CADDR at its home, a hardware add, or a peer's add. -/
def State.add? (s : State) (n : Nat) : Option Add :=
  match s.req? n with
  | some q =>
    (match q.instr, q.pieces with
    | .cadd _ _ _ none, [p] | .caddr _ _ _ none, [p] =>
      if q.stage == .homes && p.stage == .ready && p.dev == s.names.devNum then some (.req q p) else none
    | _, _ => none)
  | none =>
    match s.adds.find? fun a => a.id == n with
    | some a => some (.hw a)
    | none =>
      if s.durable.any fun d => d.replies.any fun r => r.1 == n then none
      else (s.hub.peerAccs.find? fun a => a.id == n && s.peerAdd a).map Add.acc

/-- A granule is held by a durable step, or by the host that owns its region, whose own link alone may add there (R253, R389). -/
def State.lockedAt (s : State) (src : AddSrc) (f : FullAddr) : Bool :=
  (f.dev == s.names.devNum && (s.hostRegion f.serial f.ofs).any fun o => src != .host o.link) ||
  s.durable.any fun d => d.at_.dev == f.dev && d.at_.serial == f.serial && d.at_.ofs / 8 == f.ofs / 8

/-- An add's release is complete, at the scope given (R245, R248). -/
def State.addReleased (s : State) (a : Add) (sc : Scope) : Bool :=
  match a with
  | .req q p => q.go && s.orderOk q [p.foot] && s.drainOk q 0 && s.released q sc && !s.locked p
  | .hw h => !s.lockedAt h.src h.dst && !s.hwWaits { h with scope := sc }
  | .acc x => !s.peerHeld x

/-- The adds of a step are released in order: one that finds 16 release records at its counter, those of the step's earlier adds among them, is
released at module scope (R248). -/
def State.addsReleased (s : State) : Nat → List Add → Bool
  | _, [] => true
  | n, a :: as =>
    let full := narrowScope a.scope && decide (n ≥ 16)
    s.addReleased a (if full then .module else a.scope) &&
      s.addsReleased (if narrowScope a.scope && !full then n + 1 else n) as

/-- The die whose frames serve a hardware or a peer's add: its engine's or unit's, D0 for the hub's (R45; log entry 5). -/
def State.addDie (s : State) (a : Add) : Nat :=
  match a with
  | .req q _ => (s.walkTile q.latch.ctx q.latch.route.con).1
  | .hw h => (match h.src with
    | .engine _ _ d _ => d
    | .succ c => min (s.dieOf c) 7
    | _ => 0)
  | .acc _ => 0

/-- Where an add's counter stands: at a physical address, its page moving, absent or filling, its object dead, or at a peer. -/
inductive AddAt where
  | home (pa : Nat) | moving | absent | dead | peer
  deriving DecidableEq, Repr

/-- Where an add's counter now stands. -/
def State.addAt (s : State) (a : Add) : AddAt :=
  let f := a.place s.names.devNum
  if f.dev ≠ s.names.devNum then .peer
  else match s.live? f.serial with
    | none => .dead
    | some d =>
      match s.leaf? d (f.ofs / pageBytes d.pgsz) with
      | none => .absent
      | some pte =>
        let w := Memory.word s.mem pte
        if pteState w = 2 ∨ pteState w = 3 then .home (frameAddr d w + f.ofs % pageBytes d.pgsz)
        else if pteState w = 4 then .moving else .absent

/-- The physical address of an add's counter, where it stands at one. -/
def State.addHome (s : State) (a : Add) : Option Nat :=
  match s.addAt a with
  | .home pa => some pa
  | _ => none

/-- An add may be part of the step at `pa`: it stands at that address, or its name is dead, which its home finds (R51). -/
def State.addFits (s : State) (pa : Nat) (a : Add) : Bool := s.addAt a == .home pa || s.addAt a == .dead

/-- A peer's access leaves, and with it the checks that stood for it, with a payload sent to its device. -/
def State.peerAnswers (s : State) (a : PeerAcc) (p : PeerPayload) (slack : Nat) (late : Bool) : State :=
  let mine := fun (x : PeerAcc) => x.id == a.id || (x.held && x.dev == a.dev && x.req == a.req && x.piece == a.piece)
  ({ s with hub := { s.hub with peerAccs := s.hub.peerAccs.filter fun x => !mine x } }).toPeer a.dev p slack late

/-- A peer's access is answered with bytes, at its slack, or, of one with renew set, at that it was sent with (R144). -/
def State.peerReply (s : State) (a : PeerAcc) (bs : List Byte) : State :=
  s.peerAnswers a (.reply a.req a.piece bs (a.renew.getD a.slack) a.late) (a.renew.getD a.slack) a.late

/-- A peer's access is answered with a fault. -/
def State.peerFaults (s : State) (a : PeerAcc) (code : BitVec 8) : State :=
  s.peerAnswers a (.fault a.req a.piece code) a.slack a.late

/-- The kind and index by which a record names an engine (R364). -/
def EngPort.unit : EngPort → Nat × Nat
  | .streamer k => (1, k)
  | .island k => (2, k)
  | _ => (3, 0)

/-- The record of a hardware add that comes to nothing: a dead name is found by the counter's home; LINK is the scale-up port's; any other failure of
its access is its engine's, its meridian unit's, or, for the module's own, the home's (R51, R190, R364, R392). -/
def State.addFault (s : State) (h : PendAdd) (home : Nat × Nat) (code : BitVec 8) : FaultRec :=
  if code == codeLink || h.dst.dev != s.names.devNum then unitFault 8 6 0 code 0 0
  else if code == codeNameDead then unitFault home.1 5 home.2 code 0 0
  else match h.src with
    | .engine _ _ die p => unitFault die p.unit.1 p.unit.2 code 0 0
    | .succ c => unitFault (s.dieOf c) 8 0 code 0 0
    | _ => unitFault home.1 5 home.2 code 0 0

/-- A hardware add comes to nothing: it is dropped, and charged to the context it is made for; of an item's, whose contexts have ended, a record
without colour or generation is charged to its job; so are those of the module's own adds, to none. The signal of the fault queues, whose
failure would post a record that signals again, posts none (R51, R190, R365; DESIGN CHOICE, log entry 79). -/
def State.dropAdd (s : State) (h : PendAdd) (home : Nat × Nat) (code : BitVec 8) : State :=
  let s1 := ({ s with adds := s.adds.filter fun e => e.id != h.id } : State).endAway fun e => e == .add h.id
  let f := s.addFault h home code
  match h.src with
  | .engine c _ _ _ | .succ c => s1.chargeAny c f
  | .item j _ => s1.postTo 8 CtxId.zero f ⟨j, none⟩
  | .sink g => s1.postTo (((s.region? g).map fun r => r.die).getD 8) CtxId.zero f ⟨0, none⟩
  | .host _ => s1.postTo 8 CtxId.zero f ⟨0, none⟩
  | .signal _ => s1

/-- An add that meets its dead name: it changes nothing, its home posts NAME_DEAD, and a CADDR's register receives 0 (R51, R224, R364). -/
def State.deadAdd (s : State) (a : Add) : State :=
  match a with
  | .req q p =>
    let s1 := (s.serve q).chargeAny q.latch.ctx (s.deadFault q p)
    let st := match q.instr with
      | .caddr _ _ _ _ => Stage.answer
      | _ => Stage.done
    s1.updReq q.id fun r => { r with stage := st, value := 0, pieces := r.pieces.map fun e => { e with stage := .done } }
  | .hw h => s.dropAdd h ((s.tileOf h.dst).getD (s.addDie a, 0)) codeNameDead
  | .acc x => s.peerFaults x codeNameDead

/-- One add applied: the CADDR takes the value just before its own amount (R228, R229). Its reply takes the slack and late mark of the step's
combined packet (R144). A peer's is answered, once durable where it is. -/
def State.applyAdd (s : State) (durable : Bool) (slack : Nat) (late : Bool) (v : Word) (a : Add) : State :=
  match a with
  | .req q _ =>
    let st := match q.instr with
      | .caddr _ _ _ _ => if durable then Stage.durable else Stage.answer
      | _ => if durable then Stage.durable else Stage.done
    (s.serve q).updReq q.id fun r => { r with stage := st, value := v, pieces := r.pieces.map fun e =>
      { e with stage := .done, slack := slack, late := late } }
  | .hw h => { s with adds := s.adds.filter fun e => e.id != h.id }
  | .acc x => if durable then s else s.peerReply { x with slack := slack, late := late } (toBytesLE 8 v.toNat)

/-- The releasing agent of an add: die, constellation, context and its place in the context's program order. A unit stands in no constellation
(64); what it releases has been performed, but for a context's PERSISTs (R248; log entry 67). -/
def State.releaser (s : State) (a : Add) : Nat × Nat × CtxId × OpKey :=
  match a with
  | .req q _ => (s.dieOf q.latch.ctx, q.latch.route.con, q.latch.ctx, q.opKey)
  | .hw h =>
    (match h.src with
    | .engine c _ d _ => (d, 64, c, (0, 0, 0))
    | .succ c => (s.dieOf c, 64, c, (s.nextId + 1, 0, 0))
    | .item j _ => (((s.loader.regions.find? fun g => g.job == j).map fun g => g.die).getD 8, 64, CtxId.zero, (0, 0, 0))
    | _ => (8, 64, CtxId.zero, (0, 0, 0)))
  | .acc _ => (8, 64, CtxId.zero, (0, 0, 0))

/-- The item whose contexts a DONE add releases for (R100, R245). -/
def Add.item : Add → Option (Nat × Nat)
  | .hw h => (match h.src with
    | .item j k => some (j, k)
    | _ => none)
  | _ => none

/-- A release record for an add of a scope narrower than module, while its counter keeps fewer than 16 (R248). -/
def State.noteRelease (s : State) (a : Add) : State :=
  let f := a.place s.names.devNum
  let r := s.releaser a
  if !narrowScope a.scope || r.1 == 8 || decide ((s.releases.countP fun e => e.at_.same f) ≥ 16) then s
  else { s with releases := s.releases ++ [⟨f, r.1, r.2.1, a.scope, r.2.2.1, r.2.2.2, a.item⟩] }

/-- The instances whose writes a step performed come to their ends. -/
def State.drainAll (s : State) (as : List Add) : State :=
  as.foldl (fun t a => match a with
    | .req q _ => t.drained q.latch.ctx q.latch.route
    | _ => t) s

/-- An add that waits at the same counter, could be applied, and comes before one that the step takes (R146, R228). -/
def State.passedOver (s : State) (pa : Nat) (as : List Add) : Bool :=
  let ids := (s.reqs.map fun q => q.id) ++ (s.adds.map fun a => a.id) ++ s.hub.peerAccs.map fun a => a.id
  (ids.filterMap s.add?).any fun e => !(as.contains e) && s.addAt e == .home pa && s.addReleased e e.scope && as.any fun a => e.urgent a

/-! ### The order at a bank (R146, R180, R253) -/

/-- What waits for a bank and could be served there now: its bank, slack and number. -/
structure Claim where
  bank : (Nat × Nat) × Nat
  slack : Nat
  id : Nat
  deriving DecidableEq, Repr

/-- A claim comes before what has the slack and number given: less slack, then the older (R146, R148). -/
def Claim.before (c : Claim) (slack id : Nat) : Bool := decide (c.slack < slack) || (c.slack == slack && decide (c.id < id))

/-- The claims of the records' pieces. -/
def State.pieceClaims (s : State) : List Claim :=
  s.reqs.flatMap fun q => q.pieces.zipIdx.filterMap fun x =>
    (s.bankOf x.1).bind fun b => if (s.homeStep q x.2).isSome then some ⟨b, x.1.slack, q.id⟩ else none

/-- The claims of counter adds. -/
def State.addClaims (s : State) : List Claim :=
  let ids := (s.reqs.map fun q => q.id) ++ (s.adds.map fun a => a.id) ++ s.hub.peerAccs.map fun a => a.id
  (ids.filterMap s.add?).filterMap fun a =>
    (s.addHome a).bind fun pa => if s.addReleased a a.scope then some ⟨bankAt pa, a.tag.2.1, a.tag.1⟩ else none

/-- A peer's access reads or writes bytes here. -/
def peerTouches : PeerOp → Bool
  | .load | .fetch | .store _ | .stores _ | .combine _ _ _ | .wait _ | .poll _ | .peek => true
  | _ => false

/-- The physical address that a peer's access can be served at now. -/
def State.accHome (s : State) (a : PeerAcc) : Option Nat :=
  if !peerTouches a.op || a.held || s.peerWaits a || s.peerHeld a then none
  else match s.peerName a with
    | .error _ => none
    | .ok d =>
      match s.leaf? d (a.ofs / pageBytes d.pgsz) with
      | none => none
      | some pte =>
        let w := Memory.word s.mem pte
        if pteState w = 2 ∨ pteState w = 3 then some (frameAddr d w + a.ofs % pageBytes d.pgsz) else none

/-- The claims of peers' accesses. -/
def State.accClaims (s : State) : List Claim :=
  s.hub.peerAccs.filterMap fun a => (s.accHome a).map fun pa => ⟨bankAt pa, a.slack, a.id⟩

/-- A bank serves another before those of the numbers given, of which the first has the slack and number given (R146, R180, R253). -/
def State.bankTaken (s : State) (bank : (Nat × Nat) × Nat) (ids : List Nat) (slack id : Nat) : Bool :=
  (s.pieceClaims ++ s.addClaims ++ s.accClaims).any fun c => c.bank == bank && !ids.contains c.id && c.before slack id

/-- The bank of a piece serves another first. -/
def State.outranked (s : State) (q : Req) (k : Nat) : Bool :=
  match (q.pieces[k]?).bind fun p => (s.bankOf p).map fun b => (p, b) with
  | none => false
  | some (p, b) => s.bankTaken b [q.id] p.slack q.id

/-- The bank of a counter serves another before a step of adds, whose packet has their least slack, the first's (R144). -/
def State.stepOutranked (s : State) (pa : Nat) (as : List Add) : Bool :=
  match as with
  | a :: _ => s.addAt a == .home pa && s.bankTaken (bankAt pa) (as.map fun e => e.tag.1) a.tag.2.1 a.tag.1
  | [] => false

/-- HOME_PERFORM on piece `k` of a request, if its bank chooses it (R146). -/
def State.homeNow (s : State) (r k : Nat) : Option (State × Option Nat) :=
  match s.req? r with
  | none => none
  | some q => if s.outranked q k then none else s.homeStep q k

/-- The adds of a list stand in the order of R146. -/
def inOrder : List Add → Bool
  | a :: b :: rest => a.urgent b && inOrder (b :: rest)
  | _ => true

/-- The adds of a step at `pa` applied in order, each CADDR taking the value before its own amount; then the waiters the step satisfies wake;
a step with a durable add is observed by none before it is durable (R228-R230, R253). -/
def State.applyAdds (s : State) (pa : Nat) (as : List Add) : State :=
  let dead := as.filter fun a => s.addAt a == .dead
  let good := as.filter fun a => s.addAt a != .dead
  let s1 := dead.foldl State.deadAdd s
  match good with
  | [] => s1.drainAll as
  | a :: rest =>
    let f := a.place s.names.devNum
    let old := Memory.word s1.mem pa
    let durable := good.any fun x => x.scope == .durable
    let slack := rest.foldl (fun m x => min m x.tag.2.1) a.tag.2.1
    let late := good.any fun x => x.tag.2.2
    let st := good.foldl (fun (acc : State × Word) x => (acc.1.applyAdd durable slack late acc.2 x, acc.2 + x.amount)) (s1, old)
    let new := st.2
    let pte := (s1.live? f.serial).bind fun d => s1.leaf? d (f.ofs / pageBytes d.pgsz)
    let s2 := { st.1 with mem := Memory.setWord st.1.mem pa new }
    let s3 := match pte with
      | some e => s2.dirty e
      | none => s2
    let s4 := good.foldl State.noteRelease s3
    let olds := good.foldl (fun (acc : List (Nat × Word) × Word) x => (acc.1 ++ [(x.tag.1, acc.2)], acc.2 + x.amount)) ([], old)
    let s5 := if durable then { s4 with durable := s4.durable ++ [⟨f, old, slack, late, olds.1⟩] } else s4.wakeAll f old new
    s5.drainAll as

/-- A counter's home applies adds as one combined step. None where an add may not be applied there yet, or the adds are not those that the
order of R146 puts first, in that order, or the counter's bank serves another before them. -/
def State.combineAdds (s : State) (pa : Nat) (as : List Add) : Option State :=
  match as with
  | [] => none
  | a :: _ =>
    let n := s.releases.countP fun r => r.at_.same (a.place s.names.devNum)
    if (as.all (s.addFits pa)) && inOrder as && s.addsReleased n as && !s.passedOver pa as && !s.stepOutranked pa as then some (s.applyAdds pa as) else none

/-- An add whose page has no frame: a record's is translated again, another's waits for the fill as a unit does (R46; log entry 13). -/
def State.refillAdd (s : State) (a : Add) : Option State :=
  let f := a.place s.names.devNum
  let wait := fun (d : Doer) (slack : Nat) (late : Bool) (lost : State → State) =>
    s.whole d slack late fun t =>
      match t.live? f.serial with
      | none => none
      | some e => match t.resident (t.addDie a) e f.ofs true with
        | .ok (_, u) => some u
        | .error _ => some (lost t)
  match a with
  | .req q p => some (s.rePlace q 0 p)
  | .hw h => wait (.add h.id) h.slack h.late fun t => t.dropAdd h (t.addDie a, 0) codeResidency
  | .acc x => wait (.acc x.id) x.slack x.late fun t => t.peerFaults x codeResidency

/-- A hardware add at a peer device: carried there, and over once it has been applied (R28, R191). -/
def State.awayAdd (s : State) (h : PendAdd) : Option State :=
  if s.hwWaits h then none
  else s.whole (.add h.id) h.slack h.late fun t =>
    match t.atPeer h.dst 8 (.add h.amt (h.scope == .durable)) with
    | .error e => some (t.dropAdd h (8, 0) e)
    | .ok (_, u) => some (if u.pause.isSome then u else { u with adds := u.adds.filter fun e => e.id != h.id })

/-- COUNTER_STEP on the adds given, at a physical address (R228). -/
def State.counterStep (s : State) (pa : Nat) (ids : List Nat) : Option State :=
  let as := ids.filterMap s.add?
  if as.length ≠ ids.length || decide ((distinct ids).length ≠ ids.length) then none
  else match as with
    | [a] =>
      (match s.addAt a, a with
      | .peer, .hw h => s.awayAdd h
      | .absent, _ => s.refillAdd a
      | _, _ => s.combineAdds pa [a])
    | as => s.combineAdds pa as

/-- COUNTER_STEP (R228). -/
def execCounterStep (pa : Nat) (reqs : List Nat) (s : State) : Host.Outcome State Fault Refusal :=
  .next ((s.counterStep pa reqs).getD s)

/-- A durable step is durable: the counter's granule stands in its block, the waiters it satisfies wake, and its CADDRs return
(R253). With the block where that does not exist. -/
def State.durableDone (s : State) (pa : Nat) : Option (State × Option Nat) :=
  match s.durable.find? fun d => ((s.desc? d.at_.serial).bind fun e => s.frameByte e d.at_.ofs) == some pa with
  | none => none
  | some d =>
    match s.desc? d.at_.serial with
    | none => none
    | some e =>
      let w := match s.leaf? e (d.at_.ofs / pageBytes e.pgsz) with
        | some a => Memory.word s.mem a
        | none => 0
      let new := Memory.word s.mem pa
      let mem := Memory.setWord s.mem (tierAddr (ptePblk w) + d.at_.ofs % pageBytes e.pgsz) new
      let s1 := { s with mem := mem, durable := s.durable.filter fun x => !(x.at_.same d.at_) }
      let ids := d.replies.map fun r => r.1
      let qs := s1.reqs.filter fun q => ids.contains q.id
      let s2 := qs.foldl (fun t q => t.updReq q.id fun r =>
        { r with stage := match r.instr with
            | .caddr _ _ _ _ => Stage.answer
            | _ => Stage.done }) s1
      let s3 := (s1.hub.peerAccs.filter fun a => ids.contains a.id).foldl (fun (t : State) a =>
        t.peerReply { a with slack := d.slack, late := d.late } (toBytesLE 8 (((d.replies.find? fun (r : Nat × Word) => r.1 == a.id).map fun (r : Nat × Word) => r.2).getD 0).toNat)) s2
      let s4 := s3.wakeAll d.at_ d.old new
      some (qs.foldl (fun t q => t.drained q.latch.ctx q.latch.route) s4, badBlock w true)

/-- DURABLE_STEP_COMPLETE (R253). The block it writes must exist (R22). -/
def execDurableStepComplete (pa : Nat) (s : State) : Host.Outcome State Fault Refusal :=
  match s.durableDone pa with
  | none => .next s
  | some (_, some b) => .fault (.noTierBlock b)
  | some (s1, none) => .next s1

/-- The old value of a CADDR returns, in its turn in its stream (R181): its pending register is written (R224). -/
def State.caddrReturns (s : State) (r : Nat) : Option State :=
  match s.req? r with
  | none => none
  | some q =>
    match q.instr with
    | .caddr _ _ _ _ =>
      if q.stage != .answer || s.streamAhead q then none
      else
        let s1 := if q.lateNow || q.replySlack = 0 then
            s.lateDelivery q.latch.ctx q.latch.route q.latch.key (newTok .null 0 none 0) (loudOf q.instr) else s
        let s2 := s1.updCtx q.latch.ctx fun x =>
          match x.pending.find? fun e => e.2 == r with
          | some e => { x with regs := { x.regs with g := Sparse.put 0 x.regs.g e.1 q.value },
                               pending := x.pending.filter fun y => y.2 != r }
          | none => x
        some ((s2.dropReq r).drained q.latch.ctx q.latch.route)
    | _ => none

/-- CADDR_REPLY (R224). -/
def execCaddrReply (req : Nat) (s : State) : Host.Outcome State Fault Refusal := .next ((s.caddrReturns req).getD s)

end Sys2Proof.Machine
end

