-- ==== Sys2Proof/Machine/Units.lean ====
section
/-! DEFINITION. Accesses by units that act whole in one step: engines, the meridian units, the loader, the block fetch, hosts (R41,
R186-R218; log entries 13 and 17), and the fetch and check of a block (R67, R73, R271). -/

namespace Sys2Proof.Machine

/-! ### Reading and writing (R41, R178) -/

/-- The checks of R41 for a unit's access up to the page step, at the peer device for a peer's object (R28), and that its home can be
reached (R393). -/
def State.unitLocate (s : State) (die : Nat) (atp : BitVec 128) (a : Word) (size : Nat) (ks : List Right) (al : Nat) :
    Except (BitVec 8) (Located × State) :=
  match s.locate die atp a size ks al with
  | .error e => .error e
  | .ok (.peer f) =>
    (match s.atPeer f size (.check (rightsBits ks)) with
    | .error e => .error e
    | .ok (_, s1) => .ok (.peer f, s1.noteBound atp a))
  | .ok (.here f d) =>
    match s.frameByte d f.ofs with
    | some p => if s.linked die (homeOf p).1 then .ok (.here f d, s.noteBound atp a) else .error codeLink
    | none => .ok (.here f d, s.noteBound atp a)

/-- Bytes read at a place by a unit, as elements of `w` bits: by loads, or by the fetch of a block. -/
def State.readBy (w : Nat) (s : State) (die : Nat) (op : PeerOp) (l : Located) (n : Nat) : Except (BitVec 8) (List Byte × State) :=
  if s.pause.isSome then .ok ([], s)
  else match l with
    | .peer f => s.atPeer f n op
    | .here f d => State.readRange w s die f d (n + 1) n

/-- Bytes read at a place by a unit. -/
def State.readAt (s : State) (die : Nat) (l : Located) (n : Nat) : Except (BitVec 8) (List Byte × State) :=
  State.readBy 64 s die .load l n

/-- Bytes written at a place by a unit; a peer's are performed there before the unit goes on (R28, R178, R191). -/
def State.writeAt (s : State) (die : Nat) (l : Located) (bs : List Byte) : Except (BitVec 8) State :=
  if s.pause.isSome then .ok s
  else match l with
    | .peer f => (s.atPeer f bs.length (.store bs)).map fun r => r.2
    | .here f d => s.writeRange die f d (bs.length + 1) bs

/-- A unit's read of `n` bytes at a near address. -/
def State.unitRead (s : State) (die : Nat) (atp : BitVec 128) (a : Word) (n : Nat) (al : Nat) :
    Except (BitVec 8) (List Byte × State) :=
  match s.unitLocate die atp a n [.r] al with
  | .error e => .error e
  | .ok (l, s1) => s1.readAt die l n

/-- A unit's read of `n` bytes at a near address, as elements of `w` bits (R184). -/
def State.unitReadAs (w : Nat) (s : State) (die : Nat) (atp : BitVec 128) (a : Word) (n : Nat) (al : Nat) :
    Except (BitVec 8) (List Byte × State) :=
  match s.unitLocate die atp a n [.r] al with
  | .error e => .error e
  | .ok (l, s1) => State.readBy w s1 die .load l n

/-- A unit's write at a near address. -/
def State.unitWrite (s : State) (die : Nat) (atp : BitVec 128) (a : Word) (bs : List Byte) (al : Nat) :
    Except (BitVec 8) State :=
  match s.unitLocate die atp a bs.length [.w] al with
  | .error e => .error e
  | .ok (l, s1) => s1.writeAt die l bs

/-- A 64-bit word that a unit reads. -/
def State.unitWord (s : State) (die : Nat) (atp : BitVec 128) (a : Word) : Except (BitVec 8) (Word × State) :=
  match s.unitRead die atp a 8 8 with
  | .error e => .error e
  | .ok (bs, s1) => .ok (leWord bs, s1)

/-- A completion or successor add that hardware makes, with the checks of R41 and R177 for right C, or C and D at durable scope
(R113, R144, R191). -/
def State.unitAdd (s : State) (die : Nat) (atp : BitVec 128) (a : Word) (amt : Word) (sc : Scope) (slack : Nat) (late : Bool)
    (src : AddSrc) : Except (BitVec 8) State :=
  let ks : List Right := if sc = .durable then [.c, .d] else [.c]
  match s.unitLocate die atp a 8 ks 8 with
  | .error e => .error e
  | .ok (l, s1) =>
    let f := match l with | .peer f => f | .here f _ => f
    .ok { s1.bump with adds := s1.adds ++ [⟨s1.nextId, f, amt, sc, min slack 507904, late || slack == 0, src⟩] }

/-! ### Blocks (R67, R73, R271) -/

/-- The fetch of a block's 2,048 bytes with right X, and the alignment of its address (R67, R271). -/
def State.fetchAt (s : State) (die : Nat) (atp : BitVec 128) (a : Word) : Except (BitVec 8) (Located × State) :=
  match s.unitLocate die atp a 2048 [.x] 1 with
  | .error e => .error e
  | .ok l => if a.toNat % 2048 ≠ 0 then .error codeAlign else .ok l

/-- A place some bytes further on in its object. -/
def Located.skip (l : Located) (n : Nat) : Located :=
  match l with
  | .here f d => .here { f with ofs := f.ofs + n } d
  | .peer f => .peer { f with ofs := f.ofs + n }

/-- The records at a place: H0, H1 and as many nodes as H0 gives; what lies past them is not fetched (R67). -/
def State.recsAt (s : State) (die : Nat) (l : Located) : Except (BitVec 8) (List RecordWord × State) :=
  match State.readBy 64 s die .fetch l 16 with
  | .error e => .error e
  | .ok (top, s1) =>
    let h0 : RecordWord := BitVec.ofNat 96 (ofBytesLE (top.take 12))
    let n := bits h0 81 7 + 3
    match State.readBy 64 s1 die .fetch (l.skip 16) (12 * n - 16) with
    | .error e => .error e
    | .ok (rest, s2) => .ok (recordsOf n (top ++ rest), s2)

/-- The records of the block at a near address, where a fetch of it passes. -/
def State.blockAt (s : State) (die : Nat) (atp : BitVec 128) (a : Word) : Except (BitVec 8) (List RecordWord × State) :=
  match s.fetchAt die atp a with
  | .error e => .error e
  | .ok (l, s1) => s1.recsAt die l

/-- The near address that BLK names (R270). -/
def blkNear (blk : BitVec 33) : Word := BitVec.ofNat 64 (2 ^ 44 + blk.toNat * 2 ^ 11)

/-- The entry blocks that the SPAWNs of a block's records name. -/
def entryBlks (recs : List RecordWord) : List (BitVec 33) :=
  (Placed.nodes ⟨0, 0, recs⟩).filterMap fun ni => (Instr_spawns ni.2).map fun e => e.2

/-- The entry blocks of SPAWNs read until one must be waited for (log entry 13). -/
def State.readEntries (s : State) (die : Nat) (atp : BitVec 128) (bs : List (BitVec 33)) : State :=
  bs.foldl (fun t b => if t.pause.isSome then t else match t.blockAt die atp (blkNear b) with
    | .ok (_, u) => u
    | .error _ => t) s

/-- The check of the block whose records are given, under a port binding and an aperture table: its refusal, and the state, in which the
unit may have to wait for an entry block (R73). An entry block that cannot be read refuses nothing here (log entry 16). -/
def State.checkAt (s : State) (die : Nat) (atp : BitVec 128) (ports : Sparse EngPort) (recs : List RecordWord) :
    Option (BitVec 8 × BitVec 8) × State :=
  (checkBlock ports (fun b => (s.blockAt die atp (blkNear b)).toOption.map fun r => r.1) recs, s.readEntries die atp (entryBlks recs))

/-- The records of placed blocks that a PE of a constellation stores (R17, R115). -/
def Region.stored (g : Region) (con pe : Nat) : Nat :=
  ((g.placed.filter fun p => p.con == con).map fun p => (List.range p.size).countP fun n => g.peOf con n == pe).sum

/-- The constellation that a further block is placed on, in block order (R115). -/
def Region.nextCon (g : Region) : Nat := g.cons.getD (g.placed.length % g.cons.length) 0

/-- A further block fits: it goes to a hub core (R382), or no PE of its constellation would store more than 2,048 records (R17). One that does not fit waits (log
entry 55). -/
def Region.fits (g : Region) (recs : List RecordWord) : Bool :=
  g.die == 8 ||
  let con := g.nextCon
  let n := (⟨0, con, recs⟩ : Placed).size
  (List.range 16).all fun pe => decide (g.stored con pe + ((List.range n).countP fun k => g.peOf con k == pe) ≤ 2048)

/-- A region as it is placed, with no block yet (R98, R114, R168). -/
def Region.fresh (num index job started die : Nat) (cons : List Nat) (bad : Sparse (BitVec 16)) (ports : Sparse EngPort)
    (chans : Sparse (BitVec 16)) (spill : BitVec 64) : Region where
  num := num
  index := index
  job := job
  started := started
  die := die
  cons := cons
  bad := bad
  ports := ports
  placed := []
  pool := List.range 1024
  gens := []
  chans := chans
  sregs := []
  seqs := []
  spill := spill
  saved := []
  orphans := 0
  torn := []
  dusk := none

/-- Blocks fit one after another (R17, R115). -/
def Region.holds (g : Region) : List (Word × List RecordWord) → Bool
  | [] => true
  | b :: bs => g.fits b.2 && Region.holds { g with placed := g.placed ++ [⟨b.1, g.nextCon, b.2⟩] } bs

/-- A block placed in a region: on the next constellation in block order (R115), where its records fit (R17; log entry 55). -/
def State.placeBlock (s : State) (region : Nat) (a : Word) (recs : List RecordWord) : State :=
  s.updRegion region fun g =>
    if (g.block? a).isSome || !g.fits recs then g else { g with placed := g.placed ++ [⟨a, g.nextCon, recs⟩] }

end Sys2Proof.Machine
end

