-- ==== Sys2Proof/Machine/Arrival.lean ====
section
/-! DEFINITION. The arrival of tokens (R120, R125, R126, R137, R149, R150, R170, R171, R377, R378, R404) and the fetch of block instances
(R67, R73, R115, R120, R121, R271). -/

namespace Sys2Proof.Machine

/-! ### The matching store (R125, R137, R404) -/

/-- An entry that stands in the matching store: a token or a residue. -/
def Entry.stands (e : Entry) : Bool := e.tok.isSome || e.residue

/-- The port of an entry carries vector tokens. -/
def Placed.vecPort (p : Placed) (e : Entry) : Bool :=
  match p.node e.key.node with
  | some i => Instr_portKind i e.port == some .vector
  | none => false

/-- The entries of a context at one PE of a constellation: each with whether it is a vector entry and whether it is spilled. -/
def State.entriesAt (s : State) (x : Ctx) (con pe : Nat) : List (Bool × Bool) :=
  x.insts.flatMap fun i =>
    match s.blockOf x.id i with
    | none => []
    | some p =>
      if i.route.con ≠ con then []
      else (i.entries.filter fun e => e.stands && s.peOf x.id con e.key.node == pe).map fun e =>
        (p.vecPort e, e.spilled.isSome)

/-- The contexts of a region. -/
def State.ctxsIn (s : State) (region : Nat) : List Ctx := s.ctxs.filter fun x => x.id.region == region

/-- MSQ, where 0 means 512 (R92). -/
def Env.quota (e : Env) : Nat := if e.msq = 0 then 512 else e.msq

/-- No room for a new entry: the context's quota of scalar entries, or the PE's 512 scalar or 64 vector entries (R137). A hub core holds
whole instances (R382). -/
def State.noRoom (s : State) (x : Ctx) (con pe : Nat) (vec : Bool) : Bool :=
  if s.dieOf x.id = 8 then false else
  let here := fun (y : Ctx) => (s.entriesAt y con pe).countP fun e => e.1 == vec && !e.2
  let all := ((s.ctxsIn x.id.region).map here).sum
  if vec then decide (all ≥ 64) else decide (here x ≥ x.env.quota) || decide (all ≥ 512)

/-- The bytes that a spilled token takes (R138). -/
def spillSize (vec : Bool) : Nat := if vec then 144 else 16

/-- The ranges of its spill area that a context's spilled tokens take: offset and size of each (R138). -/
def State.spillRanges (s : State) (x : Ctx) : List (Nat × Nat) :=
  x.insts.flatMap fun i =>
    match s.blockOf x.id i with
    | none => []
    | some p => i.entries.filterMap fun e => e.spilled.map fun o => (o, spillSize (p.vecPort e))

/-- The lowest offset of a context's spill area with room for one more token, of its 16 KiB (R138). -/
def State.spillAt (s : State) (x : Ctx) (vec : Bool) : Option Nat :=
  let taken := s.spillRanges x
  let n := spillSize vec
  ((List.range 1024).map fun k => 16 * k).find? fun o =>
    decide (o + n ≤ 16384) && taken.all fun e => decide (e.1 + e.2 ≤ o) || decide (o + n ≤ e.1)

/-- The place in its context's spill area that a further token takes; none where the PE's spill directory, or the area, is full (R137,
R138). -/
def State.spillPlace (s : State) (x : Ctx) (con pe : Nat) (vec : Bool) : Option Nat :=
  let held := ((s.ctxsIn x.id.region).map fun y => (s.entriesAt y con pe).countP fun e => e.2).sum
  if held ≥ 64 then none else s.spillAt x vec

/-- Word 0 of a saved entry (R376). -/
def entryWord (node : Nat) (port : Port) (index iter : Nat) (deep : Bool) (t : Tok) : Word :=
  BitVec.ofNat 7 node ++ port.code ++ BitVec.ofNat 3 index ++ BitVec.ofNat 24 iter ++ BitVec.ofBool deep ++ t.chan ++
    BitVec.ofBool t.late ++ BitVec.ofBool t.isNull ++
    BitVec.ofBool (match t.val with | .vector _ => true | _ => false) ++ BitVec.ofNat 19 t.slack

/-- The bytes of a saved entry (R376): 16 for a scalar or null token, 144 for a vector. -/
def entryBytes (node : Nat) (port : Port) (index iter : Nat) (deep : Bool) (t : Tok) : List Byte :=
  let w := toBytesLE 8 (entryWord node port index iter deep t).toNat
  match t.val with
  | .vector v => w ++ toBytesLE 8 (t.beat.getD 0).toNat ++ toBytesLE 128 v.toNat
  | _ => w ++ toBytesLE 8 t.word.toNat

/-- A token is written to its context's spill area, in the form of an entry of a save record (R137, R138, R376; log entry 43). -/
def State.writeSpill (s : State) (x : Ctx) (i : Inst) (e : Entry) (ofs : Nat) : State :=
  match (s.regionOf x.id).bind fun g => s.live? g.spill, e.tok with
  | some d, some t =>
    let bs := entryBytes e.key.node e.port (x.insts.findIdx fun j => j.route == i.route) e.key.iter e.key.deep t
    s.atRest fun u =>
      (match u.writeRange (s.dieOf x.id) ⟨u.names.devNum, d.serial, x.id.colour * 16384 + ofs⟩ d (bs.length + 1) bs with
      | .ok v => v
      | .error _ => u)
  | _, _ => s

/-- The entry of a key's port put in place of any other. -/
def Inst.putEntry (i : Inst) (e : Entry) : Inst :=
  { i with entries := (i.entries.filter fun f => !(f.key == e.key && f.port == e.port)) ++ [e] }

/-- The spilled tokens of a key refill (R137). -/
def Inst.refill (i : Inst) (k : Key) : Inst :=
  { i with entries := updWhere (fun e => e.key == k) (fun e => { e with spilled := none }) i.entries }

/-- Every other port of the record of a key is filled. -/
def Inst.lastPort (i : Inst) (p : Placed) (k : Key) (port : Port) : Bool :=
  match p.node k.node with
  | some r => (Instr_allPorts r).all fun q => q == port || (i.portTok k q).isSome
  | none => false

/-- A token for an entry can neither enter nor spill (R137). -/
def State.spillFull (s : State) (x : Ctx) (i : Inst) (p : Placed) (e : Entry) : Bool :=
  let pe := s.peOf x.id i.route.con e.key.node
  let vec := p.vecPort e
  !(i.lastPort p e.key e.port) && s.noRoom x i.route.con pe vec && (s.spillPlace x i.route.con pe vec).isNone

/-- A token takes its entry, or spills; with it the spilled tokens of its key refill (R137, R404). -/
def State.admitToken (s : State) (x : Ctx) (i : Inst) (p : Placed) (e : Entry) : State :=
  let pe := s.peOf x.id i.route.con e.key.node
  let vec := p.vecPort e
  let s1 := s.updInst x.id i.route fun j => j.refill e.key
  if i.lastPort p e.key e.port || !s.noRoom x i.route.con pe vec then
    s1.updInst x.id i.route fun j => j.putEntry e
  else match s.spillPlace x i.route.con pe vec with
    | none => s1.raise x.id i.route (s.recordFault x.id i.route e.key i.block codeSpill 0 0)
    | some o => (s1.updInst x.id i.route fun j => j.putEntry { e with spilled := some o }).writeSpill x i e o

/-! ### Channels (R170, R171) -/

/-- A scale beat writes its quarter of the channel's scale register in the receiving constellation (R171). -/
def Region.scaleBeat (g : Region) (con : Nat) (t : Tok) : Region :=
  match t.beat with
  | none => g
  | some b =>
    let e := if t.chan = 0#5 then 0x0140#16 else Sparse.get 0x0140#16 g.chans (con * 32 + t.chan.toNat)
    { g with sregs := Sparse.put 0x7F000#20 g.sregs (con * 64 + 4 * bits e 0 4 + bits b 20 2) (b.extractLsb' 0 20) }

/-- The channel's entry and its scale register as they stand, bound to a token with a nonzero channel (R170). -/
def Region.bindTok (g : Region) (con : Nat) (t : Tok) : Tok :=
  if t.chan = 0#5 ∨ t.isNull then t
  else
    let e := Sparse.get 0x0140#16 g.chans (con * 32 + t.chan.toNat)
    let q := fun (n : Nat) => Sparse.get 0x7F000#20 g.sregs (con * 64 + 4 * bits e 0 4 + n)
    { t with bind := some ⟨e, q 3 ++ q 2 ++ q 1 ++ q 0⟩ }

/-! ### A token at a node's port (R125, R126) -/

/-- A port collision: the token is dropped, and the receiving record's instance faults INCOMPLETE with cause 2 (R126). -/
def State.collide (s : State) (x : Ctx) (i : Inst) (k : Key) : State := s.raise x.id i.route (s.incomplete x.id i k 2)

/-- What a token from a producer group does to a port: it stands there (`take`), only its group is noted (`note`), the residue goes
(`clear`), or it collides (R125, R126). -/
inductive Fill where
  | take (e : Entry) | note (e : Entry) | clear | collide
  deriving DecidableEq, Repr

/-- What a token delivered to the port of a node does there (R125). -/
def Inst.fill (i : Inst) (p : Placed) (k : Key) (port : Port) (grp : Nat) (t : Tok) (now : Nat) : Fill :=
  let all := p.groups k.node port
  match i.entry? k port with
  | none =>
    let e : Entry := ⟨k, port, some t, [grp], false, none, now⟩
    if t.isNull && !(all.all fun g => g == grp) then .note { e with tok := none } else .take e
  | some e =>
    let gs := if e.groups.contains grp then e.groups else e.groups ++ [grp]
    let done := all.all fun g => gs.contains g
    if !t.isNull then (if e.stands then .collide else .take { e with tok := some t, groups := gs, at_ := now })
    else if e.residue && done then .clear
    else if e.tok.isNone && !e.residue && done then .take { e with tok := some t, groups := gs, at_ := now }
    else .note { e with groups := gs }

/-- The token delivered to the port of a node, from a producer group: what the port then holds (R125). -/
def State.fillPort (s : State) (x : Ctx) (i : Inst) (p : Placed) (k : Key) (port : Port) (grp : Nat) (t : Tok) : State :=
  match i.fill p k port grp t s.nextId with
  | .take e => s.admitToken x i p e
  | .note e => s.updInst x.id i.route fun j => j.putEntry e
  | .clear => s.updInst x.id i.route fun j => { j with entries := j.entries.filter fun f => !(f.key == k && f.port == port) }
  | .collide => s.collide x i k

/-- A token would be dropped at a port: it collides, or neither enters nor spills (R126, R137). -/
def State.refused (s : State) (x : Ctx) (i : Inst) (p : Placed) (k : Key) (port : Port) (grp : Nat) (t : Tok) : Bool :=
  match i.fill p k port grp t s.nextId with
  | .take e => s.spillFull x i p e
  | .collide => true
  | _ => false

/-- A packet that arrives at a node's port of an instance. -/
def State.atNode (s : State) (x : Ctx) (i : Inst) (pk : Packet) (k : Key) (port : Port) (grp : Nat) : State :=
  match s.blockOf x.id i, s.regionOf x.id with
  | some p, some g =>
    let g1 := g.scaleBeat i.route.con pk.tok
    let s1 := s.updRegion x.id.region fun _ => g1
    let s2 := if s1.refused x i p k port grp pk.tok then s1 else s1.lateDelivery x.id i.route { k with node := grp } pk.tok pk.loud
    match s2.ctx? x.id with
    | none => s2
    | some y => match y.inst? i.route with
      | none => s2
      | some j => s2.fillPort y j p k port grp (g1.bindTok i.route.con pk.tok)
  | _, _ => s

/-! ### Tokens of contexts that do not run (R367, R376-R378) -/

/-- A dropped token of a torn-down context: counted in its region, and ORPHAN posted at the first for that colour and generation, by the
hop that drops it (R364, R378; log entry 14). -/
def State.orphan (s : State) (c : CtxId) : State :=
  match s.regionOf c with
  | none => s
  | some g =>
    let s1 := s.updRegion c.region fun r => { r with orphans := r.orphans + 1 }
    if g.torn.contains (c.colour, c.gen) then s1
    else (s1.updRegion c.region fun r => { r with torn := r.torn ++ [(c.colour, c.gen)] }).post c (unitFault (s.dieOf c) 7 0 codeOrphan 0 0)

/-- The instance index of an inbox entry: the saved instance that stood in the token's place, 0 for the first instance of a context that had
none, else 7 (R120, R376, R377; log entry 18). -/
def inboxIndex (routes : List Route) (r : Route) : Nat :=
  if r.slot = 32 then 0 else (routes.findIdx? fun q => q == r).getD 7

/-- The producer group that stands with an inbox entry whose instance is not among the saved ones: R120 discards its token when the record is
restored (log entry 18). -/
def voidGroup : Nat := 130

/-- The producer group of an inbox entry, as it is kept (log entry 21). -/
def Waiting.group (w : Waiting) (routes : List Route) : Nat :=
  if w.route.slot = 32 ∨ routes.contains w.route then w.grp else voidGroup

/-- A halted context receives a token, which joins its inbox: it is not delivered, since its instance is gone, or still to be fetched (R120,
R149, R367). -/
def State.toHalted (s : State) (c : CtxId) (w : Waiting) : State := s.updCtx c fun x => { x with inbox := x.inbox ++ [w] }

/-- A place of a save record, `ofs` bytes from its start, here or at a peer device. -/
def State.savedAt (s : State) (e : SavedCtx) (ofs : Nat) : Option Located :=
  let f : FullAddr := { e.at_ with ofs := e.at_.ofs + ofs }
  if f.dev = s.names.devNum then (s.live? f.serial).map (Located.here f) else some (.peer f)

/-- A word of an object here or at a peer. -/
def State.wordAt (s : State) (l : Option Located) : Except (BitVec 8) (Nat × State) :=
  match l with
  | none => .error codeNameDead
  | some l => (s.readAt 0 l 8).map fun r => (ofBytesLE r.1, r.2)

/-- Bytes written to an object here or at a peer. -/
def State.bytesAt (s : State) (l : Option Located) (bs : List Byte) : Except (BitVec 8) State :=
  match l with
  | none => .error codeNameDead
  | some l => s.writeAt 0 l bs

/-- An entry appended at the end of a save record, and LENGTH raised; none where that would pass 262,144 (R377). -/
def State.appendSaved (s : State) (e : SavedCtx) (bs : List Byte) : Except (BitVec 8) (Option State) := do
  let (len, s1) ← s.wordAt (s.savedAt e 8)
  if len + bs.length > 262144 then return none
  let s2 ← s1.bytesAt (s1.savedAt e len) bs
  let s3 ← s2.bytesAt (s2.savedAt e 8) (toBytesLE 8 (len + bs.length))
  return some s3

/-- The producer group of an inbox entry noted (log entry 21). -/
def State.noteGroup (s : State) (f : FullAddr) (grp : Nat) : State :=
  { s with loader := { s.loader with
      saves := updWhere (fun k => k.at_ == f) (fun k => { k with groups := k.groups ++ [grp] }) s.loader.saves } }

/-- A token for a saved context: an inbox entry at the end of its record, or an orphan where that is full (R377). One of a saved instance is
delivered now; any other when it goes ahead to its first instance, or never (R120, R149). -/
def State.intoRecord (s : State) (c : CtxId) (e : SavedCtx) (w : Waiting) (loud : Bool) : State :=
  match s.appendSaved e (entryBytes w.key.node w.port (inboxIndex e.routes w.route) w.key.iter w.key.deep w.tok) with
  | .ok (some s1) =>
    if s1.pause.isSome then s1
    else
      let s2 := s1.noteGroup e.at_ (w.group e.routes)
      if e.routes.contains w.route then s2.lateDelivery c w.route { w.key with node := w.grp } w.tok loud else s2
  | _ => s.orphan c

/-- A register's token for a saved context: it counts in its instance where that is saved, and is else discarded (R120, R377; log entry 21). -/
def State.regSaved (s : State) (c : CtxId) (e : SavedCtx) (r : Route) (node : Nat) (vec : Bool) (n : Nat) (tok : Tok) (loud : Bool) : State :=
  if e.routes.contains r then
    (s.lateDelivery c r ⟨node, 0, false⟩ tok loud).updKept c r fun i =>
      if !tok.isNull && (i.regTaken vec n node || i.regHas vec n node) then i else { i with out := i.out.count vec n node tok.val }
  else s

/-- A token for a saved context; a record at a peer device is changed there, by one token at a time (R28, R377). -/
def State.inbox (s : State) (c : CtxId) (e : SavedCtx) (w : Waiting) (loud first : Bool) : Option State :=
  if e.at_.dev = s.names.devNum then some (s.atRest fun t => t.intoRecord c e w loud)
  else if first then s.whole (.ctx c) w.tok.slack w.tok.late fun t => some (t.intoRecord c e w loud)
  else none

/-! ### Tokens at engine ports (R58, R89, R186, R195) -/

/-- An engine with nothing to do. -/
def Streamer.idle : Streamer := ⟨[], []⟩
/-- An island after power-on (R200). -/
def Island.zero : Island := ⟨[], [], [], none⟩
/-- A lattice after power-on (R212). -/
def Lattice.zero : Lattice := ⟨[], [], [], [], [], [], [], none, none⟩

/-- The streamer changed by `f`. -/
def State.updStreamer (s : State) (n : Nat) (f : Streamer → Streamer) : State :=
  let e := s.engines
  { s with engines := { e with streamers := Sparse.put Streamer.idle e.streamers n (f (Sparse.get Streamer.idle e.streamers n)) } }

/-- The island changed by `f`. -/
def State.updIsland (s : State) (n : Nat) (f : Island → Island) : State :=
  let e := s.engines
  { s with engines := { e with islands := Sparse.put Island.zero e.islands n (f (Sparse.get Island.zero e.islands n)) } }

/-- The lattice changed by `f`. -/
def State.updLattice (s : State) (n : Nat) (f : Lattice → Lattice) : State :=
  let e := s.engines
  { s with engines := { e with lattices := Sparse.put Lattice.zero e.lattices n (f (Sparse.get Lattice.zero e.lattices n)) } }

/-- An engine of the die has that number (R13). -/
def EngPort.exists_ : EngPort → Bool
  | .streamer n => decide (n < 8)
  | .island n => decide (n < 18)
  | _ => true

/-- Every acquire before a COPY has returned its value (R246). -/
def State.copyAcquired (s : State) (pk : Packet) (k : Key) : Bool :=
  match pk.instr, s.ctx? pk.ctx with
  | some (.copy _ l _), some x => s.acquiredBefore x (pk.born, k.iteration, l.toNat)
  | _, _ => true

/-- A packet may reach its engine: what a COPY or an engine record sends once the older instances' operations are released at die
scope (R249), and for a COPY once the acquires before it have returned (R246); anything else once its instance is non-speculative or has
committed (R122). -/
def State.portOpen (s : State) (pk : Packet) (r : Route) (k : Key) : Bool :=
  if pk.instr.isSome then s.olderReleased pk.ctx r pk.born && s.copyAcquired pk k
  else match s.ctx? pk.ctx with
    | none => true
    | some x => !(x.insts.any fun i => i.route == r) || s.nonSpec pk.ctx r

/-- The request of an engine record is sent: a scalar 0 to T1 (R207, R208). -/
def State.engineSent (s : State) (c : CtxId) (r : Route) (k : Key) (i : Instr) (slack : Nat) : State :=
  match i with
  | .copy _ _ _ => s
  | i => s.sendTo c r k k.node false (hdrOf i).t1 (newTok (.scalar 0) 0 none slack) false none

/-- A token enters an engine's port queue, or a stage's (R89). What an engine record sends to T1 goes out now (R208). A null token asks nothing
of an engine (R58; log entry 65). -/
def State.atPort (s : State) (pk : Packet) (e : EngPort) (r : Route) (k : Key) : State :=
  let c := pk.ctx
  let s1 := match pk.instr with
    | none => s.lateDelivery c r k pk.tok pk.loud
    | some i => s.engineSent c r k i pk.slack0
  let q : EngReq := ⟨pk.id, pk.instr, pk.tok.vec, c, r, k, s.atpOf c, pk.slack0, pk.tok.slack, pk.tok.late, none, false, [], 0, []⟩
  let die := s.dieOf c
  if !e.exists_ then s1
  else match e with
  | .island n => s1.updIsland (die * 18 + n) fun x => { x with queue := x.queue ++ [q] }
  | .lattice => s1.updLattice die fun x => { x with queue := x.queue ++ [q] }
  | .stage n _ => { s1 with engines := { s1.engines with stages := s1.engines.stages ++ [(n, pk.tok)] } }
  | .streamer n => if pk.tok.isNull then s1 else s1.updStreamer (die * 8 + n) fun x => { x with queue := x.queue ++ [q] }

/-! ### TOKEN_ARRIVAL (R125) -/

/-- A packet's token is taken by what it is delivered to: it is not discarded, dropped or an orphan's (R120, R126, R129, R137). -/
def State.takes (s : State) (pk : Packet) : Bool :=
  match pk.dest with
  | .port _ _ _ => s.exists_ pk.ctx
  | .node r k port grp =>
    (match s.ctx? pk.ctx with
    | none => (s.saved? pk.ctx).any fun e => e.routes.contains r
    | some x => match x.inst? r with
      | none => false
      | some i => !i.draining && (s.blockOf x.id i).any fun p => !s.refused x i p k port grp pk.tok)
  | .reg r node vec m =>
    (match s.ctx? pk.ctx with
    | none => (s.saved? pk.ctx).any fun e => e.routes.contains r
    | some x => (x.inst? r).any fun i => !i.draining && (pk.tok.isNull || !i.regTaken vec m node))

/-- The request whose reply this packet was is over once no copy of it is left; the first late copy delivered alone posts LATE (R106,
R150). -/
def State.replyOver (s : State) (pk : Packet) (taken : Bool) : State :=
  match pk.req with
  | none => s
  | some r =>
    if s.packets.any fun p => p.req == some r then
      (if pk.loud && pk.tok.late && taken then
        { s with packets := updWhere (fun p => p.req == some r) (fun p => { p with loud := false }) s.packets }
       else s)
    else s.dropReq r

/-- A reply of the same stream left its tile before, and has not come to where this one could not go first (R181). -/
def State.replyAhead (s : State) (pk : Packet) : Bool :=
  s.packets.any fun p => p.ctx == pk.ctx && (p.streams.any fun st => pk.streams.contains st) && decide (p.id < pk.id) && p.req != pk.req &&
    (match p.dest, pk.dest with
    | .port a _ _, .port b _ _ => a == b
    | .port _ _ _, _ => false
    | _, _ => true)

/-- A packet is the first on its way to a node of its context. -/
def State.firstOf (s : State) (pk : Packet) : Bool :=
  (s.packets.find? fun p => p.ctx == pk.ctx && (match p.dest with | .node _ _ _ _ => true | _ => false)).any fun p => p.id == pk.id

/-- A packet reaches its destination; none where it may not yet: a token waits at a node that still holds the record of a region being
freed (R117). Its context is looked for before its slot: where that neither runs nor is saved the token is an orphan (R378), where it runs and the
slot has gone on the token is discarded (R120; log entry 18). -/
def State.deliverTok (s : State) (pk : Packet) (first : Bool) : Option State :=
  match pk.dest with
  | .port e r k => if s.portOpen pk r k then some (s.atPort pk e r k) else none
  | .node r k port grp =>
    let w : Waiting := ⟨r, k, port, grp, pk.tok⟩
    (match s.ctx? pk.ctx with
    | none => (match s.saved? pk.ctx with
      | some e => s.inbox pk.ctx e w pk.loud first
      | none => some (s.orphan pk.ctx))
    | some x =>
      match x.inst? r with
      | some i => if i.draining then some s else if s.nodeLoaded pk.ctx r.con k.node then some (s.atNode x i pk k port grp) else none
      | none => if x.halt.isSome then some (s.toHalted pk.ctx w) else if r.slot = 32 then none else some s)
  | .reg r node vec m =>
    (match s.ctx? pk.ctx with
    | none => some (match s.saved? pk.ctx with
      | some e => s.regSaved pk.ctx e r node vec m pk.tok pk.loud
      | none => s.orphan pk.ctx)
    | some x => match x.inst? r with
      | none => some s
      | some i => some (if i.draining then s else s.countReg pk.ctx r ⟨node, 0, false⟩ vec m pk.tok pk.loud))

/-- A packet reaches its destination. None where it may not yet. -/
def State.arrive (s : State) (n : Nat) : Option State :=
  match s.packets.find? fun p => p.id == n with
  | none => none
  | some pk =>
    if s.replyAhead pk then none
    else
      let s1 := ({ s with packets := s.packets.filter fun p => p.id != n } : State).bump
      (s1.deliverTok pk (s.firstOf pk)).map fun t => t.replyOver pk (s1.takes pk)

/-- The place of a port in the order of R404. -/
def portRank : Port → Nat
  | .l => 0 | .r => 1 | .p => 2 | .x => 3

/-- Of two tokens that reach a matching store in one nc, the first is that of the lower node, then of port L, R, P, X, then of the lower
iteration (R404). -/
def Packet.sooner (a b : Packet) : Bool :=
  match a.dest, b.dest with
  | .node _ k p _, .node _ l q _ =>
    if k.node ≠ l.node then k.node < l.node
    else if portRank p ≠ portRank q then portRank p < portRank q
    else k.iter < l.iter
  | _, _ => false

/-- A packet in its place among those of one nc. -/
def insertPacket (p : Packet) : List Packet → List Packet
  | [] => [p]
  | q :: qs => if p.sooner q then p :: q :: qs else q :: insertPacket p qs

/-- Tokens that reach matching stores in one nc enter them one at a time, in the order of R404. -/
def State.arriveTogether (s : State) (ns : List Nat) : State :=
  let ps := (s.packets.filter fun p => ns.contains p.id).foldl (fun l p => insertPacket p l) []
  ps.foldl (fun t p => (t.arrive p.id).getD t) s

/-- An arbiter's choice among the packets in its input queues, given in the order in which they entered them: the least slack, then the oldest
(R146, R148). The packet chosen goes on, and reaches its destination. -/
def State.arbitrate (s : State) (ns : List Nat) : State :=
  match firstBy (fun (a b : Packet) => decide (a.tok.slack < b.tok.slack)) (ns.filterMap fun n => s.packets.find? fun p => p.id == n) with
  | none => s
  | some p => (s.arrive p.id).getD s

/-- TOKEN_ARRIVAL (R125). -/
def execTokenArrival (pkt : Nat) (s : State) : Host.Outcome State Fault Refusal := .next ((s.arrive pkt).getD s)

/-! ### BLOCK_FETCH (R121) -/

/-- What a context's next fetch goes to: the successor handed over at commit, the youngest instance's real exit, or the exit predicted
for it; and whether it is the real successor of committed instances (R121, R271). -/
def Ctx.fetches (x : Ctx) : Option (Succ × Bool) :=
  match x.insts.getLast? with
  | none => x.next.map fun e => (e, true)
  | some i => (i.exit <|> i.pred).map fun e => (e, false)

/-- An instance as it is fetched, the `born`th of the machine (R120, R239). -/
def Inst.fresh (r : Route) (pred : Option Succ) (born : Nat) : Inst where
  route := r
  born := born
  ran := []
  pred := pred
  exit := none
  entries := []
  fired := []
  level := ⟨none, 0, [], [], none, false⟩
  out := ⟨[], [], [], 0, none, [], [], [], none⟩
  held := []
  faults := []
  draining := false

/-- The slots of a constellation that the instances of a region take. -/
def State.slotsTaken (s : State) (region con : Nat) : List Nat :=
  (s.ctxsIn region).flatMap fun x => (x.insts.filter fun i => i.route.con == con).map fun i => i.route.slot

/-- The first instance's route is known: the tokens sent ahead of it go to it (R104, R111). -/
def State.directTokens (s : State) (c : CtxId) (r : Route) : State :=
  let go := fun (p : Packet) =>
    match p.dest with
    | .node q k port grp => if p.ctx == c && q.slot == 32 then { p with dest := .node r k port grp } else p
    | _ => p
  { s with packets := s.packets.map go }

/-- A block that is placed is fetched: an instance takes the first free slot of its home constellation, with the slot's next sequence
number (R120). -/
def State.startInst (s : State) (x : Ctx) (g : Region) (p : Placed) (pred : Option Succ) : Option State :=
  let taken := s.slotsTaken g.num p.con
  match (List.range 32).find? fun n => !taken.contains n with
  | none => none
  | some slot =>
    let key := p.con * 32 + slot
    let seq := Sparse.get 0#4 g.seqs key + 1#4
    let r : Route := ⟨p.con, slot, seq, p.addr⟩
    let s1 := s.updRegion g.num fun h => { h with seqs := Sparse.put 0#4 h.seqs key seq }
    let s2 := s1.bump.updCtx x.id fun y =>
      { y with insts := y.insts ++ [Inst.fresh r pred s1.nextId]
               next := if y.insts.isEmpty then none else y.next }
    some (s2.directTokens x.id r)

/-- The record of a fetch that fails, and the name it gives: of an access that fails, its near address; of a refused header, DIE 8 and the block;
of a refused mask, what 0xFD has, COLOUR, GEN and BLOCK 0, as R364 gives it, where R73 gives the block and the context's name (R73, R271, R363,
R364; DESIGN CHOICE, log entry 80). -/
def State.fetchRecord (s : State) (c : CtxId) (a : Word) (code node : BitVec 8) : CtxId × FaultRec :=
  let f : FaultRec := { code := code, iter := 0, node := node, die := s.dieOf c, px := 0, py := 0, cx := 0, cy := 0, block := a,
                        addr := if node = 0xFC then a else 0, info := 0, ending := true }
  if node = 0xFF then (CtxId.zero, { f with die := 8, block := 0 })
  else (c, if node = 0x80 ∨ node = 0x81 then { f with die := 8 } else f)

/-- The fetch of a real successor fails: an ending fault, and the context halts at that address (R73, R271). -/
def State.fetchFails (s : State) (x : Ctx) (a : Word) (code node : BitVec 8) : State :=
  let r := s.fetchRecord x.id a code node
  (s.postAs x.id r.1 r.2).halt x.id a

/-- The block of a successor, placed: by the launch, or checked and placed at its first fetch for the job (R73). None where the unit that
fetches must wait, or where it does not fit (R17; log entry 55). -/
def State.fetchBlock (s : State) (x : Ctx) (g : Region) (a : Word) : Except (BitVec 8 × BitVec 8) (State × Option Placed) :=
  match s.fetchAt g.die x.env.atp a with
  | .error e => .error (e, 0xFC)
  | .ok (l, s0) =>
    match g.block? a with
    | some p => .ok (s0, some p)
    | none =>
      match s0.recsAt g.die l with
      | .error e => .error (e, 0xFC)
      | .ok (recs, s1) =>
        let seen : Bool := match s.job? g.job with
          | some j => j.checked.contains a
          | none => false
        if s1.pause.isSome then .ok (s1, none)
        else match (if seen then (none, s1) else s1.checkAt g.die x.env.atp g.ports recs) with
          | (some e, s2) => if s2.pause.isSome then .ok (s2, none) else .error e
          | (none, s2) =>
            let s3 := (s2.placeBlock g.num a recs).updJob g.job fun j =>
              if j.checked.contains a then j else { j with checked := j.checked ++ [a] }
            .ok (s3, (s3.region? g.num).bind fun h => h.block? a)

/-- A context fetches nothing while a dusk is under way in its region, unless a SPAWN there waits for it (R371, R372; log entry 22). -/
def State.duskStops (s : State) (x : Ctx) (g : Region) : Bool :=
  g.dusk.isSome && (match x.env.origin with
  | .child _ q => (s.req? q).isNone
  | _ => true)

/-- A context fetches its next instance; `pred` is what the predictor names for it. None where it fetches nothing now: a task's context,
before its acquire on DEPA is made (R112). -/
def State.fetchNow (s : State) (c : CtxId) (pred : Option Succ) : Option State :=
  match s.ctx? c, s.regionOf c with
  | some x, some g =>
    let promoting := match x.env.origin with
      | .task t => (match s.task? t with
        | some k => k.promote
        | none => false)
      | _ => false
    if x.halt.isSome || x.drained || s.outOfWork c || s.duskStops x g || promoting || decide (x.insts.length ≥ if g.die = 8 then 4 else 8) then none
    else match x.fetches with
      | some (.block a, real) => s.whole (.fetch c) 507904 false fun t =>
        (match t.fetchBlock x g a with
        | .error (code, node) => if real then some (t.fetchFails x a code node) else none
        | .ok (s1, p) =>
          if s1.pause.isSome then some s1
          else match s1.region? g.num, p with
            | some g1, some p => s1.startInst x g1 p pred
            | _, _ => none)
      | _ => none
  | _, _ => none

/-- BLOCK_FETCH (R121). -/
def execBlockFetch (c : CtxId) (pred : Option Succ) (s : State) : Host.Outcome State Fault Refusal :=
  .next ((s.fetchNow c pred).getD s)

end Sys2Proof.Machine
end

