-- ==== Sys2Proof/Machine/Memory.lean ====
section
/-! DEFINITION. The memory and counter records (R196, R197, R223-R225, R252, R332-R343): what each does when it fires, and, once its
instance is non-speculative, what it sends. The rest of an access is made by tiles and homes. -/

namespace Sys2Proof.Machine

/-- A record's access enters its tile's port queue. -/
def State.access (s : State) (i : Instr) : State := s.fire i fun t => t.request i .queued 0

/-- LD (R334). -/
def execLd (h : Hdr) (t : Ty) (m : MemLit) (ch : BitVec 5) (s : State) : Host.Outcome State Fault Refusal :=
  .next (s.access (.ld h t m ch))

/-- ST (R334). -/
def execSt (h : Hdr) (t : Ty) (m : MemLit) (s : State) : Host.Outcome State Fault Refusal := .next (s.access (.st h t m))

/-- VLD (R335). -/
def execVld (h : Hdr) (t : Ty) (m : MemLit) (ch : BitVec 5) (s : State) : Host.Outcome State Fault Refusal :=
  .next (s.access (.vld h t m ch))

/-- VST (R335). -/
def execVst (h : Hdr) (t : Ty) (m : MemLit) (s : State) : Host.Outcome State Fault Refusal := .next (s.access (.vst h t m))

/-- VLDG (R337, R338). -/
def execVldg (h : Hdr) (t : Ty) (m : MemLit) (ch : BitVec 5) (s : State) : Host.Outcome State Fault Refusal :=
  .next (s.access (.vldg h t m ch))

/-- VSTS (R337, R338). -/
def execVsts (h : Hdr) (t : Ty) (m : MemLit) (s : State) : Host.Outcome State Fault Refusal := .next (s.access (.vsts h t m))

/-- LDR (R340): the request, and a scalar 0 to each target as it is sent. -/
def execLdr (h : Hdr) (t : Ty) (m : MemLit) (ch : BitVec 5) (s : State) : Host.Outcome State Fault Refusal :=
  let i := Instr.ldr h t m ch
  .next (s.fire i fun u => (u.request i .queued 0).result i (.scalar 0))

/-- The LSID of the firing record no longer holds up commit (R129). -/
def State.lsidOver (s : State) (i : Instr) : State :=
  match i.lsid with
  | none => s
  | some l =>
    let k := s.latch.key
    s.updOut s.latch.ctx s.latch.route fun o =>
      { o with lsids := updWhere (fun m => m.lsid == l && m.iter == k.iter && m.node == k.node)
                          (fun m => { m with done := true }) o.lsids }

/-- PREF (R341): complete when it is sent. -/
def execPref (h : Hdr) (m : MemLit) (pgs : BitVec 4) (s : State) : Host.Outcome State Fault Refusal :=
  let i := Instr.pref h m pgs
  .next (s.fire i fun t => (t.request i .queued 0).lsidOver i)

/-- A token that carries the bits of an operand as they were decoded, on no channel. -/
def rawTok (k : Tok) (v : TokVal) : Tok := { k with val := v, chan := 0, bind := none }

/-- An operand on a bound channel, which a record of type F32 decodes as it fires (R170). -/
def decodes (t : Ty) (k : Tok) : Bool := t == .fp .f32 && k.chan != 0 && k.bind.isSome

/-- The operand that a RED combines, decoded where its record's type is F32, its flags held (R170, R339). -/
def State.decodeRed (s : State) (t : Ty) : State :=
  let k := s.latch.opR
  if decodes t k then
    let x := scalarOp t k
    ({ s with latch := { s.latch with r := some (rawTok k (.scalar x.val)) } } : State).holdFlags x.flags
  else s

/-- The lanes that a VREDM combines, decoded where its record's type is F32, the flags of the lanes present held (R170, R303, R339). -/
def State.decodeVredm (s : State) (t : Ty) (m : MemLit) : State :=
  let k := s.latch.opX
  if decodes t k then
    let xs := vectorOp t k
    let present := (laneSpans t s.latch m).map fun p => p.lane
    let fs := orFlags ((xs.zipIdx.filter fun e => present.contains e.2).map fun e => e.1)
    ({ s with latch := { s.latch with x := some (rawTok k (.vector (ofLanes 32 (xs.map fun x => x.val)))) } } : State).holdFlags fs
  else s

/-- RED (R339). -/
def execRed (h : Hdr) (t : Ty) (m : MemLit) (f : MemFn) (s : State) : Host.Outcome State Fault Refusal :=
  let i := Instr.red h t m f
  .next (s.fire i fun u => (u.decodeRed t).request i .queued 0)

/-- VREDM (R338, R339). -/
def execVredm (h : Hdr) (t : Ty) (m : MemLit) (f : MemFn) (s : State) : Host.Outcome State Fault Refusal :=
  let i := Instr.vredm h t m f
  .next (s.fire i fun u => (u.decodeVredm t m).request i .queued 0)

/-- MLDRED (R197). -/
def execMldred (h : Hdr) (lsid : BitVec 5) (ofs : BitVec 32) (s : State) : Host.Outcome State Fault Refusal :=
  .next (s.access (.mldred h lsid ofs))

/-- GSET (R196): the switch acts on it. -/
def execGset (h : Hdr) (lsid : BitVec 5) (s : State) : Host.Outcome State Fault Refusal :=
  let i := Instr.gset h lsid
  .next (s.fire i fun t => t.request i .homes 0)

/-- PERSIST (R252). -/
def execPersist (h : Hdr) (m : MemLit) (kn : BitVec 4) (s : State) : Host.Outcome State Fault Refusal :=
  .next (s.access (.persist h m kn))

/-- A counter record's request: to its tile, or, for a near counter, to its own context; a near add's amount is checked now
(R224). -/
def State.counterRequest (s : State) (i : Instr) : State :=
  if i.near.isNone then s.request i .queued 0
  else if i.writes && decide (s.latch.opR.word.toNat ≥ 2 ^ 48) then s.faultHere codeCntadd 0 0
  else s.request i .homes 0

/-- CADD (R224). -/
def execCadd (h : Hdr) (m : MemLit) (scope : Scope) (near : Option (BitVec 4)) (s : State) :
    Host.Outcome State Fault Refusal :=
  let i := Instr.cadd h m scope near
  .next (s.fire i fun t => t.counterRequest i)

/-- CADDR (R224): its register counts real as its request is sent, and is pending until the old value returns; a register already counted or
claimed faults INCOMPLETE with cause 2, and nothing is sent (R129). -/
def execCaddr (h : Hdr) (m : MemLit) (scope : Scope) (near : Option (BitVec 4)) (s : State) :
    Host.Outcome State Fault Refusal :=
  let i := Instr.caddr h m scope near
  .next (s.fire i fun t =>
    let t1 := t.counterRequest i
    match h.t0 with
    | .reg n => t1.updOut t1.latch.ctx t1.latch.route fun o =>
        { o with regs := o.regs ++ [⟨false, n.toNat, t1.latch.key.node, .scalar 0⟩] }
    | _ => t1)

/-- CWAIT (R225). -/
def execCwait (h : Hdr) (m : MemLit) (scope : Scope) (near : Option (BitVec 4)) (s : State) :
    Host.Outcome State Fault Refusal :=
  let i := Instr.cwait h m scope near
  .next (s.fire i fun t => t.counterRequest i)

/-- CPOLL (R225). -/
def execCpoll (h : Hdr) (m : MemLit) (scope : Scope) (near : Option (BitVec 4)) (s : State) :
    Host.Outcome State Fault Refusal :=
  let i := Instr.cpoll h m scope near
  .next (s.fire i fun t => t.counterRequest i)

end Sys2Proof.Machine
end

