-- ==== Sys2Proof/Machine/Tick.lean ====
section
/-! DEFINITION. One tick edge (R142): slack runs down where R145 says, the commit watchdogs count (R132), tiles count stalls (R184), and
TIME's count rises (R360). -/

namespace Sys2Proof.Machine

/-- Slack after one tick edge in a place that decrements. -/
def slackDown (n : Nat) : Nat := n - 1

/-- A token's slack after one tick edge: at 0 it is late (R142, R148). -/
def Tok.tick (t : Tok) : Tok := { t with slack := slackDown t.slack, late := t.late || slackDown t.slack == 0 }

/-- An engine's queued request after one tick edge. -/
def EngReq.tick (q : EngReq) : EngReq := { q with slack := slackDown q.slack, late := q.late || slackDown q.slack == 0 }

/-- A request waits where slack runs down: in transit to its tile or in a port queue, a miss waiting for a walker among them, or as a SPAWN
waiting for a colour (R42, R105, R145). -/
def Req.queues (q : Req) : Bool := q.stage == .queued || q.stage == .colour

/-- A piece waits where slack runs down: at a home that could perform it now. A store that awaits commit and an access that the order holds
back lose nothing (R145). -/
def State.pieceQueues (s : State) (q : Req) (k : Nat) (p : Piece) : Bool :=
  p.stage == .ready &&
  (match s.add? q.id with
  | some a => s.addReleased a a.scope && (match s.addAt a with | .home _ => true | _ => false)
  | none => (s.homeStep q k).isSome)

/-- A piece after one tick edge. -/
def Piece.tick (p : Piece) : Piece := { p with slack := slackDown p.slack, late := p.late || slackDown p.slack == 0 }

/-- A GSET waits in the package switch's queue: it could be performed there now (R145, R196). -/
def State.atSwitch (s : State) (q : Req) : Bool :=
  match q.instr with
  | .gset _ _ => q.stage == .homes && (s.gsetNow q).isSome
  | _ => false

/-- A request after one tick edge: itself where it queues, otherwise those of its pieces that do. -/
def State.tickReq (s : State) (q : Req) : Req :=
  if q.queues || s.atSwitch q then { q with slack := slackDown q.slack, late := q.late || slackDown q.slack == 0 }
  else { q with pieces := q.pieces.zipIdx.map fun p => if s.pieceQueues q p.2 p.1 then p.1.tick else p.1 }

/-- A packet waits where slack runs down: not at an engine that its record's release, or its instance, keeps it from (R122, R145, R193,
R208), nor at a node whose record is not loaded yet (R117), nor for its context's first instance. -/
def State.packetQueues (s : State) (p : Packet) : Bool :=
  match p.dest with
  | .port _ r k => s.portOpen p r k
  | .node r k _ _ => r.slot != 32 && s.nodeLoaded p.ctx r.con k.node
  | .reg _ _ _ _ => true

/-- The number by which a tick names a packet sent to a peer: from 2^64 on, by device and sequence number. -/
def Sent.num (u : Sent) : Nat := 2 ^ 64 + u.dev.toNat * 2 ^ 32 + u.seq.toNat

/-- An add waits where slack runs down: at a home whose page is at rest, or on its way to a peer; not for what it must wait for, nor at a granule
that is held (R145, R253). -/
def State.addQueues (s : State) (a : PendAdd) : Bool :=
  !s.hwWaits a && !s.lockedAt a.src a.dst && (match s.addAt (.hw a) with
  | .home _ | .dead | .peer => true
  | _ => false)

/-- A peer's access waits where slack runs down: at a home that could perform it, its page at rest (R145). -/
def State.accQueues (s : State) (a : PeerAcc) : Bool :=
  !a.held && !s.peerWaits a && !s.peerHeld a && (match a.op with
  | .add _ _ => (s.addHome (.acc a)).isSome
  | op => !peerTouches op || (s.accHome a).isSome)

/-- The number by which a tick names the dusk marker of a region. -/
def markerNum (region : Nat) : Nat := 2 ^ 100 + region

/-- The dusk marker of a region after one tick edge, in the queues between its nodes (R141, R145). -/
def Region.tickMarker (g : Region) : Region :=
  { g with dusk := g.dusk.map fun d => { d with slack := slackDown d.slack, late := d.late || slackDown d.slack == 0 } }

/-- The tokens of the ready keys of a context lose slack, and its ready records that have no operand ports (R127, R145). -/
def State.tickReady (s : State) (x : Ctx) : Ctx :=
  if x.halt.isSome then x
  else
    { x with insts := x.insts.map fun i =>
        let ks := s.readyKeys x i
        let ready := ks.map fun k => k.1
        { i with
          entries := i.entries.map fun e => if ready.contains e.key then { e with tok := e.tok.map Tok.tick } else e
          ran := (ks.filter fun k => k.2.1.ports.isEmpty).foldl (fun t k => Sparse.put 0 t k.1.node (Sparse.get 0 t k.1.node + 1)) i.ran } }

/-- The commit watchdog counts eight ac of a tick in which its context's oldest instance is stuck; any other clears it (R132). -/
def State.tickWatch (s : State) (x : Ctx) : Ctx := { x with watch := if s.stuck x then x.watch + 8 else 0 }

/-- The loads that wait at a tile, by page, with the tile each waits at. -/
def State.waitingPages (s : State) : List ((Nat × Nat) × BitVec 64 × Nat) :=
  distinct (s.reqs.flatMap fun q =>
    if opKind q.instr == .load && q.stage == .homes then
      q.pieces.filterMap fun p =>
        if (p.stage == .ready || p.stage == .parked) && p.dev == s.names.devNum then
          (s.desc? p.serial).map fun d =>
            (s.pieceHome q.latch.ctx q.latch.route.con p, p.serial, p.ofs / pageBytes d.pgsz)
        else none
    else [])

/-- Sixteen nc of stall for each page that a load waits for (R184). -/
def State.tickHeat (s : State) : State :=
  s.waitingPages.foldl (fun t w => t.updTile w.1 fun u => { u with heat := addHeat u.heat w.2.1 w.2.2 0 16 }) s

/-- One tick edge; `onWire` names the packets, requests, adds and markers that stand on a wire (R142, R145). -/
def State.tick (s : State) (onWire : List Nat) : State :=
  let off := fun (n : Nat) => !onWire.contains n
  let e := s.engines
  let hub := { s.hub with
    unacked := updWhere (fun u => off u.num) (fun u => { u with slack := slackDown u.slack, late := u.late || slackDown u.slack == 0 })
      s.hub.unacked
    peerAccs := updWhere s.accQueues (fun a => { a with slack := slackDown a.slack, late := a.late || slackDown a.slack == 0 })
      s.hub.peerAccs }
  let engines := { e with
    streamers := e.streamers.map fun x => (x.1, { x.2 with queue := x.2.queue.map EngReq.tick })
    islands := e.islands.map fun x => (x.1, { x.2 with queue := x.2.queue.map EngReq.tick })
    lattices := e.lattices.map fun x => (x.1, { x.2 with queue := x.2.queue.map EngReq.tick }) }
  let s1 := { s with
    ticks := s.ticks + 1
    ctxs := s.ctxs.map fun x => s.tickWatch (s.tickReady x)
    packets := updWhere (fun p => off p.id && s.packetQueues p) (fun p => { p with tok := p.tok.tick }) s.packets
    reqs := updWhere (fun q => off q.id) s.tickReq s.reqs
    adds := updWhere (fun a => off a.id && s.addQueues a) (fun a => { a with slack := slackDown a.slack, late := a.late || slackDown a.slack == 0 }) s.adds
    tasks := updWhere (fun t => t.status == 2#4 && !t.promote) (fun t => { t with slack := slackDown t.slack }) s.tasks
    loader := { s.loader with
      jobs := s.loader.jobs.map fun (j : Job) => { j with slack := slackDown j.slack }
      regions := updWhere (fun g => off (markerNum g.num)) Region.tickMarker s.loader.regions }
    engines := engines
    hub := hub }
  s1.tickHeat

/-- TICK (R142). -/
def execTick (onWire : List Nat) (s : State) : Host.Outcome State Fault Refusal := .next (s.tick onWire)

end Sys2Proof.Machine
end

