-- ==== Sys2Proof/Machine/Tasks.lean ====
section
/-! DEFINITION. Spawned contexts, tasks and cancellation (R104-R113, R248, R345-R350, R367, R379). -/

namespace Sys2Proof.Machine

/-! ### Launch and TCB words (R92, R107) -/

/-- A field of a launch header's or TCB's word. -/
def wordField (ws : List Word) (n lo len : Nat) : Nat := bits (ws.getD n 0) lo len

/-- DSLK of a job's launch (R92). -/
def Job.dslk (j : Job) : BitVec 8 := (j.words.getD 1 0).extractLsb' 42 8

/-- MSQ of a job's launch (R92). -/
def Job.msq (j : Job) : Nat := wordField j.words 1 50 10

/-- PRIO of a job's launch (R93). -/
def Job.prio (j : Job) : Nat := wordField j.words 1 39 3

/-- DSCOPE of a job's launch (R92). -/
def Job.dscope (j : Job) : Scope := (Scope.ofCode ((j.words.getD 1 0).extractLsb' 60 3)).getD .module

/-- RHINT of a TCB (R107). -/
def Task.rhint (t : Task) : Nat := wordField t.words 4 16 16

/-- SLK of a TCB. -/
def Task.slkCode (t : Task) : BitVec 8 := (t.words.getD 4 0).extractLsb' 3 8

/-- The regions of a job. -/
def State.regionsOf (s : State) (job : Nat) : List Region := s.loader.regions.filter fun g => g.job == job

/-- The slack a task's own packets start with: SLK's, or the launch's DSLK's (R107, R144). -/
def State.taskCode (s : State) (t : Task) : BitVec 8 :=
  if t.slkCode ≠ 0#8 then t.slkCode else match s.job? t.job with
    | some j => j.dslk
    | none => 0#8

/-- The word of a TCB that holds a reserved value or a STATE that no LAUNCH takes (R107-R109). -/
def badTcb (ws : List Word) (regions : List Nat) : Option Nat :=
  let f := wordField ws
  let hint := f 4 16 16
  if f 4 42 2 ≠ 0 ∨ f 4 35 3 = 7 ∨ f 4 32 3 > 4 ∨ f 4 13 3 > 5 ∨ f 4 11 2 = 3 ∨ f 4 0 3 > 4 ∨
      !slkOk ((ws.getD 4 0).extractLsb' 3 8) ∨ (hint ≠ 0xFFFF ∧ !regions.contains hint) then some 4
  else if f 5 24 40 ≠ 0 ∨ f 5 12 4 ≠ 0 ∨ f 5 4 4 ≠ 0 ∨ !([0, 4, 5, 6, 7].contains (f 5 0 4)) then some 5
  else ((List.range (f 4 35 3)).find? fun j => f (10 + j) 0 20 = 0).map fun j => 10 + j

/-! ### SPAWN and RETN (R104-R106, R346-R348) -/

/-- The route of tokens sent to a context before its first instance is fetched (log entry 2). -/
def aheadRoute : Route := ⟨0, 32, 0#4, 0⟩

/-- A scalar sent to port L of node `n` of a context's first block (R104, R111). -/
def State.sendAhead (s : State) (c : CtxId) (n : Nat) (v : Word) (slack : Nat) : State :=
  s.sendPacket c (.node aheadRoute ⟨n, 0, false⟩ .l 129) (newTok (.scalar v) 0 none slack) false none

/-- A SPAWN's arguments, n0's first. -/
def Latch.args (a : Latch) (na : Nat) : List Word := [a.opL.word, a.opR.word, a.opX.word].take (na + 1)

/-- A child starts under a colour of its parent's region, in the state of R99 with its launch's DSLK, SPAWN's arguments on their way; none
where the pool is empty (R104, R105). A mark that its parent has seen passes to it (R350). -/
def State.startChild (s : State) (a : Latch) (req na : Nat) (blk : BitVec 33) (slack : Nat) : Option State :=
  match s.ctx? a.ctx with
  | none => none
  | some x =>
    match s.drawColour a.ctx.region with
    | none => none
    | some (s1, c) =>
      let env := { x.env with
        dslk := match s1.job? x.env.job with | some j => j.dslk | none => x.env.dslk
        super := false, endpoint := s1.newEndpoint, origin := .child a.ctx req, anc := x.env.anc ++ [a.ctx] }
      let s2 := s1.bump.addCtx { Ctx.fresh c env [] (blkNear blk) with mark := if x.mark == .seen then .sent else .none }
      some ((a.args na).zipIdx.foldl (fun t v => t.sendAhead c v.2 v.1 slack) s2)

/-- The cancel mark of the firing context has been seen (R350). -/
def State.marked (s : State) : Bool :=
  match s.me with
  | some x => x.mark == .seen
  | none => false

/-- SPAWN's effect, and NOWAIT's (R105, R347). -/
def State.spawn (s : State) (i : Instr) (na : Nat) (blk : BitVec 33) (wait : Bool) : State :=
  if s.marked then s.emitNull i
  else
    let n := s.nextId
    let s1 := s.request i .answer 0
    match s1.startChild s.latch n na blk (s.outSlack i) with
    | some s2 => s2
    | none =>
      if wait then s1.updReq n fun r => { r with stage := .colour }
      else (s.faultHere codeSpawn 0 0).emitNull i

/-- SPAWN (R347). -/
def execSpawn (h : Hdr) (na : Fin 3) (blk : BitVec 33) (s : State) : Host.Outcome State Fault Refusal :=
  let i := Instr.spawn h na blk
  .next (s.fire i fun t => t.spawn i na.val blk true)

/-- SPAWN.NOWAIT (R105). -/
def execSpawnNowait (h : Hdr) (na : Fin 3) (blk : BitVec 33) (s : State) : Host.Outcome State Fault Refusal :=
  let i := Instr.spawnNowait h na blk
  .next (s.fire i fun t => t.spawn i na.val blk false)

/-- A SPAWN that waits for a colour may take one: its die works, and its node has not forwarded a dusk marker, behind which it is saved unfired
(R21, R372). -/
def State.mayResume (s : State) (q : Req) : Bool :=
  q.stage == .colour && !s.outOfWork q.latch.ctx && (match q.instr with | .spawn _ _ _ => true | _ => false) &&
  !((s.regionOf q.latch.ctx).bind fun g => g.dusk).any fun d => d.marks.contains (q.latch.route.block, q.latch.key.node)

/-- The waiting SPAWN of least slack takes a colour of the region and starts its child (R105). -/
def State.spawnResume (s : State) (region : Nat) : Option State :=
  let before := fun (a b : Req) => decide (a.slack < b.slack) || (a.slack == b.slack && decide (a.id < b.id))
  match firstBy before (s.reqs.filter fun q => q.latch.ctx.region == region && s.mayResume q) with
  | none => none
  | some q =>
    match q.instr with
    | .spawn h na blk =>
      let slack := if h.slk = 0#8 then q.slack else slkValue h.slk
      (s.startChild q.latch q.id na.val blk slack).map fun t => t.updReq q.id fun r => { r with stage := .answer }
    | _ => none

/-- SPAWN_RESUME (R105). -/
def execSpawnResume (region : Nat) (s : State) : Host.Outcome State Fault Refusal := .next ((s.spawnResume region).getD s)

/-- The firing context was started by a SPAWN. -/
def State.isChild (s : State) : Bool :=
  match s.me with
  | some x => (match x.env.origin with | .child _ _ => true | _ => false)
  | none => false

/-- RETN (R348): its token is held with the instance, with the slack its firing took (R143). -/
def execRetn (h : Hdr) (s : State) : Host.Outcome State Fault Refusal :=
  let i := Instr.retn h
  .next (s.fire i fun t =>
    let again : Bool := match t.myInst with
      | some x => x.out.retn.isSome
      | none => false
    if !t.isChild || again then t.faultHere codeSpawn 0 0
    else t.updOut t.latch.ctx t.latch.route fun o =>
      { o with retn := some (t.latch.key, newTok (.scalar t.latch.opL.word) 0 none (t.outSlack i)) })

/-! ### The TCB in memory (R108) -/

/-- A hardware write for a context fails: its meridian unit, or the scale-up port, posts the code (R28, R364; DESIGN CHOICE, log entry 79). -/
def State.storeFails (s : State) (c : CtxId) (die : Nat) (f : FullAddr) (code : BitVec 8) : State :=
  s.chargeAny c (if f.dev = s.names.devNum then unitFault die 8 0 code 0 0 else unitFault 8 6 0 code 0 0)

/-- Bytes of one granule written at a full address by hardware, for a context. A unit that acts waits for a peer device to have performed them;
otherwise they go there under the context's number, by a packet of slack 507,904 (R28, R108; DESIGN CHOICE, log entry 76). -/
def State.storeFull (s : State) (c : CtxId) (die : Nat) (f : FullAddr) (bs : List Byte) : State :=
  if f.dev ≠ s.names.devNum then
    match s.doer with
    | none => s.bump.toPeer f.dev (.access (ctxTag c) 0 f.serial f.ofs bs.length (.store bs) 507904 false none) 507904 false
    | some _ => match s.atPeer f bs.length (.store bs) with
      | .error e => s.storeFails c die f e
      | .ok (_, s1) => s1
  else match s.live? f.serial with
    | none => s.storeFails c die f codeNameDead
    | some d => match s.writeRange die f d (bs.length + 1) bs with
      | .ok s1 => s1
      | .error e => s.storeFails c die f e

/-- Word 5 of a task's TCB: LASTF, TRIES and STATE. -/
def Task.word5 (t : Task) : Word :=
  let lf : BitVec 8 := if t.lastf ≠ 0#8 then t.lastf else (t.words.getD 5 0).extractLsb' 16 8
  0#40 ++ lf ++ 0#4 ++ BitVec.ofNat 4 t.tries ++ 0#4 ++ t.status

/-- The meridian unit writes word 5 with one aligned store (R108). -/
def State.writeTcb (s : State) (t : Task) : State :=
  s.storeFull t.issuer t.die { t.at_ with ofs := t.at_.ofs + 40 } (toBytesLE 8 t.word5.toNat)

/-- A task moves to a new state, which is written to its TCB (R108). -/
def State.moveTask (s : State) (t : Task) : State := (s.updTask t.id fun _ => t).writeTcb t

/-- A task still waits for a counter of a peer device (R28, R109). -/
def State.waitsAway (s : State) (t : Task) : Bool :=
  t.dep.dev != s.names.devNum && (s.task? t.id).any fun u => u.status == 1#4 && u.woken.isNone

/-- A task that has come to its end leaves the unit, its STATE written and its waiter withdrawn, at a peer device too (R349; log entry 76). -/
def State.endTask (s : State) (t : Task) : State :=
  let s0 := s.writeTcb t
  let s1 := if s.waitsAway t then s0.toPeer t.dep.dev (.access t.id 0 t.dep.serial t.dep.ofs 8 .drop 507904 false none) 507904 false else s0
  { s1 with tasks := s1.tasks.filter fun u => u.id != t.id
            waiters := s1.waiters.filter fun w => w.who != .task t.id }

/-! ### LAUNCH (R109) -/

/-- A fault of a request with an information word. -/
def State.reqInfo (s : State) (q : Req) (code : BitVec 8) (addr info : Word) : State :=
  s.reqEnds q fun i => s.recordFault q.latch.ctx q.latch.route q.latch.key i.block code addr info

/-- The item and, where they differ, the task, to which a context's launches belong (R100). -/
def State.itemOf (s : State) (c : CtxId) : Nat :=
  match s.ctx? c with
  | some x => x.env.item
  | none => 0

/-- The full address of a located access. -/
def Located.full : Located → FullAddr
  | .here f _ => f
  | .peer f => f

/-- The waiter of a task on DEPA: woken at once where its threshold is satisfied (R109, R110); THRESH or SPILL where it cannot stand (R221,
R231). The counter on a peer device is read, and waited for, there. -/
def State.awaitDep (s : State) (die : Nat) (l : Located) (thr : Word) (slack id : Nat) : Except (BitVec 8) (Option Word × State) :=
  match l with
  | .peer f => (s.atPeer f 8 (.poll thr)).map fun r =>
      if r.2.pause.isSome then (none, r.2)
      else if satisfied (leWord r.1) thr then (some (leWord r.1), r.2)
      else (none, r.2.toPeer f.dev (.access id 0 f.serial f.ofs 8 (.wait thr) slack false none) slack false)
  | .here f d =>
    match s.readNow die f d 8 with
    | .error e => .error e
    | .ok (bs, s1) =>
      let v := leWord bs
      if s1.pause.isSome then .ok (none, s1)
      else if (thr - v).toNat = 2 ^ 63 then .error codeThresh
      else if satisfied v thr then .ok (some v, s1)
      else match s1.register f thr slack (.task id) with
        | some s2 => .ok (none, s2)
        | none => .error codeSpill

/-- A task that a context whose cancel mark has been seen launches is cancelled as it comes (R350). -/
def State.taskMarked (s : State) (c : CtxId) : Bool :=
  match s.ctx? c with
  | some x => x.mark == .seen
  | none => false

/-- The task of a TCB read by LAUNCH, and the die of its unit (R109). -/
def State.newTask (s : State) (c : CtxId) (near : Word) (tcb dep : FullAddr) (ws : List Word) : Task :=
  let job := s.jobIn c
  let hint := wordField ws 4 16 16
  let old := s.tasks.find? fun t => t.at_ == tcb && t.job == job
  { id := s.nextId, near := near, at_ := tcb, dep := dep, issuer := c, job := job,
    item := (old.map fun u => u.item).getD (s.itemOf c), atp := s.atpOf c,
    anc := (match s.ctx? c with | some x => x.env.anc | none => []) ++ [c],
    die := match (s.regionsOf job).find? fun g => g.index == hint with | some g => g.die | none => s.dieOf c
    words := ws, status := 1#4, tries := if wordField ws 5 0 4 = 7 then wordField ws 5 8 4 else 0, slack := 0,
    order := s.nextId, woke := s.nextId, ctx := none, lastf := 0, woken := none, promote := false, cancelled := false }

/-- Steps 5 and 6 of R109 for the words of a TCB. A waiter that cannot stand faults the LAUNCH, with nothing written (log entry 56). -/
def State.handOver (s : State) (q : Req) (tcb : FullAddr) (ws : List Word) : Option State :=
  let c := q.latch.ctx
  let die := s.dieOf c
  match s.fetchAt die (s.atpOf c) (ws.getD 0 0) with
  | .error e => some (s.reqFault q e (ws.getD 0 0))
  | .ok (_, s1) =>
    match s1.unitLocate die (s1.atpOf c) (ws.getD 2 0) 8 [.c] 8 with
    | .error e => some (s1.reqFault q e (ws.getD 2 0))
    | .ok (dl, s2) => s2.goOn fun s2 =>
      let t := s2.newTask c q.latch.opL.word tcb dl.full ws
      match s2.awaitDep t.die dl (ws.getD 3 0) (slkValue (s2.taskCode t)) t.id with
      | .error e => some (s2.reqFault q e (ws.getD 2 0))
      | .ok (w, s3) =>
        let s4 := { s3.bump with tasks := (s3.tasks.filter fun (u : Task) => u.at_ != tcb) ++ [{ t with woken := w }] }
        (s4.writeTcb t).goOn fun s4 =>
          let s5 := s4.answer q (.scalar 1) (.scalar 1) 0 q.replySlack q.late
          some (if s5.taskMarked c then s5.endTask { t with status := 5#4, lastf := codeCancelled } else s5)

/-- Steps 2 to 6 of R109 for the LAUNCH of a request whose older instances' operations are released; none before that. -/
def State.launchNow (s : State) (r : Nat) : Option State :=
  match s.req? r with
  | none => none
  | some q =>
    match q.instr with
    | .launch _ =>
      let c := q.latch.ctx
      let a := q.latch.opL.word
      if q.stage != .queued || !s.olderReleased c q.latch.route q.born then none
      else s.whole (.req r) q.slack q.late fun s =>
        match s.unitLocate (s.dieOf c) (s.atpOf c) a 128 [.r] 128 with
        | .error e => some (s.reqFault q e a)
        | .ok (l, s0) =>
          match s0.readAt (s0.dieOf c) l 128 with
          | .error e => some (s0.reqFault q e a)
          | .ok (bs, s1) => s1.goOn fun s1 =>
            let ws := (List.range 16).map fun k => leWord ((bs.drop (8 * k)).take 8)
            match badTcb ws ((s1.regionsOf (s1.jobIn c)).map fun g => g.index) with
            | some n => some (s1.reqInfo q codeSpawn 0 (BitVec.ofNat 64 n))
            | none => s1.handOver q l.full ws
    | _ => none

/-- LAUNCH (R349). -/
def execLaunch (h : Hdr) (s : State) : Host.Outcome State Fault Refusal :=
  let i := Instr.launch h
  .next (s.fire i fun t =>
    let n := t.nextId
    let t1 := t.request i .queued 0
    (t1.launchNow n).getD t1)

/-! ### The ready queue (R110, R111) -/

/-- A task in its place among those that one step wakes. -/
def insertTask (t : Task) : List Task → List Task
  | [] => [t]
  | u :: us => if t.woke < u.woke then t :: u :: us else u :: insertTask t us

/-- A satisfied task of a die's unit has still to enter its ready queue. -/
def Task.dueOn (t : Task) (die : Nat) : Bool := t.status == 1#4 && t.woken.isSome && t.die == die

/-- The tasks that enter a die's queue of 4,096 with a task: those that the same step of their counter has woken, which takes one time, in wake
order, as far as the queue has room (R110, R230, R417). -/
def State.dueWith (s : State) (t : Task) : List Task :=
  let queued := s.tasks.countP fun u => u.status == 2#4 && u.die == t.die
  ((s.tasks.filter fun u => u.dueOn t.die && u.order == t.order).foldl (fun l u => insertTask u l) []).take (4096 - queued)

/-- A satisfied task becomes READY and enters its die's queue, with those that its counter's step has woken with it, after those woken before
(R110, R417). -/
def State.taskReady (s : State) (n : Nat) : Option State :=
  match s.task? n with
  | none => none
  | some t =>
    let earlier := s.tasks.any fun u => u.dueOn t.die && u.order != t.order && decide (u.woke < t.woke)
    if t.dueOn t.die && !earlier && (s.dueWith t).contains t then
      s.whole (.task n) 507904 false fun s =>
        some ((s.dueWith t).foldl (fun v u => v.moveTask { u with status := 2#4, slack := slkValue (s.taskCode u) }) s)
    else none

/-- TCB_READY (R110). -/
def execTcbReady (task : Nat) (s : State) : Host.Outcome State Fault Refusal := .next ((s.taskReady task).getD s)

/-- The order of the ready queue (R110). -/
def Task.before (a b : Task) : Bool :=
  let pa := wordField a.words 4 0 3
  let pb := wordField b.words 4 0 3
  if pa ≠ pb then pa < pb
  else if a.slack ≠ b.slack then a.slack < b.slack
  else if a.order ≠ b.order then a.order < b.order
  else a.near.toNat < b.near.toNat

/-- The region of lowest index among some. -/
def lowestRegion (gs : List Region) : Option Region := firstBy (fun a b => decide (a.index < b.index)) gs

/-- A region that the loader is freeing holds its constellations and engines no more, and nothing starts there (R117). -/
def Region.holding (r : Region) : Bool :=
  match r.dusk with
  | some d => !d.free
  | none => true

/-- The region a task would start in on a die: its hint, or that of lowest index, where the pool has a free colour (R111). -/
def State.regionFor (s : State) (die : Nat) (t : Task) : Option Region :=
  let gs := (s.regionsOf t.job).filter fun g => g.die == die && g.holding
  if t.rhint ≠ 0xFFFF then gs.find? fun g => g.index == t.rhint && g.nextColour.isSome
  else lowestRegion (gs.filter fun g => g.nextColour.isSome)

/-- A region lies within the scope of a release record (R248). -/
def Release.covers (r : Release) (g : Region) : Bool :=
  match r.scope with
  | .constellation => g.die == r.die && g.cons.all fun c => c == r.con
  | .region => g.num == r.ctx.region
  | .die => g.die == r.die
  | _ => true

/-- A task starts in a region: its context, its input tokens, STATE RUNNING, and a promote request where a release record of DEPA is
narrower than the region's place, or, for a DEPA of a peer device, to that, which keeps the records (R28, R111, R112, R248). -/
def State.startTask (s : State) (t : Task) (g : Region) : Option State :=
  match s.drawColour g.num with
  | none => none
  | some (s1, c) =>
    let j := s1.job? t.job
    let env : Env :=
      { job := t.job, item := t.item, wid := t.words.getD 1 0,
        atp := match j with | some x => x.atp | none => t.atp,
        msq := match j with | some x => x.msq | none => 0,
        dslk := s1.taskCode t, super := false, endpoint := s1.newEndpoint, origin := .task t.id, task := some t.id, anc := t.anc }
    let s2 := s1.bump.addCtx (Ctx.fresh c env [] (t.words.getD 0 0))
    let s3 := (List.range (wordField t.words 4 32 3)).foldl (fun u k => u.sendAhead c k (t.words.getD (6 + k) 0) t.slack) s2
    let away := t.dep.dev != s3.names.devNum && s3.reaches t.dep.dev
    let narrow := s3.releases.any fun r => r.at_.same t.dep && !r.covers g
    let s4 := s3.moveTask { t with status := 3#4, die := g.die, ctx := some c, promote := away || narrow }
    some (if away then s4.toPeer t.dep.dev (.access t.id 1 t.dep.serial t.dep.ofs 8 .promote t.slack false none) t.slack false else s4)

/-- The ready tasks of a die. -/
def State.readyOn (s : State) (die : Nat) : List Task := s.tasks.filter fun t => t.status == 2#4 && t.die == die

/-- A task starts in a region once its TCB can be written (R111). -/
def State.startIn (s : State) (t : Task) (g : Region) : Option State := s.whole (.task t.id) t.slack false fun u => u.startTask t g

/-- The first entry of a die's queue that can start is dispatched, on a die that works (R21, R110, R111). -/
def State.dispatchNow (s : State) (die : Nat) : Option State :=
  if !s.dieWorks die then none
  else (firstBy Task.before ((s.readyOn die).filter fun t => (s.regionFor die t).isSome)).bind fun t =>
    (s.regionFor die t).bind (s.startIn t)

/-- TASK_DISPATCH (R111). -/
def execTaskDispatch (die : Nat) (s : State) : Host.Outcome State Fault Refusal := .next ((s.dispatchNow die).getD s)

/-- A unit with nothing to start takes another die's first unhinted entry of a job each of whose regions on its die has a free colour
(R111). -/
def State.stealNow (s : State) (die : Nat) : Option State :=
  if !s.dieWorks die || (s.readyOn die).any fun t => (s.regionFor die t).isSome then none
  else
    let here := fun (j : Nat) => (s.regionsOf j).filter fun g => g.die == die && g.holding
    let open_ := fun (t : Task) => t.rhint = 0xFFFF && !(here t.job).isEmpty && (here t.job).all fun g => g.nextColour.isSome
    match firstBy Task.before (s.tasks.filter fun t => t.status == 2#4 && t.die != die && open_ t) with
    | none => none
    | some t => (lowestRegion (here t.job)).bind (s.startIn t)

/-- TASK_STEAL (R111). -/
def execTaskSteal (die : Nat) (s : State) : Host.Outcome State Fault Refusal := .next ((s.stealNow die).getD s)

/-- A request is one of those that a release record speaks for: of its context, before its add in program order, or, of an item's DONE add, of the
item's contexts (R100, R239, R245, R248). -/
def State.recorded (s : State) (r : Release) (q : Req) : Bool :=
  match r.item with
  | some (j, k) => s.jobOf q.latch.ctx == j && q.item == k
  | none => q.latch.ctx == r.ctx && q.opKey.before r.key

/-- Every operation that a recorded context issued before its recorded add has been performed (R239, R248). -/
def State.answered (s : State) (r : Release) : Bool :=
  s.reqs.all fun q => !s.recorded r q || opKind q.instr == .other || q.stage == .waiter || (s.restOf q).isEmpty

/-- The recorded constellations have answered: the records are cleared and the acquire is complete (R112, R248). -/
def State.promoted (s : State) (n : Nat) : Option State :=
  match s.task? n with
  | none => none
  | some t =>
    if t.promote && t.dep.dev == s.names.devNum && (s.releases.filter fun r => r.at_.same t.dep).all s.answered then
      some ({ s with releases := s.releases.filter fun r => !r.at_.same t.dep }.updTask n fun u => { u with promote := false })
    else none

/-- PROMOTE_ANSWER (R248). -/
def execPromoteAnswer (task : Nat) (s : State) : Host.Outcome State Fault Refusal := .next ((s.promoted task).getD s)

/-! ### The end of a task (R113) -/

/-- The near address and amount of successor `j` (R107). -/
def Task.succ (t : Task) (j : Nat) : Word × Word :=
  let w := t.words.getD (10 + j) 0
  (BitVec.ofNat 64 (wordField t.words 4 44 20 * 2 ^ 44 + bits w 20 44), BitVec.ofNat 64 (bits w 0 20))

/-- The successor adds, in ascending order, until the unit must wait; one whose translation fails is charged to the task and not made
(R113). -/
def State.addSuccs (s : State) (t : Task) (c : CtxId) : State :=
  let sc := (Scope.ofCode ((t.words.getD 4 0).extractLsb' 13 3)).getD .module
  (List.range (wordField t.words 4 35 3)).foldl (fun u j =>
    let a := t.succ j
    if u.pause.isSome then u
    else match u.unitAdd t.die t.atp a.1 a.2 sc (slkValue (u.taskCode t)) false (.succ c) with
    | .ok v => v
    | .error e => u.chargeAny c (unitFault t.die 8 0 e t.near (10 + j))) s

/-- What a finished task comes to by FPOL (R113); a cancelled task is FAULTED with LASTF 0x17, without adds (R349). -/
def State.outcome (s : State) (t : Task) (c : CtxId) : State :=
  if t.cancelled then s.endTask { t with status := 5#4, lastf := codeCancelled }
  else if t.lastf = 0#8 then (s.endTask { t with status := 4#4 }).addSuccs t c
  else if t.fpol = 2 then (s.endTask { t with status := 6#4 }).addSuccs t c
  else if t.fpol = 1 ∧ t.tries < wordField t.words 4 38 4 then
    s.moveTask { t with status := 7#4, tries := t.tries + 1, ctx := none, woken := none }
  else s.endTask { t with status := 5#4 }

/-- A context of a task, running, halted or saved, is left. -/
def State.taskBusy (s : State) (n : Nat) : Bool :=
  (s.ctxs.any fun x => x.env.task == some n) || (s.loader.saves.any fun k => k.env.task == some n) ||
  s.loader.regions.any fun g => g.saved.any fun e => e.env.task == some n

/-- A task whose context and every context spawned from it have finished comes to its end (R113; log entry 19). -/
def State.taskDone (s : State) (n : Nat) : Option State :=
  match s.task? n with
  | none => none
  | some t => match t.ctx with
    | none => none
    | some c => if t.status == 3#4 && !s.taskBusy n then s.whole (.task n) 507904 false fun u => some (u.outcome t c) else none

/-- TASK_FINISH (R113). -/
def execTaskFinish (task : Nat) (s : State) : Host.Outcome State Fault Refusal := .next ((s.taskDone task).getD s)

/-! ### Cancellation (R349, R350, R379) -/

/-- A mark is on its way to a context that runs or is halted. -/
def State.sendMark (s : State) (c : CtxId) : State :=
  s.updCtx c fun x => { x with mark := if x.mark == .none then .sent else x.mark }

/-- A saved context that a mark finds is ended without being loaded: MARKED set and RESUMABLE 0 in its record, its flags to the job, and a
null to its SPAWN (R106, R370, R379). -/
def State.endSaved (s : State) (c : CtxId) (e : SavedCtx) : State :=
  let flags := match if e.at_.dev = s.names.devNum then s.live? e.at_.serial else none with
    | some d => s.objWord d (e.at_.ofs + 48)
    | none => e.flags
  let s1 := ((s.updSaved c e 0 (.or (BitVec.ofNat 64 (2 ^ 61)))).updSaved c e 0 (.and (~~~BitVec.ofNat 64 (2 ^ 63)))).jobFlags e.env.job
    (flags &&& 63#64)
  let s2 := s1.updRegion c.region fun g => { g with saved := g.saved.filter fun x => !(x.colour == c.colour && x.gen == c.gen) }
  let s3 := { s2 with loader := { s2.loader with saves := s2.loader.saves.filter fun k => !(k.at_ == e.at_) } }
  match e.env.origin with
  | .child _ req => s3.returnTo req .null none
  | _ => s3

/-- The saved contexts, with their names, those whose region has been freed among them (R377, R381). -/
def State.savedCtxs (s : State) : List (CtxId × SavedCtx) :=
  let here := s.loader.regions.flatMap fun g => g.saved.map fun e => ((⟨g.num, e.colour, e.gen⟩ : CtxId), e)
  here ++ (s.loader.saves.filter fun k => !(here.any fun e => e.1 == k.id)).map fun k =>
    (k.id, ⟨k.id.colour, k.id.gen, k.at_, k.env, k.insts.map fun i => i.route, k.flags⟩)

/-- A mark reaches a task: one that runs is cancelled when it finishes, any other ends at once (R349). -/
def State.markTask (s : State) (t : Task) : State :=
  if t.status = 3#4 then s.updTask t.id fun u => { u with cancelled := true }
  else s.endTask { t with status := 5#4, lastf := codeCancelled }

/-- The contexts and tasks that satisfy a condition on their surroundings, or on their descent, are marked; saved contexts end at once
(R350, R379). Whether there is any. -/
def State.markAll (s : State) (env : Env → Bool) (task : Task → Bool) : State × Bool :=
  let live := s.ctxs.filter fun x => env x.env
  let tasks := s.tasks.filter task
  let saved := s.savedCtxs.filter fun e => env e.2.env
  let s1 := live.foldl (fun t x => t.sendMark x.id) s
  let s2 := tasks.foldl State.markTask s1
  (saved.foldl (fun u e => u.endSaved e.1 e.2) s2, !live.isEmpty || !tasks.isEmpty || !saved.isEmpty)

/-- The mark passes from a context to every context that descends from it and to every task that it or they have launched (R350). -/
def State.passMark (s : State) (c : CtxId) : State := (s.markAll (fun e => e.anc.contains c) fun t => t.anc.contains c).1

/-- CANCEL acts on a task by its STATE: of one that runs, its context is marked, or, where that is saved or has ended, what descends from
it (R349, R379). -/
def State.cancelTask (s : State) (t : Task) : State :=
  let s1 := s.markTask t
  match if t.status = 3#4 then t.ctx else none with
  | none => s1
  | some c => match s1.ctx? c, s1.savedCtxs.find? fun e => e.1 == c with
    | some _, _ => s1.sendMark c
    | none, some e => (s1.endSaved c e.2).passMark c
    | none, none => s1.passMark c

/-- A mark is still on its way, or has still to be passed on (R349, R350). -/
def State.marksLeft (s : State) : Bool := (s.ctxs.any fun x => x.mark == .sent) || !s.marks.isEmpty

/-- CANCELs whose marks all stand are complete (R349). -/
def State.cancelsDone (s : State) : State :=
  if s.marksLeft then s
  else
    let waits := fun (q : Req) => q.stage == .answer && (match q.instr with | .cancel _ | .cancelLaunch _ => true | _ => false)
    (s.reqs.filter waits).foldl (fun t q => t.answer q (.scalar q.value) (.scalar q.value) 0 q.replySlack q.late) s

/-- A CANCEL has acted and waits for its marks; it sends 1 where it has marked something (R349). -/
def State.cancelActed (s : State) (r : Nat) (some_ : Bool) : State :=
  (s.updReq r fun q => { q with stage := .answer, value := if some_ then 1 else 0 }).cancelsDone

/-- The marks of a CANCEL of a launch: its items that still run, by their contexts, or, where an item's context has ended, by what descends
from it; no further item starts (R100, R349). -/
def State.cancelJob (s : State) (j : Job) : State × Bool :=
  let item := fun (e : Env) => e.job == j.id && (match e.origin with | .item _ => true | _ => false)
  let heads := ((s.ctxs.filter fun x => item x.env).map fun x => x.env.item)
  let saved := s.savedCtxs.filter fun e => item e.2.env
  let orphaned := fun (k : Nat) => !heads.contains k
  let a := s.markAll (fun e => e.job == j.id && (item e || orphaned e.item)) (fun t => t.job == j.id && orphaned t.item)
  let s2 := saved.foldl (fun t e => t.passMark e.1) a.1
  (s2.updJob j.id fun x => { x with cancelled := true }, a.2)

/-- The launches that a header at a full address names and that run. -/
def State.launchesAt (s : State) (f : FullAddr) : List Job :=
  s.loader.jobs.filter fun j => j.at_ == f && !j.refused && !j.complete

/-- What a CANCEL needs: size, alignment and rights of its access (R349); KIND 1 is checked as an access of the header's 64 bytes, aligned to 8
(DESIGN CHOICE, log entry 75). -/
def cancelAccess : Instr → Option (Nat × Nat × List Right)
  | .cancel _ => some (128, 128, [.r, .w])
  | .cancelLaunch _ => some (64, 8, [.r])
  | _ => none

/-- The CANCEL of a request acts (R349). -/
def State.cancelNow (s : State) (r : Nat) : Option State :=
  match s.req? r with
  | none => none
  | some q =>
    match cancelAccess q.instr with
    | none => none
    | some (size, al, ks) =>
      let c := q.latch.ctx
      let a := q.latch.opL.word
      if q.stage != .queued then none
      else s.whole (.req r) q.slack q.late fun s =>
        match s.unitLocate (s.dieOf c) (s.atpOf c) a size ks al with
        | .error e => some (s.reqFault q e a)
        | .ok (l, s1) => s1.goOn fun s1 =>
          match q.instr with
          | .cancel _ =>
            (match s1.tasks.find? fun k => k.at_ == l.full with
            | none => some (s1.cancelActed r false)
            | some k => some ((s1.cancelTask k).cancelActed r true))
          | _ =>
            let m := (s1.launchesAt l.full).foldl (fun (acc : State × Bool) j =>
              let k := acc.1.cancelJob j
              (k.1, acc.2 || k.2)) (s1, false)
            some (m.1.cancelActed r m.2)

/-- A CANCEL's request is made, and acts where it need not wait. -/
def State.cancelHere (s : State) (i : Instr) : State :=
  let n := s.nextId
  let t := s.request i .queued 0
  (t.cancelNow n).getD t

/-- CANCEL of a task (R349). -/
def execCancel (h : Hdr) (s : State) : Host.Outcome State Fault Refusal :=
  let i := Instr.cancel h
  .next (s.fire i fun t => t.cancelHere i)

/-- CANCEL of a launch (R349). -/
def execCancelLaunch (h : Hdr) (s : State) : Host.Outcome State Fault Refusal :=
  let i := Instr.cancelLaunch h
  .next (s.fire i fun t => t.cancelHere i)

/-- A mark reaches a context: it passes on, and a halted context ends (R350, R367). Where the context has ended meanwhile the mark passes on all
the same, and one that has been saved ends (R379). -/
def State.markSeen (s : State) (c : CtxId) : Option State :=
  match s.ctx? c with
  | some x =>
    if x.mark == .sent then s.whole (.ctx c) 507904 false fun s =>
      let s1 := (s.updCtx c fun y => { y with mark := .seen }).passMark c
      some ((if x.halt.isSome then s1.endCtx c .null none else s1).cancelsDone)
    else none
  | none =>
    let waits := fun (q : Req) => q.stage == .answer && (match q.instr with | .cancel _ | .cancelLaunch _ => true | _ => false)
    if s.marks.contains c then s.whole (.ctx c) 507904 false fun s =>
      let s0 := { s with marks := s.marks.filter fun m => m != c }
      let s1 := match (s0.savedCtxs.find? fun e => e.1 == c) with
        | some e => s0.endSaved c e.2
        | none => s0
      some (s1.passMark c).cancelsDone
    else if s.reqs.any waits && !s.marksLeft then some s.cancelsDone else none

/-- CANCEL_MARK_SEEN (R350). -/
def execCancelMarkSeen (c : CtxId) (s : State) : Host.Outcome State Fault Refusal := .next ((s.markSeen c).getD s)

end Sys2Proof.Machine
end

