-- ==== Sys2Proof/Machine/System.lean ====
section
/-! DEFINITION. The system records but CTXSV and CTXLD (R48, R118, R351-R361, R371, R372): traps, fault queues, messages, dusks, literals,
bad nodes, apertures, time, retirement. -/

namespace Sys2Proof.Machine

/-! ### TRAP and FLTR (R352, R353) -/

/-- TRAP (R352): posted after its instance's commit, which it then halts. -/
def execTrap (h : Hdr) (code : BitVec 16) (s : State) : Host.Outcome State Fault Refusal :=
  let i := Instr.trap h code
  .next (s.fire i fun t => t.updOut t.latch.ctx t.latch.route fun o =>
    { o with traps := o.traps ++ [⟨t.latch.key.node, t.latch.key.iteration, code, t.latch.opL.word⟩] })

/-- The die at which the firing context's accesses are walked. -/
def State.myDie (s : State) : Nat := s.dieOf s.latch.ctx

/-- The aperture-table pointer of the firing context. -/
def State.myAtp (s : State) : BitVec 128 := s.atpOf s.latch.ctx

/-- A scalar result to both targets. -/
def State.sendWord (s : State) (i : Instr) (v : Word) : State := s.result i (.scalar v)

/-- A request of a task or system record is complete, and sends a scalar to both targets (R345). -/
def State.reqDone (s : State) (q : Req) (v : Word) : State := s.answer q (.scalar v) (.scalar v) 0 q.replySlack q.lateNow

/-- A fault of a request's record (R131, R345). -/
def State.reqFails (s : State) (q : Req) (code : BitVec 8) : State := s.reqFault q code 0

/-- FLTR's effect (R353): its buffer is checked, then the oldest record of the queue moves into it. -/
def State.filterQueue (s : State) (q : Req) : Option State :=
  let c := q.latch.ctx
  let a := q.latch.opL.word
  let n := q.latch.opR.word.toNat
  match s.unitLocate (s.dieOf c) (s.atpOf c) a 32 [.w] 32 with
  | .error e => some (s.reqFault q e a)
  | .ok (l, s0) => s0.goOn fun s0 =>
    match (if n > 8 then [] else s0.faults.queues.getD n []) with
    | [] => some (s0.reqDone q 0)
    | r :: _ =>
      match s0.writeAt (s0.dieOf c) l (toBytesLE 32 r.toNat) with
      | .error e => some (s0.reqFault q e a)
      | .ok s1 => s1.goOn fun s1 =>
        some (({ s1 with faults := { s1.faults with queues := updAt s1.faults.queues n (fun x => x.drop 1), notes := updAt s1.faults.notes n fun x => x.drop 1 } }).reqDone q 1)

/-! ### Messages (R354, R384, R385) -/

/-- The endpoint of a link's host client context (R387; log entry 12). -/
def hostEndpoint (link : Nat) : Nat := 16 + link

/-- An endpoint of a host client context. -/
def isHostEndpoint (e : Nat) : Bool := e == hostEndpoint 0 || e == hostEndpoint 1

/-- An endpoint to which a context may send: those of the pinned servers, 1, 2 and 5 from supervisor contexts alone, and those of the
contexts that run, are halted or are saved (R354, R384). -/
def State.endpointFor (s : State) (super : Bool) (e : Nat) : Bool :=
  if e = 1 ∨ e = 2 ∨ e = 5 then super
  else e == 3 || e == 4 || isHostEndpoint e || (s.ctxs.any fun x => x.env.endpoint == e) ||
    s.savedCtxs.any fun c => c.2.env.endpoint == e

/-- A message enters an endpoint's inbox (R354; log entry 20). -/
def State.enqueueMsg (s : State) (ep sender : Nat) (atp : BitVec 128) (req : Option Nat) (retire : Bool) (body : BitVec 512) : State :=
  { s.bump with hub := { s.hub with msgs := s.hub.msgs ++ [⟨s.nextId, ep, sender, atp, req, retire, body⟩] } }

/-- A message leaves its inbox. -/
def State.takeMsg (s : State) (m : Msg) : State :=
  { s with hub := { s.hub with msgs := s.hub.msgs.filter fun x => x.id != m.id } }

/-- The endpoint of the firing context. -/
def State.myEndpoint (s : State) : Nat :=
  match s.me with
  | some x => x.env.endpoint
  | none => 0

/-- The MSGR to a nonzero endpoint that the context with endpoint `e` has waiting, the oldest (R354). -/
def State.waitingMsgr (s : State) (e : Nat) : Option Req :=
  s.reqs.find? fun q => q.stage == .answer && (match q.instr with | .msgr _ => true | _ => false) &&
    (match s.ctx? q.latch.ctx with
    | some x => x.env.endpoint == e
    | none => false)

/-- A message as the vector a MSGR sends. -/
def bodyVec (b : BitVec 512) : TokVal := .vector (b.setWidth 1024)

/-- A MSGR is answered with a message and a word. -/
def State.answerMsgr (s : State) (q : Req) (body : BitVec 512) (w : Word) : State :=
  s.answer q (bodyVec body) (.scalar w) 0 q.replySlack q.late

/-- The endpoint that an operand names for the firing context: its own for 0 (R354). -/
def State.endpointOf (s : State) (r : Word) : Nat :=
  let e := bits r 0 32
  if e = 0 then s.myEndpoint else e

/-- MSG's effect (R354): REPLY 0 enqueues the message, REPLY 1 completes the MSGR that waits. -/
def State.sendMsg (s : State) (i : Instr) : State :=
  let r := s.latch.opR.word
  let e := s.endpointOf r
  let body := s.latch.opL.vec.extractLsb' 0 512
  if bits r 33 31 ≠ 0 ∨ !s.endpointFor s.super e then s.sendWord i 0
  else if r.getLsbD 32 then
    match s.waitingMsgr e with
    | some q => (s.answerMsgr q body 1).sendWord i 1
    | none => s.sendWord i 0
  else (s.enqueueMsg e s.myEndpoint s.myAtp none false body).sendWord i 1

/-- MSG (R354). Its two rows of the table share one word: REPLY is a bit of its operand. -/
def execMsg (h : Hdr) (s : State) : Host.Outcome State Fault Refusal :=
  let i := Instr.msg h
  .next (s.fire i fun t => t.sendMsg i)

/-- MSG with REPLY (R354). -/
def execMsgReply (h : Hdr) (s : State) : Host.Outcome State Fault Refusal :=
  let i := Instr.msgReply h
  .next (s.fire i fun t => t.sendMsg i)

/-- MSGR's effect (R354): to a nonzero endpoint the message, then a wait for the reply; to endpoint 0 a wait for the next message. -/
def State.requestMsg (s : State) (i : Instr) : State :=
  let r := s.latch.opR.word
  let e := bits r 0 32
  let sl := s.outSlack i
  if bits r 33 31 ≠ 0 ∨ (e ≠ 0 ∧ !s.endpointFor s.super e) then s.send2 i (nullTok sl) (newTok (.scalar 0) 0 none sl)
  else if e = 0 then s.request i .waiter 0
  else
    let n := s.nextId
    (s.request i .answer 0).enqueueMsg e s.myEndpoint s.myAtp (some n) false (s.latch.opL.vec.extractLsb' 0 512)

/-- MSGR (R354). -/
def execMsgr (h : Hdr) (s : State) : Host.Outcome State Fault Refusal :=
  let i := Instr.msgr h
  .next (s.fire i fun t => t.requestMsg i)

/-- The MSGR to endpoint 0 that a context has waiting takes the next message of its inbox (R354). -/
def State.receiveMsg (s : State) (c : CtxId) : Option State :=
  match s.ctx? c with
  | none => none
  | some x =>
    match s.hub.msgs.find? fun m => m.ep == x.env.endpoint,
        s.reqs.find? fun q => q.latch.ctx == c && q.stage == .waiter && (match q.instr with | .msgr _ => true | _ => false) with
    | some m, some q => some ((s.takeMsg m).answerMsgr q m.body (BitVec.ofNat 64 m.sender))
    | _, _ => none

/-- MSGR_RECEIVE (R354). -/
def execMsgrReceive (c : CtxId) (s : State) : Host.Outcome State Fault Refusal := .next ((s.receiveMsg c).getD s)

/-! ### The dusk (R117, R355, R371, R372) -/

/-- A record is an ITNX, whose edges to its own level are back edges (R371). -/
def isItnx : Instr → Bool
  | .itnx _ _ => true
  | _ => false

/-- A sink: every output edge is a back edge, a register target or absent (R371). -/
def isSink (i : Instr) : Bool :=
  i.targets.all fun t => match t with
    | .none | .reg _ => true
    | .node _ _ => isItnx i
    | .port _ => false

/-- The sinks of a region's nodes. -/
def Region.sinks (g : Region) : Nat := (g.placed.map fun p => p.nodes.countP fun ni => isSink ni.2).sum

/-- The instances of a block in a region, each with its context, those of halted contexts apart. -/
def State.instsOf (s : State) (g : Region) (block : Word) : List (Ctx × Inst) :=
  (s.ctxsIn g.num).flatMap fun x => if x.halt.isSome then [] else (x.insts.filter fun i => i.block == block).map fun i => (x, i)

/-- A SPAWN of the region waits for a child. -/
def State.childrenIn (s : State) (g : Region) : Bool :=
  (s.ctxsIn g.num).any fun x => match x.env.origin with
    | .child _ q => (s.req? q).isSome
    | _ => false

/-- A token ahead of the marker is in transit to a node: any but those of a back edge (R371). -/
def State.tokenAhead (s : State) (g : Region) (p : Placed) (node : Nat) : Bool :=
  s.packets.any fun k => k.ctx.region == g.num && (match k.dest with
    | .node r key _ grp =>
      key.node == node && !(grp == 128 && key.iter ≥ 1) &&
        (s.instsOf g p.addr).any fun xi => xi.1.id == k.ctx && xi.2.route == r
    | _ => false)

/-- A SPAWN at a node of the instances given has started a child that has not returned (R372). -/
def State.spawnsAt (s : State) (live : List (Ctx × Inst)) (node : Nat) : Bool :=
  s.reqs.any fun q => q.latch.key.node == node && q.stage == .answer && (Instr_spawns q.instr).isSome &&
    live.any fun xi => xi.1.id == q.latch.ctx && xi.2.route == q.latch.route

/-- A node may forward the marker: it has arrived on every input edge but back edges, and nothing that arrived ahead of it is to fire; a SPAWN's
children have returned, and while a child of the region runs, no marker is injected at a node without ports (R371, R372; log entry 22). -/
def State.mayForward (s : State) (g : Region) (d : Dusk) (p : Placed) (node : Nat) (i : Instr) : Bool :=
  let live := s.instsOf g p.addr
  let feeds := ((Instr_allPorts i).flatMap fun q => p.producers node q).filter fun m => !isItnx m.2
  (feeds.all fun m => d.marks.contains (p.addr, m.1)) && !s.tokenAhead g p node &&
  (live.all fun xi => (s.readyKeys xi.1 xi.2).all fun k => k.1.node != node) && !s.spawnsAt live node &&
  (!(Instr_allPorts i).isEmpty || !s.childrenIn g)

/-- The operands of a record put back on its ports, unfired, with its LSID no longer counted and its iteration unretired (R372, R375). -/
def Inst.unfire (i : Inst) (a : Latch) : Inst :=
  let k := a.key
  let back := fun (j : Inst) (q : Port) (t : Option Tok) =>
    match t with
    | none => j
    | some t =>
      let gs := match j.entries.find? fun e => e.key == k && e.port == q with
        | some e => e.groups
        | none => []
      { j with entries := (j.entries.filter fun e => !(e.key == k && e.port == q)) ++ [⟨k, q, some t, gs, false, none, 0⟩] }
  let j := back (back (back (back i .l a.l) .r a.r) .x a.x) .p a.p
  { j with
    fired := j.fired.filter fun f => f.key != k
    out := { j.out with lsids := j.out.lsids.filter fun m => !(m.node == k.node && m.iter == k.iter)
                        claims := j.out.claims.filter fun e => e.node != k.node
                        regs := j.out.regs.filter fun w => !(w.node == k.node) }
    level := if k.deep && (j.level.closed || decide (k.iter < j.level.oldest)) then
        { j.level with closed := false, oldest := min j.level.oldest k.iter } else j.level }

/-- The instances of a context that are speculative are squashed: a saving dusk's marker reaches every constellation as it is injected at the
source ports there (R371, item 6; DEDUCED, log entry 22). -/
def State.squashSpeculative (s : State) (x : Ctx) : State :=
  let young := x.insts.filter fun i => !x.settled i.route
  (s.squash x.id (young.map fun i => i.route)).updCtx x.id fun y =>
    { y with insts := y.insts.filter fun i => !(young.any fun j => j.route == i.route) }

/-- A context that a saving dusk has drained: what was held or waiting is unfired, and it runs no further (R371, R372). -/
def State.drainCtx (s : State) (x : Ctx) : State :=
  let mine := s.reqs.filter fun q => q.latch.ctx == x.id && s.withdrawable q && (s.reqInst q).isSome
  let ids := mine.map fun q => q.id
  let undo := fun (i : Inst) =>
    let held := i.held.map fun h => h.2
    let sent := (mine.filter fun q => q.latch.route == i.route).map fun q => q.latch
    { (held ++ sent).foldl Inst.unfire i with held := [] }
  let s := mine.foldl State.giveUp s
  { s with
    reqs := s.reqs.filter fun q => !ids.contains q.id
    waiters := s.waiters.filter fun w => match w.who with
      | .req r => !ids.contains r
      | _ => true
    ctxs := updWhere (fun y => y.id == x.id) (fun y => { y with insts := y.insts.map undo, drained := true }) s.ctxs }

/-- A packet, a request, an engine's request or a context of a region is left. -/
def State.regionBusy (s : State) (num : Nat) : Bool :=
  let mine := fun (q : EngReq) => q.ctx.region == num
  (s.ctxs.any fun x => x.id.region == num) || (s.packets.any fun p => p.ctx.region == num) ||
  (s.reqs.any fun q => q.latch.ctx.region == num) ||
  (s.engines.streamers.any fun e => e.2.queue.any mine || e.2.serving.any mine) ||
  (s.engines.islands.any fun e => e.2.queue.any mine || e.2.serving.any mine) ||
  s.engines.lattices.any fun e => e.2.queue.any mine || e.2.serving.any mine

/-- The marker has passed every node: a saving dusk leaves its contexts drained, and the region carries no marker; one that the loader
frees is gone, its orphans counted in the job record, to be placed again while its job is not complete, and with the last of a complete job go
its group entries, and the job where its record has been read (R117, R370, R371, R378, R381, R413). -/
def State.endDusk (s : State) (g : Region) (d : Dusk) : State :=
  if d.free then
    let orphans := match s.region? g.num with | some h => h.orphans | none => 0
    let s1 := s.updJob g.job fun j =>
      { j with record := updAt j.record 2 (fun w => w + BitVec.ofNat 64 orphans)
               again := if j.complete then j.again else j.again ++ [(g.index, g.started)] }
    let regions := s1.loader.regions.filter fun h => h.num != g.num
    let ended := (s1.job? g.job).any (fun j => j.complete) && !(regions.any fun h => h.job == g.job)
    { s1 with
      loader := { s1.loader with
        regions := regions
        jobs := if ended then s1.loader.jobs.filter fun j => !(j.id == g.job && j.read) else s1.loader.jobs }
      engines := if ended then { s1.engines with groups := s1.engines.groups.filter fun e => e.job != g.job } else s1.engines }
  else
    let s1 := if d.save then ((s.ctxsIn g.num).filter fun x => x.halt.isNone).foldl State.drainCtx s else s
    s1.updRegion g.num fun h => { h with dusk := none }

/-- Every node of the region has forwarded the marker. -/
def Region.allMarked (g : Region) (d : Dusk) : Bool :=
  g.placed.all fun p => p.nodes.all fun ni => d.marks.contains (p.addr, ni.1)

/-- The marker is injected at every source port of a region. -/
def State.injectMarker (s : State) (g : Region) (d : Dusk) : State :=
  let s1 := s.updRegion g.num fun h => { h with dusk := some d }
  if g.allMarked d then s1.endDusk g d else s1

/-- DUSK's effect (R355): its counter is checked; the marker is injected at every source port of the region, with slack 507,904, which R144's table
does not list (DESIGN CHOICE, log entry 76). -/
def State.startDusk (s : State) (q : Req) (save : Bool) : Option State :=
  let c := q.latch.ctx
  let a := q.latch.opR.word
  match s.unitLocate (s.dieOf c) (s.atpOf c) a 8 [.c] 8 with
  | .error e => some (s.reqFault q e a)
  | .ok (_, s) => s.goOn fun s =>
    match (if q.latch.opL.word.toNat ≥ 2 ^ 16 then none else s.region? q.latch.opL.word.toNat) with
    | none => some (s.reqDone q 0)
    | some g =>
      if g.dusk.isSome then some (s.reqDone q 0)
      else
        let s1 := if save then ((s.ctxsIn g.num).filter fun x => x.halt.isNone).foldl State.squashSpeculative s else s
        some ((s1.injectMarker g ⟨save, false, a, s.atpOf c, [], g.sinks, 0, 507904, false⟩).reqDone q (BitVec.ofNat 64 g.sinks))

/-- A node forwards the marker; a sink adds 1 to the drain counter, with the marker's slack and late mark (R371; DESIGN CHOICE, log entry 76). -/
def State.forwardMarker (s : State) (region : Nat) (block : Word) (node : Nat) : Option State :=
  match s.region? region with
  | none => none
  | some g =>
    match g.dusk, g.block? block with
    | some d, some p =>
      (match p.node node with
      | none => none
      | some i =>
        let sink := isSink i && !d.free
        let d1 : Dusk := { d with marks := d.marks ++ [(block, node)], drained := if sink then d.drained + 1 else d.drained }
        if d.marks.contains (block, node) || !s.mayForward g d p node i || (d.free && g.allMarked d1 && s.regionBusy g.num) then none
        else
          s.whole (.region g.num) d.slack d.late fun s =>
            let s1 := s.updRegion region fun h => { h with dusk := some d1 }
            let s2 := if sink then
                (match s1.unitAdd g.die d.atp d.counter 1 .module d.slack d.late (.sink region) with
                | .ok t => t
                | .error _ => s1)
              else s1
            some (if s2.pause.isNone && g.allMarked d1 then s2.endDusk g d1 else s2))
    | _, _ => none

/-- DUSK_MARKER_ARRIVAL (R371). -/
def execDuskMarkerArrival (region : Nat) (block : Word) (node : Nat) (s : State) : Host.Outcome State Fault Refusal :=
  .next ((s.forwardMarker region block node).getD s)

/-! ### LITW (R118, R357) -/

/-- A record with another LIT field. -/
def withLit (w : RecordWord) (v : Lit) : RecordWord := { Raw.unpack w with lit := v }.pack

/-- A placed copy with node `n`'s literal replaced. -/
def Placed.setLit (p : Placed) (n : Nat) (v : Lit) : Placed := { p with recs := updAt p.recs (n + 2) fun w => withLit w v }

/-- A context has an instance of the block in flight. -/
def State.liveBlock (s : State) (g : Region) (block : Word) : Bool :=
  (s.ctxsIn g.num).any fun x => x.insts.any fun i => i.block == block

/-- The checks of the copies of a block with a new literal: any refusal, and the state, in which the unit may have to wait. -/
def State.checkCopies (s : State) (atp : BitVec 128) (node : Nat) (v : Lit) : List (Region × Placed) → Bool × State
  | [] => (false, s)
  | gp :: rest =>
    let r := s.checkAt gp.1.die atp gp.1.ports (gp.2.setLit node v).recs
    let t := r.2.checkCopies atp node v rest
    (r.1.isSome || t.1, t.2)

/-- LITW's effect (R118, R357). -/
def State.rewriteLit (s : State) (q : Req) (node : Nat) : Option State :=
  let c := q.latch.ctx
  let a := q.latch.opL.word
  match s.fetchAt (s.dieOf c) (s.atpOf c) a with
  | .error e => some (s.reqFault q e a)
  | .ok (_, s) => s.goOn fun s =>
    let r := q.latch.opR.word
    let copies := (s.regionsOf (s.jobIn c)).filterMap fun g => (g.block? a).map fun p => (g, p)
    let v : Lit := r.setWidth 48
    if r.toNat ≥ 2 ^ 48 ∨ copies = [] ∨ copies.any fun gp => decide (node ≥ gp.2.size) || s.liveBlock gp.1 a then
      some (s.reqFails q codeLitw)
    else
      let k := s.checkCopies (s.atpOf c) node v copies
      let write := fun (t : State) (gp : Region × Placed) => t.updRegion gp.1.num fun h =>
        { h with placed := updWhere (fun p => p.addr == a) (fun p => p.setLit node v) h.placed }
      k.2.goOn fun s => some (if k.1 then s.reqFails q codeLitw else (copies.foldl write s).reqDone q 1)

/-! ### BADN (R358) -/

/-- BADN's effect: the register that the selector names takes the value, and its previous value is sent (R358). -/
def State.writeBadNode (s : State) (i : Instr) : State :=
  let l := s.latch.opL.word
  let r := s.latch.opR.word
  let die := bits l 0 4
  let con := bits l 4 6
  let kind := l.getLsbD 15
  if die > 7 ∨ bits l 10 5 ≠ 0 ∨ bits l 16 48 ≠ 0 ∨ (kind ∧ bits r 16 48 ≠ 0) then s.sendWord i (BitVec.allOnes 64)
  else if kind then
    let k := die * 64 + con
    let old := Sparse.get 0#16 s.faults.pmask k
    ({ s with faults := { s.faults with pmask := Sparse.put 0#16 s.faults.pmask k (r.setWidth 16) } }).sendWord i
      (old.setWidth 64)
  else
    let old := s.faults.cmask.getD die 0
    ({ s with faults := { s.faults with cmask := updAt s.faults.cmask die fun _ => r } }).checkReplace.sendWord i old

/-- BADN (R358). -/
def execBadn (h : Hdr) (s : State) : Host.Outcome State Fault Refusal :=
  let i := Instr.badn h
  .next (s.fire i fun t => t.writeBadNode i)

/-! ### APSET (R38-R40, R359) -/

/-- An image binds a name on this device that stands live, and RIGHTS holds a right outside its class's column or its MAXR (R39). -/
def State.overRights (s : State) (img : BitVec 256) : Bool :=
  let serial : BitVec 64 := img.extractLsb' 0 64
  let rights := bits img 192 5
  img.extractLsb' 112 16 == s.names.devNum && decide (serial.toNat < s.names.horizon.toNat) &&
  (match s.live? serial with
  | none => false
  | some d => decide (rights &&& d.maxr ≠ rights) || decide (rights &&& (classRights d.cls).getD 0 ≠ rights))

/-- APSET and a bind request are refused (R39). -/
def State.badAperture (s : State) (img : BitVec 256) (index atc : Nat) : Bool :=
  let len := bits img 128 45
  decide (index = 0) || decide (index ≥ atc) || decide (len = 0) || decide (len > 2 ^ 44) ||
  decide (bits img 64 48 + len > 2 ^ 48) || decide (bits img 173 19 ≠ 0) || decide (bits img 197 58 ≠ 0) || s.overRights img

/-- The entry of a live table is written, and every cached copy of it invalidated; none where it cannot be: the entry lies beyond the table
object, or its page gets no frame (R40, R359; DESIGN CHOICE, log entry 58). -/
def State.writeAperture (s : State) (die : Nat) (serial : BitVec 64) (index : Nat) (img : BitVec 256) : Option State :=
  match s.live? serial with
  | none => none
  | some d =>
    if 32 * index + 32 > d.length then none
    else match s.writeRange die ⟨s.names.devNum, serial, 32 * index⟩ d 33 (toBytesLE 32 img.toNat) with
      | .error _ => none
      | .ok s1 => some { s1 with names := { s1.names with
          apertures := s1.names.apertures.filter fun e => !(e.ats == serial && e.index == index) } }

/-- APSET's effect (R359): APERTURE where the entry cannot be written (log entry 58). -/
def State.setAperture (s : State) (q : Req) : Option State :=
  let c := q.latch.ctx
  let a := q.latch.opL.word
  let x := q.latch.opX.word
  match s.unitRead (s.dieOf c) (s.atpOf c) a 32 32 with
  | .error e => some (s.reqFault q e a)
  | .ok (bs, s1) => s1.goOn fun s1 =>
    let img : BitVec 256 := BitVec.ofNat 256 (ofBytesLE bs)
    if bits x 41 23 ≠ 0 ∨ s1.badAperture img (bits x 0 20) (bits x 20 21) then some (s1.reqFails q codeAperture)
    else match s1.writeAperture (s1.dieOf c) q.latch.opR.word (bits x 0 20) img with
      | none => some (s1.reqFails q codeAperture)
      | some s2 => s2.goOn fun s2 => some (s2.reqDone q 1)

/-! ### TIME (R360) -/

/-- TIME (R360). -/
def execTime (h : Hdr) (s : State) : Host.Outcome State Fault Refusal :=
  let i := Instr.time h
  .next (s.fire i fun t => t.sendWord i t.ticks)

/-! ### RETIRE (R48, R49, R361) -/

/-- A sixteen-lane message, lane 0 first (R385). -/
def lanesMsg (ls : List Nat) : BitVec 512 := BitVec.ofNat 512 (packLanes 32 (ls.map fun n => BitVec.ofNat 64 n))

/-- RETIRE's message to the object server, which its answer completes (R48, R361). -/
def State.sendRetire (s : State) (q : Req) (f : FullAddr) : State :=
  let ep := match s.ctx? q.latch.ctx with | some x => x.env.endpoint | none => 0
  (s.updReq q.id fun r => { r with stage := .answer }).enqueueMsg 3 ep (s.atpOf q.latch.ctx) (some q.id) true
    (lanesMsg [4, bits f.serial 0 32, bits f.serial 32 32, f.dev.toNat])

/-- RETIRE's checks of the descriptor's MAXR and the aperture's rights, in the order of R48, and its message. -/
def State.retireIf (s : State) (q : Req) (f : FullAddr) (maxr rights : Nat) : State :=
  let a := q.latch.opL.word
  let super := match s.ctx? q.latch.ctx with | some x => x.env.super | none => false
  if grants maxr [.w] then (if grants rights [.w] then s.sendRetire q f else s.reqFault q codeProt a)
  else if !super then s.reqFault q codePriv a
  else if grants rights [.r] then s.sendRetire q f
  else s.reqFault q codeProt a

/-- RETIRE's effect (R48): the near checks of R41 for one byte, the size that the spec leaves open (DESIGN CHOICE, log entry 58), then the
name step, made at its device for an object of a peer, which answers its MAXR (R28). -/
def State.retireAt (s : State) (q : Req) : Option State :=
  let c := q.latch.ctx
  let a := q.latch.opL.word
  let rights := match s.entryFor (s.atpOf c) a with
    | some e => e.rights
    | none => 0
  match s.locate (s.dieOf c) (s.atpOf c) a 1 [] 1 with
  | .error e => some (s.reqFault q e a)
  | .ok (.here f d) => some (s.retireIf q f d.maxr rights)
  | .ok (.peer f) =>
    match s.atPeer f 1 (.check 0) with
    | .error e => some (s.reqFault q e a)
    | .ok (bs, s1) => (s1.noteBound (s.atpOf c) a).goOn fun s1 => some (s1.retireIf q f (ofBytesLE bs) rights)

/-! ### Records that act as a unit, at once or when all they touch is there (R345; log entry 13) -/

/-- The effect of a system record's request. -/
def State.unitAct (s : State) (q : Req) : Option State :=
  match q.instr with
  | .fltr _ => s.filterQueue q
  | .dusk _ => s.startDusk q false
  | .duskSave _ => s.startDusk q true
  | .litw _ node => s.rewriteLit q node.toNat
  | .apset _ => s.setAperture q
  | .retire _ => s.retireAt q
  | _ => none

/-- A system record's request acts. -/
def State.unitNow (s : State) (r : Nat) : Option State :=
  match s.req? r with
  | none => none
  | some q => if q.stage != .queued then none else s.whole (.req r) q.slack q.late fun t => t.unitAct q

/-- A system record's request is made, and acts where it need not wait. -/
def State.unitHere (s : State) (i : Instr) : State :=
  let n := s.nextId
  let t := s.request i .queued 0
  (t.unitNow n).getD t

/-- FLTR (R353). -/
def execFltr (h : Hdr) (s : State) : Host.Outcome State Fault Refusal :=
  let i := Instr.fltr h
  .next (s.fire i fun t => t.unitHere i)

/-- DUSK, the reconfiguring form (R117, R355). -/
def execDusk (h : Hdr) (s : State) : Host.Outcome State Fault Refusal :=
  let i := Instr.dusk h
  .next (s.fire i fun t => t.unitHere i)

/-- DUSK, the saving form (R355, R371). -/
def execDuskSave (h : Hdr) (s : State) : Host.Outcome State Fault Refusal :=
  let i := Instr.duskSave h
  .next (s.fire i fun t => t.unitHere i)

/-- LITW (R357). -/
def execLitw (h : Hdr) (node : BitVec 7) (s : State) : Host.Outcome State Fault Refusal :=
  let i := Instr.litw h node
  .next (s.fire i fun t => t.unitHere i)

/-- APSET (R359). -/
def execApset (h : Hdr) (s : State) : Host.Outcome State Fault Refusal :=
  let i := Instr.apset h
  .next (s.fire i fun t => t.unitHere i)

/-- RETIRE (R361). -/
def execRetire (h : Hdr) (s : State) : Host.Outcome State Fault Refusal :=
  let i := Instr.retire h
  .next (s.fire i fun t => t.unitHere i)

end Sys2Proof.Machine
end

