-- ==== Sys2Proof/Machine/Save.lean ====
section
/-! DEFINITION. Saving and resuming a context (R356, R374-R379): the save record, CTXSV and CTXLD, and TILE_ACCESS, the event by which every
request that waits at its tile or unit goes on (R41, R109, R356). -/

namespace Sys2Proof.Machine

/-! ### The save record (R374-R376) -/

/-- An aperture-table pointer as it reads: bits 127:85 are reserved (R6, R37). -/
def atpField (a : BitVec 128) : BitVec 128 := a &&& BitVec.ofNat 128 (2 ^ 85 - 1)

/-- The words of an instance entry (R375). -/
def instWords (s : State) (x : Ctx) (i : Inst) : List Word :=
  match s.blockOf x.id i with
  | none => List.replicate 32 0
  | some p =>
    let w := fun (n : Nat) => BitVec.ofNat 64 n
    let isOpen := i.levelOpen p && !i.level.closed
    let deep := p.lsidsAt true
    let shallow := p.lsidsAt false
    let g := maskOf 64 fun n => p.wmask.getLsbD n && i.regCounted p false n
    let v := maskOf 16 fun n => p.vmask.getLsbD n && i.regCounted p true n
    let l := maskOf 32 fun n => shallow.contains n && i.lsidCounted p n 0
    let iteration := fun (j : Nat) =>
      let it := i.level.oldest + j
      maskOf 32 (fun n => deep.contains n && i.lsidCounted p n it) + 2 ^ 32 * (i.nxOf it).length
    [i.block, w g, w (v + (if i.exit.isSome then 2 ^ 16 else 0) + (if isOpen then 2 ^ 17 else 0)),
      w (l + 2 ^ 32 * i.level.count.getD 0), w i.level.oldest, 0, 0, 0] ++
      (List.range 16).map (fun j => w (iteration j)) ++ List.replicate 8 0

/-- The saved entries of an instance: every token that stands on one of its ports (R376). -/
def savedEntries (i : Inst) (index : Nat) : List (List Byte) :=
  i.entries.filterMap fun e => e.tok.map fun t => entryBytes e.key.node e.port index e.key.iter e.key.deep t

/-- Where a context resumes: its oldest saved instance, where it halted, or its successor (R352, R368, R374). -/
def Ctx.resumeAt (x : Ctx) : Word :=
  match x.insts, x.halt, x.next with
  | i :: _, _, _ => i.block
  | [], some a, _ => a
  | [], none, some (.block a) => a
  | [], none, _ => 0

/-- The sixteen words of a vector, lowest first. -/
def vecWords (v : Vec) : List Word := lanesOf 64 v

/-- The inbox entries of a halted context, with their producer groups, as far as the record has room: `room` bytes (R367, R377). -/
def fitInbox : Nat → List (Nat × List Byte) → List (Nat × List Byte)
  | _, [] => []
  | room, e :: es => if e.2.length ≤ room then e :: fitInbox (room - e.2.length) es else fitInbox room es

/-- The inbox of a context as entries of its record, with their producer groups. -/
def Ctx.inboxEntries (x : Ctx) : List (Nat × List Byte) :=
  let routes := x.insts.map fun i => i.route
  x.inbox.map fun w => (w.group routes, entryBytes w.key.node w.port (inboxIndex routes w.route) w.key.iter w.key.deep w.tok)

/-- The entries of a context's record, those of its inbox apart. -/
def Ctx.ownEntries (x : Ctx) : List (List Byte) := x.insts.zipIdx.flatMap fun ii => savedEntries ii.1 ii.2

/-- The inbox entries that a context's record holds when it is written. -/
def Ctx.keptInbox (x : Ctx) : List (Nat × List Byte) := fitInbox (262144 - 8192 - x.ownEntries.flatten.length) x.inboxEntries

/-- The save record of a context (R374). -/
def saveBytes (s : State) (x : Ctx) : List Byte :=
  let es := x.ownEntries
  let body := es.flatten ++ x.keptInbox.flatMap fun e => e.2
  let w := fun (n : Nat) => BitVec.ofNat 64 n
  let status := 2 ^ 63 + (if x.env.super then 2 ^ 62 else 0) + (if x.mark == .none then 0 else 2 ^ 61) + 1024 * x.id.gen + x.id.colour
  let head : List Word :=
    [w status, w (8192 + body.length), x.env.wid, x.env.atp.extractLsb' 0 64, (atpField x.env.atp).extractLsb' 64 64, x.resumeAt, x.regs.flags,
      x.regs.rngk, x.regs.rngc, w (x.env.msq % 1024 + 1024 * x.insts.length + 65536 * es.length)] ++ List.replicate 6 0
  let gs := (List.range 64).map fun n => Sparse.get 0 x.regs.g n
  let vs := (List.range 16).flatMap fun n => vecWords (Sparse.get 0 x.regs.v n)
  let ks := (List.range 16).map fun n => Sparse.get 0 x.regs.k n
  let is := (x.insts.take 8).flatMap (instWords s x)
  let words := head ++ gs ++ vs ++ ks ++ is ++ List.replicate (32 * (8 - x.insts.length)) 0 ++ List.replicate 416 0
  words.flatMap (fun v => toBytesLE 8 v.toNat) ++ body

/-! ### CTXSV (R356, R377) -/

/-- A saved context leaves the region: its colour is released, and the table names its save area; what its record has no room for is
orphaned (R356, R377). A cancel mark on its way finds it saved (R379). -/
def State.keepSaved (s : State) (x : Ctx) (f : FullAddr) : State :=
  let e : SavedCtx := ⟨x.id.colour, x.id.gen, f, x.env, x.insts.map fun i => i.route, x.regs.flags⟩
  let strip := fun (i : Inst) => { i with entries := i.entries.map fun e => { e with tok := none, spilled := none } }
  let k : Kept := ⟨f, x.id, x.env, x.regs.flags, x.insts.map strip, x.keptInbox.map fun w => w.1⟩
  let s1 := (s.updRegion x.id.region fun g => { g with saved := g.saved ++ [e] }).releaseColour x.id
  let s2 := { s1 with ctxs := s1.ctxs.filter fun y => y.id != x.id
                      marks := if x.mark == .sent then s1.marks ++ [x.id] else s1.marks
                      loader := { s1.loader with saves := (s1.loader.saves.filter fun u => !(u.at_ == f)) ++ [k] } }
  (List.range (x.inboxEntries.length - x.keptInbox.length)).foldl (fun t _ => t.orphan x.id) s2

/-- A context may be saved: drained or halted, with no register left pending, and no committed instance whose writes are still to be performed
(R130, R224, R356, R367). -/
def Ctx.saveable (x : Ctx) : Bool := (x.drained || x.halt.isSome) && x.pending.isEmpty && x.insts.all fun i => !i.draining

/-- The context that CTXSV's operand names. -/
def svName (l : Word) : CtxId := ⟨bits l 16 16, bits l 0 10, bits l 10 6⟩

/-- What CTXSV does to a context that may be saved, once its save area is found (R356, R374). -/
def State.saveInto (s : State) (q : Req) (x : Ctx) (loc : Located) : Option State :=
  let a := q.latch.opR.word
  if !x.saveable then none
  else if (match s.regionOf x.id with | some g => decide (g.saved.length ≥ 1024) | none => false) then some (s.reqFails q codeSpill)
  else
    let bs := saveBytes s x
    match s.writeAt (s.dieOf q.latch.ctx) loc bs with
    | .error e => some (s.reqFault q e a)
    | .ok s1 => s1.goOn fun s1 => some ((s1.keepSaved x loc.full).reqDone q (BitVec.ofNat 64 bs.length))

/-- The CTXSV of a request acts; none while its context is not drained (R356). A name that names no context faults ORPHAN, and so do nonzero bits
63:32, before the save area's checks (DESIGN CHOICE, log entry 73). -/
def State.saveNow (s : State) (r : Nat) : Option State :=
  match s.req? r with
  | none => none
  | some q =>
    match q.instr with
    | .ctxsv _ =>
      let l := q.latch.opL.word
      let a := q.latch.opR.word
      s.whole (.req r) q.slack q.late fun s =>
        (match (if bits l 32 32 ≠ 0 then none else s.ctx? (svName l)) with
        | none => some (s.reqFails q codeOrphan)
        | some x =>
          match s.unitLocate (s.dieOf q.latch.ctx) (s.atpOf q.latch.ctx) a 262144 [.w] 4096 with
          | .error e => some (s.reqFault q e a)
          | .ok (loc, s1) => s1.goOn fun s1 => s1.saveInto q x loc)
    | _ => none

/-- CTXSV (R356). -/
def execCtxsv (h : Hdr) (s : State) : Host.Outcome State Fault Refusal :=
  let i := Instr.ctxsv h
  .next (s.fire i fun t =>
    let n := t.nextId
    let t1 := t.request i .answer 0
    (t1.saveNow n).getD t1)

/-! ### CTXLD (R356, R377) -/

/-- The word at a byte offset of a record. -/
def recWord (bs : List Byte) (ofs : Nat) : Word := leWord ((bs.drop ofs).take 8)

/-- A saved token: its instance, key, port and token (R376). -/
structure SavedTok where
  index : Nat
  key : Key
  port : Port
  tok : Tok
  deriving DecidableEq, Repr

/-- The entries of a record, those of the inbox among them (R376, R377). An entry has no bit for a token's poison flag, and a restored token is
clean (R380; DESIGN CHOICE, log entry 74). -/
def parseEntries : Nat → List Byte → List SavedTok
  | 0, _ => []
  | fuel + 1, bs =>
    if bs.length < 16 then []
    else
      let w := recWord bs 0
      let v := recWord bs 8
      let isVec := w.getLsbD 19
      let n := if isVec then 144 else 16
      let val : TokVal := if w.getLsbD 20 then .null
        else if isVec then .vector (BitVec.ofNat 1024 (ofBytesLE ((bs.drop 16).take 128))) else .scalar v
      let beat : Option (BitVec 22) := if isVec ∧ v ≠ 0 then some (v.setWidth 22) else none
      let t : Tok := ⟨val, w.extractLsb' 22 5, beat, none, min (bits w 0 19) 507904, w.getLsbD 21, false⟩
      ⟨bits w 52 3, ⟨bits w 57 7, bits w 28 24, w.getLsbD 27⟩, Port.ofCode (w.extractLsb' 55 2), t⟩ :: parseEntries fuel (bs.drop n)

/-- The registers a record holds (R374). -/
def savedRegs (bs : List Byte) : Regs where
  g := (List.range 64).foldl (fun t n => Sparse.put 0 t n (recWord bs (128 + 8 * n))) []
  v := (List.range 16).foldl (fun t n => Sparse.put 0 t n (BitVec.ofNat 1024 (ofBytesLE ((bs.drop (640 + 128 * n)).take 128)))) []
  k := (List.range 16).foldl (fun t n => Sparse.put 0 t n (recWord bs (2688 + 8 * n))) []
  flags := recWord bs 48 &&& 63#64
  rngk := recWord bs 56
  rngc := recWord bs 64

/-- A vector the spec leaves open (log entry 3). -/
def State.freeVec (s : State) : Nat → Vec × State
  | 0 => (0, s)
  | n + 1 =>
    let (w, s1) := s.free
    let (v, s2) := s1.freeVec n
    ((v <<< 64) ||| w.setWidth 1024, s2)

/-- The counted registers of an instance of which only the bitmap is known: their values are left open (log entry 21). -/
def State.openRegs (s : State) (p : Placed) (vec : Bool) : List Nat → List RegWrite × State
  | [] => ([], s)
  | n :: ns =>
    let node := (p.regWriters vec n).headD 0
    let (val, s1) : TokVal × State :=
      if vec then (let u := s.freeVec 16; (.vector u.1, u.2)) else (let u := s.free; (.scalar u.1, u.2))
    let (ws, s2) := s1.openRegs p vec ns
    (⟨vec, n, node, val⟩ :: ws, s2)

/-- An instance as its entry in a record gives it, what the entry does not hold left open (R375; log entry 21). -/
def State.openInst (s : State) (p : Placed) (i : Inst) (w : Nat → Word) : Inst × State :=
  let setBits := fun (v : Word) (lo n : Nat) => (List.range n).filter fun k => v.getLsbD (lo + k)
  let (gs, s1) := s.openRegs p false (setBits (w 1) 0 64)
  let (vs, s2) := s1.openRegs p true (setBits (w 2) 0 16)
  let (e, s3) := s2.free
  let isOpen := (w 2).getLsbD 17
  let count := bits (w 3) 32 25
  let start := fun (ni : Nat × Instr) => (Instr_allPorts ni.2).isEmpty || (isOpen && (match ni.2 with | .itin _ _ => true | _ => false))
  let mark := fun (it : Nat) (l : Nat) => (⟨it, l, (p.carriers l).headD 0, true⟩ : LsidMark)
  let oldest := bits (w 4) 0 24
  ({ i with
      exit := if (w 2).getLsbD 16 then some (.block e) else none
      fired := (p.nodes.filter start).map fun ni => ⟨⟨ni.1, 0, false⟩, true⟩
      level := { i.level with count := if isOpen then some count else none, oldest := oldest,
                              last := if isOpen ∧ count ≠ 0 then some (count - 1) else none
                              nx := (List.range 16).flatMap fun j =>
                                (p.itnxs.take (bits (w (8 + j)) 32 16)).map fun n => ⟨n, oldest + j, .sent⟩ }
      out := { i.out with
        regs := gs ++ vs
        lsids := (setBits (w 3) 0 32).map (mark 0) ++
          (List.range 16).flatMap fun j => (setBits (w (8 + j)) 0 32).map (mark (oldest + j)) } }, s3)

/-- An instance is restored in a slot of its block's home: from what the model has kept of it with its entry's level, or from its entry
alone (R375, R377; log entry 21). A block that cannot be fetched gives its refusal; no free slot gives none. -/
def State.restoreInst (s : State) (c : CtxId) (kept : Option Inst) (w : Nat → Word) : Except (BitVec 8 × BitVec 8) (Option State) :=
  match s.ctx? c, s.regionOf c with
  | some x, some g =>
    (match s.fetchBlock x g (w 0) with
    | .error e => .error e
    | .ok (s1, none) => .ok (if s1.pause.isSome then some s1 else none)
    | .ok (s1, some p) =>
      match s1.region? g.num with
      | none => .ok none
      | some g1 =>
        match s1.startInst x g1 p (kept.bind fun k => k.pred) with
        | none => .ok none
        | some s2 =>
          match (s2.ctx? c).bind fun y => y.insts.getLast? with
          | none => .ok none
          | some i =>
            match kept with
            | some k => .ok (some (s2.updInst c i.route fun j =>
                { j with exit := k.exit, entries := k.entries, fired := k.fired, faults := k.faults, level := { k.level with oldest := bits (w 4) 0 24 }
                         out := k.out }))
            | none =>
              let (i1, s3) := s2.openInst p i w
              .ok (some (s3.updInst c i.route fun _ => i1)))
  | _, _ => .ok none

/-- The instances of a record, oldest first, until the unit must wait. -/
def State.restoreInsts (s : State) (c : CtxId) (kept : Option Kept) (bs : List Byte) : Nat → Nat →
    Except (Word × BitVec 8 × BitVec 8) (Option State)
  | _, 0 => .ok (some s)
  | n, left + 1 =>
    let w := fun (k : Nat) => recWord bs (2816 + 256 * n + 8 * k)
    let old := (kept.bind fun k => k.insts[n]?).bind fun i => if i.block = w 0 then some i else none
    match s.restoreInst c old w with
    | .error e => .error (w 0, e.1, e.2)
    | .ok none => .ok none
    | .ok (some s1) => if s1.pause.isSome then .ok (some s1) else s1.restoreInsts c kept bs (n + 1) left

/-- A saved token is matched as if it arrived now: an inbox entry from the producer group given, any other as its port stood. One that names
no instance is discarded, or, where the context had none, goes ahead to its first (R120, R377; log entry 18). -/
def State.restoreTok (s : State) (c : CtxId) (t : SavedTok) (grp : Option Nat) : State :=
  match s.ctx? c, s.regionOf c with
  | some x, some g =>
    if grp == some voidGroup then s
    else (match x.insts[t.index]? with
    | none => if x.insts.isEmpty && t.index == 0 then
        s.sendPacket c (.node aheadRoute t.key t.port (grp.getD 129)) t.tok false none else s
    | some i =>
      match s.blockOf c i with
      | none => s
      | some p =>
        let g1 := g.scaleBeat i.route.con t.tok
        let s1 := s.bump.updRegion c.region fun _ => g1
        let tok := g1.bindTok i.route.con t.tok
        match grp with
        | some n => s1.fillPort x i p t.key t.port n tok
        | none =>
          match i.entry? t.key t.port with
          | some e =>
            if e.stands then s1.collide x i t.key
            else s1.admitToken x i p { e with tok := some tok, at_ := s.nextId }
          | none => s1.admitToken x i p ⟨t.key, t.port, some tok, [], false, none, s.nextId⟩)
  | _, _ => s

/-- The tokens of a record restored: its own entries, `own` of them, then those of its inbox, whose producer groups are given. -/
def State.restoreToks (s : State) (c : CtxId) (own : Nat) (groups : List Nat) (ts : List SavedTok) : State :=
  ts.zipIdx.foldl (fun t e => t.restoreTok c e.1 (if e.2 < own then none else groups[e.2 - own]?)) s

/-- The surroundings of a restored context: those kept, with what the record holds, or, where none are kept, those of the region's job (log
entry 21). -/
def State.restoredEnv (s : State) (g : Region) (kept : Option Kept) (bs : List Byte) : Env :=
  let atp := atpField (recWord bs 32 ++ recWord bs 24)
  let base : Env := match kept with
    | some k => k.env
    | none =>
      { job := g.job, item := 0, wid := 0, atp := 0, msq := 0, dslk := match s.job? g.job with | some j => j.dslk | none => 0,
        super := false, endpoint := s.newEndpoint, origin := .nocturne, task := none, anc := [] }
  { base with job := g.job, wid := recWord bs 16, atp := atp, msq := bits (recWord bs 72) 0 10, super := (recWord bs 0).getLsbD 62 }

/-- Another name for a context in the surroundings of what descends from it. -/
def Env.rename (e : Env) (old new : CtxId) : Env :=
  { e with
    origin := match e.origin with
      | .child p q => if p = old then .child new q else .child p q
      | o => o
    anc := e.anc.map fun a => if a = old then new else a }

/-- A restored context has a new name, by which what descends from it now knows it. -/
def State.rename (s : State) (old new : CtxId) : State :=
  let saved := fun (g : Region) => { g with saved := g.saved.map fun e => { e with env := e.env.rename old new } }
  let task := fun (t : Task) => { t with issuer := if t.issuer = old then new else t.issuer
                                         anc := t.anc.map fun a => if a = old then new else a }
  { s with
    ctxs := s.ctxs.map fun x => { x with env := x.env.rename old new }
    loader := { s.loader with regions := s.loader.regions.map saved
                              saves := s.loader.saves.map fun k => { k with env := k.env.rename old new } }
    tasks := s.tasks.map task }

/-- A saved context runs again: its table entry is cleared, and what named the saved context names it anew (R377). -/
def State.unsave (s : State) (f : FullAddr) (c : CtxId) (task : Option Nat) : State :=
  let olds := (s.loader.saves.filter fun k => k.at_ == f).map fun k => k.id
  let regions := s.loader.regions.map fun (g : Region) => { g with saved := g.saved.filter fun e => !(e.at_ == f) }
  let saves := s.loader.saves.filter fun (k : Kept) => !(k.at_ == f)
  let s1 := olds.foldl (fun t o => t.rename o c) { s with loader := { s.loader with regions := regions, saves := saves } }
  match task with
  | some t => s1.updTask t fun u => { u with ctx := some c }
  | none => s1

/-- A record has been restored, and is no longer resumable (R377). -/
def State.endRestore (s : State) (die : Nat) (f : FullAddr) (c : CtxId) (status : Word) (task : Option Nat) : State :=
  (s.unsave f c task).storeFull c die f (toBytesLE 8 (status &&& ~~~BitVec.ofNat 64 (2 ^ 63)).toNat)

/-- A context restored from the bytes of its record under a drawn colour; none where no slot is free for an instance. -/
def State.restoreCtx (s : State) (c : CtxId) (g : Region) (f : FullAddr) (bs : List Byte) : Option State :=
  let kept := s.loader.saves.find? fun k => k.at_ == f
  let env := s.restoredEnv g kept bs
  let ctl := recWord bs 72
  let n := min 8 (bits ctl 10 4)
  let x : Ctx :=
    { Ctx.fresh c env [] (recWord bs 40) with
      regs := savedRegs bs
      next := if n = 0 then some (.block (recWord bs 40)) else none
      mark := if (recWord bs 0).getLsbD 61 then .seen else .none }
  let s1 := s.bump.addCtx x
  match s1.restoreInsts c kept bs 0 n with
  | .error (a, code, node) => some (s1.fetchFails x a code node)
  | .ok none => none
  | .ok (some s2) => s2.goOn fun s2 => some (s2.restoreToks c (bits ctl 16 16)
      (match kept with | some k => k.groups | none => []) (parseEntries bs.length (bs.drop 8192)))

/-- CTXLD of a resumable record into a region, its bytes read: none while no colour or slot is free (R356, R377). -/
def State.loadInto (s : State) (q : Req) (g : Region) (f : FullAddr) (bs : List Byte) : Option State :=
  match s.drawColour g.num with
  | none => none
  | some (s1, c) =>
    match s1.restoreCtx c g f bs with
    | none => none
    | some s2 => s2.goOn fun s2 =>
      let task := (s2.ctx? c).bind fun x => x.env.task
      some (((s2.endRestore (s2.dieOf q.latch.ctx) f c (recWord bs 0) task).settle c).reqDone q (BitVec.ofNat 64 (c.colour + 1024 * c.gen)))

/-- A context may be restored in a region: a server only on one of the hub cores 0 to 4 that no context holds, and any other on none of them, since
the servers are pinned and alone there (R384). -/
def State.mayStand (s : State) (g : Region) (super : Bool) : Bool :=
  let core := g.die == 8 && g.cons.all fun c => decide (c < 5)
  if super then core && (s.ctxsIn g.num).isEmpty else !core

/-- The CTXLD of a request acts; none while no colour or slot is free. A record that is not resumable faults ORPHAN (R356), and so does an op.R
that names no region, or has a bit above 15 set, and a region where the context may not stand (R384; DESIGN CHOICE, log entry 73). -/
def State.loadNow (s : State) (r : Nat) : Option State :=
  match s.req? r with
  | none => none
  | some q =>
    match q.instr with
    | .ctxld _ =>
      let a := q.latch.opL.word
      let rn := q.latch.opR.word
      let die := s.dieOf q.latch.ctx
      let atp := s.atpOf q.latch.ctx
      s.whole (.req r) q.slack q.late fun s =>
        (match s.unitLocate die atp a 8192 [.r] 4096 with
        | .error e => some (s.reqFault q e a)
        | .ok (loc, s0) =>
          match s0.readAt die loc 16 with
          | .error e => some (s0.reqFault q e a)
          | .ok (head, s1) => s1.goOn fun s1 =>
            let len := (recWord head 8).toNat
            match (if rn.toNat ≥ 2 ^ 16 then none else s1.region? rn.toNat), (recWord head 0).getLsbD 63 with
            | some g, true =>
              if !s1.mayStand g ((recWord head 0).getLsbD 62) then some (s1.reqFails q codeOrphan)
              else (match s1.unitLocate die atp a (max 8192 len) [.r] 4096 with
              | .error e => some (s1.reqFault q e a)
              | .ok (loc2, s2) =>
                match s2.readAt die loc2 (max 8192 (min len 262144)) with
                | .error e => some (s2.reqFault q e a)
                | .ok (bs, s3) => s3.goOn fun s3 => s3.loadInto q g loc.full bs)
            | _, _ => some (s1.reqFails q codeOrphan))
    | _ => none

/-- CTXLD (R356). -/
def execCtxld (h : Hdr) (s : State) : Host.Outcome State Fault Refusal :=
  let i := Instr.ctxld h
  .next (s.fire i fun t =>
    let n := t.nextId
    let t1 := t.request i .colour 0
    (t1.loadNow n).getD t1)

/-! ### TILE_ACCESS (R41) -/

/-- A request goes on at its tile, its meridian unit, its region or the unit that it names (R41, R109, R349, R356). -/
def State.serviceNow (s : State) (r : Nat) : Option State :=
  (((((s.tileNow r).or (s.launchNow r)).or (s.cancelNow r)).or (s.unitNow r)).or (s.saveNow r)).or (s.loadNow r)

/-- TILE_ACCESS (R41). -/
def execTileAccess (req : Nat) (s : State) : Host.Outcome State Fault Refusal := .next ((s.serviceNow req).getD s)

end Sys2Proof.Machine
end

