-- ==== Sys2Proof/Machine/Engines.lean ====
section
/-! DEFINITION. What the engines of a die share (R146, R163, R190, R191, R206-R210): their records, queues, the rows they read and write, the
faults they charge and the adds they make when a request is complete. -/

namespace Sys2Proof.Machine

/-! ### Engine records and COPY (R193, R207, R208) -/

/-- The firing record's L token goes to the engine that T0's entry binds; it waits there until the older instances' operations are
released (R193, R208, R249). -/
def State.toEngine (s : State) (i : Instr) : State :=
  let a := s.latch
  match (hdrOf i).t0 with
  | .port q =>
    (match s.portAt a.ctx q.toNat with
    | none => s
    | some p =>
      let sl := s.outSlack i
      { s.bump with packets := s.packets ++
          [⟨s.nextId, a.ctx, .port p a.route a.key, newTok a.opL.val 0 none sl, false, none, some i, sl, [],
            (s.myInst.map fun x => x.born).getD 0⟩] })
  | _ => s

/-- COPY (R193): complete for its instance when the request is sent. -/
def execCopy (h : Hdr) (lsid : BitVec 5) (e : EngLit) (s : State) : Host.Outcome State Fault Refusal :=
  let i := Instr.copy h lsid e
  .next (s.fire i fun t => (t.toEngine i).lsidOver i)

/-- An engine record's effect: its request, held until it may be sent; the scalar 0 to T1 goes out as it is (R207, R208). -/
def State.sendEngine (s : State) (i : Instr) : State := s.toEngine i

/-! ### Queues (R146, R209) -/

/-- The request that an engine's queue serves next: least slack, then the oldest. -/
def nextQueued (qs : List EngReq) : Option EngReq := firstBy (fun a b => decide (a.slack < b.slack)) qs

/-- The literal fields of the record that sent a request. -/
def EngReq.lit (q : EngReq) : Option EngLit :=
  match q.instr with
  | some (.copy _ _ e) | some (.mma _ _ e) | some (.mmaz _ e) | some (.accld _ e) | some (.accst _ _ e) | some (.lxtab _ e)
  | some (.lxctx _ e) | some (.lxrun _ e) | some (.lxtin _ e) | some (.lxtout _ e) => some e
  | _ => none

/-- The scope of a request's completion add: its record's, module scope for a request that no record sent (R191). -/
def EngReq.scope (q : EngReq) : Scope := (q.lit.map fun e => e.scope).getD .module

/-- Trap-on-late. -/
def EngReq.loud (q : EngReq) : Bool := (q.lit.map fun e => e.late).getD false

/-- The slack of the engine's own accesses and of its completion add: what SLK names, or, when that is 0x00, the request's as service
began (R144, R191). -/
def EngReq.ownSlack (q : EngReq) (slk : BitVec 8) : Nat := sendSlack slk q.slack

/-- A field of a request's vector. -/
def EngReq.field (q : EngReq) (lo n : Nat) : Nat := bits q.vec lo n

/-- A near address in a request's vector. -/
def EngReq.addr (q : EngReq) (lo : Nat) : Word := q.vec.extractLsb' lo 64

/-- An engine begins to serve a request of a record: if it is late it is delivered now (R149, R150). -/
def State.engineServes (s : State) (q : EngReq) : State :=
  if q.instr.isSome && q.late then s.lateDelivery q.ctx q.route q.key (newTok .null 0 none 0) q.loud else s

/-- A fault an engine charges to the context of a request, with 1 to its K15 (R190, R206). -/
def State.engineFault (s : State) (q : EngReq) (die kind index : Nat) (code : BitVec 8) (addr : Word) (low : Nat) : State :=
  s.chargeAny q.ctx (unitFault die kind index code addr low)

/-- The port of an engine by the kind that its fault records give it (R364). -/
def enginePort (kind index : Nat) : EngPort :=
  match kind with
  | 1 => .streamer index
  | 2 => .island index
  | _ => .lattice

/-- A complete request adds AMT + 1 to its counter; where that access faults, its code is posted and nothing is added (R190, R191,
R210). -/
def State.completeAdd (s : State) (q : EngReq) (die kind index : Nat) (cnt : Word) (amt : Nat) (slk : BitVec 8) : State :=
  match s.unitAdd die q.atp cnt (BitVec.ofNat 64 (amt + 1)) q.scope (q.ownSlack slk) q.late
      (.engine q.ctx q.route die (enginePort kind index)) with
  | .ok t => t
  | .error e => s.engineFault q die kind index e cnt 0

/-- A request of an engine acts whole, at the slack of its accesses (R191; log entry 13). -/
def State.engineWhole (s : State) (d : Doer) (q : EngReq) (slk : BitVec 8) (f : State → Option State) : Option State :=
  s.whole d (q.ownSlack slk) (q.ownSlack slk == 0) f

/-- The completion add of a request that an engine has ended is not applied yet (R210). -/
def State.addOut (s : State) (die : Nat) (port : EngPort) : Bool :=
  s.adds.any fun a => match a.src with
    | .engine _ _ d p => d == die && p == port
    | _ => false

/-! ### Rows of elements (R163, R187, R203) -/

/-- The bytes of a unit of a type in memory: an element, or the four elements of a T6 group. -/
def unitBytes : Ty → Nat
  | .tap .t6 => 3
  | t => t.width / 8

/-- The elements of a unit. -/
def unitElems : Ty → Nat
  | .tap .t6 => 4
  | _ => 1

/-- The bytes of a row of `n` elements. -/
def rowBytes (t : Ty) (n : Nat) : Nat := (n + unitElems t - 1) / unitElems t * unitBytes t

/-- The elements of a unit from its bytes. -/
def unitWords (t : Ty) (bs : List Byte) : List Word :=
  match t with
  | .tap .t6 =>
    let v := leWord bs
    (List.range 4).map fun i => (v.extractLsb' (6 * i) 6).setWidth 64
  | _ => [leWord bs]

/-- The bytes of a unit from its elements. -/
def packUnit (t : Ty) (ws : List Word) : List Byte :=
  match t with
  | .tap .t6 =>
    let f := fun i => (ws.getD i 0).toNat % 64 * 2 ^ (6 * i)
    toBytesLE 3 (f 0 + f 1 + f 2 + f 3)
  | t => toBytesLE (unitBytes t) (ws.getD 0 0).toNat

/-- The elements of `n` units. -/
def rowWords (t : Ty) : Nat → List Byte → List Word
  | 0, _ => []
  | n + 1, bs => unitWords t (bs.take (unitBytes t)) ++ rowWords t n (bs.drop (unitBytes t))

/-- The bytes of `n` units of elements. -/
def packRow (t : Ty) : Nat → List Word → List Byte
  | 0, _ => []
  | n + 1, ws => packUnit t (ws.take (unitElems t)) ++ packRow t n (ws.drop (unitElems t))

/-- A fault that stops an engine: its code and the near address of the access. -/
abbrev Stop := BitVec 8 × Word

/-- The alignment that islands and the lattice check at an access of a type's elements: their size; none of the packed groups of T6 (R177,
R206; log entry 59). -/
def unitAlign : Ty → Nat
  | .tap .t6 => 1
  | t => unitBytes t

/-- The bits of an element of a type as a tile counts those it delivers: of T6 six (R163, R184; log entry 66). -/
def elemBits : Ty → Nat
  | .tap .t6 => 6
  | t => t.width

/-- A row of `n` elements read, at the alignment `al`. -/
def State.readRow (s : State) (die : Nat) (atp : BitVec 128) (a : Word) (t : Ty) (n al : Nat) : Except Stop (List Word × State) :=
  let u := (n + unitElems t - 1) / unitElems t
  match State.unitReadAs (elemBits t) s die atp a (u * unitBytes t) al with
  | .error e => .error (e, a)
  | .ok (bs, s1) => .ok (rowWords t u bs, s1)

/-- Rows of elements read, each at its near address, until one must be waited for. -/
def State.readRows (s : State) (die : Nat) (atp : BitVec 128) (t : Ty) (n al : Nat) : List Word → Except Stop (List (List Word) × State)
  | [] => .ok ([], s)
  | a :: as =>
    match s.readRow die atp a t n al with
    | .error e => .error e
    | .ok (r, s1) =>
      if s1.pause.isSome then .ok ([], s1)
      else match s1.readRows die atp t n al as with
        | .error e => .error e
        | .ok (rs, s2) => .ok (r :: rs, s2)

/-- Bytes written at near addresses until an access faults, or must be waited for: the state that the accesses made leave, and the fault. -/
def State.writeRows (s : State) (die : Nat) (atp : BitVec 128) (al : Nat) : List (Word × List Byte) → State × Option Stop
  | [] => (s, none)
  | (a, bs) :: rest =>
    match s.unitWrite die atp a bs al with
    | .error e => (s, some (e, a))
    | .ok s1 => if s1.pause.isSome then (s1, none) else s1.writeRows die atp al rest

/-- The near addresses of rows that stand `stride` bytes apart. -/
def rowAddrs (a : Word) (stride n : Nat) : List Word := (List.range n).map fun i => a + BitVec.ofNat 64 (i * stride)

end Sys2Proof.Machine
end

