-- ==== Sys2Proof/Machine/Copy.lean ====
section
/-! DEFINITION. The streamers (R186-R195): the checks of a copy request, its transforms, a piece at a time; and HOME_PERFORM, the
event by which a piece of any access is performed (R178, R240). -/

namespace Sys2Proof.Machine

/-! ### The request (R186) -/

/-- A copy request's fields. -/
structure CopyReq where
  sside : Bool
  xf : Nat
  sfmt : Ty
  dfmt : Ty
  str1 : Nat
  str2 : Nat
  n0 : Nat
  n1 : Nat
  n2 : Nat
  dst : Word
  src : Word
  deriving DecidableEq, Repr

/-- The near address of a copy request's counter. -/
def copyCounter (q : EngReq) : Word :=
  (q.addr 64 &&& 0xFFFFF00000000000#64) ||| BitVec.ofNat 64 (q.field 128 32 * 8)

/-- The fields of a request. -/
def copyReq (q : EngReq) : CopyReq where
  sside := q.vec.getLsbD 253
  xf := q.field 250 3
  sfmt := (Ty.ofCode (q.vec.extractLsb' 240 5)).getD (.int .n8)
  dfmt := (Ty.ofCode (q.vec.extractLsb' 245 5)).getD (.int .n8)
  str1 := q.field 192 16
  str2 := q.field 208 16
  n0 := q.field 160 16 + 1
  n1 := q.field 176 10 + 1
  n2 := q.field 186 6 + 1
  dst := q.addr 64
  src := q.addr 0

/-- A near address or a stride is a multiple of a type's element size, 3 bytes for T6. -/
def fitsTy (t : Ty) (n : Nat) : Bool := n % unitBytes t == 0

/-- The number of the first check of R189 that a request fails. -/
def copyCheck (q : EngReq) : Option Nat :=
  let c := copyReq q
  let strided := if c.sside then c.dfmt else c.sfmt
  let strip := c.xf = 1 ∨ c.xf = 2
  let t6 := fun (t : Ty) => t == .tap .t6
  if q.field 254 2 ≠ 0 ∨ c.xf > 4 then some 1
  else if q.field 240 5 > 0x0D ∨ q.field 245 5 > 0x0D then some 2
  else if c.xf ≠ 4 ∧ c.sfmt ≠ c.dfmt then some 3
  else if strip ∧ (c.sfmt.width > 32 ∨ t6 c.sfmt ∨ c.sside) then some 4
  else if c.xf = 3 ∧ (c.n0 ≠ 256 ∨ t6 c.sfmt) then some 5
  else if (t6 c.sfmt ∨ t6 c.dfmt) ∧ c.n0 % 4 ≠ 0 then some 6
  else if !slkOk (q.vec.extractLsb' 224 8) then some 7
  else if !(fitsTy c.sfmt c.src.toNat && fitsTy c.dfmt c.dst.toNat && fitsTy strided c.str1 && fitsTy strided c.str2) then some 8
  else if c.sside ∧ ((c.n1 > 1 ∧ c.str1 < rowBytes c.dfmt c.n0) ∨ (c.n2 > 1 ∧ c.str2 < c.n1 * c.str1)) then some 9
  else none

/-! ### Elements and rows (R187) -/

/-- The offset of row `r` on a side. -/
def CopyReq.rowOfs (c : CopyReq) (strided : Bool) (t : Ty) (r : Nat) : Nat :=
  if strided then r % c.n1 * c.str1 + r / c.n1 * c.str2 else r * rowBytes t c.n0

/-- The near address of a source row; the tensor of an expand is its destination. -/
def CopyReq.srcRow (c : CopyReq) (r : Nat) : Word := c.src + BitVec.ofNat 64 (c.rowOfs (!c.sside) c.sfmt r)

/-- The near address of a destination row. -/
def CopyReq.dstRow (c : CopyReq) (r : Nat) : Word :=
  c.dst + BitVec.ofNat 64 (c.rowOfs (c.sside || c.xf == 2) c.dfmt r)

/-- An element as the destination holds it (R187). -/
def CopyReq.elem (c : CopyReq) (x : Word) : Word :=
  if c.xf = 4 then (convert c.dfmt c.sfmt .rne x).val else x

/-- Byte `o` of a row transposed by bits: bit i of plane b is bit b of element i. -/
def planeByte (es : List Word) (o : Nat) : Byte :=
  BitVec.ofNat 8 (maskOf 8 fun k => (es.getD (o % 32 * 8 + k) 0).getLsbD (o / 32))

/-- Bytes `b` to `b + n - 1` of destination row `r`, read from what they need of the source (dense, convert and transpose). -/
def State.copyBytes (s : State) (die : Nat) (q : EngReq) (c : CopyReq) (r b n : Nat) : Except Stop (List Byte × State) :=
  if c.xf = 3 then
    match s.readRow die q.atp (c.srcRow r) c.sfmt 256 1 with
    | .error e => .error e
    | .ok (es, s1) => .ok ((List.range n).map fun k => planeByte es (b + k), s1)
  else
    let du := unitBytes c.dfmt
    let de := unitElems c.dfmt
    let su := unitBytes c.sfmt
    let se := unitElems c.sfmt
    let u0 := b / du
    let u1 := (b + n - 1) / du + 1
    let v0 := u0 * de / se
    let v1 := (u1 * de + se - 1) / se
    match s.readRow die q.atp (c.srcRow r + BitVec.ofNat 64 (v0 * su)) c.sfmt ((v1 - v0) * se) 1 with
    | .error e => .error e
    | .ok (ws, s1) =>
      let es := (ws.drop (u0 * de - v0 * se)).map c.elem
      .ok (((packRow c.dfmt (u1 - u0) es).drop (b - u0 * du)).take n, s1)

/-! ### The destination by granules (R178, R192) -/

/-- How object offsets stand to near addresses where an address lies, mod 8 (R38, R178). -/
def State.baseAt (s : State) (atp : BitVec 128) (a : Word) : Nat :=
  match s.apertureStep atp a 1 [] 1 with
  | .ok f => (f.ofs + 8 - a.toNat % 8) % 8
  | .error _ => 0

/-- A part of a destination row: the row, its first byte, its length. -/
abbrev CopyPart := Nat × Nat × Nat

/-- A range of bytes cut at granules, the first byte at offset `a`: where each part starts in the range, and its length. -/
def cutRow (a : Nat) : Nat → Nat → Nat → List (Nat × Nat)
  | 0, _, _ => []
  | fuel + 1, b, left =>
    if left = 0 then []
    else
      let n := chunk (a + b) left
      (b, n) :: cutRow a fuel (b + n) (left - n)

/-- The bytes of a destination row. -/
def CopyReq.rowLen (c : CopyReq) : Nat := if c.xf = 3 then 32 * c.sfmt.width else rowBytes c.dfmt c.n0

/-- The rows of a copy. -/
def CopyReq.rows (c : CopyReq) : Nat := c.n1 * c.n2

/-- The parts of the destination rows, each with its granule. -/
def CopyReq.cuts (c : CopyReq) (base : Nat) : List (Nat × CopyPart) :=
  (List.range c.rows).flatMap fun r =>
    let a := (c.dstRow r).toNat + base
    (cutRow a c.rowLen 0 c.rowLen).map fun p => ((a + p.1) / 8, r, p.1, p.2)

/-- Parts gathered by granule: what two rows write of one granule is one write. -/
def gather : List (Nat × CopyPart) → List (Nat × List CopyPart)
  | [] => []
  | (g, p) :: rest =>
    let t := gather rest
    if t.any fun e => e.1 == g then t.map fun e => if e.1 == g then (g, p :: e.2) else e else (g, [p]) :: t

/-- The granules of the destination, each with the parts of rows that lie in it. -/
def CopyReq.granules (c : CopyReq) (base : Nat) : List (List CopyPart) := (gather (c.cuts base)).map fun e => e.2

/-! ### Zero-strip and expand (R188) -/

/-- The pairs of a zero-strip stream: index and pattern of each element that is not all zeros. -/
def stripPairs (es : List Word) : List (Nat × Word) := ((es.zipIdx).filter fun e => e.1 != 0).map fun e => (e.2, e.1)

/-- A zero-strip stream: the count, and the pairs. -/
def stripStream (ps : List (Nat × Word)) : List Byte :=
  toBytesLE 8 ps.length ++ ps.flatMap fun p => toBytesLE 4 p.1 ++ toBytesLE 4 p.2.toNat

/-- The pairs an expand keeps, and whether it skips any: an index not above the previous pair's, or past the last element. -/
def keptPairs (total : Nat) : Option Nat → List (Nat × Word) → List (Nat × Word) × Bool
  | _, [] => ([], false)
  | prev, p :: ps =>
    let (ks, sk) := keptPairs total (some p.1) ps
    if p.1 ≥ total || (match prev with | some k => decide (p.1 ≤ k) | none => false) then (ks, true) else (p :: ks, sk)

/-- What a zero-strip has read of its source, in order. -/
def EngReq.elems (q : EngReq) : List Word := (List.range (copyReq q).rows).flatMap fun r => Sparse.get [] q.got r

/-- The count of pairs an expand has read. -/
def EngReq.pairCount (q : EngReq) : Nat := ((Sparse.get [] q.got 0).getD 0 0).toNat

/-- The pairs an expand has read: those it keeps, and whether it skips any. -/
def EngReq.pairs (q : EngReq) : List (Nat × Word) × Bool :=
  let c := copyReq q
  keptPairs (c.n0 * c.rows) none ((List.range q.pairCount).map fun i =>
    let w := (Sparse.get [] q.got (i + 1)).getD 0 0
    (bits w 0 32, (w.extractLsb' 32 32).setWidth 64))

/-- A row of an expand's destination. -/
def EngReq.expandRow (q : EngReq) (r : Nat) : List Byte :=
  let c := copyReq q
  packRow c.dfmt c.n0 ((List.range c.n0).map fun i => ((q.pairs.1.find? fun p => p.1 == r * c.n0 + i).map fun p => p.2).getD 0)

/-! ### The pieces of a request (R190, R192) -/

/-- How many pieces of a request read the source ahead of its writes, as far as that is known: the rows of a zero-strip; the count and the
pairs of an expand. -/
def EngReq.reads (q : EngReq) : Nat :=
  let c := copyReq q
  if c.xf = 1 then c.rows else if c.xf = 2 then 1 + q.pairCount else 0

/-- All that is read ahead has been read. -/
def EngReq.allRead (q : EngReq) : Bool := (List.range q.reads).all fun n => q.did.contains n

/-- The writes of a request, each the parts of one granule; of a zero-strip, those of its stream. -/
def EngReq.writes (q : EngReq) : List (List CopyPart) :=
  let c := copyReq q
  if c.xf = 1 then
    let n := (stripStream (stripPairs q.elems)).length
    (cutRow (c.dst.toNat + q.base) n 0 n).map fun p => [(0, p.1, p.2)]
  else c.granules q.base

/-- The pieces of a request, as far as they are known: reads first, then writes. -/
def EngReq.pieces (q : EngReq) : Nat := q.reads + if q.allRead then q.writes.length else 0

/-- The bytes of a part of a destination row. -/
def State.partBytes (s : State) (die : Nat) (q : EngReq) (p : CopyPart) : Except Stop (List Byte × State) :=
  let c := copyReq q
  if c.xf = 1 then .ok (((stripStream (stripPairs q.elems)).drop p.2.1).take p.2.2, s)
  else if c.xf = 2 then .ok (((q.expandRow p.1).drop p.2.1).take p.2.2, s)
  else s.copyBytes die q c p.1 p.2.1 p.2.2

/-- The parts of one granule, each with its place and its bytes, until an access faults or must be waited for. -/
def State.readParts (s : State) (die : Nat) (q : EngReq) : List CopyPart → Except Stop (List (Located × List Byte) × State)
  | [] => .ok ([], s)
  | p :: ps =>
    match s.partBytes die q p with
    | .error e => .error e
    | .ok (bs, s1) =>
      let a := (copyReq q).dstRow p.1 + BitVec.ofNat 64 p.2.1
      match s1.unitLocate die q.atp a p.2.2 [.w] 1 with
      | .error e => .error (e, a)
      | .ok (l, s2) =>
        if s2.pause.isSome then .ok ([], s2)
        else match s2.readParts die q ps with
          | .error e => .error e
          | .ok (rest, s3) => .ok ((l, bs) :: rest, s3)

/-- Parts written one after another where they stand. -/
def State.writeEach (s : State) (die : Nat) : List (Located × List Byte) → Except (BitVec 8) State
  | [] => .ok s
  | (l, bs) :: rest =>
    match s.writeAt die l bs with
    | .error e => .error e
    | .ok s1 => s1.writeEach die rest

/-- The parts of one granule written in one step, at a peer device by one access (R28, R178, R192). -/
def State.writeGranule (s : State) (die : Nat) (ps : List (Located × List Byte)) : Except (BitVec 8) State :=
  match ps with
  | (.peer f, _) :: _ :: _ =>
    let base := f.ofs / 8 * 8
    (s.atPeer { f with ofs := base } 8 (.stores (ps.map fun p => (p.1.full.ofs - base, p.2)))).map fun r => r.2
  | ps => s.writeEach die ps

/-- The parts of one granule written, in one step (R178), until an access faults or must be waited for. -/
def State.writeParts (s : State) (die : Nat) (q : EngReq) (ps : List CopyPart) : State × Option Stop :=
  match s.readParts die q ps with
  | .error e => (s, some e)
  | .ok (bs, s1) =>
    if s1.pause.isSome then (s1, none)
    else match s1.writeGranule die bs with
      | .error e => (s1, some (e, (ps.head?.map fun p => (copyReq q).dstRow p.1 + BitVec.ofNat 64 p.2.1).getD 0))
      | .ok s2 => (s2, none)

/-- One read ahead of a zero-strip or an expand. -/
def State.readAhead (s : State) (die : Nat) (q : EngReq) (n : Nat) : Except Stop (List Word × State) :=
  let c := copyReq q
  if c.xf = 1 then s.readRow die q.atp (c.srcRow n) c.sfmt c.n0 1
  else s.readRow die q.atp (c.src + BitVec.ofNat 64 (8 * n)) (.int .n64) 1 1

/-- One piece of a request performed: the state, the request after it, and the fault that stops it. An expand whose pairs are all read posts
COPYSHAPE once if it skips any (R188). -/
def State.copyStep (s : State) (die k : Nat) (q : EngReq) (n : Nat) : State × EngReq × Option Stop :=
  let q1 := { q with did := q.did ++ [n] }
  if n < q.reads then
    match s.readAhead die q n with
    | .error e => (s, q1, some e)
    | .ok (ws, s1) =>
      let q2 := { q1 with got := Sparse.put [] q1.got n ws }
      (if s1.pause.isNone && (copyReq q).xf == 2 && q2.allRead && q2.pairs.2 then
        s1.engineFault q die 1 k codeCopyshape (copyCounter q) 0 else s1, q2, none)
  else
    let r := s.writeParts die q (q.writes.getD (n - q.reads) [])
    (r.1, q1, r.2)

/-- The pieces of a list that are still to be performed, until an access faults or must be waited for (R190). -/
def State.copyAll (s : State) (die k : Nat) (q : EngReq) : List Nat → State × EngReq × Option Stop
  | [] => (s, q, none)
  | n :: ns =>
    if q.did.contains n || decide (n ≥ q.pieces) then s.copyAll die k q ns
    else match s.copyStep die k q n with
      | (s1, q1, some e) => (s1, q1, some e)
      | (s1, q1, none) => if s1.pause.isSome then (s1, q1, none) else s1.copyAll die k q1 ns

/-- What a request has still to do, until an access faults or must be waited for: its reads, those that they make known, and its writes. -/
def State.copyRest (s : State) (die k : Nat) (q : EngReq) : State × Option Stop :=
  if q.bad.isSome || q.stopped then (s, none)
  else match s.copyAll die k q (List.range q.reads) with
    | (s1, _, some e) => (s1, some e)
    | (s1, q1, none) =>
      if s1.pause.isSome then (s1, none)
      else match s1.copyAll die k q1 (List.range q1.reads) with
        | (s2, _, some e) => (s2, some e)
        | (s2, q2, none) =>
          if s2.pause.isSome then (s2, none)
          else
            let r := s2.copyAll die k q2 (List.range q2.pieces)
            (r.1, r.2.2)

/-! ### STREAMER_ACCEPT and STREAMER_COMPLETE -/

/-- The streamer `k` of a die. -/
def State.streamer (s : State) (die k : Nat) : Streamer := Sparse.get Streamer.idle s.engines.streamers (die * 8 + k)

/-- A die has that streamer, and carries work (R13, R21). -/
def State.hasStreamer (s : State) (die k : Nat) : Bool := decide (die < 8) && decide (k < 8) && s.dieWorks die

/-- A streamer takes the next request of its queue, if it serves fewer than 16, and checks it (R146, R189, R192). -/
def State.streamerAccept (s : State) (die k req : Nat) : Option State :=
  let t := s.streamer die k
  match nextQueued t.queue with
  | none => none
  | some q =>
    if q.id ≠ req ∨ t.serving.length ≥ 16 ∨ !s.hasStreamer die k then none
    else
      let bad := copyCheck q
      let q1 := { q with bad := bad, base := s.baseAt q.atp (copyReq q).dst }
      let s1 := s.updStreamer (die * 8 + k) fun x => { queue := x.queue.filter fun e => e.id != req, serving := x.serving ++ [q1] }
      let s2 := s1.engineServes q
      some (match bad with
        | some n => s2.engineFault q die 1 k codeCopyshape (copyCounter q) n
        | none => s2)

/-- STREAMER_ACCEPT (R189). -/
def execStreamerAccept (die k req : Nat) (s : State) : Host.Outcome State Fault Refusal :=
  .next ((s.streamerAccept die k req).getD s)

/-- The slack code of a request's traffic. -/
def copySlk (q : EngReq) : BitVec 8 := q.vec.extractLsb' 224 8

/-- A piece of a request waits for its access at a peer or for its page: of one that an access has stopped, until that access is over. -/
def State.piecesOut (s : State) (q : EngReq) : Bool :=
  s.away.any fun a => (match a.who with
    | .piece e _ => e == q.id
    | _ => false) && (!q.stopped || a.ans == .sent)

/-- A streamer ends a request it serves: whatever of it is left is performed, and its completion add is made (R190, R191). -/
def State.streamerComplete (s : State) (die k req : Nat) : Option State :=
  match (s.streamer die k).serving.find? fun q => q.id == req with
  | none => none
  | some q =>
    if !s.hasStreamer die k || s.piecesOut q then none
    else s.engineWhole (.engine q.id) q (copySlk q) fun u =>
      let r := u.copyRest die k q
      let s1 := match r.2 with
        | some e => r.1.engineFault q die 1 k e.1 e.2 0
        | none => r.1
      s1.goOn fun v =>
        let s2 := v.endAway fun d => match d with
          | .piece e _ => e == q.id
          | _ => false
        let s3 := s2.updStreamer (die * 8 + k) fun x => { x with serving := x.serving.filter fun e => e.id != req }
        some (s3.completeAdd q die 1 k (copyCounter q) (q.field 232 8) (copySlk q))

/-- STREAMER_COMPLETE (R191). -/
def execStreamerComplete (die k req : Nat) (s : State) : Host.Outcome State Fault Refusal :=
  .next ((s.streamerComplete die k req).getD s)

/-! ### HOME_PERFORM (R178, R240) -/

/-- The requests that streamers serve, each with its streamer's number. -/
def State.copies (s : State) : List (Nat × EngReq) := s.engines.streamers.flatMap fun e => e.2.serving.map fun q => (e.1, q)

/-- The bank here that serves a near address, where its page has a frame. -/
def State.nearBank (s : State) (atp : BitVec 128) (a : Word) : Option ((Nat × Nat) × Nat) :=
  match s.apertureStep atp a 1 [] 1 with
  | .error _ => none
  | .ok f => if f.dev ≠ s.names.devNum then none else ((s.desc? f.serial).bind fun d => s.frameByte d f.ofs).map bankAt

/-- The near addresses whose banks serve a piece first: of the row that it reads and of the granule that it writes. -/
def EngReq.pieceAt (q : EngReq) (n : Nat) : List Word :=
  let c := copyReq q
  if n < q.reads then [if c.xf = 1 then c.srcRow n else c.src + BitVec.ofNat 64 (8 * n)]
  else match q.writes.getD (n - q.reads) [] with
    | [] => []
    | p :: _ => (if c.xf = 1 ∨ c.xf = 2 then [] else [c.srcRow p.1]) ++ [c.dstRow p.1 + BitVec.ofNat 64 p.2.1]

/-- A bank that serves a piece of a copy serves another access first (R146, R180). -/
def State.copyOutranked (s : State) (q : EngReq) (n : Nat) : Bool :=
  ((q.pieceAt n).filterMap (s.nearBank q.atp)).any fun b => s.bankTaken b [] (q.ownSlack (copySlk q)) q.id

/-- One piece of a copy that a streamer serves, in any order among its pieces and those of other requests, as its banks choose (R146, R192). -/
def State.streamPiece (s : State) (req piece : Nat) : Option State :=
  match s.copies.find? fun e => e.2.id == req with
  | none => none
  | some (n, q) =>
    if q.bad.isSome || q.stopped || q.did.contains piece || decide (piece ≥ q.pieces) || !s.hasStreamer (n / 8) (n % 8) ||
        s.copyOutranked q piece then none
    else s.engineWhole (.piece req piece) q (copySlk q) fun u =>
      let r := u.copyStep (n / 8) (n % 8) q piece
      let s1 := match r.2.2 with
        | some e => r.1.engineFault q (n / 8) 1 (n % 8) e.1 e.2 0
        | none => r.1
      let q1 := { r.2.1 with stopped := r.2.2.isSome }
      some (s1.updStreamer n fun x => { x with serving := updWhere (fun e => e.id == req) (fun _ => q1) x.serving })

/-- HOME_PERFORM (R240). A PERSIST's line of a block at or above 48 TiB does not exist (R22). -/
def execHomePerform (req piece : Nat) (s : State) : Host.Outcome State Fault Refusal :=
  match s.homeNow req piece with
  | none => .next ((s.streamPiece req piece).getD s)
  | some (_, some b) => .fault (.noTierBlock b)
  | some (s1, none) => .next s1

end Sys2Proof.Machine
end

