-- ==== Sys2Proof/Machine/Dataflow.lean ====
section
/-! DEFINITION. The dataflow and control records READ to SLKR (R260-R278). -/

namespace Sys2Proof.Machine

/-! ### Forwarding -/

/-- READ (R262): the register's value as R123 gives it. -/
def execRead (h : Hdr) (r : RegName) (s : State) : Host.Outcome State Fault Refusal :=
  .next (s.fire (.read h r) fun t =>
    match t.me.bind fun x => t.readReg x t.latch.route r with
    | some v => t.result (.read h r) v
    | none => t)

/-- MOV (R263); as a delay FIFO it forwards every token as it enters, since one vector token is one block (R172). -/
def execMov (h : Hdr) (vk dly : Bool) (s : State) : Host.Outcome State Fault Refusal :=
  .next (s.fire (.mov h vk dly) fun t => t.forward (.mov h vk dly) t.latch.opL)

/-- MOVX (R264): four targets, in order. -/
def execMovx (h : Hdr) (vk : Bool) (t2 t3 : Target) (s : State) : Host.Outcome State Fault Refusal :=
  .next (s.fire (.movx h vk t2 t3) fun t =>
    let i := Instr.movx h vk t2 t3
    let a := t.latch.opL
    let tok := newTok a.val a.chan a.beat (t.outSlack i)
    let k := t.latch.key
    [h.t0, h.t1, t2, t3].foldl (fun u x => u.out i k vk x tok) t)

/-- CONST (R265): the immediate read for its type and extended by R259. -/
def execConst (h : Hdr) (ty : Ty) (v : Lit) (s : State) : Host.Outcome State Fault Refusal :=
  .next (s.fire (.const h ty v) fun t =>
    let w := match ty with
      | .int it => it.ext (it.read (immWord ty v))
      | _ => immWord ty v
    t.result (.const h ty v) (.scalar w))

/-- NULL (R266). -/
def execNull (h : Hdr) (vk : Bool) (s : State) : Host.Outcome State Fault Refusal :=
  .next (s.fire (.null h vk) fun t => t.emitNull (.null h vk))

/-- SEL (R267). -/
def execSel (h : Hdr) (vk : Bool) (s : State) : Host.Outcome State Fault Refusal :=
  .next (s.fire (.sel h vk) fun t =>
    t.forward (.sel h vk) (if t.latch.opX.word ≠ 0 then t.latch.opL else t.latch.opR))

/-- GATE (R268): the arm not taken receives a null token. -/
def execGate (h : Hdr) (vk : Bool) (s : State) : Host.Outcome State Fault Refusal :=
  .next (s.fire (.gate h vk) fun t =>
    let i := Instr.gate h vk
    let a := t.latch.opL
    let tok := newTok a.val a.chan a.beat (t.outSlack i)
    let nul := nullTok (t.outSlack i)
    if t.latch.opR.word ≠ 0 then t.send2 i tok nul else t.send2 i nul tok)

/-! ### Exits (R121, R129, R270) -/

/-- The near address that BLK names (R270). -/
def blkAddr (blk : BitVec 33) : Word := BitVec.ofNat 64 (2 ^ 44 + blk.toNat * 2 ^ 11)

/-- The predictor learns an exit (R121): 512 entries by block address, for each constellation of a die. -/
def State.learn (s : State) (die con : Nat) (block : Word) (e : Succ) : State :=
  let i := BitVec.ofNat 64 (block.toNat / 2048 % 512)
  { s with loader := { s.loader with
      predictor := (s.loader.predictor.filter fun p => !(p.1 == die && p.2.1 == con && p.2.2.1 == i)) ++
        [(die, con, i, e)] } }

/-- The firing record names its instance's exit: a second real exit faults INCOMPLETE with cause 1; an exit that differs
from the prediction squashes every younger instance (R121, R129). -/
def State.nameExit (s : State) (e : Succ) : State :=
  match s.myInst with
  | none => s
  | some i =>
    if i.exit.isSome then s.incompleteHere 1
    else
      let s1 := s.updInst s.latch.ctx s.latch.route fun j => { j with exit := some e }
      let s2 := s1.learn (s1.dieOf s.latch.ctx) i.route.con i.block e
      if i.pred = some e then s2 else s2.squashYounger s.latch.ctx s.latch.route

/-- The return stack after a push: 16 entries, the oldest discarded (R270). -/
def pushReturn (a : Word) (l : List Word) : List Word := (a :: l).take 16

/-- EXIT.JMP (R270). -/
def execExitJmp (h : Hdr) (blk : BitVec 33) (s : State) : Host.Outcome State Fault Refusal :=
  .next (s.fire (.exitJmp h blk) fun t => t.nameExit (.block (blkAddr blk)))

/-- EXIT.JMPI (R270). -/
def execExitJmpi (h : Hdr) (s : State) : Host.Outcome State Fault Refusal :=
  .next (s.fire (.exitJmpi h) fun t => t.nameExit (.block t.latch.opL.word))

/-- The firing instance has its exit: what another EXIT would do is dropped, and it faults INCOMPLETE with cause 1 (R129). -/
def State.exitTaken (s : State) : Bool := s.myInst.any fun i => i.exit.isSome

/-- EXIT.CALL (R270): G63 receives the return block address, and the predictor's return stack keeps it. -/
def execExitCall (h : Hdr) (blk : BitVec 33) (s : State) : Host.Outcome State Fault Refusal :=
  .next (s.fire (.exitCall h blk) fun t =>
    if t.exitTaken then t.incompleteHere 1 else
    let a := t.latch.opL.word
    let t1 := t.updCtx t.latch.ctx fun x => { x with rstack := pushReturn a x.rstack }
    (t1.nameExit (.block (blkAddr blk))).result (.exitCall h blk) (.scalar a))

/-- EXIT.RET (R270). -/
def execExitRet (h : Hdr) (s : State) : Host.Outcome State Fault Refusal :=
  .next (s.fire (.exitRet h) fun t =>
    if t.exitTaken then t.incompleteHere 1 else
    let t1 := t.updCtx t.latch.ctx fun x => { x with rstack := x.rstack.drop 1 }
    t1.nameExit (.block t.latch.opL.word))

/-- EXIT.STOP (R270). -/
def execExitStop (h : Hdr) (s : State) : Host.Outcome State Fault Refusal :=
  .next (s.fire (.exitStop h) fun t => t.nameExit .stop)

/-! ### Loop records -/

/-- The block of the firing instance. -/
def State.myBlock (s : State) : Option Placed := s.myInst.bind fun i => s.blockOf s.latch.ctx i

/-- The level's trip count becomes `c`, and its last iteration is known where `c` is not 0. -/
def State.setCount (s : State) (c : Nat) : State :=
  s.updInst s.latch.ctx s.latch.route fun i =>
    { i with level := { i.level with count := some c, last := if c = 0 then i.level.last else some (c - 1) } }

/-- Once every ITIN has fired: a level that every ITIN gave no count is a fixed level of one iteration; an open level
without ITNX records ends with iteration 0 (R135, R136). -/
def State.openLevel (s : State) : State :=
  match s.myInst, s.myBlock with
  | some i, some p =>
    if !i.levelOpen p then s
    else match i.level.count with
      | none => s.setCount 1
      | some 0 => if p.itnxs.isEmpty then s.sendOuts s.latch.ctx s.latch.route 0 else s
      | some _ => s
  | _, _ => s

/-- Two tokens sent by a loop record under the key given. -/
def State.sendAt (s : State) (i : Instr) (k : Key) (tok : Tok) : State :=
  let h := hdrOf i
  (s.out i k (i.out0 == some .vector) h.t0 tok).out i k (i.out1 == some .vector) h.t1 tok

/-- ITIN (R272): sends its value at iteration 0 and gives the trip count; more than 2^24 faults LOOPTAG, and a count that
differs from another ITIN's faults INCOMPLETE with cause 3 (R135). Firing null, it sends null tokens at iteration 0. -/
def execItin (h : Hdr) (vk : Bool) (s : State) : Host.Outcome State Fault Refusal :=
  let i := Instr.itin h vk
  let k0 : Key := ⟨s.latch.key.node, 0, true⟩
  .next (s.fireWith i (fun t => (t.sendAt i k0 (nullTok (t.outSlack i))).openLevel) fun t =>
    let a := t.latch.opL
    let c := t.latch.opR.word.toNat
    if c > 2 ^ 24 then t.faultHere codeLooptag 0 0
    else
      let old := t.myInst.bind fun j => j.level.count
      if old.isSome && old != some c then t.incompleteHere 3
      else ((t.setCount c).sendAt i k0 (newTok a.val a.chan a.beat (t.outSlack i))).openLevel)

/-- An ITNX firing is noted; in an open level a mixture of null and real firings of one iteration faults INCOMPLETE with
cause 3, and an iteration in which every ITNX has fired null is the last (R136). -/
def State.noteNx (s : State) (o : NxOut) : State :=
  let k := s.latch.key
  let s1 := s.updInst s.latch.ctx s.latch.route fun i =>
    { i with level := { i.level with nx := i.level.nx ++ [⟨k.node, k.iter, o⟩] } }
  match s1.myInst, s1.myBlock with
  | some i, some p =>
    if i.level.count != some 0 then s1
    else if i.nxMixed k.iter then s1.incompleteHere 3
    else if i.nxLast p k.iter then s1.sendOuts s.latch.ctx s.latch.route k.iter
    else s1
  | _, _ => s1

/-- ITNX (R273). -/
def execItnx (h : Hdr) (vk : Bool) (s : State) : Host.Outcome State Fault Refusal :=
  let i := Instr.itnx h vk
  let k := s.latch.key
  let k1 : Key := ⟨k.node, k.iter + 1, true⟩
  .next (s.fireWith i
    (fun t =>
      match t.myInst.bind fun j => j.level.count with
      | some (c + 1) =>
        if k.iter = c then t.noteNx .last
        else (t.sendAt i k1 (nullTok (t.outSlack i))).noteNx .nullSent
      | _ => t.noteNx .vote)
    fun t =>
      let a := t.latch.opL
      if (t.myInst.bind fun j => j.level.count) = some (k.iter + 1) then t.noteNx .last
      else if k.iter + 1 = 2 ^ 24 then t.faultHere codeLooptag 0 0
      else (t.sendAt i k1 (newTok a.val a.chan a.beat (t.outSlack i))).noteNx .sent)

/-- ITOUT with a token of its iteration, real or null: sent at depth 0 where the iteration is known to be the last, held as
the youngest while the last is not known, discarded otherwise (R136, R274). -/
def State.holdOut (s : State) (i : Instr) (tok : Tok) : State :=
  let k := s.latch.key
  match s.myInst.bind fun j => j.level.last with
  | some l => if k.iter = l then s.sendAt i ⟨k.node, 0, false⟩ tok else s
  | none =>
    s.updInst s.latch.ctx s.latch.route fun j =>
      let older := j.level.outs.any fun o => o.1 == k.node && decide (o.2.1 > k.iter)
      if older then j
      else { j with level := { j.level with
        outs := (j.level.outs.filter fun o => o.1 != k.node) ++ [(k.node, k.iter, tok)] } }

/-- ITOUT (R274). -/
def execItout (h : Hdr) (vk : Bool) (s : State) : Host.Outcome State Fault Refusal :=
  let i := Instr.itout h vk
  .next (s.fireWith i (fun t => t.holdOut i (nullTok (t.outSlack i))) fun t =>
    let a := t.latch.opL
    t.holdOut i (newTok a.val a.chan a.beat (t.outSlack i)))

/-! ### Tags, work fields and slack -/

/-- TAGR (R275): iteration (0 at depth 0), colour or generation. -/
def execTagr (h : Hdr) (f : TagField) (vk : Bool) (s : State) : Host.Outcome State Fault Refusal :=
  .next (s.fire (.tagr h f vk) fun t =>
    let a := t.latch
    let v := match f with
      | .iter => if a.key.deep then a.key.iter else 0
      | .colour => a.ctx.colour
      | .gen => a.ctx.gen
    t.result (.tagr h f vk) (.scalar (BitVec.ofNat 64 v)))

/-- Field `k` of a work identifier under the widths of a launch header's word 1 (R92, R94). -/
def workField (w1 wid : Word) (k : Nat) : Word :=
  let level := (List.range k).foldl (fun a j => a + bits w1 (6 * j) 6) 0
  BitVec.ofNat 64 (wid.toNat / 2 ^ level % 2 ^ bits w1 (6 * k) 6)

/-- WFLD (R276). -/
def execWfld (h : Hdr) (k : Fin 6) (s : State) : Host.Outcome State Fault Refusal :=
  .next (s.fire (.wfld h k) fun t =>
    match t.me with
    | none => t
    | some x =>
      let w1 := match t.job? x.env.job with
        | some j => j.words.getD 1 0
        | none => 0
      t.result (.wfld h k) (.scalar (workField w1 x.env.wid k.val)))

/-- SLKS (R277): L as a new packet whose slack is min(s, 507,904). -/
def execSlks (h : Hdr) (b : SlksRhs) (s : State) : Host.Outcome State Fault Refusal :=
  .next (s.fire (.slks h b) fun t =>
    let a := t.latch.opL
    let v := match b with
      | .port _ => t.latch.opR.word.toNat
      | .imm v => (immSigned v).toNat
    let tok := newTok a.val a.chan a.beat (min v 507904)
    t.send2 (.slks h b) tok tok)

/-- SLKR (R278): the ready slack, 0 for a late L token. -/
def execSlkr (h : Hdr) (vk : Bool) (s : State) : Host.Outcome State Fault Refusal :=
  .next (s.fire (.slkr h vk) fun t =>
    let v := if t.latch.opL.late then 0 else t.latch.slack
    t.result (.slkr h vk) (.scalar (BitVec.ofNat 64 v)))

end Sys2Proof.Machine
end

