-- ==== Sys2Proof/Machine/Formats.lean ====
section
/-! DEFINITION. The format records AMAX to VUPK (R166-R172, R315-R321) and the generation records RNGS to ACCEPT
(R322-R328). -/

namespace Sys2Proof.Machine

/-! ### Formats -/

/-- Lanes 0-31 read as raw F32 patterns. -/
def rawF32 (k : Tok) : List Word := (lanesOf 32 k.vec).take 32

/-- The greatest magnitude among F32 patterns, NaN above everything: magnitudes order as their patterns do. -/
def amaxOf (xs : List Word) : Nat := (xs.map fun x => x.toNat % 2 ^ 31).foldl Nat.max 0

/-- AMAX (R316). -/
def execAmax (h : Hdr) (t : TapTy) (s : State) : Host.Outcome State Fault Refusal :=
  .next (s.fireRes (.amax h t) fun a =>
    let m := (fmtOf .f32).decode (BitVec.ofNat 64 (amaxOf (rawF32 a.opL)))
    .plain ((bs20For m t).setWidth 64))

/-- One lane of CVQ (R317). -/
def quantise (t : TapTy) (sc : BitVec 20) (x : Word) : Res :=
  if bsExp sc = 0 then .plain 0
  else if bsExp sc = 255 then .plain (tapNar t)
  else toTapered t ((fmtOf .f32).decode x) (bsMant sc) (bsE sc)

/-- CVQ (R317): a scaled packet whose beat holds S and quarter 0. -/
def execCvq (h : Hdr) (t : TapTy) (ch : BitVec 5) (s : State) : Host.Outcome State Fault Refusal :=
  .next (s.fire (.cvq h t ch) fun u =>
    let i := Instr.cvq h t ch
    let sc : BitVec 20 := u.latch.opR.word.setWidth 20
    let rs := (rawF32 u.latch.opL).map (quantise t sc)
    let v := ofLanes 8 (rs.map fun r => laneBits (.tap t) r.val)
    let tok := newTok (.vector v) ch (some (sc.setWidth 22)) (u.outSlack i)
    (u.holdFlags (orFlags rs)).send2 i tok tok)

/-- CVDQ (R318). -/
def execCvdq (h : Hdr) (t : TapTy) (qtr : BitVec 2) (s : State) : Host.Outcome State Fault Refusal :=
  .next (s.fireVec (.cvdq h t qtr) (.fp .f32) fun a =>
    let sc : BitVec 20 := a.opR.word.setWidth 20
    (((lanesOf 8 a.opL.vec).drop (32 * qtr.toNat)).take 32).map fun x => scaleF32 (TapTy_decode t x) sc)

/-- A value that a channel entry may hold (R168). -/
def chanOk (v : BitVec 16) : Bool :=
  bits v 13 3 == 0 && !v.getLsbD 4 &&
  (match bits v 5 5 with
    | 0x0C | 0x0D => true
    | 0x0A => !v.getLsbD 10 && bits v 11 2 == 0
    | 0x08 | 0x09 => !v.getLsbD 10 && bits v 11 2 < 2
    | _ => false)

/-- Writes of the channel table or scale registers held for commit, where they take effect in the order of their firing: the later stands where
two write one entry or quarter (R319; DESIGN CHOICE, log entry 84). -/
def State.holdChan (s : State) (ws : List ChanWrite) : State :=
  s.updOut s.latch.ctx s.latch.route fun o => { o with chans := o.chans ++ ws }

/-- CHSET (R319): status 1 when it will write, 0 when it is refused. -/
def execChset (h : Hdr) (s : State) : Host.Outcome State Fault Refusal :=
  .next (s.fire (.chset h) fun t =>
    let n := t.latch.opL.word.toNat
    let v := t.latch.opR.word
    let e : BitVec 16 := v.setWidth 16
    if 1 ≤ n ∧ n ≤ 31 ∧ v.toNat < 2 ^ 16 ∧ chanOk e then (t.holdChan [.entry n e]).result (.chset h) (.scalar 1)
    else t.result (.chset h) (.scalar 0))

/-- CHTAB (R319). -/
def execChtab (h : Hdr) (s : State) : Host.Outcome State Fault Refusal :=
  .next (s.fire (.chtab h) fun t =>
    let es : List (BitVec 16) := (((lanesOf 16 t.latch.opL.vec).drop 1).take 31).map fun x => x.setWidth 16
    if es.all chanOk then (t.holdChan [.table es]).result (.chtab h) (.scalar 1)
    else t.result (.chtab h) (.scalar 0))

/-- SCLW (R319). -/
def execSclw (h : Hdr) (sreg qmask : BitVec 4) (s : State) : Host.Outcome State Fault Refusal :=
  .next (s.fire (.sclw h sreg qmask) fun t =>
    let v := t.latch.opL.vec
    let ws := ((List.range 4).filter fun q => qmask.getLsbD q).map fun q =>
      ChanWrite.scale sreg.toNat q (v.extractLsb' (32 * q) 20)
    (t.holdChan ws).result (.sclw h sreg qmask) (.scalar 1))

/-- VPK.T6 (R163, R321): four T6 lanes in three bytes. -/
def packT6 (v : Vec) : Vec :=
  ofLanes 24 ((List.range 32).map fun g =>
    let l := fun j => (v.extractLsb' (8 * (4 * g + j)) 6).setWidth 64
    (l 0) ||| ((l 1) <<< 6) ||| ((l 2) <<< 12) ||| ((l 3) <<< 18))

/-- VUPK.T6 (R321). -/
def unpackT6 (v : Vec) : Vec :=
  ofLanes 8 ((List.range 128).map fun i => (v.extractLsb' (6 * i) 6).setWidth 64)

/-- VPK (R321). -/
def execVpk (h : Hdr) (s : State) : Host.Outcome State Fault Refusal :=
  .next (s.fire (.vpk h) fun t => t.result (.vpk h) (.vector (packT6 t.latch.opL.vec)))

/-- VUPK (R321). -/
def execVupk (h : Hdr) (s : State) : Host.Outcome State Fault Refusal :=
  .next (s.fire (.vupk h) fun t => t.result (.vupk h) (.vector (unpackT6 t.latch.opL.vec)))

/-! ### Generation -/

/-- The generator (R323). -/
def rngMix (c k : Word) : Word :=
  let x := c ^^^ k
  let x := (x ^^^ (x >>> 30)) * 0x9E6C63D0676A9A99
  let x := (x ^^^ (x >>> 27)) * 0xD6E8FEB86659FD93
  x ^^^ (x >>> 31)

/-- unit(x) as an F32 pattern (R323): exact. -/
def rngUnit (x : Word) : Word := (roundTo (fmtOf .f32) .rne false (x >>> 40).toNat (-24) false).val

/-- RNGK and the counter that a draw record uses (R322). -/
def State.draw (s : State) (drw : BitVec 4) : Word × Word :=
  match s.me.bind fun x => s.readRng x s.latch.route with
  | some (k, c) => (k, c + drw.setWidth 64)
  | none => (0, 0)

/-- The random state that the instance sets at commit (R322). -/
def State.holdRng (s : State) (w : RngWrite) : State :=
  s.updOut s.latch.ctx s.latch.route fun o => { o with rng := some w }

/-- RNGS (R325). -/
def execRngs (h : Hdr) (s : State) : Host.Outcome State Fault Refusal :=
  .next (s.fire (.rngs h) fun t =>
    (t.holdRng ⟨some t.latch.opL.word, t.latch.opR.word⟩).result (.rngs h) (.scalar 0))

/-- RNGN (R325). -/
def execRngn (h : Hdr) (drw : BitVec 4) (s : State) : Host.Outcome State Fault Refusal :=
  .next (s.fire (.rngn h drw) fun t =>
    let d := t.draw drw
    t.result (.rngn h drw) (.scalar (rngMix d.2 d.1)))

/-- RNGF (R325). -/
def execRngf (h : Hdr) (drw : BitVec 4) (s : State) : Host.Outcome State Fault Refusal :=
  .next (s.fire (.rngf h drw) fun t =>
    let d := t.draw drw
    t.result (.rngf h drw) (.scalar (rngUnit (rngMix d.2 d.1))))

/-- Two scalars, one to each target. -/
def State.result2 (s : State) (i : Instr) (v0 v1 : TokVal) : State :=
  let sl := s.outSlack i
  s.send2 i (newTok v0 0 none sl) (newTok v1 0 none sl)

/-- The cumulative sums of SAMPLE over the lanes a mask keeps, with their lanes (R326). -/
def sampleSums (m : Word) (ws : List Word) : List (Nat × Word) :=
  let f := fmtOf .f32
  let step := fun (acc : List (Nat × Word) × Word) (e : Word × Nat) =>
    if m.getLsbD e.2 then
      let v := (addVal f .rne (f.decode acc.2) (f.decode e.1)).val
      (acc.1 ++ [(e.2, v)], v)
    else acc
  (ws.zipIdx.foldl step ([], 0)).1

/-- The lane SAMPLE chooses, with its flag, none where no sum lies above the product (R326): that can be only where the total is subnormal,
and the spec states no result there (log entry 54). -/
def sampleLane (m : Word) (ws : List Word) (u : Word) : Option Res :=
  let f := fmtOf .f32
  let cs := sampleSums m ws
  let bad := ws.zipIdx.any fun e => m.getLsbD e.2 &&
    ((f.decode e.1).isNan || fpCmp (f.decode e.1) (.fin false 0 0) == .lt)
  let total := match cs.getLast? with
    | some c => f.decode c.2
    | none => .fin false 0 0
  let empty := match total with
    | .fin _ n _ => n = 0
    | _ => true
  if bad || empty then some ⟨32, flagNV⟩
  else
    let t := mulVal f .rne (f.decode u) total
    (cs.find? fun c => fpCmp (f.decode c.2) (f.decode t.val) == .gt).map fun c => .plain (BitVec.ofNat 64 c.1)

/-- SAMPLE (R326): a lane the spec does not state is a free value. -/
def execSample (h : Hdr) (drw : BitVec 4) (s : State) : Host.Outcome State Fault Refusal :=
  .next (s.fire (.sample h drw) fun t =>
    let d := t.draw drw
    match sampleLane t.latch.opR.word (rawF32 t.latch.opL) (rngUnit (rngMix d.2 d.1)) with
    | some r => (t.holdFlags r.flags).result2 (.sample h drw) (.scalar r.val) (.scalar d.2)
    | none =>
      let (w, t1) := t.free
      t1.result2 (.sample h drw) (.scalar w) (.scalar d.2))

/-- An F32 pattern ranks above another (R327): NaN below every number, -0 below +0. -/
def rankAbove (x y : Word) : Bool :=
  let f := fmtOf .f32
  let a := f.decode x
  let b := f.decode y
  if a.isNan then false else if b.isNan then true else fpBelow b a

/-- The rank of a lane: how many lanes stand before it, equal lanes in lane order (R327). -/
def rankOf (xs : List Word) (x : Word) (i : Nat) : Nat :=
  (xs.zipIdx.filter fun e => rankAbove e.1 x || (!rankAbove x e.1 && decide (e.2 < i))).length

/-- The lanes TOPK keeps, lane 0 first. -/
def topkKept (k : Nat) (xs : List Word) : List Bool :=
  xs.zipIdx.map fun e => decide (rankOf xs e.1 e.2 < k)

/-- TOPK (R327). -/
def execTopk (h : Hdr) (b : Rhs) (s : State) : Host.Outcome State Fault Refusal :=
  .next (s.fire (.topk h b) fun t =>
    let f := fmtOf .f32
    let k := match b with
      | .port => t.latch.opR.word.toNat
      | .imm v => (immSigned v).toNat
    let xs := rawF32 t.latch.opL
    let kept := topkKept k xs
    let ys := List.zipWith (fun x (q : Bool) =>
      if q then (if (f.decode x).isNan then f.qnan else x) else f.infinity true) xs kept
    let m := kept.foldr (fun (q : Bool) a => (if q then 1 else 0) + 2 * a) 0
    t.result2 (.topk h b) (.vector (ofLanes 32 ys)) (.scalar (BitVec.ofNat 64 m)))

/-- How many leading lanes agree, at most `d` (R328). -/
def agreeing : Nat → List Word → List Word → Nat
  | d + 1, x :: xs, y :: ys => if x = y then agreeing d xs ys + 1 else 0
  | _, _, _ => 0

/-- ACCEPT (R328). -/
def execAccept (h : Hdr) (dl : BitVec 5) (near : Option (BitVec 4)) (s : State) : Host.Outcome State Fault Refusal :=
  .next (s.fire (.accept h dl near) fun t =>
    let xs := rawF32 t.latch.opL
    let ys := rawF32 t.latch.opR
    let a := agreeing dl.toNat xs ys
    let n : Word := BitVec.ofNat 64 (a + 1)
    let t1 := t.holdRng ⟨none, t.latch.opX.word + n⟩
    let t2 := match near with
      | some k => t1.updOut t1.latch.ctx t1.latch.route fun o => { o with kadds := o.kadds ++ [(k.toNat, n)] }
      | none => t1
    t2.result2 (.accept h dl near) (.scalar n) (.scalar (ys.getD a 0)))

end Sys2Proof.Machine
end

