-- ==== Sys2Proof/Machine/Islands.lean ====
section
/-! DEFINITION. The matrix islands (R174, R199-R211, R344): MMA, MMAZ, ACCLD and ACCST, the checks of their requests, their sums in the
accumulator store. -/

namespace Sys2Proof.Machine

/-! ### The records (R207, R344) -/

/-- MMA (R344). -/
def execMma (h : Hdr) (t : Ty) (e : EngLit) (s : State) : Host.Outcome State Fault Refusal :=
  let i := Instr.mma h t e
  .next (s.fire i fun u => u.sendEngine i)

/-- MMAZ (R344). -/
def execMmaz (h : Hdr) (e : EngLit) (s : State) : Host.Outcome State Fault Refusal :=
  let i := Instr.mmaz h e
  .next (s.fire i fun u => u.sendEngine i)

/-- ACCLD (R344). -/
def execAccld (h : Hdr) (e : EngLit) (s : State) : Host.Outcome State Fault Refusal :=
  let i := Instr.accld h e
  .next (s.fire i fun u => u.sendEngine i)

/-- ACCST (R344). -/
def execAccst (h : Hdr) (t : Ty) (e : EngLit) (s : State) : Host.Outcome State Fault Refusal :=
  let i := Instr.accst h t e
  .next (s.fire i fun u => u.sendEngine i)

/-! ### The request (R201, R202) -/

/-- An island request's fields. -/
structure IslandReq where
  za : Bool
  row0 : Nat
  m : Nat
  n : Nat
  k : Nat
  ldb : Nat
  lda : Nat
  bsc : Word
  asc : Word
  cnt : Word
  badr : Word
  aadr : Word
  deriving DecidableEq, Repr

/-- The fields of a request (R201). -/
def islandReq (q : EngReq) : IslandReq where
  za := q.vec.getLsbD 393
  row0 := q.field 384 9
  m := q.field 376 7 + 1
  n := q.field 368 7 + 1
  k := q.field 352 16 + 1
  ldb := q.field 336 16
  lda := q.field 320 16
  bsc := q.addr 256
  asc := q.addr 192
  cnt := q.addr 128
  badr := q.addr 64
  aadr := q.addr 0

/-- What an island performs: the operation of a record's OP, with its type (R202). -/
inductive IslandOp where
  | mma (t : Ty) | mmaz | accld | accst (t : Ty)
  deriving DecidableEq, Repr

/-- The operation that the record of a request names. -/
def islandOp (q : EngReq) : IslandOp :=
  match q.instr with
  | some (.mma _ t _) => .mma t
  | some (.accld _ _) => .accld
  | some (.accst _ t _) => .accst t
  | _ => .mmaz

/-- A field that the table of R202 gives as 0 is nonzero. -/
def islandZeros (op : IslandOp) (q : EngReq) : Bool :=
  let c := islandReq q
  let scales := c.asc != 0 || c.bsc != 0
  let onlyMma := c.badr != 0 || c.ldb != 0 || scales || c.k != 1 || c.za
  match op with
  | .mma t => scales && !t.isTap
  | .mmaz => onlyMma || c.aadr != 0 || c.lda != 0
  | _ => onlyMma

/-- The group of check 4 of R202. -/
def checkGroup : Ty → Nat
  | .fp .f16 | .fp .b16 => 4
  | .tap _ => 32
  | _ => 1

/-- The element size that check 5 of R202 asks addresses and strides to be a multiple of. -/
def islandUnit : IslandOp → Nat
  | .mma t | .accst t => unitBytes t
  | .accld => 4
  | .mmaz => 1

/-- The number of the first check of R202 that a request fails. -/
def islandCheck (q : EngReq) : Option Nat :=
  let c := islandReq q
  let op := islandOp q
  let f64 := Ty.fp .f64
  let u := islandUnit op
  if q.field 416 96 ≠ 0 ∨ q.field 394 6 ≠ 0 ∨ q.vec.getLsbD 383 ∨ q.vec.getLsbD 375 ∨ islandZeros op q then some 1
  else if !slkOk (q.vec.extractLsb' 400 8) then some 2
  else if decide (c.row0 + c.m > 512) || (match op with
      | .mma t => decide ((t = f64 ∧ (c.m > 64 ∨ c.n > 64)) ∨ c.row0 % (if t = f64 then 64 else 128) ≠ 0)
      | .accst t => decide (t = f64 ∧ c.n > 64)
      | _ => false) then some 3
  else if (match op with | .mma t => decide (c.k % checkGroup t ≠ 0) | _ => false) then some 4
  else if c.aadr.toNat % u ≠ 0 ∨ c.badr.toNat % u ≠ 0 ∨ c.lda % u ≠ 0 ∨ c.ldb % u ≠ 0 ∨ c.asc.toNat % 4 ≠ 0 ∨ c.bsc.toNat % 4 ≠ 0 ∨
      c.cnt.toNat % 8 ≠ 0 then some 5
  else match op with
    | .accst t =>
      if (t = .tap .t6 ∧ c.n % 4 ≠ 0) ∨ (c.m > 1 ∧ c.lda < rowBytes t c.n) then some 6 else none
    | _ => none

/-! ### Sums (R174, R204) -/

/-- The product of two decoded operands, exact. -/
def exactMul (a b : FpVal) : FpVal :=
  match a, b with
  | .nan _, _ | _, .nan _ => .nan false
  | .inf s, .inf t => .inf (s != t)
  | .inf s, .fin t n _ => if n = 0 then .nan false else .inf (s != t)
  | .fin s m _, .inf t => if m = 0 then .nan false else .inf (s != t)
  | .fin s m e, .fin t n g => .fin (s != t) (m * n) (e + g)

/-- The sum of two exact values, exact; a zero sum is -0 when both are (R174). -/
def exactSum (a b : FpVal) : FpVal :=
  match a, b with
  | .nan _, _ | _, .nan _ => .nan false
  | .inf s, .inf t => if s = t then .inf s else .nan false
  | .inf s, _ => .inf s
  | _, .inf t => .inf t
  | .fin s m e, .fin t n g =>
    if m = 0 ∧ n = 0 then .fin (s && t) 0 0
    else
      let (v, e0) := exactAdd s m e t n g
      .fin (v < 0) v.natAbs e0

/-- The exact sum of the products of a group (R174). -/
def groupSum : List (FpVal × FpVal) → FpVal
  | [] => .fin false 0 0
  | [p] => exactMul p.1 p.2
  | p :: ps => exactSum (exactMul p.1 p.2) (groupSum ps)

/-- An exact group sum times the scales of its blocks (R204). -/
def scaleSum (v : FpVal) (sa sb : BitVec 20) : FpVal :=
  if bsExp sa = 255 ∨ bsExp sb = 255 then .nan false
  else if bsExp sa = 0 ∨ bsExp sb = 0 then .fin false 0 0
  else match v with
    | .fin s m e => .fin s (m * bsMant sa * bsMant sb) (e + bsE sa + bsE sb)
    | v => v

/-- The elements of a group summed at once (R174). -/
def sumGroup : Ty → Nat
  | .fp .f16 | .fp .b16 => 4
  | .tap .t8 => 8
  | .tap .t6 => 16
  | _ => 1

/-- One accumulator element after its groups, in ascending order (R204); `x` is the first k of the next group. -/
def accumulate (t : Ty) (sa sb : Nat → BitVec 20) : Nat → Nat → List (FpVal × FpVal) → Word → Word
  | 0, _, _, acc => acc
  | fuel + 1, x, ps, acc =>
    match ps with
    | [] => acc
    | p :: _ =>
      let g := sumGroup t
      let next := match t with
        | .fp .f64 => (fmaVal (fmtOf .f64) .rne p.1 p.2 ((fmtOf .f64).decode acc)).val
        | .fp .f32 => (fmaVal (fmtOf .f32) .rne p.1 p.2 ((fmtOf .f32).decode acc)).val
        | _ =>
          let s := groupSum (ps.take g)
          let s1 := if t.isTap then scaleSum s (sa (x / 32)) (sb (x / 32)) else s
          (addVal (fmtOf .f32) .rne ((fmtOf .f32).decode acc) s1).val
      accumulate t sa sb fuel (x + g) (ps.drop g) next

/-! ### Cells (R199) -/

/-- A cell of an accumulator store. -/
def Island.cell (u : Island) (row col : Nat) : BitVec 32 := Sparse.get 0 u.acc (row * 128 + col)

/-- A cell written. -/
def Island.setCell (u : Island) (row col : Nat) (v : BitVec 32) : Island := { u with acc := Sparse.put 0 u.acc (row * 128 + col) v }

/-- An output element: a cell, or the two cells of an FP64 element. -/
def Island.elem (u : Island) (f64 : Bool) (row j : Nat) : Word :=
  if f64 then u.cell row (2 * j + 1) ++ u.cell row (2 * j) else (u.cell row j).setWidth 64

/-- An output element written. -/
def Island.setElem (u : Island) (f64 : Bool) (row j : Nat) (v : Word) : Island :=
  if f64 then (u.setCell row (2 * j) (v.setWidth 32)).setCell row (2 * j + 1) (v.extractLsb' 32 32)
  else u.setCell row j (v.setWidth 32)

/-- The positions of a region of `m` rows and `n` columns. -/
def grid (m n : Nat) : List (Nat × Nat) := (List.range m).flatMap fun i => (List.range n).map fun j => (i, j)

/-! ### Performing a request (R203-R206) -/

/-- The block scales of one operand: rows of words at near addresses, or 1.0 for each where the address is 0 (R201, R203). -/
def State.readScales (s : State) (die : Nat) (atp : BitVec 128) (base : Word) (addrs : List Word) (n : Nat) :
    Except Stop (List (List Word) × State) :=
  if base = 0 then .ok (addrs.map fun _ => List.replicate n 0x7F000, s) else s.readRows die atp (.int .n32) n 4 addrs

/-- MMA on an accumulator store, once its operands and scales are read (R203, R204). -/
def Island.mma (u : Island) (t : Ty) (c : IslandReq) (a b sa sb : List (List Word)) : Island :=
  let f64 := t == .fp .f64
  let av := a.map fun r => r.map (decodeTy t)
  let bv := b.map fun r => r.map (decodeTy t)
  let scale := fun (w : Word) => (w.setWidth 20 : BitVec 20)
  (grid c.m c.n).foldl (fun v ij =>
    let row := c.row0 + ij.1
    let acc := if c.za then 0 else u.elem f64 row ij.2
    let ps := (av.getD ij.1 []).zip (bv.map fun r => r.getD ij.2 (.fin false 0 0))
    let fa := fun (n : Nat) => scale ((sa.getD ij.1 []).getD n 0)
    let fb := fun (n : Nat) => scale ((sb.getD n []).getD ij.2 0)
    v.setElem f64 row ij.2 (accumulate t fa fb c.k 0 (ps.take c.k) acc)) u

/-- MMA: all operands are read, then the cells change (R203, R204, R206). -/
def State.runMma (s : State) (die k : Nat) (q : EngReq) (t : Ty) : State × Option Stop :=
  let c := islandReq q
  let tap := t.isTap
  match s.readRows die q.atp t c.k (unitAlign t) (rowAddrs c.aadr c.lda c.m) with
  | .error e => (s, some e)
  | .ok (a, s1) =>
    match s1.readRows die q.atp t c.n (unitAlign t) (rowAddrs c.badr c.ldb c.k) with
    | .error e => (s1, some e)
    | .ok (b, s2) =>
      match (if tap then s2.readScales die q.atp c.asc (rowAddrs c.asc (c.k / 8) c.m) (c.k / 32) else .ok ([], s2)) with
      | .error e => (s2, some e)
      | .ok (sa, s3) =>
        match (if tap then s3.readScales die q.atp c.bsc (rowAddrs c.bsc (4 * c.n) (c.k / 32)) c.n else .ok ([], s3)) with
        | .error e => (s3, some e)
        | .ok (sb, s4) => (s4.updIsland (die * 18 + k) fun u => u.mma t c a b sa sb, none)

/-- The elements an ACCST stores of a row, converted with RNE (R205). -/
def accstRow (u : Island) (t : Ty) (row n : Nat) : List Byte :=
  let ws := (List.range n).map fun j =>
    match t with
    | .fp .f64 => u.elem true row j
    | .fp .f32 => u.elem false row j
    | t => (convert t (.fp .f32) .rne (u.elem false row j)).val
  packRow t ((n + unitElems t - 1) / unitElems t) ws

/-- What an accepted request does to its cells or to memory, until an access faults (R204-R206). -/
def State.runIsland (s : State) (die k : Nat) (q : EngReq) : State × Option Stop :=
  let c := islandReq q
  let n := die * 18 + k
  match islandOp q with
  | .mma t => s.runMma die k q t
  | .mmaz => (s.updIsland n fun u => (grid c.m c.n).foldl (fun v ij => v.setCell (c.row0 + ij.1) ij.2 0) u, none)
  | .accld =>
    (match s.readRows die q.atp (.int .n32) c.n 4 (rowAddrs c.aadr c.lda c.m) with
    | .error e => (s, some e)
    | .ok (rows, s1) =>
      (s1.updIsland n fun u => (grid c.m c.n).foldl (fun v ij =>
        v.setCell (c.row0 + ij.1) ij.2 (((rows.getD ij.1 []).getD ij.2 0).setWidth 32)) u, none))
  | .accst t =>
    let u := Sparse.get Island.zero s.engines.islands n
    s.writeRows die q.atp (unitAlign t) ((rowAddrs c.aadr c.lda c.m).zipIdx.map fun a => (a.1, accstRow u t (c.row0 + a.2) c.n))

/-! ### ISLAND_ACCEPT and ISLAND_COMPLETE (R202, R209, R210) -/

/-- The island `k` of a die. -/
def State.island (s : State) (die k : Nat) : Island := Sparse.get Island.zero s.engines.islands (die * 18 + k)

/-- A die has that island, and carries work (R13, R21). -/
def State.hasIsland (s : State) (die k : Nat) : Bool := decide (die < 8) && decide (k < 18) && s.dieWorks die

/-- An island accepts the next request of its queue into one of its 16 slots, and checks it. -/
def State.islandAccept (s : State) (die k req : Nat) : Option State :=
  let u := s.island die k
  match nextQueued u.queue with
  | none => none
  | some q =>
    if q.id ≠ req ∨ u.serving.length ≥ 16 ∨ !s.hasIsland die k then none
    else
      let bad := islandCheck q
      let s1 := s.updIsland (die * 18 + k) fun x =>
        { x with queue := x.queue.filter fun e => e.id != req, serving := x.serving ++ [{ q with bad := bad }] }
      let s2 := s1.engineServes q
      some (match bad with
        | some n => s2.engineFault q die 2 k codeAccbounds (islandReq q).cnt n
        | none => s2)

/-- ISLAND_ACCEPT (R202). -/
def execIslandAccept (die k req : Nat) (s : State) : Host.Outcome State Fault Refusal :=
  .next ((s.islandAccept die k req).getD s)

/-- An island performs the oldest request it has accepted, once the completion add before it is made, and makes its own (R206, R210). -/
def State.islandComplete (s : State) (die k : Nat) : Option State :=
  match (s.island die k).serving with
  | [] => none
  | q :: _ =>
    let slk := q.vec.extractLsb' 400 8
    if !s.hasIsland die k || s.addOut die (.island k) then none
    else s.engineWhole (.engine q.id) q slk fun u =>
      let r := if q.bad.isSome then (u, none) else u.runIsland die k q
      let s1 := match r.2 with
        | some e => r.1.engineFault q die 2 k e.1 e.2 0
        | none => r.1
      s1.goOn fun v =>
        let s2 := v.updIsland (die * 18 + k) fun x => { x with serving := x.serving.drop 1 }
        some (s2.completeAdd q die 2 k (islandReq q).cnt (q.field 408 8) slk)

/-- ISLAND_COMPLETE (R210). -/
def execIslandComplete (die k : Nat) (s : State) : Host.Outcome State Fault Refusal :=
  .next ((s.islandComplete die k).getD s)

end Sys2Proof.Machine
end

