-- ==== Sys2Proof/Machine/Lattices.lean ====
section
/-! DEFINITION. The lattice of a die (R212-R218, R329, R330): its records, the checks of their requests, asterism slots, and one layer of
LUT6 cells. -/

namespace Sys2Proof.Machine

/-! ### The records (R207, R329) -/

/-- LXTAB (R329). -/
def execLxtab (h : Hdr) (e : EngLit) (s : State) : Host.Outcome State Fault Refusal :=
  let i := Instr.lxtab h e
  .next (s.fire i fun u => u.sendEngine i)

/-- LXCTX (R329). -/
def execLxctx (h : Hdr) (e : EngLit) (s : State) : Host.Outcome State Fault Refusal :=
  let i := Instr.lxctx h e
  .next (s.fire i fun u => u.sendEngine i)

/-- LXRUN (R329). -/
def execLxrun (h : Hdr) (e : EngLit) (s : State) : Host.Outcome State Fault Refusal :=
  let i := Instr.lxrun h e
  .next (s.fire i fun u => u.sendEngine i)

/-- LXTIN (R329). -/
def execLxtin (h : Hdr) (e : EngLit) (s : State) : Host.Outcome State Fault Refusal :=
  let i := Instr.lxtin h e
  .next (s.fire i fun u => u.sendEngine i)

/-- LXTOUT (R329). -/
def execLxtout (h : Hdr) (e : EngLit) (s : State) : Host.Outcome State Fault Refusal :=
  let i := Instr.lxtout h e
  .next (s.fire i fun u => u.sendEngine i)

/-! ### The request (R215, R216) -/

/-- A lattice request's fields. -/
structure LatReq where
  pbase : Nat
  load : Bool
  bank : Bool
  slot : Nat
  cnt : Nat
  first : Nat
  stride : Nat
  counter : Word
  adr : Word
  deriving DecidableEq, Repr

/-- The fields of a request (R215). -/
def latReq (q : EngReq) : LatReq where
  pbase := q.field 179 12
  load := q.vec.getLsbD 178
  bank := q.vec.getLsbD 177
  slot := q.field 174 3
  cnt := q.field 160 14 + 1
  first := q.field 144 14
  stride := q.field 128 16
  counter := q.addr 64
  adr := q.addr 0

/-- What the lattice performs: the operation of a record's OP. -/
inductive LatOp where
  | tab | ctx | run | tin | tout
  deriving DecidableEq, Repr

/-- The operation that the record of a request names. -/
def latOp (q : EngReq) : LatOp :=
  match q.instr with
  | some (.lxtab _ _) => .tab
  | some (.lxctx _ _) => .ctx
  | some (.lxrun _ _) => .run
  | some (.lxtin _ _) => .tin
  | _ => .tout

/-- A field that the table of R216 gives as 0 is nonzero. -/
def latZeros (op : LatOp) (c : LatReq) : Bool :=
  let range := c.first != 0 || c.cnt != 1
  let sel := c.slot != 0 || c.load
  match op with
  | .tab => c.stride != 0 || sel || c.pbase != 0
  | .ctx => c.stride != 0 || c.bank || c.pbase != 0 || (!c.load && (c.adr != 0 || range))
  | .run => c.adr != 0 || c.stride != 0 || range || sel
  | .tin | .tout => sel || c.bank || c.pbase != 0

/-- The number of the first of checks 1 to 4 of R216 that a request fails. A count above 64 of an LXTIN or an LXTOUT fails check 3, since the list
names none for the table's limit (DESIGN CHOICE, log entry 81). -/
def latCheck (q : EngReq) : Option Nat :=
  let c := latReq q
  let op := latOp q
  let rows := op = .tin ∨ op = .tout
  let unit := match op with
    | .ctx => 16
    | _ => 8
  if q.field 208 48 ≠ 0 ∨ q.vec.getLsbD 191 ∨ q.field 158 2 ≠ 0 ∨ latZeros op c then some 1
  else if !slkOk (q.vec.extractLsb' 192 8) then some 2
  else if c.first + c.cnt > (if op = .tin then 4096 else 16384) ∨ (rows ∧ c.cnt > 64) then some 3
  else if c.adr.toNat % unit ≠ 0 ∨ c.stride % 8 ≠ 0 ∨ c.counter.toNat % 8 ≠ 0 ∨ (rows ∧ c.stride = 0) then some 4
  else none

/-! ### Asterisms (R213, R214) -/

/-- ACT of an entry. -/
def astAct (e : BitVec 128) : Bool := e.getLsbD 96

/-- Selector `j` of an entry. -/
def astSel (e : BitVec 128) (j : Nat) : BitVec 16 := e.extractLsb' (16 * j) 16

/-- A selector that R213 reserves, or with a nonzero zero-field. -/
def badSel (v : BitVec 16) : Bool :=
  match bits v 14 2 with
  | 0 => bits v 12 2 != 0
  | 1 => false
  | 2 => bits v 1 13 != 0
  | _ => true

/-- The sources that the selectors of active cells name, constants apart. -/
def namedSources (es : List (BitVec 128)) : List (BitVec 16) :=
  (es.filter astAct).flatMap fun e => ((List.range 6).map (astSel e)).filter fun v => bits v 14 2 < 2

/-- A slot passes the checks of R214. -/
def slotOk (entries : Sparse (BitVec 128)) : Bool :=
  let es := entries.map fun e => e.2
  let named := namedSources es
  (es.all fun e => bits e 97 31 == 0 && (List.range 6).all fun j => !badSel (astSel e j)) &&
  named.all fun v => decide (named.count v ≤ 64)

/-! ### Performing a request (R217) -/

/-- An empty slot. -/
def Asterism.empty : Asterism := ⟨[], false⟩

/-- A 256-bit plane by the bits of its items. -/
def planeOf (f : Nat → Bool) : BitVec 256 := BitVec.ofNat 256 (maskOf 256 f)

/-- The source that a selector names (R213, R217). -/
def Lattice.source (l : Lattice) (pbase : Nat) (v : BitVec 16) : BitVec 256 :=
  match bits v 14 2 with
  | 0 => Sparse.get 0 l.planes ((bits v 0 12 + pbase) % 4096)
  | 1 => Sparse.get 0 l.outs (bits v 0 14)
  | _ => if v.getLsbD 0 then BitVec.allOnes 256 else 0

/-- A cell's output plane: for each batch item, the bit of its truth table that its six inputs select (R212). -/
def lutPlane (table : BitVec 64) (ins : List (BitVec 256)) : BitVec 256 :=
  planeOf fun b => table.getLsbD (maskOf 6 fun j => (ins.getD j 0).getLsbD b)

/-- One layer: every cell reads the previous layer (R217). -/
def Lattice.layer (l : Lattice) (bank : Bool) (pbase : Nat) (a : Asterism) : Lattice :=
  let table := fun (c : Nat) => Sparse.get 0 (if bank then l.table1 else l.table0) c
  { l with outs := a.entries.foldl (fun o e =>
      if astAct e.2 then
        Sparse.put 0 o e.1 (lutPlane (table e.1) ((List.range 6).map fun j => l.source pbase (astSel e.2 j)))
      else o) [] }

/-- Values written to consecutive numbers of a table. -/
def putFrom {α : Type} [DecidableEq α] (d : α) (t : Sparse α) (first : Nat) (vs : List α) : Sparse α :=
  vs.zipIdx.foldl (fun t v => Sparse.put d t (first + v.2) v.1) t

/-- LXTIN's planes from its 256 rows. -/
def Lattice.planesIn (l : Lattice) (first cnt : Nat) (rows : List Word) : Lattice :=
  { l with planes := putFrom 0 l.planes first ((List.range cnt).map fun j => planeOf fun b => (rows.getD b 0).getLsbD j) }

/-- LXTOUT's row of batch item `b`. -/
def Lattice.rowOut (l : Lattice) (first cnt b : Nat) : List Byte :=
  toBytesLE 8 (maskOf cnt fun j => (Sparse.get 0 l.outs (first + j)).getLsbD b)

/-- The words of rows of one word. -/
def oneWord (rows : List (List Word)) : List Word := rows.map fun r => r.getD 0 0

/-- The two words of each 16-byte row joined. -/
def pairUp : List Word → List (BitVec 128)
  | a :: b :: rest => (b ++ a) :: pairUp rest
  | _ => []

/-- What an accepted request does, until an access faults; with the number of check 5 or 6 where that fails (R216, R217). -/
def State.runLattice (s : State) (die : Nat) (q : EngReq) : State × Option Stop × Option Nat :=
  let c := latReq q
  let l := Sparse.get Lattice.zero s.engines.lattices die
  let n64 := Ty.int .n64
  match latOp q with
  | .tab =>
    (match s.readRows die q.atp n64 1 8 (rowAddrs c.adr 8 c.cnt) with
    | .error e => (s, some e, none)
    | .ok (rows, s1) =>
      (s1.updLattice die fun x =>
        if c.bank then { x with table1 := putFrom 0 x.table1 c.first (oneWord rows) }
        else { x with table0 := putFrom 0 x.table0 c.first (oneWord rows) }, none, none))
  | .ctx =>
    if !c.load then (s.updLattice die fun x => { x with selected := some c.slot }, none, none)
    else
      (match s.readRows die q.atp n64 1 8 (rowAddrs c.adr 8 (2 * c.cnt)) with
      | .error e => (s, some e, none)
      | .ok (rows, s1) =>
        let old := Sparse.get Asterism.empty l.slots c.slot
        let es := putFrom 0 old.entries c.first (pairUp (oneWord rows))
        let ok := slotOk es
        (s1.updLattice die fun x =>
          { x with slots := Sparse.put Asterism.empty x.slots c.slot ⟨es, ok⟩, selected := some c.slot },
          none, if ok then none else some 5))
  | .run =>
    let a := match l.selected with
      | some n => Sparse.get Asterism.empty l.slots n
      | none => Asterism.empty
    if a.valid then (s.updLattice die fun x => x.layer c.bank c.pbase a, none, none) else (s, none, some 6)
  | .tin =>
    (match s.readRows die q.atp n64 1 8 (rowAddrs c.adr c.stride 256) with
    | .error e => (s, some e, none)
    | .ok (rows, s1) => (s1.updLattice die fun x => x.planesIn c.first c.cnt (oneWord rows), none, none))
  | .tout =>
    let r := s.writeRows die q.atp 8 ((rowAddrs c.adr c.stride 256).zipIdx.map fun a => (a.1, l.rowOut c.first c.cnt a.2))
    (r.1, r.2, none)

/-! ### LATTICE_ACCEPT and LATTICE_COMPLETE (R209, R210, R216) -/

/-- The lattice of a die. -/
def State.lattice (s : State) (die : Nat) : Lattice := Sparse.get Lattice.zero s.engines.lattices die

/-- A die has a lattice, and carries work (R13, R21). -/
def State.hasLattice (s : State) (die : Nat) : Bool := decide (die < 8) && s.dieWorks die

/-- The lattice accepts the next request of its queue into one of its 8 slots, and makes checks 1 to 4; checks 5 and 6 read what earlier
requests leave, and are made in their place in the order. -/
def State.latticeAccept (s : State) (die req : Nat) : Option State :=
  let l := s.lattice die
  match nextQueued l.queue with
  | none => none
  | some q =>
    if q.id ≠ req ∨ l.serving.length ≥ 8 ∨ !s.hasLattice die then none
    else
      let bad := latCheck q
      let s1 := s.updLattice die fun x =>
        { x with queue := x.queue.filter fun e => e.id != req, serving := x.serving ++ [{ q with bad := bad }] }
      let s2 := s1.engineServes q
      some (match bad with
        | some n => s2.engineFault q die 3 0 codeLxctx 0 n
        | none => s2)

/-- LATTICE_ACCEPT (R216). -/
def execLatticeAccept (die req : Nat) (s : State) : Host.Outcome State Fault Refusal :=
  .next ((s.latticeAccept die req).getD s)

/-- The lattice performs the oldest request it has accepted, once the completion add before it is made, and makes its own (R206, R210,
R217). -/
def State.latticeComplete (s : State) (die : Nat) : Option State :=
  match (s.lattice die).serving with
  | [] => none
  | q :: _ =>
    let slk := q.vec.extractLsb' 192 8
    if !s.hasLattice die || s.addOut die .lattice then none
    else s.engineWhole (.engine q.id) q slk fun u =>
      let r := if q.bad.isSome then (u, none, none) else u.runLattice die q
      let s1 := match r.2.1, r.2.2 with
        | some e, _ => r.1.engineFault q die 3 0 e.1 e.2 0
        | none, some n => r.1.engineFault q die 3 0 codeLxctx 0 n
        | none, none => r.1
      s1.goOn fun v =>
        let s2 := v.updLattice die fun x => { x with serving := x.serving.drop 1 }
        some (s2.completeAdd q die 3 0 (latReq q).counter (q.field 200 8) slk)

/-- LATTICE_COMPLETE (R210). -/
def execLatticeComplete (die : Nat) (s : State) : Host.Outcome State Fault Refusal :=
  .next ((s.latticeComplete die).getD s)

end Sys2Proof.Machine
end

