-- ==== Sys2Proof/Machine/Objects.lean ====
section
/-! DEFINITION. The object server (R29-R35, R39, R43, R48-R51, R138, R179, R385, R407): creation, apertures, retirement, reclamation. -/

namespace Sys2Proof.Machine

/-! ### Requests and answers (R385) -/

/-- The request of that number. -/
def State.msg? (s : State) (n : Nat) : Option Msg := s.hub.msgs.find? fun m => m.id == n

/-- Lane `k` of a request. -/
def Msg.lane (m : Msg) (k : Nat) : Nat := bits m.body (32 * k) 32

/-- Lanes `k` and `k + 1` as one word, the least significant lane first. -/
def Msg.word (m : Msg) (k : Nat) : Word := BitVec.ofNat 64 (bits m.body (32 * k) 64)

/-- A server has handled a request: it leaves the inbox, and the MSGR or RETIRE that waits for the answer receives it (R361, R385). -/
def State.reply (s : State) (m : Msg) (lanes : List Nat) : State :=
  let s1 := s.takeMsg m
  match m.req.bind s1.req? with
  | none => s1
  | some q => match q.instr with
    | .retire _ => s1.answer q (.scalar 1) (.scalar 1) 0 q.replySlack q.late
    | _ => s1.answerMsgr q (lanesMsg lanes) 1

/-- A request is refused: lane 0 holds 0, and nothing else changes (R385). -/
def State.refuse (s : State) (m : Msg) : State := s.reply m [0]

/-- The request is one that its endpoint's server does not know (R385). -/
def Msg.unknown (m : Msg) (codes : List Nat) : Bool := !codes.contains (m.lane 0)

/-! ### Storage for a new object (R32, R43-R45, R138, R179; log entry 6) -/

/-- The fewest levels that cover an object (R43). -/
def depthFor (pages : Nat) : Nat :=
  if pages ≤ 512 then 1 else if pages ≤ 512 ^ 2 then 2 else if pages ≤ 512 ^ 3 then 3 else 4

/-- A cleared level of the name table: 65,536 entries (R32). -/
def State.newLevel (s : State) : Option (Nat × State) :=
  match s.names.tables.take 128 false with
  | none => none
  | some (n, p) => some (n * 4096,
      { s with names := { s.names with tables := p }, mem := Memory.clear s.mem (n * 4096) 524288 })

/-- The level below the entries named, made where it is absent (R32). -/
def State.makeLevels : State → Nat → List Nat → Option (Nat × State)
  | s, a, [] => some (a, s)
  | s, a, i :: is =>
    match tableEntry s.mem a i with
    | some b => s.makeLevels b is
    | none =>
      match s.newLevel with
      | none => none
      | some (b, s1) => State.makeLevels { s1 with mem := Memory.setWord s1.mem (a + 8 * i) (BitVec.ofNat 64 b) } b is

/-- A side area of `n` bytes, cleared. -/
def State.newSide (s : State) (n : Nat) : Option (Nat × State) :=
  let units := (n + 4095) / 4096
  match s.names.tables.take units (units == 1) with
  | none => none
  | some (u, p) => some (u * 4096,
      { s with names := { s.names with tables := p }, mem := Memory.clear s.mem (u * 4096) (units * 4096) })

/-- The scratch pages of a die that no object holds, each its tile times 32 plus its page in the tile. -/
def State.freeScratch (s : State) (die : Nat) : List Nat :=
  (List.range 2048).filter fun n => !((Sparse.get 0#32 s.names.pages (die * 64 + n / 32)).getLsbD (n % 32))

/-- A scratch page's mark changed. -/
def State.markScratch (s : State) (die n : Nat) (used : Bool) : State :=
  let k := die * 64 + n / 32
  let w := Sparse.get 0#32 s.names.pages k
  let b := BitVec.ofNat 32 (2 ^ (n % 32))
  { s with names := { s.names with pages := Sparse.put 0#32 s.names.pages k (if used then w ||| b else w &&& ~~~b) } }

/-- The entry of one page of a new class S object: a page of the die's scratch, which reads as zero and is resident (R45, R179). -/
def State.scratchPage (s : State) (die root depth page n : Nat) : Option State :=
  (s.makeLeaf root depth page).map fun r =>
    let s1 := (r.2.markScratch die n true).setPte r.1 (mkPte 3 0 n)
    { s1 with mem := Memory.clear s1.mem (scratchBase + (die * 64 + n / 32) * 2 ^ 21 + n % 32 * 2 ^ 16) (2 ^ 16) }

/-- The entry of one page of a new class P or X-on-P object: absent, with a block of the persistent tier that holds zeros. -/
def State.tierPage (s : State) (root depth page pgsz : Nat) : Option State :=
  let n := pageBytes pgsz / 2 ^ 16
  match s.names.blocks.take n (n == 1) with
  | none => none
  | some (b, p) =>
    (State.makeLeaf { s with names := { s.names with blocks := p } } root depth page).map fun r =>
      let s1 := r.2.setPte r.1 (mkPte 0 b 0)
      { s1 with mem := Memory.clear s1.mem (tierAddr b) (pageBytes pgsz) }

/-- Every page of a list prepared. -/
def State.forPages (f : State → Nat → Option State) : State → List Nat → Option State
  | s, [] => some s
  | s, p :: ps => (f s p).bind fun t => State.forPages f t ps

/-- The page entries a new object has from its creation: of class S and of the classes with persistent-tier blocks, all. -/
def State.newPages (s : State) (cls pgsz homedie root depth pages : Nat) : Option State :=
  if cls = 2 then
    let free := s.freeScratch homedie
    if free.length < pages then none
    else State.forPages (fun t p => t.scratchPage homedie root depth p (free.getD p 0)) s (List.range pages)
  else if durableClass cls then State.forPages (fun t p => t.tierPage root depth p pgsz) s (List.range pages)
  else some s

/-! ### Creation (R29, R33, R34) -/

/-- What a request to create an object asks for. -/
structure ObjectSpec where
  cls : Nat
  pgsz : Nat
  homedie : Nat
  maxr : Nat
  length : Nat
  deriving DecidableEq, Repr

/-- An object of that shape can stand: its class is one of R34's, MAXR lies within it, and the fields keep the limits of R33. -/
def ObjectSpec.ok (o : ObjectSpec) : Bool :=
  (match classRights o.cls with
  | some r => o.maxr &&& r == o.maxr
  | none => false) &&
  decide (1 ≤ o.length ∧ o.length ≤ 2 ^ 48 ∧ o.length % pageBytes o.pgsz = 0) &&
  (if o.cls = 2 then decide (o.homedie < 8 ∧ o.pgsz = 0) else decide (o.homedie = 0))

/-- The words of a live descriptor (R33). -/
def ObjectSpec.words (o : ObjectSpec) (serial : BitVec 64) (depth root side : Nat) : List Word :=
  [serial,
   0b01#2 ++ BitVec.ofNat 3 o.cls ++ BitVec.ofNat 2 o.pgsz ++ BitVec.ofNat 3 depth ++ BitVec.ofNat 5 o.maxr ++ BitVec.ofNat 49 o.length,
   BitVec.ofNat 4 o.homedie ++ 0#60, BitVec.ofNat 64 root, BitVec.ofNat 64 side, 0, 0, 0]

/-- Words written from an address upward. -/
def putWords (m : List Host.Cell) (a : Nat) : List Word → List Host.Cell
  | [] => m
  | w :: ws => putWords (Memory.setWord m a w) (a + 8) ws

/-- An object is created: the serial equal to the horizon is issued, the horizon and its mirrors advance, and the descriptor stands in the
name table (R29, R32). None where the object cannot stand or there is no storage for it. -/
def State.createObject (s : State) (o : ObjectSpec) : Option (State × BitVec 64) :=
  let serial := s.names.horizon
  if !o.ok || serial == BitVec.allOnes 64 then none
  else
    let pages := o.length / pageBytes o.pgsz
    let depth := depthFor pages
    (s.makeLevels s.names.root [bits serial 48 16, bits serial 32 16, bits serial 16 16]).bind fun (a4, s1) =>
      s1.newNode.bind fun (root, s2) => s2.newNode.bind fun (desc, s3) => (s3.newSide (8 * pages)).bind fun (side, s4) =>
        (s4.newPages o.cls o.pgsz o.homedie root depth pages).map fun s5 =>
          let m := putWords s5.mem desc (o.words serial depth root side)
          ({ s5 with
             mem := Memory.setWord m (a4 + 8 * bits serial 0 16) (BitVec.ofNat 64 desc)
             names := { s5.names with horizon := serial + 1, mirrors := s5.names.mirrors.map fun _ => serial + 1 } }, serial)

/-- Bytes put into the persistent-tier blocks of an object whose pages are absent. -/
def State.tierFill (s : State) (d : Desc) (bs : List Byte) : State :=
  bs.zipIdx.foldl (fun t b => match t.byteHome d b.2 with
    | some a => { t with mem := Memory.write t.mem a b.1 }
    | none => t) s

/-- The bytes of a new class X object: in its persistent-tier blocks, or in frames; none while no frame is free (R34, R45). -/
def State.fillImage (s : State) (serial : BitVec 64) (bs : List Byte) : Option State :=
  match s.live? serial with
  | none => none
  | some d =>
    if durableClass d.cls then some (s.tierFill d bs)
    else ((({ s with doer := none } : State).writeRange 0 ⟨s.names.devNum, serial, 0⟩ d (bs.length + 1) bs).toOption).map fun t => { t with doer := s.doer }

/-- An object created with its image; where no frame is free for it the pager is woken, and the server waits (R34, R45). -/
def State.createImage (s : State) (o : ObjectSpec) (bs : List Byte) : Option (State × BitVec 64) :=
  (s.createObject o).map fun (s1, serial) => match s1.fillImage serial bs with
    | some s2 => (s2, serial)
    | none => (s.pauseFor .frame, 0)

/-- System software has the object server make the data image of a class P object durable, before the first context of its launch starts: its bytes
go to the blocks of its pages, none of which has been filled yet (R408). -/
def State.dataImage (s : State) (serial : BitVec 64) (bs : List Byte) : State :=
  match s.live? serial with
  | none => s
  | some d =>
    let absent := fun (p : Nat) => match s.leaf? d p with
      | some pte => pteState (Memory.word s.mem pte) == 0
      | none => false
    if d.cls = 1 ∧ bs.length ≤ d.length ∧ (List.range ((bs.length + pageBytes d.pgsz - 1) / pageBytes d.pgsz)).all absent then s.tierFill d bs
    else s

/-- What a request to create an object asks for (R385). -/
def Msg.object (m : Msg) : ObjectSpec :=
  { cls := bits m.body 32 3, pgsz := bits m.body 36 2, homedie := bits m.body 40 4, maxr := bits m.body 64 5,
    length := (m.word 3).toNat }

/-- A request to create an object: the state with it, and its serial, unless the server must wait for the image. Its image is read through the requester's aperture table (R34,
R385). -/
def State.create (s : State) (m : Msg) : Option (State × BitVec 64) :=
  let o := m.object
  let code := o.cls == 4 || o.cls == 5
  let n := (m.word 7).toNat
  if !code && (m.word 5 != 0 || n != 0) then none
  else if !code || n == 0 then s.createObject o
  else if n > o.length then none
  else match s.unitRead 8 m.atp (m.word 5) n 1 with
    | .error _ => none
    | .ok (bs, s1) =>
    if s1.pause.isSome then some (s1, 0) else s1.createImage o bs

/-- The object server handles a request to create, or one whose code it does not know (R385). -/
def State.createNow (s : State) (n : Nat) : Option State :=
  (s.msg? n).bind fun m =>
    if m.ep ≠ 3 then none
    else if m.unknown [1, 2, 3, 4] then some (s.refuse m)
    else if m.lane 0 ≠ 1 then none
    else s.whole (.msg n) 507904 false fun t => match t.create m with
      | some (s1, serial) => s1.goOn fun s1 => some (s1.reply m [1, bits serial 0 32, bits serial 32 32])
      | none => some (t.refuse m)

/-- OBJECT_CREATE (R29, R385). -/
def execObjectCreate (msg : Nat) (s : State) : Host.Outcome State Fault Refusal := .next ((s.createNow msg).getD s)

/-! ### Apertures (R39, R385, R407) -/

/-- The entry that a bind request asks for (R38). -/
def Msg.aperture (m : Msg) : BitVec 256 :=
  1#1 ++ 0#58 ++ BitVec.ofNat 5 (m.lane 9) ++ 0#19 ++ BitVec.ofNat 45 (m.word 7).toNat ++ BitVec.ofNat 16 (m.lane 4) ++
    BitVec.ofNat 48 (m.word 5).toNat ++ m.word 2

/-- An entry written in a table of class P is durable before the answer (R407). -/
def State.entryDurable (s : State) (serial : BitVec 64) (index : Nat) : State :=
  match s.live? serial with
  | none => s
  | some d =>
    if durableClass d.cls then
      (match s.leaf? d (32 * index / pageBytes d.pgsz) with
      | some pte => s.writeLine d (32 * index) (Memory.word s.mem pte)
      | none => s)
    else s

/-- An entry of the requester's aperture table is written by the object server. -/
def State.setEntry (s : State) (m : Msg) (img : BitVec 256) : Option State :=
  (s.writeAperture 8 (ats m.atp) (m.lane 1) img).map fun t => t.entryDurable (ats m.atp) (m.lane 1)

/-- A bind request, checked against R39. -/
def State.bindNow (s : State) (n : Nat) : Option State :=
  (s.msg? n).bind fun m =>
    if m.ep ≠ 3 ∨ m.lane 0 ≠ 2 then none
    else if (m.word 5).toNat ≥ 2 ^ 48 ∨ (m.word 7).toNat > 2 ^ 44 ∨ m.lane 4 ≥ 2 ^ 16 ∨ m.lane 9 ≥ 32 ∨
        s.badAperture m.aperture (m.lane 1) (atc m.atp) then some (s.refuse m)
    else s.whole (.msg n) 507904 false fun t => match t.setEntry m m.aperture with
      | some s1 => s1.goOn fun s1 => some (s1.reply m [1])
      | none => some (t.refuse m)

/-- APERTURE_BIND (R385). -/
def execApertureBind (msg : Nat) (s : State) : Host.Outcome State Fault Refusal := .next ((s.bindNow msg).getD s)

/-- An unbind request: the entry is cleared (R385, R407). -/
def State.unbindNow (s : State) (n : Nat) : Option State :=
  (s.msg? n).bind fun m =>
    if m.ep ≠ 3 ∨ m.lane 0 ≠ 3 then none
    else if m.lane 1 = 0 ∨ m.lane 1 ≥ atc m.atp then some (s.refuse m)
    else s.whole (.msg n) 507904 false fun t => match t.setEntry m 0 with
      | some s1 => s1.goOn fun s1 => some (s1.reply m [1])
      | none => some (t.refuse m)

/-- APERTURE_UNBIND (R385). -/
def execApertureUnbind (msg : Nat) (s : State) : Host.Outcome State Fault Refusal := .next ((s.unbindNow msg).getD s)

/-! ### Retirement (R49, R51, R110) -/

/-- A task whose waiter on DEPA meets a fault, as where DEPA is retired, is treated as one that faulted without running (R110). -/
def State.deadTask (s : State) (t : Task) (code : BitVec 8) : State :=
  let s1 := s.postTo t.die CtxId.zero (unitFault t.die 8 0 code t.near 2) ⟨t.job, none⟩
  s1.outcome { t with lastf := code } (t.ctx.getD CtxId.zero)

/-- A waiter on a counter of a retired object is released: a null wake with NAME_DEAD charged, the task's end, or word to the peer that the name
has died, with the slack that its waiter registered (R51, R144). -/
def State.releaseWaiter (s : State) (w : Waiter) : State :=
  match w.who with
  | .req r =>
    (match s.req? r with
    | some q => s.deadAcquire q (q.pieces.headD ⟨0, 8, 0, w.at_.dev, w.at_.serial, w.at_.ofs, 0, .ready, [], q.slack, q.late, false⟩)
    | none => s)
  | .task t =>
    (match s.task? t with
    | some k => s.deadTask k codeNameDead
    | none => s)
  | .peer a =>
    match s.hub.peerAccs.find? fun x => x.id == a with
    | none => s
    | some x => s.peerAnswers x (.gone x.req x.piece w.slack) w.slack (w.slack == 0)

/-- An object stands DYING: its descriptor, every translation cache here, a packet of slack 507,904 to each peer that has sent an access to the name
(DESIGN CHOICE, log entry 76), and the waiters on its counters (R49, R51). -/
def State.markDying (s : State) (d : Desc) : State :=
  let w1 := Memory.word s.mem (d.addr + 8)
  let serial := d.serial
  let tiles := s.names.tiles.foldl (fun ts e =>
    Sparse.put Tile.idle ts e.1 { e.2 with cache := e.2.cache.filter fun k => k.serial != serial }) s.names.tiles
  let s1 := { s with
    mem := Memory.setWord s.mem (d.addr + 8) (0b10#2 ++ w1.extractLsb' 0 62)
    names := { s.names with tiles := tiles, dying := s.names.dying ++ [serial],
                            served := s.names.served.filter fun e => e.1 != serial } }
  let s2 := (s.names.served.filter fun e => e.1 == serial).foldl (fun (t : State) e => t.toPeer e.2 (.invalidate serial) 507904 false) s1
  let dead := s.waiters.filter fun w => w.at_.dev == s.names.devNum && w.at_.serial == serial
  dead.foldl State.releaseWaiter
    { s2 with waiters := s2.waiters.filter fun w => !(w.at_.dev == s.names.devNum && w.at_.serial == serial) }

/-- A retire request, accepted only as a RETIRE record sends it (R385). The server of an object's own device retires it, asked by this one,
whose answer waits for it (R28, R49); where it cannot be asked, the RETIRE faults. A name that is no longer live is answered 1, since nothing
is left to retire: DESIGN CHOICE (log entry 60). -/
def State.retireNow (s : State) (n : Nat) : Option State :=
  (s.msg? n).bind fun m =>
    if m.ep ≠ 3 ∨ m.lane 0 ≠ 4 then none
    else if !m.retire then some (s.refuse m)
    else if BitVec.ofNat 16 (m.lane 3) ≠ s.names.devNum then
      s.whole (.msg n) 507904 false fun t =>
        match t.atPeer ⟨BitVec.ofNat 16 (m.lane 3), m.word 1, 0⟩ 1 .retire, m.req.bind t.req? with
        | .ok (_, u), _ => u.goOn fun v => some (v.reply m [1])
        | .error e, some q => some ((t.takeMsg m).reqFault q e q.latch.opL.word)
        | .error _, none => some (t.takeMsg m)
    else match s.live? (m.word 1) with
      | some d => some ((s.markDying d).reply m [1])
      | none => some (s.reply m [1])

/-- OBJECT_RETIRE (R49). -/
def execObjectRetire (msg : Nat) (s : State) : Host.Outcome State Fault Refusal := .next ((s.retireNow msg).getD s)

/-! ### Reclamation (R50) -/

/-- The radix nodes under a node. -/
def radixNodes (m : List Host.Cell) : Nat → Nat → List Nat
  | _, 0 => []
  | node, 1 => [node]
  | node, d + 2 => node :: (List.range 512).flatMap fun i =>
    match tableEntry m node i with
    | some a => radixNodes m a (d + 1)
    | none => []

/-- The addresses of the leaf entries under a node. -/
def radixLeaves (m : List Host.Cell) : Nat → Nat → List Nat
  | _, 0 => []
  | node, 1 => (List.range 512).map fun i => node + 8 * i
  | node, d + 2 => (List.range 512).flatMap fun i =>
    match tableEntry m node i with
    | some a => radixLeaves m a (d + 1)
    | none => []

/-- What one page of an object held goes back: its frame or scratch page, and its blocks (R50). -/
def State.freePage (s : State) (d : Desc) (pte : Nat) : State :=
  let w := Memory.word s.mem pte
  if w = 0 then s
  else if d.cls = 2 then s.markScratch d.homedie (bits w 0 11) false
  else
    let s1 := if pteState w = 0 then s else s.giveFrame (pteFrame w) d.pgsz
    if ptePblk w = 0 then s1
    else
      let units := (List.range (pageBytes d.pgsz / 2 ^ 16)).map fun i => ptePblk w + i
      { s1 with names := { s1.names with blocks := { s1.names.blocks with freed := s1.names.blocks.freed ++ units } } }

/-- An object's storage goes back and its descriptor is removed; its name stays dead (R50). -/
def State.freeObject (s : State) (d : Desc) : State :=
  let s1 := (radixLeaves s.mem d.root d.depth).foldl (fun t a => t.freePage d a) s
  let side := (List.range ((8 * (d.length / pageBytes d.pgsz) + 4095) / 4096)).map fun i => d.side / 4096 + i
  let units := (radixNodes s.mem d.root d.depth).map (fun a => a / 4096) ++ side ++ [d.addr / 4096]
  let slot := do
    let a1 ← tableEntry s.mem s.names.root (bits d.serial 48 16)
    let a2 ← tableEntry s.mem a1 (bits d.serial 32 16)
    let a3 ← tableEntry s.mem a2 (bits d.serial 16 16)
    some (a3 + 8 * bits d.serial 0 16)
  { s1 with
    mem := match slot with
      | some a => Memory.setWord s1.mem a 0
      | none => s1.mem
    names := { s1.names with
      tables := { s1.names.tables with freed := s1.names.tables.freed ++ units }
      owners := s1.names.owners.filter fun o => o.serial != d.serial
      dying := s1.names.dying.filter fun x => x != d.serial } }

/-- An access that has not replied, one that waits for the walk of a page among them, an add, a durable step, a peer's access or check, a unit's
access whose name step has passed or that is parked, or a page move that names an object is in flight (R49, R50). -/
def State.inFlight (s : State) (serial : BitVec 64) : Bool :=
  let own := fun (pte : Nat) => s.names.owners.any fun o => o.pte == pte && o.serial == serial
  (s.reqs.any fun q => q.stage != .done &&
    (((q.stage == .queued || q.stage == .walking) && q.named.contains serial) ||
      q.pieces.any fun p => p.dev == s.names.devNum && p.serial == serial)) ||
  (s.bound.any fun b => b.entry.any fun e => e.dev == s.names.devNum && e.serial == serial) ||
  (s.adds.any fun a => a.dst.dev == s.names.devNum && a.dst.serial == serial) ||
  (s.away.any fun a => a.at_.dev == s.names.devNum && a.at_.serial == serial) ||
  (s.durable.any fun u => u.at_.serial == serial) || (s.hub.peerAccs.any fun a => a.serial == serial) ||
  (s.names.moves.any fun m => own m.pte) || s.names.writebacks.any fun b => own b.pte

/-- Every tile has reported: the object is reclaimed (R50). -/
def State.reclaimNow (s : State) (serial : BitVec 64) : Option State :=
  if s.names.dying.contains serial && !s.inFlight serial then (s.desc? serial).map s.freeObject else none

/-- OBJECT_RECLAIM (R50). -/
def execObjectReclaim (serial : BitVec 64) (s : State) : Host.Outcome State Fault Refusal := .next ((s.reclaimNow serial).getD s)

end Sys2Proof.Machine
end

