-- ==== Sys2Proof/Machine/Servers.lean ====
section
/-! DEFINITION. The loader and the fault handler (R73, R83, R92-R101, R114-R117, R138, R349, R368, R370, R385, R412, R413): submission,
placement, items, freeing, job records, halted contexts. -/

namespace Sys2Proof.Machine

/-! ### The launch header (R92-R95) -/

/-- The widths W0 to W5 of word 1. -/
def headerWidths (w : Word) : List Nat := (List.range 6).map fun k => bits w (6 * k) 6

/-- The bit position of a launch's placement level (R94). -/
def Job.level (j : Job) : Nat := ((headerWidths (j.words.getD 1 0)).take (wordField j.words 1 36 3)).sum

/-- Word 1 holds a reserved value (R92-R94). -/
def badHeader1 (w : Word) : Bool :=
  w.getLsbD 63 || decide (bits w 60 3 > 5) || decide (bits w 50 10 > 512) || w.extractLsb' 42 8 == 0#8 ||
  !slkOk (w.extractLsb' 42 8) || decide (bits w 39 3 > 4) || decide (bits w 36 3 = 7) || decide ((headerWidths w).sum > 64)

/-- The first of words 1, 3, 6 and 7 that holds a reserved value (R96). -/
def badHeader (ws : List Word) : Option Nat :=
  let w := fun k => ws.getD k 0
  if badHeader1 (w 1) then some 1
  else if w 3 = 0 ∨ (w 3).toNat > 2 ^ 48 then some 3
  else if (w 6).getLsbD 0 then some 6
  else if w 7 ≠ 0 then some 7
  else none

/-- WFIRST and WCOUNT. -/
def Job.first (j : Job) : Nat := (j.words.getD 2 0).toNat
def Job.count (j : Job) : Nat := (j.words.getD 3 0).toNat

/-- One past the last identifier before the wrap at 2^64, and the number of items after it (R97). -/
def Job.stopAt (j : Job) : Nat := min (j.first + j.count) (2 ^ 64)
def Job.wrapped (j : Job) : Nat := if j.first + j.count < 2 ^ 64 then 0 else (j.first + j.count) % 2 ^ 64

/-- The number of regions of keys that wrapped items have, and the first key of the others that is not among them. -/
def Job.lowKeys (j : Job) : Nat := if j.wrapped = 0 then 0 else (j.wrapped - 1) / 2 ^ j.level + 1
def Job.highKey (j : Job) : Nat := max (j.first / 2 ^ j.level) j.lowKeys

/-- The number of regions of a launch (R95, R97). -/
def Job.regionCount (j : Job) : Nat := j.lowKeys + ((j.stopAt - 1) / 2 ^ j.level + 1 - j.highKey)

/-- The identifier bits at or above the placement level of region `r`'s items, regions in ascending order of them (R97). -/
def Job.key (j : Job) (r : Nat) : Nat := if r < j.lowKeys then r else j.highKey + (r - j.lowKeys)

/-- The items of region `r` before the wrap: the first j, and how many; and those after it. -/
def Job.runOf (j : Job) (r : Nat) : (Nat × Nat) × (Nat × Nat) :=
  let lo := j.key r * 2 ^ j.level
  let hi := lo + 2 ^ j.level
  let a := max lo j.first
  let b := min hi j.stopAt
  let d := min hi j.wrapped
  ((a - j.first, b - a), (lo + 2 ^ 64 - j.first, d - lo))

/-- Item number `n` of region `r`, in ascending j (R97). -/
def Job.itemAt (j : Job) (r n : Nat) : Option Nat :=
  let ((a, k), (b, m)) := j.runOf r
  if n < k then some (a + n) else if n - k < m then some (b + (n - k)) else none

/-- The work identifier of item j. -/
def Job.wid (j : Job) (item : Nat) : Word := BitVec.ofNat 64 (j.first + item)

/-! ### Submission (R73, R96, R114, R116) -/

/-- The words of a header from word `k` upward, until one must be waited for, or the fault and the word (R96). -/
def State.readHeader (atp : BitVec 128) (a : Word) : State → Nat → Nat → Except (BitVec 8 × Nat) (List Word × State)
  | s, 0, _ => .ok ([], s)
  | s, n + 1, k =>
    match s.unitWord 8 atp (a + BitVec.ofNat 64 (8 * k)) with
    | .error e => .error (e, k)
    | .ok (w, s1) =>
      if s1.pause.isSome then .ok ([], s1)
      else match s1.readHeader atp a n (k + 1) with
        | .error e => .error e
        | .ok (ws, s2) => .ok (w :: ws, s2)

/-- ENTRY, DONE and ARGS are translated, in that order, until one must be waited for: where ENTRY stands, or the fault, its address and the
word (R96). -/
def State.headerPlaces (s : State) (atp : BitVec 128) (ws : List Word) : Except (BitVec 8 × Word × Nat) (Located × State) :=
  let w := fun k => ws.getD k 0
  let args := (List.range 64).countP fun k => (w 6).getLsbD k
  match s.fetchAt 8 atp (w 0) with
  | .error e => .error (e, w 0, 0)
  | .ok (l, s1) =>
    if s1.pause.isSome then .ok (l, s1)
    else match s1.unitLocate 8 atp (w 4) 8 [.c] 8 with
      | .error e => .error (e, w 4, 4)
      | .ok (_, s2) =>
        if s2.pause.isSome || args == 0 then .ok (l, s2)
        else match s2.unitLocate 8 atp (w 5) (8 * args) [.r] 8 with
          | .error e => .error (e, w 5, 5)
          | .ok (_, s3) => .ok (l, s3)

/-- A fault record of the loader, posted to queue 8 (R364, R366). -/
def loaderFault (code node : BitVec 8) (block addr : Word) (info : Nat) : FaultRec :=
  { code := code, iter := 0, node := node, die := 8, px := 0, py := 0, cx := 0, cy := 0, block := block, addr := addr,
    info := BitVec.ofNat 64 info, ending := false }

/-- A launch as it is received (R370). -/
def State.newJob (s : State) (atp : BitVec 128) (submitter : Nat) (near : Word) (ws : List Word) : Job :=
  { id := s.nextId + 1, words := ws, near := near,
    at_ := match s.apertureStep atp near 64 [.r] 8 with | .ok f => f | .error _ => ⟨0, 0, 0⟩,
    atp := atp, submitter := submitter, graph := none, nextRegion := 0, order := s.nextId + 1,
    slack := slkValue ((ws.getD 1 0).extractLsb' 42 8), running := [], finished := 0, cancelled := false, refused := false,
    complete := false, read := false, record := [0, 0, 0, 0], checked := [], again := [] }

/-- A launch joins the loader's, after those it has. -/
def State.addJob (s : State) (j : Job) : State :=
  { s.bump with loader := { s.loader with jobs := s.loader.jobs ++ [j] } }

/-- A launch is refused: its job record counts the refusal, and its fault record is posted (R96, R370). -/
def State.refuseJob (s : State) (j : Job) (f : FaultRec) : State :=
  (s.addJob { j with refused := true, record := [0, 1, 0, f.code.setWidth 64] }).postTo 8 CtxId.zero f ⟨0, none⟩

/-- The blocks that a block's exits and SPAWNs name. -/
def blockSuccs (recs : List RecordWord) : List Word :=
  ((⟨0, 0, recs⟩ : Placed).nodes).filterMap fun ni =>
    match ni.2 with
    | .exitJmp _ b | .exitCall _ b | .spawn _ _ b | .spawnNowait _ _ b => some (blkNear b)
    | _ => none

/-- The blocks reached from some, for a graph whose `.graph` lines the loader was not given, until one must be waited for. -/
def State.reach (s : State) (atp : BitVec 128) : Nat → List Word → List Word → List Word × State
  | 0, _, seen => (seen, s)
  | _, [], seen => (seen, s)
  | fuel + 1, a :: todo, seen =>
    if seen.contains a then s.reach atp fuel todo seen
    else match s.blockAt 8 atp a with
      | .error _ => s.reach atp fuel todo seen
      | .ok (recs, s1) => if s1.pause.isSome then (seen, s1) else s1.reach atp fuel (todo ++ blockSuccs recs) (seen ++ [a])

/-- A number in its place in a rising list. -/
def insertNat (n : Nat) : List Nat → List Nat
  | [] => [n]
  | m :: ms => if n ≤ m then n :: m :: ms else m :: insertNat n ms

/-- The graph of an entry block: as the loader knows it, or the blocks it reaches, in regions of one constellation with an empty port
table (R114). -/
def State.graphFor (s : State) (atp : BitVec 128) (entry : Word) (l : Located) : Graph × State :=
  let f := l.full
  match s.loader.graphs.find? fun g => g.serial == f.serial && g.entry == f.ofs with
  | some g => (g, s)
  | none =>
    let fuel := match l with
      | .here _ d => 129 * (d.length / 2048 + 1)
      | .peer _ => 129
    let r := s.reach atp fuel [entry] []
    ({ serial := f.serial, entry := f.ofs, blocks := (r.1.map BitVec.toNat).foldr insertNat [], size := 1, ports := [], chans := [] }, r.2)

/-- The first refusal among a graph's blocks, in ascending block address: code, node, block; the blocks that pass; and the state, in which the loader
may have to wait for a block (R73). A block that cannot be read refuses nothing, and is neither checked nor placed: DESIGN CHOICE, since no rule
names an outcome (log entry 16). -/
def State.checkGraph (s : State) (atp : BitVec 128) (g : Graph) : Option (BitVec 8 × BitVec 8 × Word) × List Word × State :=
  (g.blocks.foldr insertNat []).foldl (fun acc b =>
    if acc.1.isSome || acc.2.2.pause.isSome then acc
    else match acc.2.2.blockAt 8 atp (BitVec.ofNat 64 b) with
      | .error _ => acc
      | .ok (recs, s1) =>
        let r := s1.checkAt 8 atp g.ports recs
        (r.1.map fun e => (e.1, e.2, BitVec.ofNat 64 b), acc.2.1 ++ [BitVec.ofNat 64 b], r.2)) (none, [], s)

/-- A die carries no work, its engines with it (R21, R116, R395). -/
def State.dieOut (s : State) (die : Nat) : Bool := s.mgmt.degraded.getLsbD die

/-- The PE mask of a constellation of a die (R24). -/
def State.peMask (s : State) (die con : Nat) : BitVec 16 := Sparse.get 0#16 s.faults.pmask (die * 64 + con)

/-- The constellations of a die that a region may have: unmasked, with at least 8 PEs (R114). -/
def State.usable (s : State) (die : Nat) : List Nat :=
  if s.dieOut die then []
  else (List.range 64).filter fun i => !((s.faults.cmask.getD die 0).getLsbD i) && decide ((goodPes (s.peMask die i)).length ≥ 8)

/-- The refusal of a graph's regions on every die (R114, R116). -/
def State.checkSize (s : State) (g : Graph) : Option (BitVec 8) :=
  if !g.ports.isEmpty && (List.range 8).all s.dieOut then some codeNoport
  else if (List.range 8).all fun d => decide ((s.usable d).length < g.size) then some codeIllrec
  else none

/-- Steps 4 and 5 of R96 for a launch whose header passes: its graph's blocks and its regions' size are checked. The record of node 0xFF has BLOCK,
COLOUR and GEN 0, as R364's row has it, beside R73's words (DESIGN CHOICE, log entry 80). -/
def State.submitGraph (s : State) (j : Job) (g : Graph) : State :=
  match s.checkGraph j.atp g with
  | (some (code, node, block), _, s1) =>
    s1.refuseJob j (loaderFault code node (if node = 0xFF then 0 else block) 0 0)
  | (none, checked, s1) =>
    match s1.checkSize g with
    | some code => s1.refuseJob j (loaderFault code 0xFE 0 0 0)
    | none => s1.addJob { j with graph := some g, checked := checked }

/-- The loader processes a launch, up to its placement, or until it must wait (R96); whether its steps 1 to 3 pass. -/
def State.submit (s : State) (atp : BitVec 128) (submitter : Nat) (near : Word) : State × Bool :=
  match s.readHeader atp near 8 0 with
  | .error (e, k) =>
    (s.refuseJob (s.newJob atp submitter near []) (loaderFault e 0xFD 0 (near + BitVec.ofNat 64 (8 * k)) k), false)
  | .ok (ws, s1) =>
    let j := s1.newJob atp submitter near ws
    if s1.pause.isSome then (s1, false)
    else match badHeader ws with
      | some k => (s1.refuseJob j (loaderFault codeIllrec 0xFD 0 0 k), false)
      | none =>
        match s1.headerPlaces atp ws with
        | .error (e, a, k) => (s1.refuseJob j (loaderFault e 0xFD 0 a k), false)
        | .ok (l, s2) =>
          if s2.pause.isSome then (s2, false)
          else
            let g := s2.graphFor atp (ws.getD 0 0) l
            (if g.2.pause.isSome then g.2 else g.2.submitGraph j g.1, true)

/-- The loader handles a submission, or a request whose code it does not know (R96, R385). -/
def State.submitNow (s : State) (n : Nat) : Option State :=
  (s.msg? n).bind fun m =>
    if m.ep ≠ 4 then none
    else if m.unknown [1, 2, 3, 4] then some (s.refuse m)
    else if m.lane 0 ≠ 1 then none
    else s.whole (.msg n) 507904 false fun t =>
      let r := t.submit m.atp m.sender (m.word 1)
      r.1.goOn fun u => some (u.reply m [if r.2 then 1 else 0])

/-- LAUNCH_SUBMIT (R96). -/
def execLaunchSubmit (msg : Nat) (s : State) : Host.Outcome State Fault Refusal := .next ((s.submitNow msg).getD s)

/-! ### Placement (R98, R102, R114-R116, R138, R168, R169, R200, R209, R212, R412) -/

/-- A launch waits for a region. -/
def Job.waiting (j : Job) : Bool := !j.refused && !j.complete && j.graph.isSome && (decide (j.nextRegion < j.regionCount) || !j.again.isEmpty)

/-- The order in which waiting launches are served (R110, R114). -/
def Job.before (a b : Job) : Bool :=
  if a.prio ≠ b.prio then a.prio < b.prio
  else if a.slack ≠ b.slack then a.slack < b.slack
  else if a.order ≠ b.order then a.order < b.order
  else a.near.toNat < b.near.toNat

/-- A launch some of whose regions are placed and some not: it is served to its end before another begins (R412; log entry 61). -/
def Job.begun (j : Job) : Bool := decide (0 < j.nextRegion) && decide (j.nextRegion < j.regionCount)

/-- The launch that is served next. -/
def State.nextLaunch (s : State) : Option Job :=
  let js := s.loader.jobs.filter Job.waiting
  (firstBy Job.before (js.filter Job.begun)).or (firstBy Job.before js)

/-- An island or a lattice that a region holds (R209). -/
def heldEngine (e : EngPort) : Bool :=
  match e with
  | .island _ | .lattice => true
  | _ => false

/-- The PE masks of the constellations given, as placement finds them (R358). -/
def State.masksFor (s : State) (die : Nat) (cons : List Nat) : Sparse (BitVec 16) :=
  cons.foldl (fun t con => Sparse.put 0#16 t con (s.peMask die con)) []

/-- A die can take a region of a graph now: k free constellations, every island and lattice it binds free, and room for the blocks given in
its PEs' record stores (R17, R114, R209; log entry 55). -/
def State.roomOn (s : State) (g : Graph) (blocks : List (Word × List RecordWord)) (die : Nat) : Option (List Nat) :=
  let here := s.loader.regions.filter fun r => r.die == die && r.holding
  let free := (s.usable die).filter fun i => !(here.any fun r => r.cons.contains i)
  let clash := g.ports.any fun p => heldEngine p.2 && here.any fun r => r.ports.any fun q => q.2 == p.2
  let cons := free.take g.size
  if clash || decide (free.length < g.size) || !(Region.fresh 0 0 0 0 die cons (s.masksFor die cons) [] [] 0).holds blocks then none
  else some cons

/-- The first die that can take a region, with its constellations. -/
def State.roomFor (s : State) (g : Graph) (blocks : List (Word × List RecordWord)) : Option (Nat × List Nat) :=
  (List.range 8).findSome? fun d => (s.roomOn g blocks d).map fun cs => (d, cs)

/-- A region's spill object: of class S where the die's tiles hold 16 MiB of free pages, otherwise of class V with every page filled in
the die's DRAM; H has no tiles (R138). -/
def State.spillObject (s : State) (die : Nat) : Option (State × BitVec 64) :=
  let o : ObjectSpec := ⟨2, 0, die, 0b00011, 2 ^ 24⟩
  if die < 8 ∧ (s.freeScratch die).length ≥ 256 then s.createObject o
  else (s.createObject { o with cls := 0, homedie := 0 }).bind fun (s1, serial) =>
    (s1.live? serial).bind fun d =>
      (State.forPages (fun t p => match t.residentNow die d (p * 2 ^ 16) true with
        | .ok r => some r.2
        | .error _ => none) s1 (List.range 256)).map fun s2 => (s2, serial)

/-- An engine bound into a region: an island or lattice last bound to another job is zeroed first (R200, R212). -/
def State.bindEngine (s : State) (die job : Nat) (e : EngPort) : State :=
  match e with
  | .island k => s.updIsland (die * 18 + k) fun u =>
    if u.job = some job then u else { u with acc := [], job := some job }
  | .lattice => s.updLattice die fun l =>
    if l.job = some job then l
    else { l with planes := [], outs := [], table0 := [], table1 := [], slots := [], selected := none, job := some job }
  | _ => s

/-- The channel entries of a new region: every entry reset, those of the graph's `.channel` lines set in each constellation's copy
(R83, R168). -/
def newChans (cons : List Nat) (cs : List (Nat × BitVec 16)) : Sparse (BitVec 16) :=
  cons.foldl (fun t con => cs.foldl (fun u e => if e.1 = 0 then u else Sparse.put 0x0140#16 u (con * 32 + e.1) e.2) t) []

/-- The blocks of a graph as they are read for placement, until one must be waited for; one that cannot be read is left out (R96). They are read
again here, after the check at submission, and what is read is placed: DESIGN CHOICE, since R52 fixes a record only as it is placed (log
entry 16). -/
def State.graphBlocks (s : State) (atp : BitVec 128) (blocks : List Nat) : List (Word × List RecordWord) × State :=
  blocks.foldl (fun acc b =>
    if acc.2.pause.isSome then acc
    else match acc.2.blockAt 8 atp (BitVec.ofNat 64 b) with
      | .ok (recs, t) => (acc.1 ++ [(BitVec.ofNat 64 b, recs)], t)
      | .error _ => acc) ([], s)

/-- The lowest region number that no placed region holds (R98). -/
def State.freeNumber (s : State) : Option Nat :=
  (List.range 65536).find? fun n => !(s.loader.regions.any fun r => r.num == n)

/-- A region of a launch is placed on a die's constellations, with its blocks: one to be placed again, or the next by index (R97, R98, R114,
R115, R381). -/
def State.placeRegion (s : State) (j : Job) (g : Graph) (num die : Nat) (cons : List Nat) (blocks : List (Word × List RecordWord)) :
    Option State :=
  let old := j.again.head?
  let r := fun (spill : BitVec 64) => Region.fresh num ((old.map fun e => e.1).getD j.nextRegion) j.id ((old.map fun e => e.2).getD 0) die cons
    (s.masksFor die cons) g.ports (newChans cons g.chans) spill
  (s.spillObject die).map fun (s1, spill) =>
    let s2 := { s1 with loader := { s1.loader with regions := s1.loader.regions ++ [r spill] } }
    let s3 := g.ports.foldl (fun t p => t.bindEngine die j.id p.2) s2
    (blocks.foldl (fun t b => t.placeBlock num b.1 b.2) s3).updJob j.id fun k =>
      { k with again := k.again.drop 1, nextRegion := if old.isSome then k.nextRegion else k.nextRegion + 1 }

/-- The next region of a launch is placed, once its spill object has its frames (R45). None while no die can take it, or another launch is served before: a launch that waits so holds back
every launch after it in the order of R110, even one that a die could take: DESIGN CHOICE, since R114 names no passing over (log entry 61). -/
def State.placeNow (s : State) (job : Nat) : Option State :=
  (s.job? job).bind fun j => j.graph.bind fun g =>
    if (s.nextLaunch.map fun k => k.id) ≠ some j.id then none
    else s.whole (.job job) 507904 false fun t =>
      let b := t.graphBlocks j.atp g.blocks
      b.2.goOn fun u => match u.roomFor g b.1, u.freeNumber with
        | some (die, cons), some num => (u.placeRegion j g num die cons b.1).or (some (u.pauseFor .frame))
        | _, _ => none

/-- REGION_PLACE (R114). -/
def execRegionPlace (job : Nat) (s : State) : Host.Outcome State Fault Refusal := .next ((s.placeNow job).getD s)

/-! ### Items (R97, R99, R100) -/

/-- The G registers of a starting item: the argument words in ascending register order, read once (R99). A word that can no longer be
read is a value the spec leaves open (log entry 23). -/
def State.loadArgs (s : State) (die : Nat) (j : Job) : List Nat → Nat → State × Sparse Word
  | [], _ => (s, [])
  | n :: ns, k =>
    if s.pause.isSome then (s, [])
    else
      let (w, s1) := match s.unitWord die j.atp (j.words.getD 5 0 + BitVec.ofNat 64 (8 * k)) with
        | .ok r => r
        | .error _ => s.free
      let (s2, rest) := s1.loadArgs die j ns (k + 1)
      (s2, Sparse.put 0 rest n w)

/-- An item starts under a drawn colour (R99). -/
def State.startAs (s : State) (j : Job) (g : Region) (item : Nat) (c : CtxId) : State :=
  let regs := (List.range 64).filter fun n => (j.words.getD 6 0).getLsbD n
  let (s2, gs) := s.loadArgs g.die j regs 0
  let env : Env :=
    { job := j.id, item := item, wid := j.wid item, atp := j.atp, msq := j.msq, dslk := j.dslk, super := false,
      endpoint := s2.newEndpoint, origin := .item item, task := none, anc := [] }
  ((s2.bump.addCtx (Ctx.fresh c env gs (j.words.getD 0 0))).updRegion g.num fun h => { h with started := h.started + 1 }).updJob
    j.id fun k => { k with running := k.running ++ [item] }

/-- The next item of a region that the loader is not freeing, on a die that works, starts as soon as a colour is free (R21, R97, R99). -/
def State.startItem (s : State) (job region : Nat) : Option State :=
  match s.job? job, s.region? region with
  | some j, some g =>
    if g.job ≠ job ∨ j.cancelled ∨ !s.dieWorks g.die ∨ !g.holding then none
    else (j.itemAt g.index g.started).bind fun item =>
      s.whole (.region region) 507904 false fun t => (t.drawColour region).map fun (s1, c) => s1.startAs j g item c
  | _, _ => none

/-- ITEM_START (R97). -/
def execItemStart (job region : Nat) (s : State) : Host.Outcome State Fault Refusal := .next ((s.startItem job region).getD s)

/-- A context or a task of an item is left (R100). -/
def State.itemBusy (s : State) (job item : Nat) : Bool :=
  (s.ctxs.any fun x => x.env.job == job && x.env.item == item && x.env.origin != .nocturne) ||
  (s.loader.saves.any fun k => k.env.job == job && k.env.item == item && k.env.origin != .nocturne) ||
  s.tasks.any fun t => t.job == job && t.item == item

/-- The number of items of a job that have started. -/
def State.startedOf (s : State) (job : Nat) : Nat :=
  ((s.regionsOf job).map fun g => g.started).sum + (((s.job? job).map fun j => (j.again.map fun e => e.2).sum).getD 0)

/-- A started item whose contexts and tasks have all come to their ends is finished; so is one that a CANCEL keeps from starting (R100,
R349). -/
def State.itemDone (s : State) (j : Job) (item : Nat) : Bool :=
  if j.running.contains item then !s.itemBusy j.id item
  else j.cancelled && decide (item < j.count) && decide (j.finished + j.running.length < j.count) &&
    decide (j.finished + j.running.length - s.startedOf j.id < j.count - s.startedOf j.id)

/-- The item's add to DONE, with the launch's slack and scope (R100). A DONE that no longer translates is charged to the job record (log
entry 23). -/
def State.finishItem (s : State) (job item : Nat) : Option State :=
  (s.job? job).bind fun j =>
    if !s.itemDone j item then none
    else
      s.whole (.job job) (slkValue j.dslk) false fun t =>
        let s1 := match t.unitAdd 8 j.atp (j.words.getD 4 0) 1 j.dscope (slkValue j.dslk) false (.item job item) with
          | .ok u => u
          | .error e => t.chargeJob job e
        some (s1.updJob job fun k =>
          { k with running := k.running.erase item, finished := k.finished + 1, complete := decide (k.finished + 1 = k.count) })

/-- ITEM_FINISH (R100). -/
def execItemFinish (job item : Nat) (s : State) : Host.Outcome State Fault Refusal := .next ((s.finishItem job item).getD s)

/-! ### Freeing regions (R117, R378, R381, R413) -/

/-- The loader begins to free a region: its spill object is retired, and the marker is injected, behind which its nodes take new records (R117,
R138); the marker's slack is 507,904 (DESIGN CHOICE, log entry 76). Its saved contexts' records stand in memory alone. -/
def State.freeRegion (s : State) (g : Region) : State :=
  let s1 := match s.live? g.spill with
    | some d => s.markDying d
    | none => s
  s1.injectMarker g ⟨false, true, 0, 0, [], 0, 0, 507904, false⟩

/-- The bad-node registers mask a node of a region that they did not mask when it was placed (R358, R381). -/
def State.affected (s : State) (g : Region) : Bool :=
  g.cons.any fun con => (s.faults.cmask.getD g.die 0).getLsbD con || s.peMask g.die con != Sparse.get 0#16 g.bad con

/-- The regions of a launch whose items are all finished are freed; of one that still runs, those that a bad node affects and that nothing is
left in, once their contexts have been saved (R117, R381). -/
def State.freeRegions (s : State) (job : Nat) : Option State :=
  (s.job? job).bind fun j =>
    let gs := (s.regionsOf job).filter fun g => g.dusk.isNone && !s.regionBusy g.num && (j.complete || s.affected g)
    if gs.isEmpty || (j.complete && gs.length != (s.regionsOf job).length) then none
    else some (gs.foldl State.freeRegion s)

/-- REGION_FREE (R117). -/
def execRegionFree (job : Nat) (s : State) : Host.Outcome State Fault Refusal := .next ((s.freeRegions job).getD s)

/-! ### Job records and regions by message (R98, R370, R385) -/

/-- The launch that a request names: the oldest submitted with that header and table whose record the loader keeps (R370). -/
def State.namedJob (s : State) (m : Msg) : Option Job :=
  s.loader.jobs.find? fun j => !j.read && j.near == m.word 1 && j.atp == m.atp

/-- A job record has been read: a refused launch's, and one read with DONE complete, is kept no longer, the launch itself until its regions are
gone (R370). -/
def State.recordRead (s : State) (j : Job) : State :=
  if j.refused || (j.complete && (s.regionsOf j.id).isEmpty) then
    { s with loader := { s.loader with jobs := s.loader.jobs.filter fun k => k.id != j.id } }
  else if j.complete then s.updJob j.id fun k => { k with read := true }
  else s

/-- The loader answers with a job's record (R370, R385). -/
def State.recordNow (s : State) (n : Nat) : Option State :=
  (s.msg? n).bind fun m =>
    if m.ep ≠ 4 ∨ m.lane 0 ≠ 2 then none
    else match s.namedJob m with
      | none => some (s.refuse m)
      | some j =>
        let lanes := j.record.flatMap fun w => [bits w 0 32, bits w 32 32]
        some ((s.reply m (1 :: lanes)).recordRead j)

/-- JOB_RECORD_READ (R370). -/
def execJobRecordRead (msg : Nat) (s : State) : Host.Outcome State Fault Refusal := .next ((s.recordNow msg).getD s)

/-- The loader lists a job's regions from index i: their numbers and dies (R98, R385). -/
def State.listNow (s : State) (n : Nat) : Option State :=
  (s.msg? n).bind fun m =>
    if m.ep ≠ 4 ∨ m.lane 0 ≠ 4 then none
    else match s.namedJob m with
      | none => some (s.refuse m)
      | some j =>
        let gs := s.regionsOf j.id
        let lanes := (List.range 14).map fun k => match gs.find? fun g => g.index == m.lane 3 + k with
          | some g => g.num + 65536 * g.die
          | none => 0
        some (s.reply m (1 :: gs.length :: lanes))

/-- REGION_LIST (R98). -/
def execRegionList (msg : Nat) (s : State) : Host.Outcome State Fault Refusal := .next ((s.listNow msg).getD s)

/-! ### Contexts on hub cores (R19, R382, R384) -/

/-- Nocturne's region on a hub core: that of the contexts it has started there (log entry 62). -/
def State.coreRegion (s : State) (core : Nat) : Option Region := s.loader.regions.find? fun g => g.die == 8 && g.cons == [core]

/-- Nocturne places its servers at bring-up: a region on each of cores 0 to 4, whose spill object is made when the server's context starts (R384, R400;
log entry 62). -/
def State.placeServers (s : State) : State :=
  [0, 1, 2, 3, 4].foldl (fun t core => match t.freeNumber with
    | some num => { t with loader := { t.loader with regions := t.loader.regions ++ [Region.fresh num 0 0 0 8 [core] [] [] [] 0] } }
    | none => t) s

/-- A context that Nocturne starts on a core: on cores 0 to 4 a server, with supervisor privilege, one to a core, on the others a user context
(R382, R384; log entry 62). None where the core does not exist or is taken, or no colour, number or storage is free. -/
def State.hubStart (s : State) (core : Nat) (block : Word) (atp : BitVec 128) (dslk : BitVec 8) (gs : Sparse Word) : Option State :=
  let super := decide (core < 5)
  if core ≥ 64 ∨ !s.mgmt.mainUp then none
  else
    let placed : Option (State × Nat) := match s.coreRegion core with
      | some g =>
        if super && !((s.ctxsIn g.num).isEmpty && g.saved.isEmpty) then none
        else if (s.live? g.spill).isSome then some (s, g.num)
        else (s.spillObject 8).map fun (s1, spill) => (s1.updRegion g.num fun h => { h with spill := spill }, g.num)
      | none => (s.freeNumber).bind fun num => (s.spillObject 8).map fun (s1, spill) =>
          ({ s1 with loader := { s1.loader with regions := s1.loader.regions ++ [Region.fresh num 0 0 0 8 [core] [] [] [] spill] } }, num)
    placed.bind fun (s1, num) => (s1.drawColour num).map fun (s2, c) =>
      let env : Env :=
        { job := 0, item := 0, wid := 0, atp := atp, msq := 0, dslk := dslk, super := super,
          endpoint := if super then core + 1 else s2.newEndpoint, origin := .nocturne, task := none, anc := [] }
      s2.bump.addCtx (Ctx.fresh c env gs block)

/-! ### Halted contexts (R367, R368) -/

/-- A context with that endpoint runs, is halted or is saved, or a host client has it. -/
def State.endpointStands (s : State) (e : Nat) : Bool := s.endpointFor true e

/-- The context that a record in a fault queue halts, while it is halted. -/
def State.halting (s : State) (n : Note) : Option Ctx := (n.halts.bind s.ctx?).filter fun x => x.halt.isSome

/-- The loader reads the oldest record of a fault queue: it updates the job record, and where the record halts a context it reports that to the
submitter of the context's job, or ends the context whose submitter no longer exists (R368, R370). -/
def State.readFault (s : State) (q : Nat) : Option State :=
  match s.faults.queues.getD q [], s.faults.notes.getD q [] with
  | r :: _, n :: _ =>
    let s1 := ({ s with faults := { s.faults with
      queues := updAt s.faults.queues q (fun l => l.drop 1), notes := updAt s.faults.notes q fun l => l.drop 1 } } : State).chargeJob n.job
        (r.extractLsb' 56 8)
    match s.halting n with
    | none => some s1
    | some x =>
      match s.job? x.env.job with
      | none => some s1
      | some j =>
        if !s.endpointStands j.submitter then some (s1.endCtx x.id .null none)
        else some (s1.enqueueMsg j.submitter 4 0 none false
          (BitVec.ofNat 512 (r.toNat + 2 ^ 256 * (x.id.region + 2 ^ 32 * x.env.endpoint))))
  | _, _ => none

/-- The loader reads records of a queue up to one that halts the context given; none where one that halts another comes before. -/
def State.readUntil (s : State) (q : Nat) (c : CtxId) : Nat → Option State
  | 0 => none
  | k + 1 =>
    match s.faults.notes.getD q [] with
    | [] => none
    | n :: _ =>
      match (s.halting n).map fun x => x.id with
      | none => (s.readFault q).bind fun t => t.readUntil q c k
      | some d => if d = c then s.readFault q else none

/-- A halted context whose record the loader has read, and whose submitter has ceased to exist since (R368). -/
def State.forsaken (s : State) (c : CtxId) : Bool :=
  (s.faults.notes.all fun l => l.all fun n => n.halts != some c) &&
  ((s.ctx? c).filter fun x => x.halt.isSome).any fun x => (s.job? x.env.job).any fun j => !s.endpointStands j.submitter

/-- The loader reads its records up to that of a context that one halted, and reports it; a context whose submitter has gone after that is ended
(R368). -/
def State.reportHalt (s : State) (c : CtxId) : Option State :=
  if s.forsaken c then some (s.endCtx c .null none)
  else s.readUntil (s.dieOf c) c (s.faults.notes.getD (s.dieOf c) []).length

/-- HALT_REPORT (R368). -/
def execHaltReport (c : CtxId) (s : State) : Host.Outcome State Fault Refusal := .next ((s.reportHalt c).getD s)

/-- The loader saves a halted context with CTXSV and resumes it with CTXLD in the same region (R356, R368); none while no slot is free
for it. -/
def State.resumeHalted (s : State) (x : Ctx) : Option State :=
  let f : FullAddr := ⟨s.names.devNum, 0, 0⟩
  let bs := saveBytes s x
  let s1 := s.keepSaved x f
  (s1.region? x.id.region).bind fun g => (s1.drawColour g.num).bind fun (s2, c) =>
    (s2.restoreCtx c g f bs).bind fun s3 => s3.goOn fun s3 => some (s3.unsave f c x.env.task)

/-- The submitter's action on a halted context; a resumption waits for the registers that CADDRs have left pending (R224, R368, R385). -/
def State.actNow (s : State) (n : Nat) : Option State :=
  (s.msg? n).bind fun m =>
    if m.ep ≠ 4 ∨ m.lane 0 ≠ 3 then none
    else
      let c : CtxId := ⟨bits m.body 64 16, bits m.body 32 10, bits m.body 42 6⟩
      match s.ctx? c with
      | none => some (s.refuse m)
      | some x =>
        let mine : Bool := match s.job? x.env.job with
          | some j => j.submitter == m.sender
          | none => false
        if !mine || x.halt.isNone then some (s.refuse m)
        else if m.lane 3 = 2 then some ((s.endCtx c .null none).reply m [1])
        else if m.lane 3 = 1 then
          (match s.regionOf c with
          | some g =>
            if !x.pending.isEmpty then none
            else if g.saved.length ≥ 1024 then some (s.refuse m)
            else s.whole (.msg n) 507904 false fun t => (t.resumeHalted x).bind fun u => u.goOn fun v => some (v.reply m [1])
          | none => some (s.refuse m))
        else some (s.refuse m)

/-- HALT_ACTION (R368). -/
def execHaltAction (msg : Nat) (s : State) : Host.Outcome State Fault Refusal := .next ((s.actNow msg).getD s)

end Sys2Proof.Machine
end

