-- ==== Sys2Proof/Machine/Hosts.lean ====
section
/-! DEFINITION. The host-client links (R386-R390): window accesses, region ownership, counter windows, BAR0. -/

namespace Sys2Proof.Machine

/-! ### Links and windows (R387) -/

/-- The link changed by `f`. -/
def State.updLink (s : State) (n : Nat) (f : HostLink → HostLink) : State :=
  { s with hub := { s.hub with links := updAt s.hub.links n f } }

/-- A host access refused: ERRCNT + 1 (R388). -/
def State.hostRefused (s : State) (n : Nat) : State := s.updLink n fun l => { l with errcnt := l.errcnt + 1 }

/-- The window and the region of a BAR2 offset (R387, R389). -/
def windowOf (off : Nat) : Nat := off / 2 ^ 40
def regionAt (off : Nat) : Nat := off % 2 ^ 40 / 2 ^ 21

/-- The near address that a BAR2 offset reaches (R387). -/
def hostNear (off : Nat) : Word := BitVec.ofNat 64 (windowOf off + 2) <<< 44 ||| BitVec.ofNat 64 (off % 2 ^ 40)

/-- WKIND of a window: 1 for a counter window. -/
def HostLink.kind (l : HostLink) (window : Nat) : BitVec 2 := Sparse.get 0#2 l.wkind window

/-- The alignment that R177 asks of a host access: of 1, 2, 4, 8 or 128 bytes its own size, of any other none; R177's table has no row for one
(DESIGN CHOICE, log entry 85). -/
def hostAlign (size : Nat) : Nat := if size = 1 ∨ size = 2 ∨ size = 4 ∨ size = 8 ∨ size = 128 then size else 1

/-- The answer to a host read, sent on its link. -/
def State.hostAnswer (s : State) (n : Nat) (bs : List Byte) : State := s.updLink n fun l => { l with answers := l.answers ++ [bs] }

/-- A host read that fails returns all ones and counts (R387). -/
def State.hostReadFails (s : State) (n size : Nat) : State := (s.hostRefused n).hostAnswer n (List.replicate size 0xFF#8)

/-! ### Ownership (R389) -/

/-- The owner state of a region: DEVICE, with no hold, where none is kept. -/
def State.owner (s : State) (link window region : Nat) : Owner :=
  (s.hub.owners.find? fun o => o.link == link && o.window == window && o.region == region).getD
    ⟨link, window, region, false, false, false⟩

/-- The owner state written; a plain DEVICE region is not kept. -/
def State.setOwner (s : State) (o : Owner) : State :=
  let rest := s.hub.owners.filter fun p => !(p.link == o.link && p.window == o.window && p.region == o.region)
  let own := if o.host || o.held || o.snooping then rest ++ [o] else rest
  { s with hub := { s.hub with owners := own } }

/-- A write that its home holds stands in the region: the host waits for it to be performed (R389). -/
def State.heldInRegion (s : State) (link window region : Nat) : Bool :=
  s.reqs.any fun q => q.instr.writes && q.go && q.pieces.any fun p =>
    p.dev == s.names.devNum && p.stage != .done && s.inWindow p.serial p.ofs link window region

/-- The window regions that an access of `size` bytes at a BAR2 offset touches, each by window and region (R389). -/
def regionsAt (off size : Nat) : List (Nat × Nat) :=
  let a := off / 2 ^ 21
  let b := (off + size - 1) / 2 ^ 21
  (List.range (b + 1 - a)).map fun k => ((a + k) / 2 ^ 19, (a + k) % 2 ^ 19)

/-- The host's access takes a region: at once where the host owns it or its port's CXL mode is off, after the held writes where the device owns it
and no hold runs; otherwise it waits (R386, R389). -/
def State.takeRegion (s : State) (link : Nat) (wr : Nat × Nat) : Option State :=
  let o := s.owner link wr.1 wr.2
  if !(s.hub.links[link]?).any fun l => l.cxl then some s
  else if o.host then (if o.snooping then none else some s)
  else if o.held || s.heldInRegion link wr.1 wr.2 then none
  else some (s.setOwner { o with host := true, held := true })

/-- The host's access takes every region that it touches (R389). -/
def State.takeRegions (s : State) (link off size : Nat) : Option State :=
  (regionsAt off size).foldl (fun t wr => t.bind fun u => u.takeRegion link wr) (some s)

/-- A host access acts whole, on its link (R387; log entry 13). -/
def State.onLink (s : State) (n : Nat) (f : State → Option State) : Option State := s.whole (.link n) 507904 false f

/-- What an access does once its regions are the host's; it waits until they are (R389). -/
def State.inRegions (s : State) (n off size : Nat) (f : State → State) : State :=
  if s.pause.isSome then s else ((s.takeRegions n off size).map f).getD (s.pauseFor .held)

/-! ### Counter windows (R390) -/

/-- A host read in a counter window: a CPOLL at domain scope of an aligned counter, here or at a peer (R28, R390). It waits for a durable step there
to be observable (R253). -/
def State.counterRead (s : State) (n off size : Nat) (l : HostLink) : State :=
  if size ≠ 8 then s.hostReadFails n size
  else match s.unitLocate 8 l.atp (hostNear off) 8 [.c] 8 with
    | .error _ => s.hostReadFails n 8
    | .ok (loc, s1) => s1.inRegions n off 8 fun u =>
      match State.readBy 64 u 8 .peek loc 8 with
      | .ok (bs, v) => v.hostAnswer n bs
      | .error _ => u.hostReadFails n 8

/-- A host write in a counter window: a CADD with release at domain scope, of an aligned counter and an amount below 2^48 (R390); its slack is
507,904, which R144's table does not list (DESIGN CHOICE, log entry 76). -/
def State.counterWrite (s : State) (n off size : Nat) (v : BitVec 64) (l : HostLink) : State :=
  if size ≠ 8 ∨ v.toNat ≥ 2 ^ 48 then s.hostRefused n
  else match s.unitAdd 8 l.atp (hostNear off) v .domain 507904 false (.host n) with
    | .error _ => s.hostRefused n
    | .ok s1 => s1.inRegions n off 8 id

/-! ### Data windows (R387, R389) -/

/-- A host read of a data window is translated, then performed; one that fails is refused. -/
def State.dataRead (s : State) (n off size : Nat) (l : HostLink) : State :=
  match s.unitLocate 8 l.atp (hostNear off) size [.r] (hostAlign size) with
  | .error _ => s.hostReadFails n size
  | .ok (loc, s1) => s1.inRegions n off size fun u =>
    match u.readAt 8 loc size with
    | .ok (bs, v) => v.hostAnswer n bs
    | .error _ => u.hostReadFails n size

/-- A host write of a data window (R387). -/
def State.dataWrite (s : State) (n off size : Nat) (l : HostLink) (bs : List Byte) : State :=
  match s.unitLocate 8 l.atp (hostNear off) size [.w] (hostAlign size) with
  | .error _ => s.hostRefused n
  | .ok (loc, s1) => s1.inRegions n off size fun u =>
    match u.writeAt 8 loc bs with
    | .ok v => v
    | .error _ => u.hostRefused n

/-! ### Accesses in the order of their link (R387, R389, R390) -/

/-- An access to a window: in a data window as R387 gives, in a counter window as R390 gives. -/
def State.hostPerform (s : State) (n : Nat) (l : HostLink) (a : HostAcc) : State :=
  if l.kind (windowOf a.off) = 1#2 then
    match a.write with
    | none => s.counterRead n a.off a.size l
    | some bs => s.counterWrite n a.off a.size (leWord bs) l
  else match a.write with
    | none => s.dataRead n a.off a.size l
    | some bs => s.dataWrite n a.off a.size l bs

/-- The oldest access of a link is performed, as soon as it need not wait. -/
def State.hostNext (s : State) (n : Nat) : Option State :=
  match s.hub.links[n]? with
  | none => none
  | some l => match l.accesses with
    | [] => none
    | a :: rest => s.onLink n fun t => some ((t.hostPerform n l a).updLink n fun k => { k with accesses := rest })

/-- An access of a host arrives: it stands behind those of its link that wait, and is performed where nothing keeps it (R389, R390). -/
def State.windowAccess (s : State) (n off size : Nat) (write : Option (List Byte)) : Option State :=
  if (s.hub.links[n]?).isNone ∨ off ≥ 2 ^ 46 ∨ size = 0 ∨ (write.map List.length).getD size ≠ size then none
  else
    let t := s.updLink n fun l => { l with accesses := l.accesses ++ [⟨off, size, write⟩] }
    some ((t.hostNext n).getD t)

/-- HOST_WINDOW_ACCESS (R387). -/
def execHostWindowAccess (link off size : Nat) (write : Option (List Byte)) (s : State) : Host.Outcome State Fault Refusal :=
  .next ((s.windowAccess link off size write).getD s)

/-- An access to a counter window arrives (R390). -/
def State.counterAccess (s : State) (n off size : Nat) (write : Option (List Byte)) : Option State :=
  if (s.hub.links[n]?).any fun l => l.kind (windowOf off) == 1#2 then s.windowAccess n off size write else none

/-- HOST_COUNTER_READ (R390). -/
def execHostCounterRead (link off size : Nat) (s : State) : Host.Outcome State Fault Refusal :=
  .next ((s.counterAccess link off size none).getD s)

/-- HOST_COUNTER_WRITE (R390). -/
def execHostCounterWrite (link off size : Nat) (v : BitVec 64) (s : State) : Host.Outcome State Fault Refusal :=
  .next ((s.counterAccess link off size (some (toBytesLE size v.toNat))).getD s)

/-! ### Back-invalidate snoops (R389) -/

/-- An access of the device waits for a region that the host owns. -/
def State.deviceWaits (s : State) (o : Owner) : Bool :=
  s.hub.wanted.contains (o.link, o.window, o.region) ||
  (s.reqs.any fun q => q.stage == .homes && q.pieces.any fun p =>
    p.dev == s.names.devNum && p.stage == .ready && s.inWindow p.serial p.ofs o.link o.window o.region) ||
  (s.hub.peerAccs.any fun a => s.inWindow a.serial a.ofs o.link o.window o.region) ||
  s.adds.any fun a => a.dst.dev == s.names.devNum && s.inWindow a.dst.serial a.dst.ofs o.link o.window o.region

/-- The home of a host-owned region that a device access waits for sends its snoops, once the hold is over (R389). -/
def State.snoop (s : State) (link window region : Nat) : Option State :=
  let o := s.owner link window region
  if o.host && !o.held && !o.snooping && s.deviceWaits o then some (s.setOwner { o with snooping := true }) else none

/-- BACK_INVALIDATE (R389). -/
def execBackInvalidate (link window region : Nat) (s : State) : Host.Outcome State Fault Refusal :=
  .next ((s.snoop link window region).getD s)

/-- One byte of the host's write-backs, by its offset in the region; one whose translation fails is discarded and counts (R387). -/
def State.writeBackByte (link window region : Nat) (s : State) (b : Nat × Byte) : State :=
  match s.hub.links[link]? with
  | none => s
  | some l =>
    if b.1 ≥ 2 ^ 21 || s.pause.isSome then s
    else match s.unitWrite 8 l.atp (hostNear (window * 2 ^ 40 + region * 2 ^ 21 + b.1)) [b.2] 1 with
      | .ok t => t
      | .error _ => s.hostRefused link

/-- The host's write-backs arrive and are performed, and the region becomes DEVICE (R389). -/
def State.snoopDone (s : State) (link window region : Nat) (dirty : List (Nat × Byte)) : Option State :=
  let o := s.owner link window region
  if o.host && o.snooping then
    s.onLink link fun t =>
      let s1 := t.setOwner { o with host := false, held := true, snooping := false }
      let s2 := dirty.foldl (State.writeBackByte link window region) s1
      some { s2 with hub := { s2.hub with wanted := s2.hub.wanted.filter fun w => w != (link, window, region) } }
  else none

/-- BACK_INVALIDATE_COMPLETE (R389). -/
def execBackInvalidateComplete (link window region : Nat) (dirty : List (Nat × Byte)) (s : State) :
    Host.Outcome State Fault Refusal := .next ((s.snoopDone link window region dirty).getD s)

/-- The hold of 2 µs is over (R389). -/
def State.holdOver (s : State) (link window region : Nat) : Option State :=
  let o := s.owner link window region
  if o.held then some (s.setOwner { o with held := false }) else none

/-- OWNER_HOLD_EXPIRE (R389). -/
def execOwnerHoldExpire (link window region : Nat) (s : State) : Host.Outcome State Fault Refusal :=
  .next ((s.holdOver link window region).getD s)

/-! ### BAR0 (R388) -/

/-- STATUS: MAIN_UP, DEGRADED and REPLACE_REQUESTED (R388, R395, R396). -/
def State.statusBits (s : State) : Nat :=
  (if s.mgmt.mainUp then 1 else 0) + (if s.mgmt.degraded = 0 then 0 else 2) + (if s.mgmt.replace then 4 else 0)

/-- What a host read of a BAR0 register returns (R388); a register that is only written, and an offset with none, reads as a value the
spec leaves open (log entry 3). -/
def State.hostReg (s : State) (link off : Nat) : Word :=
  match s.hub.links[link]? with
  | none => Config.freeWord s.freeCount
  | some l =>
    if off = 0x0000 then BitVec.ofNat 64 (0x5A39 + 65536 * link)
    else if off = 0x0008 then BitVec.ofNat 64 s.statusBits
    else if off = 0x0018 then l.lstat
    else if off = 0x0020 then l.errcnt
    else if off = 0x0038 then BitVec.ofNat 64 ((if l.busy then 1 else 0) + (if l.refusedCode then 2 else 0))
    else if 0x0100 ≤ off ∧ off < 0x0300 ∧ off % 8 = 0 then (l.kind ((off - 0x100) / 8)).setWidth 64
    else Config.freeWord s.freeCount

/-- LSTAT after a launch: accepted in bits 31:0, refused in bits 63:32, each mod 2^32. -/
def lstatAfter (w : Word) (refused : Bool) : Word :=
  let acc : BitVec 32 := w.extractLsb' 0 32
  let ref : BitVec 32 := w.extractLsb' 32 32
  if refused then (ref + 1) ++ acc else ref ++ (acc + 1)

/-- A launch of the client context is submitted (R96, R387, R388), or the loader must wait. -/
def State.hostSubmit (s : State) (n : Nat) (v : Word) : State :=
  match s.hub.links[n]? with
  | none => s
  | some l =>
    let s1 := (s.submit l.atp (hostEndpoint n) v).1
    if s1.pause.isSome then s1
    else
    let refused : Bool := match s1.loader.jobs.getLast? with
      | some j => j.refused
      | none => true
    s1.updLink n fun k => { k with lstat := lstatAfter k.lstat refused }


/-- The code object made from CODELEN bytes at a near address in a data window, of class X-on-V with 64 KiB pages (R385, R388). -/
def State.makeCode (s : State) (l : HostLink) (v : Word) : Option (State × BitVec 64) :=
  let n := l.codelen.toNat
  let window := bits v 44 20
  if n < 2048 ∨ n > 2 ^ 32 ∨ n % 2048 ≠ 0 ∨ window < 2 ∨ window ≥ 66 ∨ l.kind (window - 2) = 1#2 then none
  else match s.unitRead 8 l.atp v n 1 with
    | .error _ => none
    | .ok (bs, s1) =>
      if s1.pause.isSome then some (s1, 0) else s1.createImage ⟨4, 0, 0, 0b00101, (n + 65535) / 65536 * 65536⟩ bs

/-- The client table's entry 1 for a code object: rights R and X (R38, R387). -/
def codeEntry (dev : BitVec 16) (serial : BitVec 64) (length : Nat) : BitVec 256 :=
  1#1 ++ 0#58 ++ 0b00101#5 ++ 0#19 ++ BitVec.ofNat 45 length ++ dev ++ 0#48 ++ serial

/-- A code object is bound as aperture 1 of the client table, and the one it replaces is retired; none where the object server refuses. -/
def State.bindCode (s : State) (l : HostLink) (serial : BitVec 64) : Option State :=
  (s.live? serial).bind fun d =>
    let img := codeEntry s.names.devNum serial d.length
    if s.badAperture img 1 (atc l.atp) then none
    else (s.writeAperture 8 (ats l.atp) 1 img).map fun t =>
      match l.code.bind t.live? with
      | some old => t.markDying old
      | none => t

/-- The object server reads the image that a CODE write names and makes the object, or refuses. -/
def State.imageRead (s : State) (n : Nat) (l : HostLink) (v : Word) : State :=
  match s.makeCode l v with
  | some (s1, serial) => s1.updLink n fun k => { k with binding := some ⟨none, some serial⟩ }
  | none => s.updLink n fun k => { k with binding := some ⟨none, none⟩ }

/-- A binding completes: aperture 1 is bound, or REFUSED set and the new object retired, and BUSY clears (R388). -/
def State.bindDone (s : State) (n : Nat) (l : HostLink) (serial : Option (BitVec 64)) : State :=
  let after := match serial.bind (s.bindCode l) with
    | some t => t.updLink n fun k => { k with code := serial, refusedCode := false }
    | none =>
      (match serial.bind s.live? with
      | some d => s.markDying d
      | none => s).updLink n fun k => { k with refusedCode := true }
  after.updLink n fun k => { k with busy := false, binding := none }

/-- What a server does next for a link's registers: it reads the image of a CODE write, completes the binding, or, with none under way, submits the
oldest launch that waits (R388). It acts whole, once all it touches is there: a region that the host owns is taken back first (R389). -/
def State.linkWork (s : State) (n : Nat) : Option State :=
  match s.hub.links[n]? with
  | none => none
  | some l =>
    let act := fun (f : State → State) => s.whole (.server n) 507904 false fun t => some (f t)
    match l.binding, l.launches with
    | some ⟨some v, _⟩, _ => act fun t => t.imageRead n l v
    | some ⟨none, serial⟩, _ => act fun t => t.bindDone n l serial
    | none, v :: rest => act fun t => (t.hostSubmit n v).updLink n fun k => { k with launches := rest }
    | none, [] => none

/-- CODE_BIND_COMPLETE (R388). -/
def execCodeBindComplete (link : Nat) (s : State) : Host.Outcome State Fault Refusal := .next ((s.linkWork link).getD s)

/-- A write of LAUNCH: submitted at once, or once the binding under way completes and the launches before it are submitted (R388). -/
def State.launchWrite (s : State) (n : Nat) (v : Word) : Option State :=
  (s.hub.links[n]?).map fun l =>
    let t := s.updLink n fun k => { k with launches := k.launches ++ [v] }
    if l.busy then t else (t.linkWork n).getD t

/-- HOST_LAUNCH_WRITE (R388). -/
def execHostLaunchWrite (link : Nat) (v : BitVec 64) (s : State) : Host.Outcome State Fault Refusal :=
  .next ((s.launchWrite link v).getD s)

/-- A write of CODE asks the object server for the client's code object: BUSY is set, and the image is read as soon as it may be (R388). One written
while BUSY changes nothing: DESIGN CHOICE, since R388 names no second binding (log entry 24). -/
def State.codeWrite (s : State) (n : Nat) (v : Word) : Option State :=
  (s.hub.links[n]?).bind fun l =>
    if l.busy then none
    else
      let t := s.updLink n fun k => { k with busy := true, binding := some ⟨some v, none⟩ }
      some ((t.linkWork n).getD t)

/-- HOST_CODE_WRITE (R388). -/
def execHostCodeWrite (link : Nat) (v : BitVec 64) (s : State) : Host.Outcome State Fault Refusal :=
  .next ((s.codeWrite link v).getD s)

/-- A host write of a BAR0 register (R388): LAUNCH, CODELEN, CODE and WKIND; a write of another, or of a reserved window kind, changes
nothing. -/
def State.regWrite (s : State) (n off : Nat) (v : Word) : Option State :=
  if off = 0x0010 then s.launchWrite n v
  else if off = 0x0030 then s.codeWrite n v
  else if off = 0x0028 then some (s.updLink n fun l => { l with codelen := v })
  else if 0x0100 ≤ off ∧ off < 0x0300 ∧ off % 8 = 0 ∧ bits v 0 2 < 2 then
    some (s.updLink n fun l => { l with wkind := Sparse.put 0#2 l.wkind ((off - 0x100) / 8) (v.setWidth 2) })
  else none

/-- HOST_REG_WRITE (R388). -/
def execHostRegWrite (link off : Nat) (v : BitVec 64) (s : State) : Host.Outcome State Fault Refusal :=
  .next ((s.regWrite link off v).getD s)

end Sys2Proof.Machine
end

