-- ==== Sys2Proof/Machine/Integer.lean ====
section
/-! DEFINITION. The integer records ADD to APX (R279-R290). -/

namespace Sys2Proof.Machine

/-- A two-operand integer record: both operands raw, the second from port R or the immediate (R259, R279). -/
def State.intRec (s : State) (i : Instr) (t : IntTy) (b : Rhs) (f : IntTy → Word → Word → Res) : State :=
  s.fireRes i fun a => f t a.opL.word (a.rhs (.int t) b).val

/-- A two-operand record on whole 64-bit values, an immediate sign-extended (R282, R288-R290). -/
def State.wordRec (s : State) (i : Instr) (b : Rhs) (f : Word → Word → Word) : State :=
  s.fireRes i fun a =>
    let r := match b with
      | .port => a.opR.word
      | .imm v => immSigned v
    .plain (f a.opL.word r)

/-- A one-operand integer record. -/
def State.unaryRec (s : State) (i : Instr) (f : Word → Word) : State := s.fireRes i fun a => .plain (f a.opL.word)

/-- ADD (R280). -/
def execAdd (h : Hdr) (t : IntTy) (b : Rhs) (s : State) : Host.Outcome State Fault Refusal :=
  .next (s.intRec (.add h t b) t b (intArith fun x y => x + y))

/-- SUB (R280). -/
def execSub (h : Hdr) (t : IntTy) (b : Rhs) (s : State) : Host.Outcome State Fault Refusal :=
  .next (s.intRec (.sub h t b) t b (intArith fun x y => x - y))

/-- MUL (R280). -/
def execMul (h : Hdr) (t : IntTy) (b : Rhs) (s : State) : Host.Outcome State Fault Refusal :=
  .next (s.intRec (.mul h t b) t b (intArith fun x y => x * y))

/-- MULH (R280). -/
def execMulh (h : Hdr) (t : IntTy) (b : Rhs) (s : State) : Host.Outcome State Fault Refusal :=
  .next (s.intRec (.mulh h t b) t b intMulh)

/-- MULW (R281). -/
def execMulw (h : Hdr) (t : IntTy) (b : Rhs) (s : State) : Host.Outcome State Fault Refusal :=
  .next (s.intRec (.mulw h t b) t b intMulw)

/-- DIV (R157, R280). -/
def execDiv (h : Hdr) (t : IntTy) (b : Rhs) (s : State) : Host.Outcome State Fault Refusal :=
  .next (s.intRec (.div h t b) t b intDiv)

/-- REM (R157, R280). -/
def execRem (h : Hdr) (t : IntTy) (b : Rhs) (s : State) : Host.Outcome State Fault Refusal :=
  .next (s.intRec (.rem h t b) t b intRem)

/-- MIN (R280). -/
def execMin (h : Hdr) (t : IntTy) (b : Rhs) (s : State) : Host.Outcome State Fault Refusal :=
  .next (s.intRec (.min h t b) t b intMin)

/-- MAX (R280). -/
def execMax (h : Hdr) (t : IntTy) (b : Rhs) (s : State) : Host.Outcome State Fault Refusal :=
  .next (s.intRec (.max h t b) t b intMax)

/-- ADDS (R280). -/
def execAdds (h : Hdr) (t : IntTy) (b : Rhs) (s : State) : Host.Outcome State Fault Refusal :=
  .next (s.intRec (.adds h t b) t b intAdds)

/-- SUBS (R280). -/
def execSubs (h : Hdr) (t : IntTy) (b : Rhs) (s : State) : Host.Outcome State Fault Refusal :=
  .next (s.intRec (.subs h t b) t b intSubs)

/-- AND (R282). -/
def execAnd (h : Hdr) (b : Rhs) (s : State) : Host.Outcome State Fault Refusal :=
  .next (s.wordRec (.and h b) b fun x y => x &&& y)

/-- OR (R282). -/
def execOr (h : Hdr) (b : Rhs) (s : State) : Host.Outcome State Fault Refusal :=
  .next (s.wordRec (.or h b) b fun x y => x ||| y)

/-- XOR (R282). -/
def execXor (h : Hdr) (b : Rhs) (s : State) : Host.Outcome State Fault Refusal :=
  .next (s.wordRec (.xor h b) b fun x y => x ^^^ y)

/-- ANDN (R282). -/
def execAndn (h : Hdr) (b : Rhs) (s : State) : Host.Outcome State Fault Refusal :=
  .next (s.wordRec (.andn h b) b fun x y => x &&& ~~~y)

/-- NOT (R282). -/
def execNot (h : Hdr) (s : State) : Host.Outcome State Fault Refusal := .next (s.unaryRec (.not h) fun x => ~~~x)

/-- NEG (R283). -/
def execNeg (h : Hdr) (w : Width) (s : State) : Host.Outcome State Fault Refusal :=
  .next (s.unaryRec (.neg h w) fun x => extInt w.bits true (-(readInt w.bits true x)))

/-- ABS (R283). -/
def execAbs (h : Hdr) (w : Width) (s : State) : Host.Outcome State Fault Refusal :=
  .next (s.unaryRec (.abs h w) fun x => extInt w.bits true ((readInt w.bits true x).natAbs : Int))

/-- SHL (R284). -/
def execShl (h : Hdr) (t : IntTy) (b : Rhs) (s : State) : Host.Outcome State Fault Refusal :=
  .next (s.intRec (.shl h t b) t b intShl)

/-- SHR (R284). -/
def execShr (h : Hdr) (t : IntTy) (b : Rhs) (s : State) : Host.Outcome State Fault Refusal :=
  .next (s.intRec (.shr h t b) t b intShr)

/-- SAR (R284). -/
def execSar (h : Hdr) (t : IntTy) (b : Rhs) (s : State) : Host.Outcome State Fault Refusal :=
  .next (s.intRec (.sar h t b) t b intSar)

/-- ROL (R284). -/
def execRol (h : Hdr) (t : IntTy) (b : Rhs) (s : State) : Host.Outcome State Fault Refusal :=
  .next (s.intRec (.rol h t b) t b intRol)

/-- ROR (R284). -/
def execRor (h : Hdr) (t : IntTy) (b : Rhs) (s : State) : Host.Outcome State Fault Refusal :=
  .next (s.intRec (.ror h t b) t b intRor)

/-- CLZ (R285). -/
def execClz (h : Hdr) (w : Width) (s : State) : Host.Outcome State Fault Refusal :=
  .next (s.unaryRec (.clz h w) fun x => BitVec.ofNat 64 (clzAt w.bits x.toNat))

/-- CTZ (R285). -/
def execCtz (h : Hdr) (w : Width) (s : State) : Host.Outcome State Fault Refusal :=
  .next (s.unaryRec (.ctz h w) fun x => BitVec.ofNat 64 (ctzAt w.bits x.toNat))

/-- POPC (R285). -/
def execPopc (h : Hdr) (w : Width) (s : State) : Host.Outcome State Fault Refusal :=
  .next (s.unaryRec (.popc h w) fun x => BitVec.ofNat 64 (popAt w.bits x.toNat))

/-- BFX (R286). -/
def execBfx (h : Hdr) (pos lenM1 : BitVec 6) (sx : Bool) (s : State) : Host.Outcome State Fault Refusal :=
  .next (s.unaryRec (.bfx h pos lenM1 sx) fun x => bitField pos.toNat (lenM1.toNat + 1) sx x)

/-- BFI (R286). -/
def execBfi (h : Hdr) (pos lenM1 : BitVec 6) (s : State) : Host.Outcome State Fault Refusal :=
  .next (s.fireRes (.bfi h pos lenM1) fun a =>
    .plain (bitInsert pos.toNat (lenM1.toNat + 1) a.opL.word a.opR.word))

/-- SEXT (R287). -/
def execSext (h : Hdr) (w : Width3) (s : State) : Host.Outcome State Fault Refusal :=
  .next (s.unaryRec (.sext h w) fun x => extInt w.bits true (readInt w.bits true x))

/-- ZEXT (R287). -/
def execZext (h : Hdr) (w : Width3) (s : State) : Host.Outcome State Fault Refusal :=
  .next (s.unaryRec (.zext h w) fun x => extInt w.bits false (readInt w.bits false x))

/-- TST (R288). -/
def execTst (h : Hdr) (c : Cond) (b : Rhs) (s : State) : Host.Outcome State Fault Refusal :=
  .next (s.wordRec (.tst h c b) b fun x y => boolWord (c.holds x y))

/-- An address inside the aperture of `x`, `d` further on modulo 2^44 (R289). -/
def leaAt (x d : Word) : Word := (x &&& 0xFFFFF00000000000) ||| ((x + d) &&& 0x00000FFFFFFFFFFF)

/-- LEA (R289). -/
def execLea (h : Hdr) (b : LeaRhs) (s : State) : Host.Outcome State Fault Refusal :=
  .next (s.fireRes (.lea h b) fun a =>
    let d := match b with
      | .port sh => a.opR.word <<< sh.toNat
      | .imm v => immSigned v
    .plain (leaAt a.opL.word d))

/-- APX (R290). -/
def execApx (h : Hdr) (b : Rhs) (s : State) : Host.Outcome State Fault Refusal :=
  .next (s.wordRec (.apx h b) b fun x y => ((x &&& 0xFFFFF) <<< 44) ||| (y &&& 0x00000FFFFFFFFFFF))

end Sys2Proof.Machine
end

