-- ==== Sys2Proof/Machine/Peers.lean ====
section
/-! DEFINITION. Peers and links (R28, R380, R391-R393): accesses carried between devices, sequence numbers and SACKs, failures of links, and
parity at a hop. -/

namespace Sys2Proof.Machine

/-! ### Accesses of peers served here (R28) -/

/-- The full address of a peer's access. -/
def State.peerAt (s : State) (a : PeerAcc) : FullAddr := ⟨s.names.devNum, a.serial, a.ofs⟩

/-- The counter word a peer's access names, in its own step. -/
def State.peerWord (s : State) (a : PeerAcc) (d : Desc) (f : Word → State → State) : State :=
  match s.readNow 0 (s.peerAt a) d 8 with
  | .error e => s.peerFaults a e
  | .ok (bs, s1) => f (leWord bs) s1

/-- A line written back where its page is dirty, for each of the lines a PERSIST names. -/
def State.persistLines (s : State) (d : Desc) : Nat → Nat → State
  | 0, _ => s
  | n + 1, line =>
    let s1 := match s.leaf? d (line * 128 / pageBytes d.pgsz) with
      | some pte =>
        let w := Memory.word s.mem pte
        if s.dirtyPage pte w then s.writeLine d (line * 128) w else s
      | none => s
    s1.persistLines d n (line + 1)

/-- The block of the persistent tier that a PERSIST of those lines would write and that does not exist (R22). -/
def State.persistBad (s : State) (d : Desc) : Nat → Nat → Option Nat
  | 0, _ => none
  | n + 1, line =>
    (match s.leaf? d (line * 128 / pageBytes d.pgsz) with
    | some pte =>
      let w := Memory.word s.mem pte
      if s.dirtyPage pte w then badBlock w true else none
    | none => none) <|> s.persistBad d n (line + 1)

/-- The lines that a peer's PERSIST names: how many, and the first. -/
def PeerAcc.lines (a : PeerAcc) : Nat × Nat :=
  (if a.size = 0 then 0 else (a.ofs + a.size - 1) / 128 + 1 - a.ofs / 128, a.ofs / 128)

/-- The checks of a peer's access have passed: they are answered, with MAXR, and stand here until their device gives them up or the access
they were made for has been answered (R49, R50; log entry 17). -/
def State.peerPasses (s : State) (a : PeerAcc) (d : Desc) : State :=
  ({ s with hub := { s.hub with peerAccs := updWhere (fun x => x.id == a.id) (fun x => { x with held := true }) s.hub.peerAccs } } : State).toPeer
    a.dev (.reply a.req a.piece (toBytesLE 1 d.maxr) a.slack a.late) a.slack a.late

/-- Parts of one granule written in one step (R178). -/
def State.storeParts (s : State) (f : FullAddr) (d : Desc) : List (Nat × List Byte) → Except (BitVec 8) State
  | [] => .ok s
  | (o, bs) :: ps =>
    match s.writeNow 0 { f with ofs := f.ofs + o } d bs with
    | .error e => .error e
    | .ok s1 => s1.storeParts f d ps

/-- A peer's prefetch warms `n` pages from the one given on, while they lie in its aperture, `lo` up to `hi`, and in the object; an empty pool is left
alone (R341). -/
def State.warmPages (s : State) (d : Desc) (lo hi page : Nat) : Nat → State
  | 0 => s
  | n + 1 =>
    let at_ := page * pageBytes d.pgsz
    if at_ < lo ∨ at_ ≥ hi ∨ at_ ≥ d.length then s
    else match s.leafFor d page with
      | none => s
      | some (pte, s1) =>
        let st := pteState (Memory.word s1.mem pte)
        if st > 4 then s
        else (if st = 0 then (s1.startFill 0 d pte).getD s1 else s1).warmPages d lo hi (page + 1) n

/-- What a peer's access does at its home, once its name step has passed (R28, R225, R252, R339). -/
def State.peerPerform (s : State) (a : PeerAcc) (d : Desc) : State :=
  let f := s.peerAt a
  match a.op with
  | .probe m => if m = 16 ∧ d.cls ≠ 1 then s.peerFaults a codePersist else s.peerPasses a d
  | .check _ => s.peerPasses a d
  | .load | .fetch =>
    (match s.readNow 0 { f with ofs := a.ofs / 8 * 8 } d 8 with
    | .error e => s.peerFaults a e
    | .ok (bs, s1) => s1.peerReply a bs)
  | .store bs =>
    (match s.writeNow 0 f d bs with
    | .error e => s.peerFaults a e
    | .ok s1 => s1.peerReply a [])
  | .combine t fn v =>
    (match s.readNow 0 f d a.size with
    | .error e => s.peerFaults a e
    | .ok (old, s1) =>
      match s1.writeNow 0 f d (toBytesLE a.size (combine t fn (leWord old) v).toNat) with
      | .error e => s.peerFaults a e
      | .ok s2 => s2.peerReply a [])
  | .wait thr => s.peerWord a d fun v s1 =>
    if (thr - v).toNat = 2 ^ 63 then s.peerFaults a codeThresh
    else if satisfied v thr then s1.peerReply a (toBytesLE 8 v.toNat)
    else match s1.register f thr a.slack (.peer a.id) with
      | some s2 => s2
      | none => s.peerFaults a codeSpill
  | .poll thr => s.peerWord a d fun v s1 =>
    if (thr - v).toNat = 2 ^ 63 then s.peerFaults a codeThresh else s1.peerReply a (toBytesLE 8 v.toNat)
  | .peek => s.peerWord a d fun v s1 => s1.peerReply a (toBytesLE 8 v.toNat)
  | .stores ps =>
    (match s.storeParts f d ps with
    | .error e => s.peerFaults a e
    | .ok s1 => s1.peerReply a [])
  | .warm n lo hi => (s.warmPages d lo hi (a.ofs / pageBytes d.pgsz) n).peerReply a []
  | .promote =>
    ({ s with releases := s.releases.filter fun r => !r.at_.same f } : State).peerReply a []
  | .persist =>
    if d.cls ≠ 1 then s.peerFaults a codePersist else (s.persistLines d a.lines.1 a.lines.2).peerReply a []
  | .retire => (match s.live? a.serial with
    | some d => s.markDying d
    | none => s).peerReply a []
  | .add _ _ | .drop => s

/-- A peer has sent an access to a name (R49). -/
def State.noteServed (s : State) (a : PeerAcc) : State :=
  if s.names.served.contains (a.serial, a.dev) then s
  else { s with names := { s.names with served := s.names.served ++ [(a.serial, a.dev)] } }

/-- The bank of a peer's access serves another first (R146, R253). -/
def State.accOutranked (s : State) (a : PeerAcc) : Bool :=
  (s.accHome a).any fun pa => s.bankTaken (bankAt pa) [a.id] a.slack a.id

/-- A peer's access whose name step has passed acts: checks, retirements and prefetches at once, an add as a step of its counter (R228), a promote
request once the recorded agents have answered (R248), the others once nothing stands in their way and their bank chooses them, as a unit that may
have to wait for a page (R46, R146). With the block of the persistent tier it would need and which
does not exist. -/
def State.peerAct (s : State) (a : PeerAcc) (d : Desc) : Option (State × Option Nat) :=
  match a.op with
  | .probe _ | .check _ | .retire | .warm _ _ _ => some (s.peerPerform a d, none)
  | .promote =>
    if (s.releases.filter fun r => r.at_.same (s.peerAt a)).all s.answered then some (s.peerPerform a d, none) else none
  | .add _ _ => (s.counterStep ((s.addHome (.acc a)).getD 0) [a.id]).map fun t => (t, none)
  | .persist => if s.peerHeld a then none else some (s.peerPerform a d, if d.cls ≠ 1 then none else s.persistBad d a.lines.1 a.lines.2)
  | _ => if s.peerHeld a || s.accOutranked a then none
    else (s.whole (.acc a.id) a.slack a.late fun t => some (t.peerPerform a d)).map fun t => (t, none)

/-- An access of a peer whose checks passed here before its name died completes normally, but for a counter's (R49, R51). -/
def State.passedHere (s : State) (a : PeerAcc) : Bool :=
  (match a.op with
  | .load | .fetch | .store _ | .stores _ | .combine _ _ _ | .persist => true
  | _ => false) &&
  s.hub.peerAccs.any fun x => x.held && x.dev == a.dev && x.serial == a.serial && decide (x.ofs ≤ a.ofs ∧ a.ofs + a.size ≤ x.ofs + x.size)

/-- A peer's CWAIT or CPOLL. -/
def peerAcquires : PeerOp → Bool
  | .wait _ | .poll _ => true
  | _ => false

/-- A peer's access has passed its name step, and its device is noted (R49). -/
def State.passName (s : State) (a : PeerAcc) : State :=
  let t := s.noteServed a
  { t with hub := { t.hub with peerAccs := updWhere (fun x => x.id == a.id) (fun x => { x with named := true }) t.hub.peerAccs } }

/-- One access of a peer's request is served: the name step against this device's names, then its effect, or its fault; where it must wait it has
passed its name step (R49). An acquire that finds its name dead after that registers nothing, and its device is told (R51). -/
def State.peerServe (s : State) (a : PeerAcc) : Option (State × Option Nat) :=
  if a.held || s.peerWaits a then none
  else match s.peerName a with
    | .ok d =>
      let t := s.passName a
      (t.peerAct { a with named := true } d).or (if a.named then none else some (t, none))
    | .error e =>
      match (if e == codeNameDead && s.passedHere a then s.desc? a.serial else none) with
      | some d => s.peerAct a d
      | none => some (if e == codeNameDead && a.op == .retire then s.peerReply a []
          else if e == codeNameDead && a.named && peerAcquires a.op then s.peerAnswers a (.gone a.req a.piece a.slack) a.slack a.late
          else s.peerFaults a e, none)

/-- PEER_ACCESS (R28): the first access of that device's request that may be served. A PERSIST's line of a block at or above 48 TiB does not
exist (R22). -/
def execPeerAccess (dev : BitVec 16) (req : Nat) (s : State) : Host.Outcome State Fault Refusal :=
  match (s.hub.peerAccs.filter fun a => a.dev == dev && a.req == req).findSome? s.peerServe with
  | none => .next s
  | some (_, some b) => .fault (.noTierBlock b)
  | some (t, none) => .next t

/-! ### Answers of peers (R28) -/

/-- The fault of a record's lowest faulting lane is the record's, once no lane before it is still checked or accessed at a peer; what its other lanes
had checked there is given up (R28, R337). -/
def State.lanesSettle (s : State) (r : Nat) : State :=
  match s.req? r with
  | none => s
  | some q => match firstBy (fun (a b : Nat × BitVec 8 × Word) => decide (a.1 < b.1)) q.fails with
    | none => s
    | some f =>
      if q.pieces.any fun p => (p.stage == .probing || p.stage == .peer) && decide (p.lane < f.1) then s
      else (s.giveUp q).reqFault q f.2.1 f.2.2

/-- A lane meets a fault at a peer: those before it that have not been sent are checked there, and it is kept until it is known which lane's is the
lowest (R337). -/
def State.laneFails (s : State) (q : Req) (k : Nat) (p : Piece) (code : BitVec 8) : State :=
  let unsent := q.pieces.zipIdx.filter fun e => e.1.stage == .ready && e.1.dev != s.names.devNum && decide (e.1.lane < p.lane)
  let s1 := (s.updPiece q.id k fun e => { e with stage := .done }).updReq q.id fun r => { r with fails := r.fails ++ [(p.lane, code, p.near)] }
  (unsent.foldl (fun t e => (t.updPiece q.id e.2 fun x => { x with stage := .probing }).peerProbe q e.2 e.1) s1).lanesSettle q.id

/-- A peer's bytes answer piece `k` of a request. One that returns nothing is served, and so delivered late, as the answer says (R149; log entry
17); a CWAIT's value comes with the slack and late mark of the packet that brings it (R144). -/
def State.pieceAnswered (s0 : State) (q : Req) (k : Nat) (p : Piece) (bs : List Byte) : State :=
  let s := if returnsNothing q.instr && p.stage == .peer then s0.serve q else s0
  let done := s.updPiece q.id k fun e => { e with stage := .done }
  match p.stage with
  | .probing =>
    let s1 := s.updPiece q.id k fun e => { e with stage := .ready }
    if opKind q.instr == .persist && q.pieces.zipIdx.all fun e => e.2 == k || e.1.stage != .probing then s1.lsidDone q
    else s1.lanesSettle q.id
  | .peer =>
    if !q.fails.isEmpty then done.lanesSettle q.id
    else (match q.instr with
    | .pref _ _ _ => done.dropReq q.id
    | .persist _ _ _ => done.updReq q.id fun r => { r with value := BitVec.ofNat 64 p.lines }
    | .cadd _ _ _ _ => (done.updReq q.id fun r => { r with stage := .done, value := leWord bs }).drained q.latch.ctx q.latch.route
    | .caddr _ _ _ _ => (done.updReq q.id fun r => { r with stage := .answer, value := leWord bs }).drained q.latch.ctx q.latch.route
    | .cwait _ _ _ _ => s.answer q (.scalar (leWord bs)) (.scalar (leWord bs)) 0 p.slack p.late
    | .cpoll _ _ _ _ =>
      let v := leWord bs
      s.answer q (.scalar v) (.scalar (boolWord (satisfied v q.latch.opR.word))) 0 q.replySlack q.lateNow
    | i => if opKind i == .load then s.loadPiece q k p bs else done.writeDone q.id)
  | _ => s

/-- The bytes of a unit's access among those that a peer returns: of a load's granule, the part asked for (R178). -/
def Away.part (e : Away) (bs : List Byte) : List Byte :=
  match e.op with
  | .load | .fetch => (bs.drop (e.at_.ofs % 8)).take e.size
  | _ => bs

/-- What a peer answers reaches the access of a unit that waits for it. -/
def State.awayAnswered (s : State) (n : Nat) (f : Away → AwayAns) : State :=
  { s with away := updWhere (fun e => e.id == n && e.ans == .sent) (fun e => { e with ans := f e }) s.away }

/-- A task is woken by a peer's counter: tasks that take one value of one counter were woken by one step there, and share its time (R417). -/
def State.wakeTask (s : State) (t : Task) (v : Word) : State :=
  let same := s.tasks.find? fun u => u.id != t.id && u.status == 1#4 && u.dep == t.dep && u.woken == some v
  s.bump.updTask t.id fun u => { u with woken := some v, order := (same.map fun u => u.order).getD s.nextId, woke := s.nextId }

/-- A peer's answer reaches this device, with its packet's slack and late mark (R144): it wakes a task, ends the promotion it has asked for (R248),
or answers a unit's access or the piece of a request. With renew set the reply's slack is what its packet has left of that it was sent with. -/
def State.peerReplied (s : State) (req piece : Nat) (bs : List Byte) (slack : Nat) (late : Bool) : State :=
  if s.away.any fun e => e.id == req then s.awayAnswered req fun e => .bytes (e.part bs)
  else match s.task? req with
  | some t =>
    if piece = 1 then s.updTask req fun u => { u with promote := false }
    else if t.status = 1#4 ∧ t.woken.isNone then s.wakeTask t (leWord bs)
    else s
  | none =>
    match s.req? req with
    | none => s
    | some q => match q.pieces[piece]? with
      | none => s
      | some p =>
        let mark := fun (e : Piece) => if e.stage == .peer then { e with slack := slack, late := late } else e
        let left := fun (r : Req) => { r with
          pieces := updAt r.pieces piece mark
          slack0 := if renewOf r.instr && p.stage == .peer then min r.slack0 slack else r.slack0 }
        (s.updReq req left).pieceAnswered (left q) piece (mark p) bs

/-- A peer's fault reaches the piece of a request: a failed member of an MLDRED, the end of a prefetch, a charged fault of a write that commit has let
go, otherwise an ending fault of the record, whose lowest lane's it is (R28, R131, R197, R337, R341). -/
def State.pieceFaulted (s : State) (q : Req) (k : Nat) (p : Piece) (code : BitVec 8) : State :=
  let done := s.updPiece q.id k fun e => { e with stage := .done }
  match q.instr with
  | .mldred _ _ _ => done.updReq q.id fun r => { r with value := r.value ||| BitVec.ofNat 64 (2 ^ (p.lane / 8)) }
  | .pref _ _ _ => (s.serve q).dropReq q.id
  | i =>
    if q.go then
      let s1 := done.chargeAny q.latch.ctx (unitFault 8 6 0 code p.near 0)
      (match i with
      | .caddr _ _ _ _ => (s1.updReq q.id fun r => { r with stage := .answer, value := 0 }).drained q.latch.ctx q.latch.route
      | .cadd _ _ _ _ => (s1.updReq q.id fun r => { r with stage := .done }).drained q.latch.ctx q.latch.route
      | _ => s1.writeDone q.id)
    else s.laneFails q k p code

/-- A peer's fault reaches this device; that of a hardware access that nothing waits for is charged to its context (R28, R365; log entry 79). -/
def State.peerFaulted (s : State) (req piece : Nat) (code : BitVec 8) : State :=
  if req ≥ 2 ^ 64 then s.chargeAny (ctxOfTag req) (unitFault 8 6 0 code 0 0)
  else if s.away.any fun e => e.id == req then s.awayAnswered req fun _ => .fault code
  else match s.task? req with
  | some t =>
    if piece = 1 then s.updTask req fun u => { u with promote := false }
    else if t.status = 1#4 ∧ t.woken.isNone then s.deadTask t code else s
  | none =>
    match s.req? req with
    | none => s
    | some q => match q.pieces[piece]? with
      | none => s
      | some p => s.pieceFaulted q piece p code

/-- A counter's name has died at a peer: a task that waits there ends, a unit's access meets NAME_DEAD, and a CWAIT or CPOLL receives its nulls, with
the slack given (R51, R110, R144). -/
def State.nameGone (s : State) (req piece slack : Nat) : State :=
  if s.away.any fun e => e.id == req then s.awayAnswered req fun _ => .fault codeNameDead
  else match s.task? req with
  | some t => if t.status = 1#4 ∧ t.woken.isNone then s.deadTask t codeNameDead else s
  | none =>
    match s.req? req with
    | none => s
    | some q => match q.pieces[piece]? with
      | none => s
      | some p => s.deadAcquire { q with slack := slack, stage := .waiter } p

/-! ### Sequence numbers and SACKs (R391, R392) -/

/-- A packet is delivered. A device that gives up an access takes back what it sent for it, a waiter that it has registered among it; no tile here
caches a peer's name, so that a name's retirement at its device finds nothing to invalidate (R49). -/
def State.deliver (s : State) (dev : BitVec 16) (p : PeerPayload) : State :=
  match p with
  | .access req piece serial ofs size op slack late renew =>
    if op == .drop then
      let mine := fun (a : PeerAcc) => a.dev == dev && a.req == req && a.piece == piece
      let ids := (s.hub.peerAccs.filter mine).map fun a => a.id
      { s with
        hub := { s.hub with peerAccs := s.hub.peerAccs.filter fun a => !mine a }
        waiters := s.waiters.filter fun w => match w.who with
          | .peer a => !ids.contains a
          | _ => true }
    else { s.bump with hub := { s.hub with
      peerAccs := s.hub.peerAccs ++ [⟨s.nextId, dev, req, piece, serial, ofs, size, op, min slack 507904, late, false, renew, false⟩] } }
  | .reply req piece bs slack late => s.peerReplied req piece bs (min slack 507904) late
  | .fault req piece code => s.peerFaulted req piece code
  | .gone req piece slack => s.nameGone req piece (min slack 507904)
  | .invalidate _ => s

/-- Packets of a device that came early are delivered as their turns come, at most `fuel`. -/
def State.deliverEarly (s : State) (dev : BitVec 16) : Nat → State
  | 0 => s
  | fuel + 1 =>
    let n := Sparse.get 0#32 s.hub.recvSeq dev.toNat
    match s.hub.early.find? fun e => e.1 == dev && e.2.1 == n with
    | none => s
    | some e =>
      let hub := { s.hub with recvSeq := Sparse.put 0#32 s.hub.recvSeq dev.toNat (n + 1),
                              early := s.hub.early.filter fun x => !(x.1 == dev && x.2.1 == n) }
      (({ s with hub := hub }).deliver dev e.2.2).deliverEarly dev fuel

/-- The SACK this device returns to another: the base, and the packets at and above it that have been received (R392). -/
def State.sackFor (s : State) (dev : BitVec 16) : BitVec 32 × BitVec 64 :=
  let n := Sparse.get 0#32 s.hub.recvSeq dev.toNat
  let base : BitVec 32 := BitVec.ofNat 32 (n.toNat / 64 * 64)
  let got := fun (i : Nat) => decide (i < n.toNat % 64) || s.hub.early.any fun e => e.1 == dev && e.2.1 == base + BitVec.ofNat 32 i
  (base, BitVec.ofNat 64 (maskOf 64 got))

/-- A packet of a device arrives: delivered in sequence order, kept while it is early, dropped when it has come before; a SACK goes back (R391,
R392). -/
def State.receive (s : State) (dev : BitVec 16) (seq : BitVec 32) (p : PeerPayload) : State :=
  let n := Sparse.get 0#32 s.hub.recvSeq dev.toNat
  let t := if (seq - n).toNat ≥ 2 ^ 31 ∨ (s.hub.early.any fun e => e.1 == dev && e.2.1 == seq) then s
    else
      let s1 := { s with hub := { s.hub with early := s.hub.early ++ [(dev, seq, p)] } }
      s1.deliverEarly dev s1.hub.early.length
  { t with hub := { t.hub with sacks := t.hub.sacks ++ [(dev, t.sackFor dev)] } }

/-- PEER_PACKET_RECEIVE (R391). -/
def execPeerPacketReceive (dev : BitVec 16) (seq : BitVec 32) (p : PeerPayload) (s : State) : Host.Outcome State Fault Refusal :=
  .next (s.receive dev seq p)

/-- The ports of a peer's route-table entry are degraded for it after sixteen retransmissions, and the entry holds none that works:
accesses under way there fault LINK, the members of a group load among them (R197, R392). -/
def State.loseRequest (dev : BitVec 16) (s : State) (r : Nat) : State :=
  match s.req? r with
  | none => s
  | some q =>
    let away := q.pieces.zipIdx.filter fun p => p.1.dev == dev && (p.1.stage == .peer || p.1.stage == .probing)
    let group := match q.instr with
      | .mldred _ _ _ | .pref _ _ _ => true
      | _ => false
    if away.isEmpty then s
    else if q.go || group then away.foldl (fun t p => if p.1.stage == .peer then t.pieceFaulted q p.2 p.1 codeLink else t) s
    else s.peerFault q ((q.pieces.map fun p => p.near).headD 0)

/-- The context of a hardware access to a peer that nothing waits for. -/
def Sent.tagged (u : Sent) : Option CtxId :=
  match u.payload with
  | .access req _ _ _ _ _ _ _ _ => if req ≥ 2 ^ 64 then some (ctxOfTag req) else none
  | _ => none

/-- A peer is lost: what requests, units and tasks have under way there fails, the promotions asked of it are over, and what it held here is given
up. -/
def State.losePeer (s : State) (dev : BitVec 16) : State :=
  let ports := Sparse.get 0#32 s.hub.routes dev.toNat
  let s1 := { s with
    hub := { s.hub with routes := Sparse.put 0#32 s.hub.routes dev.toNat 0#32,
                        unacked := s.hub.unacked.filter fun u => u.dev != dev,
                        peerAccs := s.hub.peerAccs.filter fun a => !(a.held && a.dev == dev),
                        degradedPeers := s.hub.degradedPeers ++ [dev] }
    away := updWhere (fun (e : Away) => e.at_.dev == dev && e.op != PeerOp.drop && e.ans == AwayAns.sent) (fun e => { e with ans := .fault codeLink }) s.away }
  let s2 := ((List.range 32).filter fun l => ports.getLsbD l).foldl (fun t l => t.degrade (23 + l)) s1
  let s3 := (s2.reqs.map fun q => q.id).foldl (State.loseRequest dev) s2
  let s4 := { s3 with tasks := updWhere (fun t => t.dep.dev == dev && t.promote) (fun t => { t with promote := false }) s3.tasks }
  let s5 := ((s.hub.unacked.filter fun u => u.dev == dev).filterMap Sent.tagged).foldl (fun t c => t.chargeAny c (unitFault 8 6 0 codeLink 0 0)) s4
  (s5.tasks.filter fun t => t.dep.dev == dev && t.status == 1#4 && t.woken.isNone).foldl (fun t k => t.deadTask k codeLink) s5

/-- A packet is sent again; the sixteenth time without an acknowledgement loses the peer (R392). -/
def State.resend (s : State) (dev : BitVec 16) (seq : BitVec 32) : State :=
  let mine := fun (u : Sent) => u.dev == dev && u.seq == seq
  let s1 := { s with hub := { s.hub with unacked := updWhere mine (fun u => { u with tries := u.tries + 1 }) s.hub.unacked } }
  if s1.hub.unacked.any fun u => mine u && decide (u.tries ≥ 16) then s1.losePeer dev else s1

/-- A SACK arrives: the packets it names are acknowledged, and those below its base that are not are sent again (R392). -/
def State.sack (s : State) (dev : BitVec 16) (base : BitVec 32) (bitmap : BitVec 64) : State :=
  if base.toNat % 64 ≠ 0 then s
  else
    let got := fun (u : Sent) => u.dev == dev && decide ((u.seq - base).toNat < 64) && bitmap.getLsbD (u.seq - base).toNat
    let s1 := { s with hub := { s.hub with unacked := s.hub.unacked.filter fun u => !got u } }
    let below := s1.hub.unacked.filter fun u => u.dev == dev && decide ((u.seq - base).toNat ≥ 2 ^ 31)
    below.foldl (fun t u => if t.hub.unacked.any fun x => x.dev == dev && x.seq == u.seq then t.resend dev u.seq else t) s1

/-- SACK (R392). -/
def execSack (dev : BitVec 16) (base : BitVec 32) (bitmap : BitVec 64) (s : State) : Host.Outcome State Fault Refusal :=
  .next (s.sack dev base bitmap)

/-- RETRANSMIT_TIMEOUT (R392). -/
def execRetransmitTimeout (dev : BitVec 16) (seq : BitVec 32) (s : State) : Host.Outcome State Fault Refusal :=
  .next (if s.hub.unacked.any fun u => u.dev == dev && u.seq == seq then s.resend dev seq else s)

/-! ### Boundaries and bridges (R393) -/

/-- A link of R11 exists. -/
def goodLink : Link → Bool
  | .boundary n => decide (n < 10)
  | .bridge d => decide (d < 4)

/-- The pieces of a request that wait at a home to which no path remains, each with its number. -/
def State.cutOff (s : State) (q : Req) : List (Piece × Nat) :=
  q.pieces.zipIdx.filter fun e => e.1.stage == .ready && e.1.dev == s.names.devNum &&
    !s.linked (s.dieOf q.latch.ctx) (s.pieceHome q.latch.ctx q.latch.route.con e.1).1

/-- An access for which no path remains faults LINK; a write that commit has let go is charged, and the member of a group load fails (R131, R197,
R393). -/
def State.cutRequest (s : State) (r : Nat) : State :=
  match s.req? r with
  | none => s
  | some q => match s.cutOff q with
    | [] => s
    | (p, _) :: _ =>
      match q.instr with
      | .mldred _ _ _ => (s.cutOff q).foldl (fun t e => t.pieceFails q e.2 e.1 codeLink false) s
      | _ =>
        if q.go then
          let gone := fun (r : Req) => { r with pieces := r.pieces.map fun e => { e with stage := .done } }
          ((s.updReq r gone).chargeAny q.latch.ctx (unitFault (s.dieOf q.latch.ctx) 7 0 codeLink p.near 0)).writeDone r
        else s.reqFault q codeLink p.near

/-- A boundary or bridge fails: it is degraded until the module is next brought up, and accesses without a path fault LINK (R393). -/
def State.linkFails (s : State) (l : Link) : State :=
  if !goodLink l then s
  else
    let s1 := s.degrade (Link_bit l)
    let s2 := { s1 with hub := { s1.hub with crcFails := s1.hub.crcFails.filter fun e => e.1 != l } }
    (s2.reqs.map fun q => q.id).foldl State.cutRequest s2

/-- BOUNDARY_FAIL (R393). -/
def execBoundaryFail (l : Link) (s : State) : Host.Outcome State Fault Refusal := .next (s.linkFails l)

/-- A flit passes: the failures of its link before it are no longer consecutive (R393; log entry 25). -/
def State.flitPasses (s : State) (l : Link) : State :=
  { s with hub := { s.hub with crcFails := s.hub.crcFails.filter fun e => e.1 != l } }

/-- A flit fails and is sent again from the replay buffer; one that fails 64 consecutive times fails its link (R393; log entry 25). -/
def State.flitFails (s : State) (l : Link) : State :=
  let n := match s.hub.crcFails.find? fun e => e.1 == l with
    | some e => e.2 + 1
    | none => 1
  if !goodLink l || s.mgmt.degraded.getLsbD (Link_bit l) then s
  else if n ≥ 64 then s.linkFails l
  else { s with hub := { s.hub with crcFails := (s.hub.crcFails.filter fun e => e.1 != l) ++ [(l, n)] } }

/-- FLIT_CRC_FAIL (R393). -/
def execFlitCrcFail (l : Link) (s : State) : Host.Outcome State Fault Refusal := .next (s.flitFails l)

/-! ### Parity (R380) -/

/-- The record of a parity failure at a hop (R364, R380). -/
def parityRecord (die con pe : Nat) (dir : BitVec 3) (word : BitVec 5) : FaultRec :=
  { unitFault die 7 0 codeParity 0 (256 * word.toNat + dir.toNat) with
    px := pe % 4, py := pe / 4 % 4, cx := con % 8, cy := con / 8 % 8 }

/-- The dies that a packet passes: from the home that replied, or else the die of its context, to the die of its context (R12, R393). -/
def State.packetPath (s : State) (p : Packet) : List Nat :=
  let dst := s.dieOf p.ctx
  (s.route ((p.streams.head?.map fun t => t.home.1).getD dst) dst).getD []

/-- The 32-bit words that a packet's token carries (R380). -/
def Tok.words (t : Tok) : Nat :=
  match t.val with
  | .vector _ => 32
  | _ => 2

/-- A hop lies on a packet's route, and the failing word in its token: on a die of the route, at a boundary or a bridge that the route crosses
there (R12, R380; log entry 63). -/
def State.hopOn (s : State) (p : Packet) (die con pe : Nat) (dir : BitVec 3) (word : BitVec 5) : Bool :=
  let path := s.packetPath p
  let cross := path.zip (path.drop 1)
  path.contains die && decide (con < 64) && decide (pe < 16) && decide (word.toNat < p.tok.words) &&
  (if dir = 6#3 then cross.any fun e => (e.1 == die || e.2 == die) && e.1 != 8 && e.2 != 8
   else if dir = 7#3 then cross.any fun e => (e.1 == die || e.2 == die) && (e.1 == 8 || e.2 == 8)
   else true)

/-- A parity failure at a hop of its route poisons a token in transit and posts PARITY (R380). -/
def State.parity (s : State) (pkt die con pe : Nat) (dir : BitVec 3) (word : BitVec 5) : Option State :=
  match s.packets.find? fun p => p.id == pkt with
  | none => none
  | some p =>
    if s.hopOn p die con pe dir word then
      let bad := fun (k : Packet) => { k with tok := { k.tok with poison := true } }
      some (({ s with packets := updWhere (fun k => k.id == pkt) bad s.packets } : State).post p.ctx (parityRecord die con pe dir word))
    else none

/-- PARITY_ERROR (R380). -/
def execParityError (pkt die con pe : Nat) (dir : BitVec 3) (word : BitVec 5) (s : State) : Host.Outcome State Fault Refusal :=
  .next ((s.parity pkt die con pe dir word).getD s)

end Sys2Proof.Machine
end

