-- ==== Sys2Proof/Machine/Manage.lean ====
section
/-! DEFINITION. Management and power (R21, R31, R35, R47, R254, R387, R394-R400): the summary, firmware, attestation, thermal events,
power loss and bring-up. -/

namespace Sys2Proof.Machine

/-! ### The summary (R394, R395) -/

/-- A response or an event leaves on the Pelpex port (R394). -/
def State.respond (s : State) (r : Response) : State := { s with mgmt := { s.mgmt with out := s.mgmt.out ++ [r] } }

/-- Launches running: accepted, and not both complete and without a region (R101, R395). -/
def State.jobsRunning (s : State) : Nat :=
  s.loader.jobs.countP fun j => !j.refused && !(j.complete && (s.regionsOf j.id).isEmpty)

/-- The fields of the summary from offset 32 onward, as the module now stands (R395). -/
def State.summaryTail (s : State) : List Byte :=
  ((List.range 8).flatMap fun d => toBytesLE 8 (s.faults.cmask.getD d 0).toNat) ++
  ((List.range 512).flatMap fun k => toBytesLE 2 (Sparse.get 0#16 s.faults.pmask k).toNat) ++
  toBytesLE 8 s.jobsRunning ++
  (List.range 9).flatMap fun q => toBytesLE 8 (s.faults.accepted.getD q 0).toNat

/-- The hottest junction (R395). -/
def State.hottest (s : State) : Nat := s.mgmt.temps.foldl (fun m t => max m t.toNat) 0

/-- HEALTH (R395). -/
def State.health (s : State) : Nat := s.statusBits + 256 * s.hottest

/-- The summary that RESYNC returns (R395): what lies from offset 32 onward comes from the controller's copy (R394). -/
def State.summary (s : State) : List Byte :=
  toBytesLE 8 1 ++ toBytesLE 8 (2 ^ 32 * s.mgmt.secver.toNat + s.mgmt.build.toNat) ++ toBytesLE 8 s.health ++
  toBytesLE 8 s.mgmt.degraded.toNat ++ (s.mgmt.copy ++ List.replicate (1168 - s.mgmt.copy.length) 0#8)

/-- RESYNC (R395). -/
def execResync (s : State) : Host.Outcome State Fault Refusal := .next (s.respond (.resync s.summary))

/-- MGMT_REFRESH (R394): the copy is taken while MAIN_UP is 1. -/
def execMgmtRefresh (s : State) : Host.Outcome State Fault Refusal :=
  .next (if s.mgmt.mainUp then { s with mgmt := { s.mgmt with copy := s.summaryTail } } else s)

/-! ### Firmware and attestation (R397, R398) -/

/-- An image is loaded where it verifies and its security version is not below the counter, which it then raises (R397). -/
def State.loadImage (s : State) (secver build : BitVec 32) (verified : Bool) : Option State :=
  if verified && decide (secver.toNat ≥ s.mgmt.counter.toNat) then
    some { s with mgmt := { s.mgmt with secver := secver, build := build, counter := secver } }
  else none

/-- PLDM_FIRMWARE_UPDATE (R397). -/
def execPldmFirmwareUpdate (secver build : BitVec 32) (verified : Bool) (s : State) : Host.Outcome State Fault Refusal :=
  .next (match s.loadImage secver build verified with
    | some t => t.respond (.event "FIRMWARE_UPDATE" 1)
    | none => s.respond (.event "FIRMWARE_UPDATE" 0))

/-- A signed response: the next unused leaf signs it, and once all 2^20 are used the answer is ERROR, Unspecified (R397). -/
def State.signed (s : State) (code : String) (nonce : BitVec 256) (digests : List (BitVec 256)) (body : List Byte) : State :=
  if s.mgmt.leaf ≥ 2 ^ 20 then s.respond (.spdm "ERROR Unspecified" [])
  else
    let s1 := { s with mgmt := { s.mgmt with leaf := s.mgmt.leaf + 1 } }
    s1.respond (.spdm code (body ++ Config.signature s.mgmt.leaf nonce digests))

/-- A digest as bytes, most significant first. -/
def digestBytes (d : BitVec 256) : List Byte := (toBytesLE 32 d.toNat).reverse

/-- The measurement blocks: one for each firmware stage, and one for the bad-node registers (R398). -/
def State.measurements (s : State) : List (BitVec 256) :=
  let stage := fun (i : Nat) => Config.measurement i [(0, s.mgmt.secver ++ s.mgmt.build)]
  let masks := s.faults.cmask.zipIdx.map fun m => (m.2, m.1)
  let pes := s.faults.pmask.map fun e => (8 + e.1, e.2.setWidth 64)
  (List.range Config.firmwareStages).map stage ++ [Config.measurement Config.firmwareStages (masks ++ pes)]

/-- The SPDM connection state moves. -/
def State.spdmAt (s : State) (n : Nat) : State := { s with mgmt := { s.mgmt with spdm := n } }

/-- GET_VERSION (R398): SPDM 1.3. -/
def execGetVersion (s : State) : Host.Outcome State Fault Refusal := .next ((s.spdmAt 1).respond (.spdm "VERSION" [0x13#8]))

/-- GET_CAPABILITIES (R398). -/
def execGetCapabilities (s : State) : Host.Outcome State Fault Refusal :=
  .next ((s.spdmAt 2).respond (.spdm "CAPABILITIES" (toBytesLE 4 Config.spdmCapabilities.toNat)))

/-- NEGOTIATE_ALGORITHMS (R398): HSS/LMS is offered as a vendor-defined algorithm. -/
def execNegotiateAlgorithms (s : State) : Host.Outcome State Fault Refusal :=
  .next ((s.spdmAt 3).respond (.spdm "ALGORITHMS HSS/LMS LMS_SHA256_M32_H10 LMOTS_SHA256_N32_W4" []))

/-- GET_DIGESTS (R398). -/
def execGetDigests (s : State) : Host.Outcome State Fault Refusal :=
  .next (s.respond (.spdm "DIGESTS" (digestBytes Config.certificateDigest)))

/-- GET_CERTIFICATE (R398): a portion of the chain. -/
def execGetCertificate (offset length : Nat) (s : State) : Host.Outcome State Fault Refusal :=
  .next (s.respond (.spdm "CERTIFICATE" ((Config.certificate.drop offset).take length)))

/-- CHALLENGE (R398): signed with the next unused leaf. -/
def execChallenge (nonce : BitVec 256) (s : State) : Host.Outcome State Fault Refusal :=
  .next (s.signed "CHALLENGE_AUTH" nonce s.measurements (digestBytes Config.certificateDigest))

/-- GET_MEASUREMENTS (R398), signed where the request asks for it. -/
def execGetMeasurements (signed : Bool) (s : State) : Host.Outcome State Fault Refusal :=
  let body := s.measurements.flatMap digestBytes
  .next (if signed then s.signed "MEASUREMENTS" 0 s.measurements body else s.respond (.spdm "MEASUREMENTS" body))

/-! ### Power loss (R254, R399) -/

/-- A granule of a dirty class P page keeps the last write performed instead of what the persistent tier holds (R254): its page entry and
its number in the page. -/
def State.keepGranule (s : State) (pick : Nat × Nat) : State :=
  match s.owner? pick.1 with
  | none => s
  | some (d, _) =>
    let w := Memory.word s.mem pick.1
    let o := 8 * pick.2
    if durableClass d.cls && s.dirtyPage pick.1 w && decide (o + 8 ≤ pageBytes d.pgsz) then
      { s with mem := Memory.writeN s.mem (tierAddr (ptePblk w) + o) (Memory.readN s.mem (frameAddr d w + o) 8) }
    else s

/-- The memory that survives: the name table, descriptors and page tables, which the object server keeps (R29, R35), and the persistent
tier; the frames and the scratch lose their contents. -/
def survives (a : Nat) : Bool := decide (a < 2 ^ 34) || decide (tierBase ≤ a)

/-- Main-side power is lost: what runs, waits and is queued is gone; the bad-node registers, the horizon, the security counters and what
the controller holds on standby power stay (R254, R394, R397, R400). -/
def State.dropPower (s : State) : State where
  agenda := s.agenda
  turn := s.turn
  latch := Latch.empty
  doer := none
  pause := none
  away := []
  bound := []
  marks := []
  nextId := s.nextId
  freeCount := s.freeCount
  ticks := s.ticks
  mem := s.mem.filter fun c => survives c.1
  names := { s.names with tiles := [], apertures := [], moves := [], writebacks := [], pagerWoken := false }
  ctxs := []
  loader := { State.reset.loader with graphs := s.loader.graphs }
  packets := []
  reqs := []
  adds := []
  waiters := []
  releases := []
  durable := []
  engines := State.reset.engines
  tasks := []
  faults := { State.reset.faults with cmask := s.faults.cmask, pmask := s.faults.pmask }
  hub := { State.reset.hub with links := s.hub.links.map fun l => { HostLink.reset with cxl := l.cxl }, routes := s.hub.routes }
  mgmt := { s.mgmt with mainUp := false }

/-- Power is lost with the surviving writes given. -/
def State.losePower (s : State) (picks : List (Nat × Nat)) : State := (picks.foldl State.keepGranule s).dropPower

/-- POWER_LOSS (R254). -/
def execPowerLoss (picks : List (Nat × Nat)) (s : State) : Host.Outcome State Fault Refusal := .next (s.losePower picks)

/-- The junction temperature of a die, H being die 8, as it is measured (R395, R399). -/
def State.heated (s : State) (die : Nat) (celsius : BitVec 8) : State :=
  { s with mgmt := { s.mgmt with temps := updAt s.mgmt.temps die fun _ => celsius } }

/-- THERMAL_WARNING (R399): at 95 °C a warning event is sent. -/
def execThermalWarning (die : Nat) (celsius : BitVec 8) (s : State) : Host.Outcome State Fault Refusal :=
  .next (if celsius.toNat ≥ 95 then (s.heated die celsius).respond (.event "THERMAL_WARNING" die) else s)

/-- THERMAL_TRIP (R399): at 105 °C main-side power is removed at once. -/
def execThermalTrip (die : Nat) (celsius : BitVec 8) (s : State) : Host.Outcome State Fault Refusal :=
  .next (if celsius.toNat ≥ 105 then ((s.heated die celsius).respond (.event "THERMAL_TRIP" die)).losePower [] else s)

/-- DIE_SUPPLY_FAULT (R21): the die, a compute die or H, is reported degraded and carries no work. -/
def execDieSupplyFault (die : Nat) (s : State) : Host.Outcome State Fault Refusal := .next (if die < 9 then s.degrade die else s)

/-! ### Bring-up (R31, R35, R47, R387, R400) -/

/-- An object whose descriptor does not survive power-off: of class V, S or X-on-V, or found DYING (R35). -/
def Desc.goes (d : Desc) : Bool := d.dying || !durableClass d.cls

/-- The descriptors that stand. -/
def State.descriptors (s : State) : List Desc :=
  (List.range s.names.horizon.toNat).filterMap fun n => s.desc? (BitVec.ofNat 64 n)

/-- A page entry at power-up: absent, FRAME cleared, PBLK kept (R47). -/
def State.resetPte (s : State) (pte : Nat) : State :=
  let w := Memory.word s.mem pte
  if w = 0 then s else s.setPte pte (mkPte 0 (ptePblk w) 0)

/-- Every page entry of an object is reset (R47). -/
def State.resetPages (s : State) (d : Desc) : State := (radixLeaves s.mem d.root d.depth).foldl State.resetPte s

/-- The name table as it stands after power-up: page entries reset, what does not survive removed, the pools of frames and scratch full
again (R35, R47). -/
def State.restoreNames (s : State) : State :=
  let s1 := (s.descriptors.filter fun d => !d.goes).foldl State.resetPages s
  let s2 := (s.descriptors.filter Desc.goes).foldl State.freeObject s1
  { s2 with names := { s2.names with frames := Names.reset.frames, pages := [], tiles := [], apertures := [], moves := [],
                                     writebacks := [], owners := [], dying := [], pagerWoken := false } }

/-- An object of class V with one page of 64 KiB, that the object server makes for itself (R366, R387). -/
def State.serverObject (s : State) (maxr : Nat) : State × Option (BitVec 64) :=
  match s.createObject ⟨0, 0, 0, maxr, 2 ^ 16⟩ with
  | some (t, serial) => (t, some serial)
  | none => (s, none)

/-- The object server names the fault-signal object to every supervisor context, by a message to each server's endpoint: lane 0 is 0, lanes 1
and 2 hold the serial, lane 3 the device number (R366, R384; log entry 64). -/
def State.nameSignal (s : State) : State :=
  match s.faults.signal with
  | none => s
  | some n => [1, 2, 3, 4, 5].foldl (fun t e => t.enqueueMsg e 3 0 none false
      (BitVec.ofNat 512 (2 ^ 32 * (n.toNat + 2 ^ 64 * t.names.devNum.toNat)))) s

/-- A link's client context: its aperture table has entries 1 and 2 to 65, none valid yet (R387). -/
def State.makeClient (s : State) (n : Nat) : State :=
  let (s1, serial) := s.serverObject 0b00011
  s1.updLink n fun l =>
    { HostLink.reset with cxl := l.cxl
                          atp := match serial with
                            | some x => 0#43 ++ 66#21 ++ x
                            | none => 0 }

/-- Bring-up (R400): firmware; supplies; boundaries and bridges; the persistent tier; the servers' places; volatile descriptors and client
contexts; the domain. An image that does not verify, or below the security counter, is refused, and the main side stays down (R397). -/
def State.bringUp (s : State) (links : List Link) (dies : List Nat) (dev : BitVec 16) (image : BitVec 32 × BitVec 32) :
    Option State :=
  if s.mgmt.mainUp then none
  else match s.loadImage image.1 image.2 (!s.mgmt.badImage) with
    | none => some (s.respond (.event "FIRMWARE_REFUSED" 0))
    | some s1 =>
      let s2 := { s1.dropPower with ticks := 0, mgmt := { s1.mgmt with degraded := 0, replace := false } }
      let s3 := (dies.filter fun d => d < 9).foldl (fun t d => t.degrade d) s2
      let s4 := ((links.filter goodLink).foldl (fun t l => t.degrade (Link_bit l)) s3).checkReplace
      let s5 := { s4.restoreNames.placeServers with names := { s4.restoreNames.placeServers.names with devNum := dev } }
      let (s6, signal) := s5.serverObject 0b01011
      let s7 := (List.range 2).foldl State.makeClient { s6 with faults := { s6.faults with signal := signal } }
      some { s7.nameSignal with mgmt := { s7.nameSignal.mgmt with mainUp := true } }

/-- BRING_UP (R400). -/
def execBringUp (failedLinks : List Link) (failedDies : List Nat) (devNum : BitVec 16) (image : BitVec 32 × BitVec 32) (s : State) :
    Host.Outcome State Fault Refusal := .next ((s.bringUp failedLinks failedDies devNum image).getD s)

/-! ### What the outside and system software set (R31, R45, R386, R397) -/

/-- The CXL mode of a link's port (R386). -/
def State.setCxl (s : State) (link : Nat) (on : Bool) : State := s.updLink link fun l => { l with cxl := on }

/-- Whether the firmware stored for the next bring-up verifies (R397). -/
def State.setFirmware (s : State) (verifies : Bool) : State := { s with mgmt := { s.mgmt with badImage := !verifies } }

/-- System software raises the device's horizon, as it must before this device takes the number of one that has departed; it never lowers it
(R31). The dies' mirrors are written when the object server next issues a name (R32). -/
def State.raiseHorizon (s : State) (h : BitVec 64) : State :=
  if s.names.horizon.toNat < h.toNat then { s with names := { s.names with horizon := h } } else s

/-- System software sets the low-water mark of the frame pools (R45). -/
def State.setLowWater (s : State) (n : Nat) : State := { s with names := { s.names with lowWater := n } }

end Sys2Proof.Machine
end

