-- ==== Sys2Proof/Machine/Scalar.lean ====
section
/-! DEFINITION. The scalar floating-point records FADD to RSQ (R291-R299). An F32 operand on a bound channel is decoded
first, and the flags of decoding join the record's (R170). -/

namespace Sys2Proof.Machine

/-- A rounding record of two operands (R291). -/
def State.fpRec (s : State) (i : Instr) (t : FpTy) (b : FRhs) (f : FpFmt → Rm → FpVal → FpVal → Res) : State :=
  s.fireRes i fun a =>
    let x := scalarOp (.fp t) a.opL
    let y := a.frhs (.fp t) b
    let m := fmtOf t
    (f m y.2 (m.decode x.val) (m.decode y.1.val)).with [x.flags, y.1.flags]

/-- A rounding record of one operand (R291, R299). -/
def State.fpUnary (s : State) (i : Instr) (t : FpTy) (f : FpFmt → FpVal → Res) : State :=
  s.fireRes i fun a =>
    let x := scalarOp (.fp t) a.opL
    (f (fmtOf t) ((fmtOf t).decode x.val)).with [x.flags]

/-- A record on the patterns of two operands (R293-R295). -/
def State.fpPair (s : State) (i : Instr) (t : FpTy) (b : Rhs) (f : FpFmt → Word → Word → Res) : State :=
  s.fireRes i fun a =>
    let x := scalarOp (.fp t) a.opL
    let y := a.rhs (.fp t) b
    (f (fmtOf t) x.val y.val).with [x.flags, y.flags]

/-- A record on the pattern of one operand (R294, R297, R298). -/
def State.fpOne (s : State) (i : Instr) (t : FpTy) (f : FpFmt → Word → Res) : State :=
  s.fireRes i fun a =>
    let x := scalarOp (.fp t) a.opL
    (f (fmtOf t) x.val).with [x.flags]

/-- A minus B: the sum with B's sign inverted. -/
def subVal (f : FpFmt) (rm : Rm) (a b : FpVal) : Res := addVal f rm a b.flip

/-- FADD (R291, R292). -/
def execFadd (h : Hdr) (t : FpTy) (b : FRhs) (s : State) : Host.Outcome State Fault Refusal :=
  .next (s.fpRec (.fadd h t b) t b addVal)

/-- FSUB (R291, R292). -/
def execFsub (h : Hdr) (t : FpTy) (b : FRhs) (s : State) : Host.Outcome State Fault Refusal :=
  .next (s.fpRec (.fsub h t b) t b subVal)

/-- FMUL (R291, R292). -/
def execFmul (h : Hdr) (t : FpTy) (b : FRhs) (s : State) : Host.Outcome State Fault Refusal :=
  .next (s.fpRec (.fmul h t b) t b mulVal)

/-- FDIV (R291, R292). -/
def execFdiv (h : Hdr) (t : FpTy) (b : FRhs) (s : State) : Host.Outcome State Fault Refusal :=
  .next (s.fpRec (.fdiv h t b) t b divVal)

/-- FSQRT (R291, R292). -/
def execFsqrt (h : Hdr) (t : FpTy) (rm : Rm) (s : State) : Host.Outcome State Fault Refusal :=
  .next (s.fpUnary (.fsqrt h t rm) t fun f a => sqrtVal f rm a)

/-- FMA (R291, R292): one rounding. -/
def execFma (h : Hdr) (t : FpTy) (rm : Rm) (s : State) : Host.Outcome State Fault Refusal :=
  .next (s.fireRes (.fma h t rm) fun a =>
    let f := fmtOf t
    let x := scalarOp (.fp t) a.opL
    let y := scalarOp (.fp t) a.opR
    let z := scalarOp (.fp t) a.opX
    (fmaVal f rm (f.decode x.val) (f.decode y.val) (f.decode z.val)).with [x.flags, y.flags, z.flags])

/-- FMIN (R293). -/
def execFmin (h : Hdr) (t : FpTy) (b : Rhs) (s : State) : Host.Outcome State Fault Refusal :=
  .next (s.fpPair (.fmin h t b) t b fun f x y => fpMinMax f false x y)

/-- FMAX (R293). -/
def execFmax (h : Hdr) (t : FpTy) (b : Rhs) (s : State) : Host.Outcome State Fault Refusal :=
  .next (s.fpPair (.fmax h t b) t b fun f x y => fpMinMax f true x y)

/-- FABS (R294). -/
def execFabs (h : Hdr) (t : FpTy) (s : State) : Host.Outcome State Fault Refusal :=
  .next (s.fpOne (.fabs h t) t fun f x => fpSign f (fun _ => false) x)

/-- FNEG (R294). -/
def execFneg (h : Hdr) (t : FpTy) (s : State) : Host.Outcome State Fault Refusal :=
  .next (s.fpOne (.fneg h t) t fun f x => fpSign f (fun b => !b) x)

/-- FCPYS (R294): the sign is that of b's pattern. -/
def execFcpys (h : Hdr) (t : FpTy) (s : State) : Host.Outcome State Fault Refusal :=
  .next (s.fpPair (.fcpys h t) t .port fun f x y => fpSign f (fun _ => y.toNat.testBit (f.eb + f.fb)) x)

/-- FTST (R295). -/
def execFtst (h : Hdr) (c : FCond) (t : FpTy) (b : Rhs) (s : State) : Host.Outcome State Fault Refusal :=
  .next (s.fpPair (.ftst h c t b) t b fun f x y => fpTest f c x y)

/-- FCVT (R296): the type that R259 reads by is the source type. -/
def execFcvt (h : Hdr) (dst src : Ty) (rm : Rm) (s : State) : Host.Outcome State Fault Refusal :=
  .next (s.fireRes (.fcvt h dst src rm) fun a =>
    let x := scalarOp src a.opL
    (convert dst src rm x.val).with [x.flags])

/-- FRND (R297). -/
def execFrnd (h : Hdr) (t : FpTy) (rm : Rm) (s : State) : Host.Outcome State Fault Refusal :=
  .next (s.fpOne (.frnd h t rm) t fun f x => fpRound f rm x)

/-- FCLS (R298). -/
def execFcls (h : Hdr) (t : FpTy) (s : State) : Host.Outcome State Fault Refusal :=
  .next (s.fpOne (.fcls h t) t fun f x => .plain (fpClass f x))

/-- EXP2 (R299). -/
def execExp2 (h : Hdr) (t : FpTy) (rm : Rm) (s : State) : Host.Outcome State Fault Refusal :=
  .next (s.fpUnary (.exp2 h t rm) t fun f a => exp2Val f rm a)

/-- LOG2 (R299). -/
def execLog2 (h : Hdr) (t : FpTy) (rm : Rm) (s : State) : Host.Outcome State Fault Refusal :=
  .next (s.fpUnary (.log2 h t rm) t fun f a => log2Val f rm a)

/-- RSQ (R299). -/
def execRsq (h : Hdr) (t : FpTy) (rm : Rm) (s : State) : Host.Outcome State Fault Refusal :=
  .next (s.fpUnary (.rsq h t rm) t fun f a => rsqVal f rm a)

end Sys2Proof.Machine
end

