-- ==== Sys2Proof/Machine/Vector.lean ====
section
/-! DEFINITION. The vector records VADD to VMINI (R301-R314, R173): each lane has the scalar effect at its width; the flags
of the lanes computed are joined; nothing is held and nothing faults. -/

namespace Sys2Proof.Machine

/-- A decoded operand's flags joined to a lane's result. -/
def laneRes (f : Word → Word → Res) (x y : Res) : Res := (f x.val y.val).with [x.flags, y.flags]

/-- The scalar effect of an arithmetic record on one lane (R305): `fi` on integer lanes, `ff` on IEEE lanes. -/
def laneArith (t : Ty) (rm : Rm) (fi : IntTy → Word → Word → Res) (ff : FpFmt → Rm → FpVal → FpVal → Res)
    (x y : Word) : Res :=
  match t with
  | .int it => fi it x y
  | .fp ft => ff (fmtOf ft) rm ((fmtOf ft).decode x) ((fmtOf ft).decode y)
  | .tap _ => .plain x

/-- A lane-wise record that may round (R305). -/
def State.vecArith (s : State) (i : Instr) (t : Ty) (b : FRhs) (fi : IntTy → Word → Word → Res)
    (ff : FpFmt → Rm → FpVal → FpVal → Res) : State :=
  s.fireVec i t fun a =>
    let y := a.vfrhs t b
    List.zipWith (laneRes (laneArith t y.2 fi ff)) (vectorOp t a.opL) y.1

/-- A lane-wise record of two operands that does not round (R305). -/
def State.vecPair (s : State) (i : Instr) (t : Ty) (b : Rhs) (f : Word → Word → Res) : State :=
  s.fireVec i t fun a => List.zipWith (laneRes f) (vectorOp t a.opL) (a.vrhs t b)

/-- A lane-wise record of one operand (R305). -/
def State.vecOne (s : State) (i : Instr) (t : Ty) (f : Word → Res) : State :=
  s.fireVec i t fun a => (vectorOp t a.opL).map fun x => (f x.val).with [x.flags]

/-- The effect of a one-operand record on an IEEE lane. -/
def fpLane (t : FpTy) (f : FpFmt → FpVal → Res) (x : Word) : Res := f (fmtOf t) ((fmtOf t).decode x)

/-- FMIN or FMAX, or MIN or MAX, on one lane. -/
def laneMinMax (t : Ty) (isMax : Bool) (x y : Word) : Res :=
  match t with
  | .int it => if isMax then intMax it x y else intMin it x y
  | .fp ft => fpMinMax (fmtOf ft) isMax x y
  | .tap _ => .plain x

/-- VADD (R305). -/
def execVadd (h : Hdr) (t : Ty) (b : FRhs) (s : State) : Host.Outcome State Fault Refusal :=
  .next (s.vecArith (.vadd h t b) t b (intArith fun x y => x + y) addVal)

/-- VSUB (R305). -/
def execVsub (h : Hdr) (t : Ty) (b : FRhs) (s : State) : Host.Outcome State Fault Refusal :=
  .next (s.vecArith (.vsub h t b) t b (intArith fun x y => x - y) (fun f rm x y => addVal f rm x y.flip))

/-- VMUL (R305). -/
def execVmul (h : Hdr) (t : Ty) (b : FRhs) (s : State) : Host.Outcome State Fault Refusal :=
  .next (s.vecArith (.vmul h t b) t b (intArith fun x y => x * y) mulVal)

/-- VDIV (R305). -/
def execVdiv (h : Hdr) (t : Ty) (b : FRhs) (s : State) : Host.Outcome State Fault Refusal :=
  .next (s.vecArith (.vdiv h t b) t b intDiv divVal)

/-- VFMA (R305): one rounding a lane. -/
def execVfma (h : Hdr) (t : FpTy) (rm : Rm) (s : State) : Host.Outcome State Fault Refusal :=
  .next (s.fireVec (.vfma h t rm) (.fp t) fun a =>
    let f := fmtOf t
    let xs := vectorOp (.fp t) a.opL
    let yz := List.zip (vectorOp (.fp t) a.opR) (vectorOp (.fp t) a.opX)
    List.zipWith (fun x p =>
      (fmaVal f rm (f.decode x.val) (f.decode p.1.val) (f.decode p.2.val)).with [x.flags, p.1.flags, p.2.flags]) xs yz)

/-- VMIN (R305). -/
def execVmin (h : Hdr) (t : Ty) (b : Rhs) (s : State) : Host.Outcome State Fault Refusal :=
  .next (s.vecPair (.vmin h t b) t b (laneMinMax t false))

/-- VMAX (R305). -/
def execVmax (h : Hdr) (t : Ty) (b : Rhs) (s : State) : Host.Outcome State Fault Refusal :=
  .next (s.vecPair (.vmax h t b) t b (laneMinMax t true))

/-- VABS (R305): ABS or FABS. -/
def execVabs (h : Hdr) (t : Ty) (s : State) : Host.Outcome State Fault Refusal :=
  .next (s.vecOne (.vabs h t) t fun x =>
    match t with
    | .int it => .plain (extInt it.width true ((readInt it.width true x).natAbs : Int))
    | .fp ft => fpSign (fmtOf ft) (fun _ => false) x
    | .tap _ => .plain x)

/-- VNEG (R305): NEG or FNEG. -/
def execVneg (h : Hdr) (t : Ty) (s : State) : Host.Outcome State Fault Refusal :=
  .next (s.vecOne (.vneg h t) t fun x =>
    match t with
    | .int it => .plain (extInt it.width true (-(readInt it.width true x)))
    | .fp ft => fpSign (fmtOf ft) (fun b => !b) x
    | .tap _ => .plain x)

/-- VAND (R305). -/
def execVand (h : Hdr) (t : IntTy) (b : Rhs) (s : State) : Host.Outcome State Fault Refusal :=
  .next (s.vecPair (.vand h t b) (.int t) b fun x y => .plain (x &&& y))

/-- VOR (R305). -/
def execVor (h : Hdr) (t : IntTy) (b : Rhs) (s : State) : Host.Outcome State Fault Refusal :=
  .next (s.vecPair (.vor h t b) (.int t) b fun x y => .plain (x ||| y))

/-- VXOR (R305). -/
def execVxor (h : Hdr) (t : IntTy) (b : Rhs) (s : State) : Host.Outcome State Fault Refusal :=
  .next (s.vecPair (.vxor h t b) (.int t) b fun x y => .plain (x ^^^ y))

/-- VSHL (R305). -/
def execVshl (h : Hdr) (t : IntTy) (b : Rhs) (s : State) : Host.Outcome State Fault Refusal :=
  .next (s.vecPair (.vshl h t b) (.int t) b (intShl t))

/-- VSHR (R305). -/
def execVshr (h : Hdr) (t : IntTy) (b : Rhs) (s : State) : Host.Outcome State Fault Refusal :=
  .next (s.vecPair (.vshr h t b) (.int t) b (intShr t))

/-- VSAR (R305). -/
def execVsar (h : Hdr) (t : IntTy) (b : Rhs) (s : State) : Host.Outcome State Fault Refusal :=
  .next (s.vecPair (.vsar h t b) (.int t) b (intSar t))

/-- The FTST condition of the same name (R306). -/
def Cond_fp (c : Cond) : FCond :=
  match c with
  | .eq => .eq | .ne => .ne | .lt => .lt | .le => .le | .gt => .gt | _ => .ge

/-- VTST on one lane (R306). -/
def laneTest (t : Ty) (c : Cond) (x y : Word) : Res :=
  match t with
  | .int it => .plain (boolWord (c.holds (it.ext (it.read x)) (it.ext (it.read y))))
  | .fp ft => fpTest (fmtOf ft) (Cond_fp c) x y
  | .tap _ => .plain 0

/-- The mask whose bit i is the low bit of lane i's result. -/
def maskWord (rs : List Res) : Word := BitVec.ofNat 64 (rs.foldr (fun r m => r.val.toNat % 2 + 2 * m) 0)

/-- VTST (R306). -/
def execVtst (h : Hdr) (t : Ty) (c : Cond) (s : State) : Host.Outcome State Fault Refusal :=
  .next (s.fire (.vtst h t c) fun u =>
    let rs := List.zipWith (laneRes (laneTest t c)) (vectorOp t u.latch.opL) (vectorOp t u.latch.opR)
    (u.holdFlags (orFlags rs)).result (.vtst h t c) (.scalar (maskWord rs)))

/-- VSEL (R307): raw lanes; an F32 operand on a bound channel is decoded by R303. -/
def execVsel (h : Hdr) (t : Ty) (s : State) : Host.Outcome State Fault Refusal :=
  .next (s.fireVec (.vsel h t) t fun a =>
    let m := a.opX.word
    let xy := List.zip (vectorOp t a.opL) (vectorOp t a.opR)
    xy.zipIdx.map fun e => (Res.plain (if m.getLsbD e.2 then e.1.1.val else e.1.2.val)).with
      [e.1.1.flags, e.1.2.flags])

/-- VCVT (R308). -/
def execVcvt (h : Hdr) (dst src : Ty) (rm : Rm) (part : BitVec 2) (s : State) : Host.Outcome State Fault Refusal :=
  .next (s.fireVec (.vcvt h dst src rm part) dst fun a =>
    let n := 1024 / Nat.max src.lane dst.lane
    let src0 := if src.lane < dst.lane then n * part.toNat else 0
    let dst0 := if dst.lane < src.lane then n * part.toNat else 0
    let xs := ((vectorOp src a.opL).drop src0).take n
    List.replicate dst0 (Res.plain 0) ++ xs.map fun x => (convert dst src rm x.val).with [x.flags])

/-- VEXP2 (R305). -/
def execVexp2 (h : Hdr) (t : FpTy) (rm : Rm) (s : State) : Host.Outcome State Fault Refusal :=
  .next (s.vecOne (.vexp2 h t rm) (.fp t) (fpLane t fun f a => exp2Val f rm a))

/-- VLOG2 (R305). -/
def execVlog2 (h : Hdr) (t : FpTy) (rm : Rm) (s : State) : Host.Outcome State Fault Refusal :=
  .next (s.vecOne (.vlog2 h t rm) (.fp t) (fpLane t fun f a => log2Val f rm a))

/-- VRSQ (R305). -/
def execVrsq (h : Hdr) (t : FpTy) (rm : Rm) (s : State) : Host.Outcome State Fault Refusal :=
  .next (s.vecOne (.vrsq h t rm) (.fp t) (fpLane t fun f a => rsqVal f rm a))

/-- VBCAST (R309). An F32 operand on a bound channel is decoded, with its flags, as R303 has it, where R309 copies raw bits and raises no flag
(DESIGN CHOICE, log entry 83). -/
def execVbcast (h : Hdr) (t : Ty) (s : State) : Host.Outcome State Fault Refusal :=
  .next (s.fireVec (.vbcast h t) t fun a => List.replicate t.lanes (scalarOp t a.opL))

/-- VEXTR (R309). An F32 operand on a bound channel is decoded, with the flags of the lane taken alone (R303; DESIGN CHOICE, log entry 83). -/
def execVextr (h : Hdr) (t : Ty) (lane : BitVec 7) (s : State) : Host.Outcome State Fault Refusal :=
  .next (s.fireRes (.vextr h t lane) fun a =>
    let x := (vectorOp t a.opL).getD lane.toNat (.plain 0)
    let v := match t with
      | .int it => it.ext (it.read x.val)
      | _ => laneBits t x.val
    ⟨v, x.flags⟩)

/-- VINS (R309). F32 operands on bound channels are decoded, with the flags of the lanes that stay and of the one put in (R303; DESIGN CHOICE,
log entry 83). -/
def execVins (h : Hdr) (t : Ty) (lane : BitVec 7) (s : State) : Host.Outcome State Fault Refusal :=
  .next (s.fireVec (.vins h t lane) t fun a => (vectorOp t a.opL).set lane.toNat (scalarOp t a.opR))

/-- VPERM (R310). -/
def execVperm (h : Hdr) (t : Ty) (s : State) : Host.Outcome State Fault Refusal :=
  .next (s.fireVec (.vperm h t) t fun a =>
    let xs := vectorOp t a.opL
    (vectorOp t a.opR).map fun j => (xs.getD (j.val.toNat % t.lanes) (.plain 0)).with [j.flags])

/-- VIOTA (R309). -/
def execViota (h : Hdr) (t : IntTy) (s : State) : Host.Outcome State Fault Refusal :=
  .next (s.fireVec (.viota h t) (.int t) fun a =>
    (List.range (Ty.int t).lanes).map fun i => .plain (a.opL.word + BitVec.ofNat 64 i))

/-! ### Reductions (R173, R311-R314) -/

/-- The lanes that a mask keeps, an excluded lane absent; with no mask, every lane (R302). -/
def present {α : Type} (mk : Bool) (m : Word) (xs : List α) : List (Option α) :=
  xs.zipIdx.map fun e => if !mk || m.getLsbD e.2 then some e.1 else none

/-- One level of the pairwise tree, with the flags of its roundings (R173). -/
def treeLevel (rm : Rm) : List (Option Word) → List (Option Word) × Word
  | some x :: some y :: rest =>
    let f := fmtOf .f32
    let r := addVal f rm (f.decode x) (f.decode y)
    let q := treeLevel rm rest
    (some r.val :: q.1, r.flags ||| q.2)
  | some x :: none :: rest => let q := treeLevel rm rest; (some x :: q.1, q.2)
  | none :: y :: rest => let q := treeLevel rm rest; (y :: q.1, q.2)
  | [x] => ([x], 0)
  | [] => ([], 0)

/-- The tree of R173, `n` levels: F32 sums, +0.0 where every lane is absent. -/
def treeSum (rm : Rm) : Nat → List (Option Word) → Res
  | 0, xs => .plain ((xs.headD none).getD 0)
  | n + 1, xs =>
    let q := treeLevel rm xs
    (treeSum rm n q.1).with [q.2]

/-- A present lane of an IEEE type as F32: exact, a NaN canonical, NV for a signalling one (R159, R311). -/
def laneF32 (t : FpTy) (x : Res) : Res := (toFp (fmtOf .f32) .rne ((fmtOf t).decode x.val)).with [x.flags]

/-- The flags of the lanes that are present. -/
def presentFlags (xs : List (Option Res)) : Word := orFlags (xs.filterMap id)

/-- The patterns of the lanes. -/
def presentVals (xs : List (Option Res)) : List (Option Word) := xs.map fun x => x.map Res.val

/-- VRED on integer lanes (R311). -/
def redInt (t : IntTy) (f : RedFn) (xs : List (Option Res)) : Res :=
  let vs := xs.filterMap fun x => x.map fun r => t.read r.val
  match f, vs with
  | .add, _ => .plain (BitVec.ofInt 64 (vs.foldl (fun a v => a + v) 0))
  | .min, [] => .plain (t.ext t.hi)
  | .max, [] => .plain (t.ext t.lo)
  | .min, v :: rest => .plain (t.ext (rest.foldl min v))
  | .max, v :: rest => .plain (t.ext (rest.foldl max v))

/-- VRED on IEEE lanes (R311). -/
def redFp (t : FpTy) (f : RedFn) (rm : Rm) (xs : List (Option Res)) : Res :=
  let ys := xs.map fun x => x.map (laneF32 t)
  let m := fmtOf .f32
  match f with
  | .add => (treeSum rm 7 (presentVals ys)).with [presentFlags ys]
  | f =>
    let isMax := f == .max
    let vs := ys.filterMap fun y => y.map Res.val
    let r := match vs with
      | [] => m.infinity isMax
      | v :: rest => rest.foldl (fun a w => (fpMinMax m isMax a w).val) v
    ⟨r, presentFlags ys⟩

/-- VRED (R311). -/
def execVred (h : Hdr) (t : Ty) (f : RedFn) (rm : Rm) (mk : Bool) (s : State) : Host.Outcome State Fault Refusal :=
  .next (s.fireRes (.vred h t f rm mk) fun a =>
    let xs := present mk a.opR.word (vectorOp t a.opL)
    match t with
    | .int it => redInt it f xs
    | .fp ft => redFp ft f rm xs
    | .tap _ => .plain 0)

/-- The running sums of VSCAN from the previous result lane, none before lane 0 (R312). -/
def scanFrom (t : Ty) (rm : Rm) : Option Word → List (Option Res) → List Res
  | _, [] => []
  | p, none :: rest =>
    let v := p.getD 0
    .plain v :: scanFrom t rm (some v) rest
  | none, some x :: rest =>
    let r := match t with
      | .fp ft => if ((fmtOf ft).decode x.val).isNan then (toFp (fmtOf ft) .rne ((fmtOf ft).decode x.val)).with [x.flags]
        else x
      | _ => x
    r :: scanFrom t rm (some r.val) rest
  | some v, some x :: rest =>
    let r := (laneArith t rm (intArith fun a b => a + b) addVal v x.val).with [x.flags]
    r :: scanFrom t rm (some r.val) rest

/-- VSCAN (R312). -/
def execVscan (h : Hdr) (t : Ty) (rm : Rm) (mk : Bool) (s : State) : Host.Outcome State Fault Refusal :=
  .next (s.fireVec (.vscan h t rm mk) t fun a => scanFrom t rm none (present mk a.opR.word (vectorOp t a.opL)))

/-- VDOT on IEEE lanes: each product exact and rounded once to F32, then the tree (R313). -/
def dotFp (t : FpTy) (rm : Rm) (xs : List (Option (Res × Res))) : Res :=
  let m := fmtOf .f32
  let ps := xs.map fun x => x.map fun q =>
    (mulVal m rm ((fmtOf t).decode q.1.val) ((fmtOf t).decode q.2.val)).with [q.1.flags, q.2.flags]
  (treeSum rm 7 (presentVals ps)).with [presentFlags ps]

/-- VDOT on integer lanes: exact, modulo 2^64 (R313). -/
def dotInt (t : IntTy) (xs : List (Option (Res × Res))) : Res :=
  .plain (BitVec.ofInt 64 ((xs.filterMap id).foldl (fun a q => a + t.read q.1.val * t.read q.2.val) 0))

/-- VDOT (R313). -/
def execVdot (h : Hdr) (t : Ty) (rm : Rm) (mk : Bool) (s : State) : Host.Outcome State Fault Refusal :=
  .next (s.fireRes (.vdot h t rm mk) fun a =>
    let xs := present mk a.opX.word (List.zip (vectorOp t a.opL) (vectorOp t a.opR))
    match t with
    | .int it => dotInt it xs
    | .fp ft => dotFp ft rm xs
    | .tap _ => .plain 0)

/-- Whether lane value `x` is strictly better than `y` (R314). -/
def laneBetter (t : Ty) (isMax : Bool) (x y : Word) : Bool :=
  match t with
  | .int it => if isMax then it.read x > it.read y else it.read x < it.read y
  | .fp ft =>
    let f := fmtOf ft
    if isMax then fpBelow (f.decode y) (f.decode x) else fpBelow (f.decode x) (f.decode y)
  | .tap _ => false

/-- A lane that VMAXI and VMINI never choose. -/
def laneNan (t : Ty) (x : Word) : Bool :=
  match t with
  | .fp ft => ((fmtOf ft).decode x).isNan
  | _ => false

/-- A signalling NaN lane sets NV (R159). -/
def laneSnan (t : Ty) (x : Word) : Word :=
  match t with
  | .fp ft => nvOf [(fmtOf ft).decode x]
  | _ => 0

/-- The number of the best lane (R314): ties to the lower lane; the lane count with NV where there is none. -/
def bestLane (t : Ty) (isMax : Bool) (xs : List (Option Res)) : Res :=
  let fl := xs.foldl (fun a x => match x with
    | some r => a ||| r.flags ||| laneSnan t r.val
    | none => a) 0
  let step := fun (best : Option (Word × Nat)) (e : Option Res × Nat) =>
    match e.1 with
    | none => best
    | some r =>
      if laneNan t r.val then best
      else match best with
        | none => some (r.val, e.2)
        | some b => if laneBetter t isMax r.val b.1 then some (r.val, e.2) else best
  match xs.zipIdx.foldl step none with
  | some b => ⟨BitVec.ofNat 64 b.2, fl⟩
  | none => ⟨BitVec.ofNat 64 t.lanes, fl ||| flagNV⟩

/-- VMAXI (R314). -/
def execVmaxi (h : Hdr) (t : Ty) (mk : Bool) (s : State) : Host.Outcome State Fault Refusal :=
  .next (s.fireRes (.vmaxi h t mk) fun a => bestLane t true (present mk a.opR.word (vectorOp t a.opL)))

/-- VMINI (R314). -/
def execVmini (h : Hdr) (t : Ty) (mk : Bool) (s : State) : Host.Outcome State Fault Refusal :=
  .next (s.fireRes (.vmini h t mk) fun a => bestLane t false (present mk a.opR.word (vectorOp t a.opL)))

end Sys2Proof.Machine
end

