-- ==== Sys2Proof/Machine/Dispatch.lean ====
section
/-! DEFINITION. One arm for each constructor of `Instr`: a direct call of its meaning, or its refusal by name. -/

namespace Sys2Proof.Machine
open Sys2Proof

/-- What one record or one event does to the machine. -/
def exec (i : Instr) (s : State) : Host.Outcome State Fault Refusal :=
  match i with
  | .read h r => Sys2Proof.Machine.execRead h r s
  | .mov h vk dly => Sys2Proof.Machine.execMov h vk dly s
  | .movx h vk t2 t3 => Sys2Proof.Machine.execMovx h vk t2 t3 s
  | .const h t v => Sys2Proof.Machine.execConst h t v s
  | .null h vk => Sys2Proof.Machine.execNull h vk s
  | .sel h vk => Sys2Proof.Machine.execSel h vk s
  | .gate h vk => Sys2Proof.Machine.execGate h vk s
  | .exitJmp h blk => Sys2Proof.Machine.execExitJmp h blk s
  | .exitJmpi h => Sys2Proof.Machine.execExitJmpi h s
  | .exitCall h blk => Sys2Proof.Machine.execExitCall h blk s
  | .exitRet h => Sys2Proof.Machine.execExitRet h s
  | .exitStop h => Sys2Proof.Machine.execExitStop h s
  | .itin h vk => Sys2Proof.Machine.execItin h vk s
  | .itnx h vk => Sys2Proof.Machine.execItnx h vk s
  | .itout h vk => Sys2Proof.Machine.execItout h vk s
  | .tagr h f vk => Sys2Proof.Machine.execTagr h f vk s
  | .wfld h k => Sys2Proof.Machine.execWfld h k s
  | .slks h b => Sys2Proof.Machine.execSlks h b s
  | .slkr h vk => Sys2Proof.Machine.execSlkr h vk s
  | .add h t b => Sys2Proof.Machine.execAdd h t b s
  | .sub h t b => Sys2Proof.Machine.execSub h t b s
  | .mul h t b => Sys2Proof.Machine.execMul h t b s
  | .mulh h t b => Sys2Proof.Machine.execMulh h t b s
  | .mulw h t b => Sys2Proof.Machine.execMulw h t b s
  | .div h t b => Sys2Proof.Machine.execDiv h t b s
  | .rem h t b => Sys2Proof.Machine.execRem h t b s
  | .min h t b => Sys2Proof.Machine.execMin h t b s
  | .max h t b => Sys2Proof.Machine.execMax h t b s
  | .adds h t b => Sys2Proof.Machine.execAdds h t b s
  | .subs h t b => Sys2Proof.Machine.execSubs h t b s
  | .and h b => Sys2Proof.Machine.execAnd h b s
  | .or h b => Sys2Proof.Machine.execOr h b s
  | .xor h b => Sys2Proof.Machine.execXor h b s
  | .andn h b => Sys2Proof.Machine.execAndn h b s
  | .not h => Sys2Proof.Machine.execNot h s
  | .neg h w => Sys2Proof.Machine.execNeg h w s
  | .abs h w => Sys2Proof.Machine.execAbs h w s
  | .shl h t b => Sys2Proof.Machine.execShl h t b s
  | .shr h t b => Sys2Proof.Machine.execShr h t b s
  | .sar h t b => Sys2Proof.Machine.execSar h t b s
  | .rol h t b => Sys2Proof.Machine.execRol h t b s
  | .ror h t b => Sys2Proof.Machine.execRor h t b s
  | .clz h w => Sys2Proof.Machine.execClz h w s
  | .ctz h w => Sys2Proof.Machine.execCtz h w s
  | .popc h w => Sys2Proof.Machine.execPopc h w s
  | .bfx h pos lenM1 sx => Sys2Proof.Machine.execBfx h pos lenM1 sx s
  | .bfi h pos lenM1 => Sys2Proof.Machine.execBfi h pos lenM1 s
  | .sext h w => Sys2Proof.Machine.execSext h w s
  | .zext h w => Sys2Proof.Machine.execZext h w s
  | .tst h c b => Sys2Proof.Machine.execTst h c b s
  | .lea h b => Sys2Proof.Machine.execLea h b s
  | .apx h b => Sys2Proof.Machine.execApx h b s
  | .fadd h t b => Sys2Proof.Machine.execFadd h t b s
  | .fsub h t b => Sys2Proof.Machine.execFsub h t b s
  | .fmul h t b => Sys2Proof.Machine.execFmul h t b s
  | .fdiv h t b => Sys2Proof.Machine.execFdiv h t b s
  | .fsqrt h t rm => Sys2Proof.Machine.execFsqrt h t rm s
  | .fma h t rm => Sys2Proof.Machine.execFma h t rm s
  | .fmin h t b => Sys2Proof.Machine.execFmin h t b s
  | .fmax h t b => Sys2Proof.Machine.execFmax h t b s
  | .fabs h t => Sys2Proof.Machine.execFabs h t s
  | .fneg h t => Sys2Proof.Machine.execFneg h t s
  | .fcpys h t => Sys2Proof.Machine.execFcpys h t s
  | .ftst h c t b => Sys2Proof.Machine.execFtst h c t b s
  | .fcvt h d src rm => Sys2Proof.Machine.execFcvt h d src rm s
  | .frnd h t rm => Sys2Proof.Machine.execFrnd h t rm s
  | .fcls h t => Sys2Proof.Machine.execFcls h t s
  | .exp2 h t rm => Sys2Proof.Machine.execExp2 h t rm s
  | .log2 h t rm => Sys2Proof.Machine.execLog2 h t rm s
  | .rsq h t rm => Sys2Proof.Machine.execRsq h t rm s
  | .vadd h t b => Sys2Proof.Machine.execVadd h t b s
  | .vsub h t b => Sys2Proof.Machine.execVsub h t b s
  | .vmul h t b => Sys2Proof.Machine.execVmul h t b s
  | .vdiv h t b => Sys2Proof.Machine.execVdiv h t b s
  | .vfma h t rm => Sys2Proof.Machine.execVfma h t rm s
  | .vmin h t b => Sys2Proof.Machine.execVmin h t b s
  | .vmax h t b => Sys2Proof.Machine.execVmax h t b s
  | .vabs h t => Sys2Proof.Machine.execVabs h t s
  | .vneg h t => Sys2Proof.Machine.execVneg h t s
  | .vand h t b => Sys2Proof.Machine.execVand h t b s
  | .vor h t b => Sys2Proof.Machine.execVor h t b s
  | .vxor h t b => Sys2Proof.Machine.execVxor h t b s
  | .vshl h t b => Sys2Proof.Machine.execVshl h t b s
  | .vshr h t b => Sys2Proof.Machine.execVshr h t b s
  | .vsar h t b => Sys2Proof.Machine.execVsar h t b s
  | .vtst h t c => Sys2Proof.Machine.execVtst h t c s
  | .vsel h t => Sys2Proof.Machine.execVsel h t s
  | .vcvt h d src rm part => Sys2Proof.Machine.execVcvt h d src rm part s
  | .vexp2 h t rm => Sys2Proof.Machine.execVexp2 h t rm s
  | .vlog2 h t rm => Sys2Proof.Machine.execVlog2 h t rm s
  | .vrsq h t rm => Sys2Proof.Machine.execVrsq h t rm s
  | .vbcast h t => Sys2Proof.Machine.execVbcast h t s
  | .vextr h t lane => Sys2Proof.Machine.execVextr h t lane s
  | .vins h t lane => Sys2Proof.Machine.execVins h t lane s
  | .vperm h t => Sys2Proof.Machine.execVperm h t s
  | .viota h t => Sys2Proof.Machine.execViota h t s
  | .vred h t f rm mk => Sys2Proof.Machine.execVred h t f rm mk s
  | .vscan h t rm mk => Sys2Proof.Machine.execVscan h t rm mk s
  | .vdot h t rm mk => Sys2Proof.Machine.execVdot h t rm mk s
  | .vmaxi h t mk => Sys2Proof.Machine.execVmaxi h t mk s
  | .vmini h t mk => Sys2Proof.Machine.execVmini h t mk s
  | .amax h t => Sys2Proof.Machine.execAmax h t s
  | .cvq h t ch => Sys2Proof.Machine.execCvq h t ch s
  | .cvdq h t qtr => Sys2Proof.Machine.execCvdq h t qtr s
  | .chset h => Sys2Proof.Machine.execChset h s
  | .chtab h => Sys2Proof.Machine.execChtab h s
  | .sclw h sreg qmask => Sys2Proof.Machine.execSclw h sreg qmask s
  | .vpk h => Sys2Proof.Machine.execVpk h s
  | .vupk h => Sys2Proof.Machine.execVupk h s
  | .rngs h => Sys2Proof.Machine.execRngs h s
  | .rngn h drw => Sys2Proof.Machine.execRngn h drw s
  | .rngf h drw => Sys2Proof.Machine.execRngf h drw s
  | .sample h drw => Sys2Proof.Machine.execSample h drw s
  | .topk h b => Sys2Proof.Machine.execTopk h b s
  | .accept h dl near => Sys2Proof.Machine.execAccept h dl near s
  | .ld h t m ch => Sys2Proof.Machine.execLd h t m ch s
  | .st h t m => Sys2Proof.Machine.execSt h t m s
  | .vld h t m ch => Sys2Proof.Machine.execVld h t m ch s
  | .vst h t m => Sys2Proof.Machine.execVst h t m s
  | .vldg h t m ch => Sys2Proof.Machine.execVldg h t m ch s
  | .vsts h t m => Sys2Proof.Machine.execVsts h t m s
  | .ldr h t m ch => Sys2Proof.Machine.execLdr h t m ch s
  | .pref h m pgs => Sys2Proof.Machine.execPref h m pgs s
  | .red h t m f => Sys2Proof.Machine.execRed h t m f s
  | .vredm h t m f => Sys2Proof.Machine.execVredm h t m f s
  | .mldred h lsid ofs => Sys2Proof.Machine.execMldred h lsid ofs s
  | .mldredReduce req => Sys2Proof.Machine.execMldredReduce req s
  | .gset h lsid => Sys2Proof.Machine.execGset h lsid s
  | .copy h lsid e => Sys2Proof.Machine.execCopy h lsid e s
  | .persist h m kn => Sys2Proof.Machine.execPersist h m kn s
  | .persistComplete req => Sys2Proof.Machine.execPersistComplete req s
  | .cadd h m scope near => Sys2Proof.Machine.execCadd h m scope near s
  | .caddr h m scope near => Sys2Proof.Machine.execCaddr h m scope near s
  | .caddrReply req => Sys2Proof.Machine.execCaddrReply req s
  | .cwait h m scope near => Sys2Proof.Machine.execCwait h m scope near s
  | .cpoll h m scope near => Sys2Proof.Machine.execCpoll h m scope near s
  | .counterStep pa reqs => Sys2Proof.Machine.execCounterStep pa reqs s
  | .durableStepComplete pa => Sys2Proof.Machine.execDurableStepComplete pa s
  | .promoteAnswer task => Sys2Proof.Machine.execPromoteAnswer task s
  | .mma h t e => Sys2Proof.Machine.execMma h t e s
  | .mmaz h e => Sys2Proof.Machine.execMmaz h e s
  | .accld h e => Sys2Proof.Machine.execAccld h e s
  | .accst h t e => Sys2Proof.Machine.execAccst h t e s
  | .lxtab h e => Sys2Proof.Machine.execLxtab h e s
  | .lxctx h e => Sys2Proof.Machine.execLxctx h e s
  | .lxrun h e => Sys2Proof.Machine.execLxrun h e s
  | .lxtin h e => Sys2Proof.Machine.execLxtin h e s
  | .lxtout h e => Sys2Proof.Machine.execLxtout h e s
  | .spawn h na blk => Sys2Proof.Machine.execSpawn h na blk s
  | .spawnNowait h na blk => Sys2Proof.Machine.execSpawnNowait h na blk s
  | .spawnResume region => Sys2Proof.Machine.execSpawnResume region s
  | .retn h => Sys2Proof.Machine.execRetn h s
  | .launch h => Sys2Proof.Machine.execLaunch h s
  | .cancel h => Sys2Proof.Machine.execCancel h s
  | .cancelLaunch h => Sys2Proof.Machine.execCancelLaunch h s
  | .cancelMarkSeen c => Sys2Proof.Machine.execCancelMarkSeen c s
  | .trap h code => Sys2Proof.Machine.execTrap h code s
  | .fltr h => Sys2Proof.Machine.execFltr h s
  | .msg h => Sys2Proof.Machine.execMsg h s
  | .msgReply h => Sys2Proof.Machine.execMsgReply h s
  | .msgr h => Sys2Proof.Machine.execMsgr h s
  | .msgrReceive c => Sys2Proof.Machine.execMsgrReceive c s
  | .dusk h => Sys2Proof.Machine.execDusk h s
  | .duskSave h => Sys2Proof.Machine.execDuskSave h s
  | .duskMarkerArrival region block node => Sys2Proof.Machine.execDuskMarkerArrival region block node s
  | .ctxsv h => Sys2Proof.Machine.execCtxsv h s
  | .ctxld h => Sys2Proof.Machine.execCtxld h s
  | .litw h node => Sys2Proof.Machine.execLitw h node s
  | .badn h => Sys2Proof.Machine.execBadn h s
  | .apset h => Sys2Proof.Machine.execApset h s
  | .time h => Sys2Proof.Machine.execTime h s
  | .retire h => Sys2Proof.Machine.execRetire h s
  | .tokenArrival pkt => Sys2Proof.Machine.execTokenArrival pkt s
  | .blockFetch c pred => Sys2Proof.Machine.execBlockFetch c pred s
  | .commit c => Sys2Proof.Machine.execCommit c s
  | .commitWatchdog c => Sys2Proof.Machine.execCommitWatchdog c s
  | .tick onWire => Sys2Proof.Machine.execTick onWire s
  | .tileAccess req => Sys2Proof.Machine.execTileAccess req s
  | .pageFillComplete pte => Sys2Proof.Machine.execPageFillComplete pte s
  | .pagerDecline pte => Sys2Proof.Machine.execPagerDecline pte s
  | .pagerMigrateStart pte die => Sys2Proof.Machine.execPagerMigrateStart pte die s
  | .pagerEvictStart pte => Sys2Proof.Machine.execPagerEvictStart pte s
  | .migrationComplete pte => Sys2Proof.Machine.execMigrationComplete pte s
  | .evictionComplete pte => Sys2Proof.Machine.execEvictionComplete pte s
  | .writebackComplete pte => Sys2Proof.Machine.execWritebackComplete pte s
  | .heatWindowEnd => Sys2Proof.Machine.execHeatWindowEnd s
  | .homePerform req piece => Sys2Proof.Machine.execHomePerform req piece s
  | .peerAccess dev req => Sys2Proof.Machine.execPeerAccess dev req s
  | .streamerAccept die k req => Sys2Proof.Machine.execStreamerAccept die k req s
  | .streamerComplete die k req => Sys2Proof.Machine.execStreamerComplete die k req s
  | .islandAccept die k req => Sys2Proof.Machine.execIslandAccept die k req s
  | .islandComplete die k => Sys2Proof.Machine.execIslandComplete die k s
  | .latticeAccept die req => Sys2Proof.Machine.execLatticeAccept die req s
  | .latticeComplete die => Sys2Proof.Machine.execLatticeComplete die s
  | .tcbReady task => Sys2Proof.Machine.execTcbReady task s
  | .taskDispatch die => Sys2Proof.Machine.execTaskDispatch die s
  | .taskSteal die => Sys2Proof.Machine.execTaskSteal die s
  | .taskFinish task => Sys2Proof.Machine.execTaskFinish task s
  | .regionPlace job => Sys2Proof.Machine.execRegionPlace job s
  | .itemStart job region => Sys2Proof.Machine.execItemStart job region s
  | .itemFinish job item => Sys2Proof.Machine.execItemFinish job item s
  | .regionFree job => Sys2Proof.Machine.execRegionFree job s
  | .launchSubmit msg => Sys2Proof.Machine.execLaunchSubmit msg s
  | .jobRecordRead msg => Sys2Proof.Machine.execJobRecordRead msg s
  | .haltReport c => Sys2Proof.Machine.execHaltReport c s
  | .haltAction msg => Sys2Proof.Machine.execHaltAction msg s
  | .regionList msg => Sys2Proof.Machine.execRegionList msg s
  | .objectCreate msg => Sys2Proof.Machine.execObjectCreate msg s
  | .apertureBind msg => Sys2Proof.Machine.execApertureBind msg s
  | .apertureUnbind msg => Sys2Proof.Machine.execApertureUnbind msg s
  | .objectRetire msg => Sys2Proof.Machine.execObjectRetire msg s
  | .objectReclaim serial => Sys2Proof.Machine.execObjectReclaim serial s
  | .parityError pkt die con pe dir word => Sys2Proof.Machine.execParityError pkt die con pe dir word s
  | .peerPacketReceive dev seq p => Sys2Proof.Machine.execPeerPacketReceive dev seq p s
  | .sack dev base bitmap => Sys2Proof.Machine.execSack dev base bitmap s
  | .retransmitTimeout dev seq => Sys2Proof.Machine.execRetransmitTimeout dev seq s
  | .flitCrcFail l => Sys2Proof.Machine.execFlitCrcFail l s
  | .boundaryFail l => Sys2Proof.Machine.execBoundaryFail l s
  | .hostWindowAccess link off size write => Sys2Proof.Machine.execHostWindowAccess link off size write s
  | .backInvalidate link window region => Sys2Proof.Machine.execBackInvalidate link window region s
  | .backInvalidateComplete link window region dirty => Sys2Proof.Machine.execBackInvalidateComplete link window region dirty s
  | .ownerHoldExpire link window region => Sys2Proof.Machine.execOwnerHoldExpire link window region s
  | .hostCounterRead link off size => Sys2Proof.Machine.execHostCounterRead link off size s
  | .hostCounterWrite link off size v => Sys2Proof.Machine.execHostCounterWrite link off size v s
  | .hostLaunchWrite link v => Sys2Proof.Machine.execHostLaunchWrite link v s
  | .hostCodeWrite link v => Sys2Proof.Machine.execHostCodeWrite link v s
  | .codeBindComplete link => Sys2Proof.Machine.execCodeBindComplete link s
  | .hostRegWrite link off v => Sys2Proof.Machine.execHostRegWrite link off v s
  | .resync => Sys2Proof.Machine.execResync s
  | .mgmtRefresh => Sys2Proof.Machine.execMgmtRefresh s
  | .pldmFirmwareUpdate secver build verified => Sys2Proof.Machine.execPldmFirmwareUpdate secver build verified s
  | .getVersion => Sys2Proof.Machine.execGetVersion s
  | .getCapabilities => Sys2Proof.Machine.execGetCapabilities s
  | .negotiateAlgorithms => Sys2Proof.Machine.execNegotiateAlgorithms s
  | .getDigests => Sys2Proof.Machine.execGetDigests s
  | .getCertificate offset length => Sys2Proof.Machine.execGetCertificate offset length s
  | .challenge nonce => Sys2Proof.Machine.execChallenge nonce s
  | .getMeasurements signed => Sys2Proof.Machine.execGetMeasurements signed s
  | .thermalWarning die celsius => Sys2Proof.Machine.execThermalWarning die celsius s
  | .thermalTrip die celsius => Sys2Proof.Machine.execThermalTrip die celsius s
  | .powerLoss picks => Sys2Proof.Machine.execPowerLoss picks s
  | .bringUp failedLinks failedDies devNum image => Sys2Proof.Machine.execBringUp failedLinks failedDies devNum image s
  | .dieSupplyFault die => Sys2Proof.Machine.execDieSupplyFault die s
  | .tableWalkComplete die tile walker => Sys2Proof.Machine.execTableWalkComplete die tile walker s

end Sys2Proof.Machine
end

