-- ==== Sys2Proof/Machine/Sched.lean ====
section
/-! DEFINITION. Which agent moves next when the agenda names none (log entry 1), and the machine in which one record stands
alone and ready. -/

namespace Sys2Proof.Machine

/-! ### Events (log entry 1) -/

/-- Every exit of a block is a RET, whose prediction is the top of the context's return stack (R270; log entry 1). -/
def Placed.onlyRet (p : Placed) : Bool :=
  !p.exits.isEmpty && p.nodes.all fun ni => !ni.2.isExit || (match ni.2 with
    | .exitRet _ => true
    | _ => false)

/-- What the predictor names for the block that a context fetches next (R121, R270). -/
def State.prediction (s : State) (x : Ctx) : Option Succ :=
  match x.fetches, s.regionOf x.id with
  | some (.block a, _), some g =>
    let p := g.block? a
    if p.any Placed.onlyRet && !x.rstack.isEmpty then x.rstack.head?.map Succ.block
    else
      let con := (p.map fun p => p.con).getD 0
      let i : Word := BitVec.ofNat 64 (a.toNat / 2048 % 512)
      (s.loader.predictor.find? fun p => p.1 == g.die && p.2.1 == con && p.2.2.1 == i).map fun p => p.2.2.2
  | _, _ => none

/-- A move that may come next, and whether it is possible in the state. -/
structure Offer where
  action : Action
  possible : Unit → Bool

/-- An event offered, possible where its effect is. -/
def offer {α : Type} (i : Instr) (o : Unit → Option α) : Offer := ⟨.event i, fun u => (o u).isSome⟩

/-- Events of contexts. -/
def State.ctxEvents (s : State) : List Offer :=
  s.ctxs.flatMap fun x =>
    let c := x.id
    [offer (.commit c) fun _ => s.commitNow c, offer (.msgrReceive c) fun _ => s.receiveMsg c,
     offer (.cancelMarkSeen c) fun _ => s.markSeen c,
     offer (.blockFetch c (s.prediction x)) fun _ => s.fetchNow c (s.prediction x),
     offer (.haltReport c) fun _ => s.reportHalt c, offer (.commitWatchdog c) fun _ => s.watchdogNow c]

/-- Cancel marks that contexts which are gone have still to pass on, and the CANCELs that wait for their marks (R350). -/
def State.markEvents (s : State) : List Offer := (CtxId.zero :: s.marks).map fun c => offer (.cancelMarkSeen c) fun _ => s.markSeen c

/-- Events of packets, requests, walkers and pages. -/
def State.accessEvents (s : State) : List Offer :=
  let pieces := fun (q : Req) => List.range (max 1 q.pieces.length)
  (s.packets.map fun p => offer (.tokenArrival p.id) fun _ => s.arrive p.id) ++
  (s.reqs.flatMap fun q =>
    ((pieces q).map fun k => offer (.homePerform q.id k) fun _ => s.homeNow q.id k) ++
    [offer (.tileAccess q.id) fun _ => s.serviceNow q.id, offer (.persistComplete q.id) fun _ => s.persistDone q.id,
     offer (.caddrReply q.id) fun _ => s.caddrReturns q.id, offer (.mldredReduce q.id) fun _ => s.reduceNow q.id]) ++
  (s.names.tiles.flatMap fun t => (List.range 4).map fun w =>
    offer (.tableWalkComplete (t.1 / 64) (t.1 % 64) w) fun _ => s.walkDone (t.1 / 64, t.1 % 64) w) ++
  (s.names.moves.flatMap fun m =>
    [offer (.pageFillComplete m.pte) fun _ => s.fillDone m.pte, offer (.migrationComplete m.pte) fun _ => s.migrateDone m.pte,
     offer (.evictionComplete m.pte) fun _ => s.evictDone m.pte]) ++
  (s.names.writebacks.map fun b => offer (.writebackComplete b.pte) fun _ => s.writebackDone b.pte) ++
  (s.hub.peerAccs.map fun a => offer (.peerAccess a.dev a.req) fun _ =>
    (s.hub.peerAccs.filter fun b => b.dev == a.dev && b.req == a.req).findSome? s.peerServe)

/-- The numbers of all that may be an add. -/
def State.addIds (s : State) : List Nat :=
  (s.reqs.map fun q => q.id) ++ (s.adds.map fun a => a.id) ++ s.hub.peerAccs.map fun a => a.id

/-- An add in its place in the order of R146. -/
def insertAdd (a : Add) : List Add → List Add
  | [] => [a]
  | b :: bs => if a.urgent b then a :: b :: bs else b :: insertAdd a bs

/-- The adds that the counter at an address can apply, in the order of R146 (R228). -/
def State.addsAt (s : State) (pa : Nat) : List Nat :=
  (((s.addIds.filterMap s.add?).filter fun a => s.addAt a == .home pa && s.addReleased a a.scope).foldl (fun l a => insertAdd a l) []).map
    fun a => a.tag.1

/-- Adds at the counters that they stand at: all that one can apply in one step, or one by one; and durable steps. -/
def State.counterEvents (s : State) : List Offer :=
  let step := fun (pa : Nat) (ns : List Nat) => offer (.counterStep pa ns) fun _ => s.counterStep pa ns
  let at_ := fun (n : Nat) =>
    match s.add? n with
    | some a =>
      let pa := (s.addHome a).getD 0
      [step pa (s.addsAt pa), step pa [n]]
    | none => []
  s.addIds.flatMap at_ ++
  s.durable.filterMap fun u =>
    ((s.live? u.at_.serial).bind fun d => s.frameByte d u.at_.ofs).map fun pa =>
      offer (.durableStepComplete pa) fun _ => s.durableDone pa

/-- The pager's moves where an access is parked on an empty pool: a page evicted, or, where none can be, the access declined (R45, R46). -/
def State.pagerEvents (s : State) : List Offer :=
  let parked := (s.reqs.flatMap fun q => (q.pieces.filter fun p => p.stage == .parked).map fun p => p.pte) ++
    (s.names.owners.map fun o => o.pte).filter fun pte => s.away.any (s.unitParked pte)
  if !s.names.pagerWoken || parked.isEmpty || !s.names.moves.isEmpty then []
  else (s.names.owners.map fun o => offer (.pagerEvictStart o.pte) fun _ => s.startMove o.pte true 0) ++
    parked.map fun pte => offer (.pagerDecline pte) fun _ => s.declineNow pte

/-- Events of engines. -/
def State.engineEvents (s : State) : List Offer :=
  let e := s.engines
  (e.streamers.flatMap fun u =>
    let d := u.1 / 8
    let k := u.1 % 8
    (u.2.queue.map fun q => offer (.streamerAccept d k q.id) fun _ => s.streamerAccept d k q.id) ++
    (u.2.serving.flatMap fun q => (((List.range q.pieces).find? fun n => !q.did.contains n).toList.map fun n =>
      offer (.homePerform q.id n) fun _ => s.streamPiece q.id n)) ++
    u.2.serving.map fun q => offer (.streamerComplete d k q.id) fun _ => s.streamerComplete d k q.id) ++
  (e.islands.flatMap fun u =>
    let d := u.1 / 18
    let k := u.1 % 18
    (u.2.queue.map fun q => offer (.islandAccept d k q.id) fun _ => s.islandAccept d k q.id) ++
    [offer (.islandComplete d k) fun _ => s.islandComplete d k]) ++
  (e.lattices.flatMap fun u =>
    (u.2.queue.map fun q => offer (.latticeAccept u.1 q.id) fun _ => s.latticeAccept u.1 q.id) ++
    [offer (.latticeComplete u.1) fun _ => s.latticeComplete u.1])

/-- Events of meridian units and the pinned servers. -/
def State.serverEvents (s : State) : List Offer :=
  (s.tasks.flatMap fun t =>
    [offer (.tcbReady t.id) fun _ => s.taskReady t.id, offer (.promoteAnswer t.id) fun _ => s.promoted t.id,
     offer (.taskFinish t.id) fun _ => s.taskDone t.id]) ++
  ((List.range 8).map fun d => offer (.taskDispatch d) fun _ => s.dispatchNow d) ++
  ((List.range 8).map fun d => offer (.taskSteal d) fun _ => s.stealNow d) ++
  (s.hub.msgs.flatMap fun m =>
    [offer (.launchSubmit m.id) fun _ => s.submitNow m.id, offer (.jobRecordRead m.id) fun _ => s.recordNow m.id,
     offer (.haltAction m.id) fun _ => s.actNow m.id, offer (.regionList m.id) fun _ => s.listNow m.id,
     offer (.objectCreate m.id) fun _ => s.createNow m.id, offer (.apertureBind m.id) fun _ => s.bindNow m.id,
     offer (.apertureUnbind m.id) fun _ => s.unbindNow m.id, offer (.objectRetire m.id) fun _ => s.retireNow m.id]) ++
  (s.loader.jobs.flatMap fun j =>
    [offer (.regionPlace j.id) fun _ => s.placeNow j.id] ++
    ((s.regionsOf j.id).map fun g => offer (.itemStart j.id g.num) fun _ => s.startItem j.id g.num) ++
    ((j.running ++ [s.startedOf j.id]).map fun i => offer (.itemFinish j.id i) fun _ => s.finishItem j.id i) ++
    [offer (.regionFree j.id) fun _ => s.freeRegions j.id]) ++
  (s.loader.regions.flatMap fun g =>
    [offer (.spawnResume g.num) fun _ => s.spawnResume g.num] ++
    g.placed.flatMap fun p => p.nodes.map fun ni =>
      offer (.duskMarkerArrival g.num p.addr ni.1) fun _ => s.forwardMarker g.num p.addr ni.1) ++
  s.names.dying.map fun n => offer (.objectReclaim n) fun _ => s.reclaimNow n

/-- Events of the host links; where none else is named, a snooped host has nothing to write back. -/
def State.hostEvents (s : State) : List Offer :=
  ((List.range 2).map fun l => offer (.codeBindComplete l) fun _ => s.linkWork l) ++
  ((List.range 2).map fun l => ⟨.hostNext l, fun _ => (s.hostNext l).isSome⟩) ++
  s.hub.owners.flatMap fun o =>
    [offer (.ownerHoldExpire o.link o.window o.region) fun _ => s.holdOver o.link o.window o.region,
     offer (.backInvalidate o.link o.window o.region) fun _ => s.snoop o.link o.window o.region,
     offer (.backInvalidateComplete o.link o.window o.region []) fun _ => s.snoopDone o.link o.window o.region []]

/-- The loader's reading of the fault queues (R368). -/
def State.faultReads (s : State) : List Offer := (List.range 9).map fun q => ⟨.readFault q, fun _ => (s.readFault q).isSome⟩

/-- The first move offered that is possible. -/
def firstPossible (os : List Offer) : Option Action := (os.find? fun o => o.possible ()).map fun o => o.action

/-- A firing, or the sending of a held record, that comes next. -/
def State.nextRecord (s : State) : Option Action := (s.nextFire.map Action.fire).or (s.nextSend.map Action.send)

/-- A list that begins at its element `n`, counted round. -/
def turned {α : Type} (n : Nat) (l : List α) : List α := l.drop (n % l.length) ++ l.take (n % l.length)

/-- The move that comes next when the agenda is empty: of the host links where a unit waits for a region they own; at every second turn an
event before a record, otherwise a record before an event, the events offered in turn; where nothing is possible, a tick. -/
def State.nextAction (s : State) : Action :=
  let host := if s.hub.wanted.isEmpty then none else firstPossible s.hostEvents
  let events := fun (_ : Unit) => firstPossible (turned (s.turn / 2)
    (s.accessEvents ++ s.counterEvents ++ s.engineEvents ++ s.ctxEvents ++ s.markEvents ++ s.serverEvents ++ s.faultReads ++ s.pagerEvents ++ s.hostEvents))
  let next := fun (_ : Unit) => if s.turn % 2 = 0 then s.nextRecord.or (events ()) else (events ()).or s.nextRecord
  (host.or (next ())).getD (.event (.tick []))

/-- The aperture-table pointer of the context that has an endpoint, a link's host client among them (R385, R387). -/
def State.atpOfEndpoint (s : State) (e : Nat) : BitVec 128 :=
  match s.ctxs.find? fun x => x.env.endpoint == e with
  | some x => x.env.atp
  | none => if isHostEndpoint e then ((s.hub.links[e - hostEndpoint 0]?).map fun l => l.atp).getD 0 else 0

/-- A message from software that has an endpoint is delivered where that endpoint's context may send: of one that is no supervisor, not to endpoints
1, 2 and 5 (R354, R384, R387). -/
def State.softMessage (s : State) (ep sender : Nat) (body : BitVec 512) : State :=
  let super := s.ctxs.any fun x => x.env.endpoint == sender && x.env.super
  if s.endpointFor super ep then s.enqueueMsg ep sender (s.atpOfEndpoint sender) none false body else s

/-! ### One record alone -/

/-- A word of zeros, or the vector of zeros, as a token of slack 507,904 (R60). -/
def zeroTok (k : Kind) : Tok :=
  newTok (match k with | .scalar => .scalar 0 | .vector => .vector 0) 0 none 507904

/-- The fixed surroundings of a context that runs alone: the supervisor's privilege, so that every record may fire (R345). -/
def aloneEnv : Env := ⟨0, 0, 0, 0, 64, 0#8, true, 64, .item 0, none, []⟩

/-- Where a record stands that is alone: slot 0, constellation 0 of region 0 on die 0. -/
def aloneRoute (block : Word) : Route := ⟨0, 0, 0#4, block⟩

/-- The ports of the record that is alone, filled. -/
def aloneEntries (i : Instr) : List Entry :=
  let k : Key := ⟨0, 0, false⟩
  let es := i.ports.map fun pk => (⟨k, pk.1, some (zeroTok pk.2), [], false, none, 0⟩ : Entry)
  match i.hdr with
  | some h =>
    (match h.pr with
    | .always => es
    | .onTrue => es ++ [⟨k, .p, some (newTok (.scalar 1) 0 none 507904), [], false, none, 0⟩]
    | .onFalse => es ++ [⟨k, .p, some (zeroTok .scalar), [], false, none, 0⟩])
  | none => es

/-- The instance of a one-record block, its ports filled. -/
def aloneInst (i : Option Instr) (block : Word) : Inst where
  route := aloneRoute block
  born := 0
  ran := []
  pred := none
  exit := none
  entries := match i with
    | some i => aloneEntries i
    | none => []
  fired := []
  level := ⟨none, 0, [], [], none, false⟩
  out := ⟨[], [], [], 0, none, [], [], [], none⟩
  held := []
  faults := []
  draining := false

/-- A region with one placed block of one record. -/
def aloneRegion (w : RecordWord) (block : Word) : Region :=
  { Region.fresh 0 0 0 0 0 [0] [] [] [] 0 with placed := [⟨block, 0, [0, 0, w]⟩], pool := (List.range 1024).tail }

/-- The machine with one record placed, its context started and its ports filled, about to fire it. -/
def State.placeAlone (s : State) (w : RecordWord) : State :=
  let block : Word := BitVec.ofNat 64 (2 ^ 44)
  let c : CtxId := ⟨0, 0, 0⟩
  let x := Ctx.fresh c aloneEnv [] block
  let x := { x with next := none, insts := [aloneInst (decode w).toOption block] }
  { s with
    agenda := .fire ⟨c, aloneRoute block, ⟨0, 0, false⟩⟩ :: s.agenda
    ctxs := x :: s.ctxs.filter fun y => y.id != c
    loader := { s.loader with regions := aloneRegion w block :: s.loader.regions.filter fun r => r.num != 0 } }

end Sys2Proof.Machine
end

