-- ==== Sys2Proof/Machine/Step.lean ====
section
/-! DEFINITION. One step of the machine: the next move of one agent (log entry 1). -/

namespace Sys2Proof.Machine

/-- One move. A move that is not possible in the state changes nothing. -/
def runAction (a : Action) (s : State) : Host.Outcome State Fault Refusal :=
  match a with
  | .event i => if i.isEvent then exec i s else .next s
  | .fire k =>
    match s.prepareFire k with
    | none => .next s
    | some (.error w) => .refused (.notAnInstruction w)
    | some (.ok (i, s1)) => exec i s1
  | .send k =>
    match s.prepareSend k with
    | none => .next s
    | some (i, s1) => exec i s1
  | .startWriteback pte => .next ((s.startWriteback pte).getD s)
  | .arrivals pkts => .next (s.arriveTogether pkts)
  | .arbiter pkts => .next (s.arbitrate pkts)
  | .message ep sender body => .next (s.softMessage ep sender body)
  | .readFault q => .next ((s.readFault q).getD s)
  | .hubStart core block atp dslk g => .next ((s.hubStart core block atp dslk g).getD s)
  | .raiseHorizon h => .next (s.raiseHorizon h)
  | .setLowWater n => .next (s.setLowWater n)
  | .eccError r k => .next (s.eccError r k)
  | .dataImage serial bs => .next (s.dataImage serial bs)
  | .setCxl link on => .next (s.setCxl link on)
  | .flitPasses l => .next (s.flitPasses l)
  | .temperature die c => .next (s.heated die c)
  | .firmware verifies => .next (s.setFirmware verifies)
  | .hostNext link => .next ((s.hostNext link).getD s)

/-- One step: the head of the agenda, or the move the model's own order names (log entry 1). -/
def step (s : State) : Host.Outcome State Fault Refusal :=
  match s.agenda with
  | a :: rest => runAction a { s with agenda := rest }
  | [] => runAction s.nextAction { s with turn := s.turn + 1 }

/-- `s` with the record whose bits are `w` placed alone, its ports filled, so that the next step fires it (log entry 1). -/
def State.withFetchWord (s : State) (nbits w : Nat) : State := s.placeAlone (BitVec.ofNat 96 (w % 2 ^ nbits))

end Sys2Proof.Machine
end

