-- ==== Sys2Proof/Safety.lean ====
section
/-! DEFINITION. The words in which claims about the machine are made: when a record fires with its effect, what a firing adds
around that effect, what stays as it was, and the invariant that every step keeps. -/

namespace Sys2Proof.Machine
open Sys2Proof

/-! ### Firing (R55, R122, R125, R129, R345, R380) -/

/-- The record whose operands stand in the latch fires real, and its effect happens now: it is not a held record sent later, its
context may run it (R345), no operand is poisoned (R380), no operand is null and its predicate matches (R55), no record of its
iteration has fired real for its LSID, nor another for a register that its request returns (R129), and a held record stands in a
non-speculative instance (R122). -/
structure FiresReal (i : Instr) (s : State) : Prop where
  record : i.isEvent = false
  fresh : s.latch.released = false
  allowed : i.privileged = true → s.super = true
  clean : s.latch.poisoned = false
  operands : s.latch.firesNull (hdrOf i).pr = false
  uncounted : s.outTaken i = false
  sent : i.held = true → s.nonSpec s.latch.ctx s.latch.route = true

/-- The record fires null: an operand is null, or its predicate does not match (R55). -/
structure FiresNull (i : Instr) (s : State) : Prop where
  record : i.isEvent = false
  fresh : s.latch.released = false
  clean : s.latch.poisoned = false
  operands : s.latch.firesNull (hdrOf i).pr = true

/-- The state in which a real firing's effect happens: the firing, its LSID and the registers that its request returns are counted
(R129). -/
def State.begun (s : State) (i : Instr) : State := (s.mark true).markLsid i

/-- A state after a firing of `s`: the firing instance's loop level has advanced (R135). -/
def State.after (s t : State) : State := t.advanceLevel s.latch.ctx s.latch.route

/-! ### Units and requests that act whole in one step (log entry 13) -/

/-- A unit begins to act: it has met nothing yet that it must wait for. -/
def State.acting (s : State) (d : Doer) : State := { s with doer := some d, pause := none }

/-- A unit has acted, and what its accesses came to is over. -/
def State.acted (s : State) (d : Doer) : State := ({ s with doer := none } : State).endAway fun e => e == d

/-- The request of a record that fires, in its first stage (R122, R239). -/
def State.asked (s : State) (i : Instr) (st : Stage) : Req :=
  ⟨s.nextId, (((s.begun i).myInst).map fun j => j.born).getD 0, i, s.latch, s.outSlack i, s.outSlack i, s.outSlack i == 0, st, false, false,
    [], [], [], false, ((s.begun i).me.map fun x => x.env.item).getD 0, [], 0⟩

/-- The state in which the request of a task or system record acts. -/
def State.unitOf (s : State) (i : Instr) (st : Stage) : State := ((s.begun i).request i st 0).acting (.req s.nextId)

/-- The state after such a record's firing, whose request's effect gave `u`. -/
def State.over (s u : State) : State := s.after (u.acted (.req s.nextId))

/-! ### What stays (R123, R128, R130) -/

/-- Every byte of memory reads as before. -/
def SameMemory (s t : State) : Prop := ∀ a, Memory.read t.mem a = Memory.read s.mem a

/-- The committed registers of a context: G, V, the flags word and the random state; its near counters apart. -/
def Regs.committed (r : Regs) : Sparse Word × Sparse Vec × Word × Word × Word := (r.g, r.v, r.flags, r.rngk, r.rngc)

/-- A context that stands in both states has its committed registers as before. -/
def SameRegisters (s t : State) : Prop :=
  ∀ c x y, s.ctx? c = some x → t.ctx? c = some y → y.regs.committed = x.regs.committed

/-! ### The invariant -/

/-- Memory is in its canonical form, and no fault queue holds more than 4,096 records (R366). -/
def SoundAt (m : List Host.Cell) (qs : List (List (BitVec 256))) : Prop := Memory.wf m = true ∧ ∀ q ∈ qs, q.length ≤ 4096

/-- The invariant that every step keeps. -/
def State.Sound (s : State) : Prop := SoundAt s.mem s.faults.queues

/-! ### Spec-level operands and results (R64, R156, R259, R280-R287) -/

/-- A pattern of `w` bits as a scalar token: sign-extended for an I type, zero-extended for an N type (R156). -/
def extended (signed : Bool) {w : Nat} (x : BitVec w) : Word := if signed then x.signExtend 64 else x.setWidth 64

/-- The number a pattern of `w` bits stands for (R156). -/
def valueOf (signed : Bool) {w : Nat} (x : BitVec w) : Int := if signed then x.toInt else x.toNat

/-- The low `w` bits of port L (R156). -/
def State.left (s : State) (w : Nat) : BitVec w := s.latch.opL.word.setWidth w

/-- The low `w` bits of the second operand of an integer record: port R, or the immediate, LIT sign-extended (R64, R156). -/
def State.right (s : State) (w : Nat) (b : Rhs) : BitVec w :=
  match b with
  | .port => s.latch.opR.word.setWidth w
  | .imm v => v.signExtend w

/-- Executing the record answers the next state in which its firing has begun, the flags `f` are held with the instance (R161), the
value `v` is sent to T0 and T1 (R258) and the loop level has advanced (R135); nothing else has changed. -/
def Gives (i : Instr) (s : State) (v : TokVal) (f : Word) : Prop :=
  exec i s = .next (s.after (((s.begun i).holdFlags f).result i v))

/-! ### IEEE values and rounding (R158-R161) -/

/-- The order of `a` times 2 to the `x` and `b` times 2 to the `y`. -/
def dyadicCmp (a : Nat) (x : Int) (b : Nat) (y : Int) : Ordering :=
  compare (a * 2 ^ (x - min x y).toNat) (b * 2 ^ (y - min x y).toNat)

/-- `n` times 2 to the `g` is what the mode `rm` makes of a magnitude whose sign is `neg`, among all multiples of 2 to the `g` (R160):
`cmp k e` is the order of `k` times 2 to the `e` and the exact magnitude. -/
def Nearest (rm : Rm) (neg : Bool) (cmp : Nat → Int → Ordering) (n : Nat) (g : Int) : Prop :=
  let below := cmp n g ≠ .gt ∧ cmp (n + 1) g = .gt
  let above := cmp n g ≠ .lt ∧ (n = 0 ∨ cmp (n - 1) g = .lt)
  match rm with
  | .rz => below
  | .ru => if neg then below else above
  | .rd => if neg then above else below
  | .rne => cmp (2 * n + 1) (g - 1) ≠ .lt ∧ (n = 0 ∨ cmp (2 * n - 1) (g - 1) ≠ .gt) ∧
      ((cmp (2 * n + 1) (g - 1) = .eq ∨ (n ≠ 0 ∧ cmp (2 * n - 1) (g - 1) = .eq)) → n % 2 = 0)
  | .rna => cmp (2 * n + 1) (g - 1) = .gt ∧ (n = 0 ∨ cmp (2 * n - 1) (g - 1) ≠ .gt)

/-- `n` times 2 to the `g`, as a format decodes it, is what the mode makes of the magnitude among the format's values (R160). A power of
two that stands above the magnitude is judged at the grain of the binade below it, where its lower neighbour stands. -/
def NearestIn (f : FpFmt) (rm : Rm) (neg : Bool) (cmp : Nat → Int → Ordering) (n : Nat) (g : Int) : Prop :=
  if n = 2 ^ f.fb ∧ f.qmin < g ∧ cmp n g = .gt then Nearest rm neg cmp (2 * n) (g - 1) else Nearest rm neg cmp n g

/-- The magnitude, rounded to the format's precision with no bound on the exponent, stays below the least normal value (R161: tininess
after rounding). -/
def TinyAfter (f : FpFmt) (rm : Rm) (neg : Bool) (cmp : Nat → Int → Ordering) : Prop :=
  cmp (2 ^ f.fb) f.qmin = .gt ∧ ¬ Nearest rm neg cmp (2 ^ (f.fb + 1)) (f.qmin - 1)

/-- The magnitude, rounded to the format's precision with no bound on the exponent, passes the largest finite value (R160). -/
def OverAfter (f : FpFmt) (rm : Rm) (neg : Bool) (cmp : Nat → Int → Ordering) : Prop :=
  ∃ n, 2 ^ (f.fb + 1) ≤ n ∧ Nearest rm neg cmp n (f.qmin + 2 ^ f.eb - 3)

/-- `r` is an exact nonzero value rounded once into a format, with its flags (R160, R161): the sign is `neg`, and `cmp k e` is the order of
`k` times 2 to the `e` and the exact magnitude. OF comes with NX exactly when the rounded value passes the largest finite one, and the mode
then gives that value or the infinity; else the result is the format's value that the mode chooses, NX is set exactly when it differs from
the exact value, UF exactly when it differs and the value is tiny after rounding, and no other flag is set. -/
def Rounds (f : FpFmt) (rm : Rm) (neg : Bool) (cmp : Nat → Int → Ordering) (r : Res) : Prop :=
  (r.flags.getLsbD 2 = true ↔ OverAfter f rm neg cmp) ∧
  if r.flags.getLsbD 2 then
    r.flags = flagOF ||| flagNX ∧
    r.val = match rm with
      | .rne | .rna => f.infinity neg
      | .rz => f.maxFinite neg
      | .ru => if neg then f.maxFinite neg else f.infinity neg
      | .rd => if neg then f.infinity neg else f.maxFinite neg
  else
    match f.decode r.val with
    | .fin s n g => s = neg ∧ r.val.toNat < 2 ^ f.width ∧ NearestIn f rm neg cmp n g ∧ r.flags.toNat < 4 ∧
        (r.flags.getLsbD 0 = true ↔ cmp n g ≠ .eq) ∧
        (r.flags.getLsbD 1 = true ↔ cmp n g ≠ .eq ∧ TinyAfter f rm neg cmp)
    | _ => False

/-- A magnitude with its sign. -/
def withSign (neg : Bool) (m : Nat) : Int := if neg then -(m : Int) else m

/-- A NaN result, canonical, with NV where an operand signals (R159). -/
def nanRes (f : FpFmt) (vs : List FpVal) : Res := ⟨f.qnan, if vs.any FpVal.isSnan then flagNV else 0⟩

/-! ### Lanes (R301, R303, R305) -/

/-- Element `k` of a vector token as a scalar token: lane `k` of the type, or, of a token on a bound channel under F32, the element that
the channel gives for lane `k` (R170, R303). -/
def laneTok (t : Ty) (a : Tok) (k : Nat) : Tok :=
  { a with val := .scalar (match t, a.chan.toNat, a.bind with
      | .fp .f32, _ + 1, some b => lane (chanLane b.entry) a.vec (32 * bits b.entry 11 2 + k)
      | _, _, _ => lane t.lane a.vec k) }

/-- The flags that `n` lanes set, joined (R303). -/
def lanesFlags (n : Nat) (f : Nat → Word) : Word := ((List.range n).map f).foldl (fun a b => a ||| b) 0

/-- The vector record `i` has, lane by lane, the effect of the scalar record `j` at the lanes' type, and holds the flags of all lanes
(R303, R305). -/
def Lanewise (i j : Instr) (t : Ty) (s : State) : Prop :=
  FiresReal i s → ∃ (v : Vec) (r f : Nat → Word),
    Gives i s (.vector v) (lanesFlags t.lanes f) ∧
    ∀ k, k < t.lanes → v.extractLsb' (t.lane * k) t.lane = (r k).setWidth t.lane ∧
      ∀ s', FiresReal j s' → s'.latch.opL = laneTok t s.latch.opL k → s'.latch.opR = laneTok t s.latch.opR k →
        s'.latch.opX = laneTok t s.latch.opX k → Gives j s' (.scalar (r k)) (f k)

/-- Element `k` of a vector token as a record of lane type `t` reads it, with the flags of its decoding (R170, R303). -/
def elem (t : Ty) (a : Tok) (k : Nat) : Res := scalarOp t (laneTok t a k)

/-- The sum of the pairwise tree of R173 over the lanes j 2^n to (j + 1) 2^n - 1, where any is present, with the flags of its roundings. -/
def treeAt (rm : Rm) (x : Nat → Option Word) : Nat → Nat → Option Word × Word
  | 0, j => (x j, 0)
  | n + 1, j =>
    match treeAt rm x n (2 * j), treeAt rm x n (2 * j + 1) with
    | (some a, u), (some b, v) =>
      let r := addVal (fmtOf .f32) rm ((fmtOf .f32).decode a) ((fmtOf .f32).decode b)
      (some r.val, r.flags ||| (u ||| v))
    | (some a, u), (none, v) => (some a, u ||| v)
    | (none, u), (b, v) => (b, u ||| v)

/-- `q` is the value (-1)^neg times m/den times 2^e, not zero, converted into a tapered type (R164): the nearest positive pattern with its
sign, the even one of two equally near; SAT above maxpos, UF below minpos, NX where it differs. -/
def TapRounds (t : TapTy) (neg : Bool) (m den : Nat) (e : Int) (q : Res) : Prop :=
  let lo := min e (-12)
  let a := m * 2 ^ (e - lo).toNat
  let val := fun p => tapScaled t p * den * 2 ^ (-12 - lo).toNat
  let far := fun p => ((val p : Int) - (a : Int)).natAbs
  ∃ p, 1 ≤ p ∧ p ≤ tapMax t ∧ q.val = BitVec.ofNat 64 (if neg then 2 ^ t.width - p else p) ∧
    (∀ p', 1 ≤ p' → p' ≤ tapMax t → far p ≤ far p' ∧ (far p = far p' → p ≠ p' → p % 2 = 0)) ∧
    q.flags = (if val (tapMax t) < a then flagSAT else 0) ||| (if a < val 1 then flagUF else 0) |||
      (if val p = a then 0 else flagNX)

/-- Executing the record answers the next state in which its firing has begun, the value `v` is sent to T0 and T1 (R258) and the loop level
has advanced (R135); nothing else has changed. -/
def Sends (i : Instr) (s : State) (v : TokVal) : Prop := exec i s = .next (s.after ((s.begun i).result i v))

end Sys2Proof.Machine
end

