-- ==== Sys2Proof/Certificates/Slice0/Obligations.lean ====
section
/-! DEFINITION. The statements for the provers. Each docstring names the rules of spec/ that it rests on. -/

open Sys2Proof Sys2Proof.Machine

/-- What the spec gives the machine at reset: device number 0 (R27), horizon 1 (R29), no tick counted (R360), empty fault queues
(R366), the BAR0 registers of both links (R388), every window region DEVICE (R389), MAIN_UP 0 (R400), and nothing running. -/
def Obligations.ResetState : Prop :=
  State.reset.names.devNum = 0 ∧ State.reset.names.horizon = 1 ∧ State.reset.ticks = 0 ∧
  State.reset.ctxs = [] ∧ State.reset.loader.regions = [] ∧ State.reset.loader.jobs = [] ∧ State.reset.tasks = [] ∧
  State.reset.reqs = [] ∧ State.reset.packets = [] ∧ State.reset.adds = [] ∧
  State.reset.faults.queues.length = 9 ∧ (∀ q ∈ State.reset.faults.queues, q = []) ∧ (∀ l ∈ State.reset.faults.loss, l = false) ∧
  State.reset.hub.owners = [] ∧ State.reset.hub.links.length = 2 ∧
  (∀ l ∈ State.reset.hub.links, l.lstat = 0 ∧ l.errcnt = 0 ∧ l.codelen = 0 ∧ l.busy = false ∧ l.refusedCode = false ∧
    ∀ w, l.kind w = 0) ∧
  State.reset.mgmt.mainUp = false ∧ State.reset.mgmt.degraded = 0 ∧ State.reset.mgmt.replace = false

/-- The invariant that every step keeps holds at reset (R366; the canonical form of memory is the model's own). -/
def Obligations.ResetSound : Prop := State.reset.Sound

/-- Every step keeps the invariant: a fault queue never holds more than 4,096 records (R366), and memory keeps its canonical form,
which is the model's own. -/
def Obligations.StepKeepsSound : Prop := ∀ s t, s.Sound → step s = .next t → t.Sound

/-- Words written out in the spec's worked encodings decode to the records they stand for (R75, R220, R238, R256, R300, R331, R342,
R346, R362). -/
def Obligations.DecodeWords : Prop :=
  decode 0x100C40400C00000000000000 = .ok (.add ⟨.always, .reg 4, .node 3 .l, 0⟩ .i64 .port) ∧
  decode 0x0810C00C0000000000000000 = .ok (.exitStop ⟨.always, .none, .none, 0⟩) ∧
  decode 0x048C004C0000100000001000 = .ok (.const ⟨.always, .node 1 .l, .none, 0⟩ (.int .i64) 0x100000001000) ∧
  decode 0x080843FC0000000000000001 = .ok (.exitCall ⟨.always, .reg 63, .none, 0⟩ 1) ∧
  decode 0x19884060080000007FFFFD78 = .ok (.adds ⟨.always, .reg 6, .node 2 .l, 0⟩ .i32 (.imm 0x7FFFFD78)) ∧
  decode 0x1608014C0000000000000000 = .ok (.rem ⟨.always, .node 5 .l, .none, 0⟩ .i32 .port) ∧
  decode 0x020001101900008000000000 = .ok (.mov ⟨.always, .node 4 .r, .node 6 .r, 0⟩ true false) ∧
  decode 0x680000CC0000000000000000 = .ok (.rngs ⟨.always, .node 3 .l, .none, 0⟩) ∧
  decode 0x6B0040540600000000000000 = .ok (.sample ⟨.always, .reg 5, .reg 6, 0⟩ 0) ∧
  decode 0x701C01440600000000000000 = .ok (.ld ⟨.always, .node 5 .l, .reg 6, 0⟩ (.int .n64) ⟨0, false, false, 0⟩ 0) ∧
  decode 0x7230014C0000000100000000 = .ok (.vld ⟨.always, .node 5 .l, .none, 0⟩ (.tap .t8) ⟨0, false, false, 0⟩ 1) ∧
  decode 0x711CC00C0000000000000008 = .ok (.st ⟨.always, .none, .none, 0⟩ (.int .n64) ⟨0, false, false, 8⟩) ∧
  decode 0x7C00803C00000A0000000000 = .ok (.copy ⟨.always, .port 3, .none, 0⟩ 1 ⟨.die, false, false⟩) ∧
  decode 0x7D00C00C0000150100000008 = .ok (.persist ⟨.always, .none, .none, 0⟩ ⟨2, false, false, 8⟩ 1) ∧
  decode 0x8000C00C00001A0000001818 = .ok (.cadd ⟨.always, .none, .none, 0⟩ ⟨3, false, false, 0x1818⟩ .die none) ∧
  decode 0x8200028C0000020000001810 = .ok (.cwait ⟨.always, .node 10 .l, .none, 0⟩ ⟨0, false, false, 0x1810⟩ .die none) ∧
  decode 0x8830804C0000020000000000 = .ok (.mma ⟨.always, .port 4, .none, 0⟩ (.tap .t8) ⟨.die, false, false⟩) ∧
  decode 0x9202805C0000020000000000 = .ok (.lxrun ⟨.onTrue, .port 5, .none, 0⟩ ⟨.die, false, false⟩) ∧
  decode 0x9800008C0000000000000001 = .ok (.spawn ⟨.always, .node 2 .l, .none, 0⟩ 0 1)

/-- Decode and encode agree on every well-formed record (R52-R71 and the entries' encodings); MSG's second form shares its words
with the first. -/
def Obligations.DecodeEncode : Prop :=
  ∀ i : Instr, i.isEvent = false → (∀ h, i ≠ .msgReply h) → i.wf = true → ∃ w, encode i = some w ∧ decode w = .ok i

/-- Every accepted word is the encoding of the record read from it: a reserved bit that is set, or a refused code, is never accepted
(R52, R56, R60, R63-R66, R71, R73). -/
def Obligations.EncodeDecode : Prop :=
  ∀ (w : RecordWord) (i : Instr), decode w = .ok i → i.wf = true ∧ i.isEvent = false ∧ encode i = some w

/-- A step runs the record that the word of the ready node that its PE chooses decodes to (R71, R125, R127). Around it the step adds the latch; the
agenda is the model's own (log entry 1). -/
def Obligations.StepRunsDecoded : Prop :=
  ∀ (s : State) (f : FireKey) (x : Ctx) (inst : Inst) (p : Placed) (i : Instr),
    s.ctx? f.ctx = some x → x.inst? f.route = some inst → s.blockOf f.ctx inst = some p →
    f.key.node < p.size → x.halt = none → decode (p.word f.key.node) = .ok i → s.isReady x inst p f.key i = true →
    s.peChoice f = some f →
    ∃ s1 : State, s1.latch.ctx = f.ctx ∧ s1.latch.route = f.route ∧ s1.latch.key = f.key ∧ s1.latch.released = false ∧
      s1.latch.l = inst.portTok f.key .l ∧ s1.latch.r = inst.portTok f.key .r ∧ s1.latch.x = inst.portTok f.key .x ∧
      s1.latch.p = inst.portTok f.key .p ∧ s1.mem = s.mem ∧ s1.reqs = s.reqs ∧ s1.packets = s.packets ∧ s1.agenda = s.agenda ∧
      (∀ c, (s1.ctx? c).map (fun y => y.regs) = (s.ctx? c).map (fun y => y.regs)) ∧
      step { s with agenda := .fire f :: s.agenda } = exec i s1

/-- A step runs the event that is next; a message from outside reaches an endpoint that its sender may name (R384). A placed word that the decoder
refuses is never fired (R71); the agenda is the model's own (log entry 1). -/
def Obligations.StepRunsEvents : Prop :=
  (∀ (s : State) (i : Instr), i.isEvent = true → step { s with agenda := .event i :: s.agenda } = exec i s) ∧
  (∀ (s : State) (ep sender : Nat) (body : BitVec 512),
    let super := s.ctxs.any fun x => x.env.endpoint == sender && x.env.super
    (s.endpointFor super ep = true →
      ∃ t m, step { s with agenda := .message ep sender body :: s.agenda } = .next t ∧ t.hub.msgs = s.hub.msgs ++ [m] ∧
        m.ep = ep ∧ m.sender = sender ∧ m.body = body ∧ t.mem = s.mem) ∧
    (s.endpointFor super ep = false → step { s with agenda := .message ep sender body :: s.agenda } = .next s)) ∧
  (∀ (s : State) (f : FireKey) (x : Ctx) (inst : Inst) (p : Placed) (e : DecodeError),
    s.ctx? f.ctx = some x → x.inst? f.route = some inst → s.blockOf f.ctx inst = some p →
    f.key.node < p.size → x.halt = none → decode (p.word f.key.node) = .error e →
    step { s with agenda := .fire f :: s.agenda } = .refused (.notAnInstruction (p.word f.key.node)))

/-- Every record runs in every state: a trap is a state of the machine, not a stop of the model (R129, R131, R258); a floating-point or format
record that fires real sends a result. -/
def Obligations.RecordsNeverStop : Prop :=
  (∀ (i : Instr) (s : State), i.isEvent = false → ∃ t, exec i s = .next t) ∧
  ∀ (s : State) (h : Hdr) (t : FpTy) (d src : Ty) (tt : TapTy) (r : FRhs) (rm : Rm) (ch : BitVec 5) (qtr : BitVec 2),
    (∀ i ∈ [Instr.fadd h t r, .fsub h t r, .fmul h t r, .fdiv h t r, .fsqrt h t rm, .fma h t rm, .fcvt h d src rm, .frnd h t rm,
        .rsq h t rm, .amax h tt], FiresReal i s → ∃ v f : Word, Gives i s (.scalar v) f) ∧
    (FiresReal (.cvdq h tt qtr) s → ∃ (v : Vec) (f : Word), Gives (.cvdq h tt qtr) s (.vector v) f) ∧
    (∀ i ∈ [Instr.vpk h, .vupk h], FiresReal i s → ∃ v : Vec, Sends i s (.vector v)) ∧
    (let i := Instr.cvq h tt ch
     FiresReal i s → ∃ (v : Vec) (f : Word) (q : Tok), q.val = .vector v ∧
      exec i s = .next (s.after (((s.begun i).holdFlags f).send2 i q q)))

/-- A record that fires null performs nothing and sends nulls (R55, R125, R258), to an engine none (R193, R208); the loop records have entries of their own (R272-R274). -/
def Obligations.NullFiring : Prop :=
  ∀ (i : Instr) (s : State), (∀ h v, i ≠ .itin h v ∧ i ≠ .itnx h v ∧ i ≠ .itout h v) → FiresNull i s →
    exec i s = .next (s.after ((s.mark false).emitNull i))

/-- PRIV comes before any other check of a privileged record (R345). -/
def Obligations.PrivilegeFault : Prop :=
  ∀ (i : Instr) (s : State), i.isEvent = false → i.privileged = true → s.latch.released = false → s.super = false →
    s.latch.firesNull (hdrOf i).pr = false → exec i s = .next (s.after ((s.mark true).faultHere codePriv 0 0))

/-- A record that fires with a poisoned operand faults PARITY and writes nothing (R380). -/
def Obligations.ParityFault : Prop :=
  ∀ (i : Instr) (s : State), i.isEvent = false → s.latch.released = false → (i.privileged = true → s.super = true) →
    s.latch.poisoned = true → exec i s = .next (s.after ((s.mark true).faultHere codeParity 0 0))

/-- A second real firing for a counted LSID, or for a register that its request is to write, faults INCOMPLETE, cause 2, and its request is
never sent (R129). -/
def Obligations.SecondLsid : Prop :=
  ∀ (i : Instr) (s : State), i.isEvent = false → s.latch.released = false → (i.privileged = true → s.super = true) →
    s.latch.poisoned = false → s.latch.firesNull (hdrOf i).pr = false → s.outTaken i = true →
    exec i s = .next (s.after ((s.mark true).incompleteHere 2))

/-- A held record holds its request until its instance is non-speculative, and only then sends it, with the effect that it would have had at
its firing (R122): `eff` is that one effect, of a state in which the latch is not marked as a held record's. -/
def Obligations.HeldRecords : Prop :=
  ∀ i : Instr, i.isEvent = false → i.held = true →
    (∀ s : State, s.latch.released = false → (i.privileged = true → s.super = true) → s.latch.poisoned = false →
      s.latch.firesNull (hdrOf i).pr = false → s.outTaken i = false → s.nonSpec s.latch.ctx s.latch.route = false →
      exec i s = .next (s.after ((s.begun i).hold i)) ∧ (s.after ((s.begun i).hold i)).reqs = s.reqs ∧
        (s.after ((s.begun i).hold i)).mem = s.mem) ∧
    ∃ eff : State → State,
      (∀ s : State, FiresReal i s → exec i s = .next (s.after (eff (s.begun i)))) ∧
      (∀ s : State, s.latch.released = true → exec i s = .next (s.after (eff s.sent)))

/-- Taking an ending fault: it is posted (R366), the instances are discarded, and the context halts and keeps its registers (R131,
R367). -/
def Obligations.TakeEndingFault : Prop :=
  ∀ (s : State) (c : CtxId) (x : Ctx) (i : Inst) (rest : List Inst) (f : FaultRec),
    s.ctx? c = some x → x.insts = i :: rest → i.faults = [] → f.ending = true → f.code ≠ codeGroup →
    x.mark ≠ .seen → (∀ n t, x.env.origin = .task n → s.task? n = some t → t.fpol ≠ 1 ∧ t.fpol ≠ 2) → s.dieOf c < s.faults.queues.length →
    s.faults.loss.length = s.faults.queues.length → (s.faults.queues.getD (s.dieOf c) []).length < 4096 →
    (s.raise c i.route f).ctx? c = some { x with insts := [], halt := some i.block, next := none, watch := 0 } ∧
    (s.raise c i.route f).faults.queues.getD (s.dieOf c) [] =
      s.faults.queues.getD (s.dieOf c) [] ++ [f.words c (s.faults.loss.getD (s.dieOf c) false)] ∧
    (∀ q, q ≠ s.dieOf c → (s.raise c i.route f).faults.queues.getD q [] = s.faults.queues.getD q []) ∧
    (s.raise c i.route f).faults.loss.getD (s.dieOf c) false = false ∧ (s.raise c i.route f).mem = s.mem

/-- A fault is held with its instance and posted only when that is the oldest (R131). -/
def Obligations.YoungerFaultIsHeld : Prop :=
  ∀ (s : State) (c : CtxId) (x : Ctx) (o i : Inst) (rest : List Inst) (f : FaultRec),
    s.ctx? c = some x → x.insts = o :: rest → o.faults = [] → o.route ≠ i.route → x.inst? i.route = some i →
    (s.raise c i.route f).faults = s.faults ∧
    ∃ y, (s.raise c i.route f).ctx? c = some y ∧ y.halt = x.halt ∧ y.regs = x.regs ∧
      y.inst? i.route = some { i with faults := i.faults ++ [f] } ∧ y.inst? o.route = x.inst? o.route

/-- The layout of a fault record (R363). -/
def Obligations.FaultRecordFields : Prop :=
  ∀ (f : FaultRec) (c : CtxId) (loss : Bool),
    let r := f.words c loss
    r.extractLsb' 56 8 = f.code ∧ r.extractLsb' 46 10 = BitVec.ofNat 10 c.colour ∧ r.extractLsb' 40 6 = BitVec.ofNat 6 c.gen ∧
    r.extractLsb' 16 24 = BitVec.ofNat 24 f.iter ∧ r.extractLsb' 8 8 = f.node ∧ r.extractLsb' 4 4 = BitVec.ofNat 4 f.die ∧
    r.extractLsb' 2 2 = BitVec.ofNat 2 f.px ∧ r.extractLsb' 0 2 = BitVec.ofNat 2 f.py ∧
    r.extractLsb' 75 53 = f.block.extractLsb' 11 53 ∧ r.extractLsb' 72 3 = BitVec.ofNat 3 f.cx ∧
    r.extractLsb' 69 3 = BitVec.ofNat 3 f.cy ∧ r.extractLsb' 65 4 = 0 ∧ r.getLsbD 64 = loss ∧
    r.extractLsb' 128 64 = f.addr ∧ r.extractLsb' 192 64 = f.info

/-- A full queue discards, and LOSS goes with the next accepted record (R366). -/
def Obligations.FullQueueDiscards : Prop :=
  ∀ (s : State) (q : Nat) (c : CtxId) (f : FaultRec), q < s.faults.queues.length → q < s.faults.loss.length →
    q < s.faults.accepted.length →
    ((s.faults.queues.getD q []).length ≥ 4096 →
      (s.enqueueFault q c f).faults.queues = s.faults.queues ∧ (s.enqueueFault q c f).faults.accepted = s.faults.accepted ∧
      (s.enqueueFault q c f).faults.loss.getD q false = true ∧ (s.enqueueFault q c f).adds = s.adds) ∧
    ((s.faults.queues.getD q []).length < 4096 →
      (s.enqueueFault q c f).faults.queues.getD q [] =
        s.faults.queues.getD q [] ++ [f.words c (s.faults.loss.getD q false)] ∧
      (s.enqueueFault q c f).faults.loss.getD q false = false ∧
      (s.enqueueFault q c f).faults.accepted.getD q 0 = s.faults.accepted.getD q 0 + 1 ∧
      (s.enqueueFault q c f).adds = match s.faults.signal with
        | none => s.adds
        | some o => s.adds ++ [⟨s.nextId, ⟨s.names.devNum, o, 8 * q⟩, 1, .module, 507904, false, .signal q⟩])

/-- The arithmetic records (R280; the value read and the extension are those of R156). -/
def Obligations.IntegerArithmetic : Prop :=
  ∀ (s : State) (h : Hdr) (t : IntTy) (r : Rhs),
    let x := s.left t.width
    let y := s.right t.width r
    let a := valueOf t.signed x
    let b := valueOf t.signed y
    let ext := fun (v : Int) => TokVal.scalar (extended t.signed (BitVec.ofInt t.width v))
    let clamp := fun (v : Int) => max t.lo (min t.hi v)
    let sat := fun (v : Int) => if t.lo ≤ v ∧ v ≤ t.hi then (0 : Word) else flagSAT
    let dz := if b = 0 then flagDZ else (0 : Word)
    (FiresReal (.add h t r) s → Gives (.add h t r) s (ext (a + b)) 0) ∧
    (FiresReal (.sub h t r) s → Gives (.sub h t r) s (ext (a - b)) 0) ∧
    (FiresReal (.mul h t r) s → Gives (.mul h t r) s (ext (a * b)) 0) ∧
    (FiresReal (.mulh h t r) s → Gives (.mulh h t r) s (ext (a * b / 2 ^ t.width)) 0) ∧
    (FiresReal (.div h t r) s → Gives (.div h t r) s (ext (if b = 0 then 0 else a.tdiv b)) dz) ∧
    (FiresReal (.rem h t r) s → Gives (.rem h t r) s (ext (if b = 0 then a else a - b * a.tdiv b)) dz) ∧
    (FiresReal (.min h t r) s → Gives (.min h t r) s (ext (if a ≤ b then a else b)) 0) ∧
    (FiresReal (.max h t r) s → Gives (.max h t r) s (ext (if a ≥ b then a else b)) 0) ∧
    (FiresReal (.adds h t r) s → Gives (.adds h t r) s (ext (clamp (a + b))) (sat (a + b))) ∧
    (FiresReal (.subs h t r) s → Gives (.subs h t r) s (ext (clamp (a - b))) (sat (a - b))) ∧
    (t.signed = true → a = t.lo → b = -1 →
      (FiresReal (.div h t r) s → Gives (.div h t r) s (ext a) 0) ∧ (FiresReal (.rem h t r) s → Gives (.rem h t r) s (ext 0) 0))

/-- The logic records (R282) and NEG and ABS (R283), with the extension of R156. -/
def Obligations.IntegerLogic : Prop :=
  ∀ (s : State) (h : Hdr) (r : Rhs) (w : Width),
    let x : Word := s.left 64
    let y : Word := s.right 64 r
    let z := s.left w.bits
    (FiresReal (.and h r) s → Gives (.and h r) s (.scalar (x &&& y)) 0) ∧
    (FiresReal (.or h r) s → Gives (.or h r) s (.scalar (x ||| y)) 0) ∧
    (FiresReal (.xor h r) s → Gives (.xor h r) s (.scalar (x ^^^ y)) 0) ∧
    (FiresReal (.andn h r) s → Gives (.andn h r) s (.scalar (x &&& ~~~y)) 0) ∧
    (FiresReal (.not h) s → Gives (.not h) s (.scalar (~~~x)) 0) ∧
    (FiresReal (.neg h w) s → Gives (.neg h w) s (.scalar ((-z).signExtend 64)) 0) ∧
    (FiresReal (.abs h w) s → Gives (.abs h w) s (.scalar ((if z.msb then -z else z).signExtend 64)) 0) ∧
    (z = BitVec.intMin w.bits →
      (FiresReal (.neg h w) s → Gives (.neg h w) s (.scalar (z.signExtend 64)) 0) ∧
      (FiresReal (.abs h w) s → Gives (.abs h w) s (.scalar (z.signExtend 64)) 0))

/-- The shifts and rotates (R284), with the extension of R156. -/
def Obligations.IntegerShifts : Prop :=
  ∀ (s : State) (h : Hdr) (t : IntTy) (r : Rhs),
    let x := s.left t.width
    let n := (s.right t.width r &&& BitVec.ofNat t.width (t.width - 1)).toNat
    let ext := fun (v : BitVec t.width) => TokVal.scalar (extended t.signed v)
    (FiresReal (.shl h t r) s → Gives (.shl h t r) s (ext (x <<< n)) 0) ∧
    (FiresReal (.shr h t r) s → Gives (.shr h t r) s (ext (x >>> n)) 0) ∧
    (FiresReal (.sar h t r) s → Gives (.sar h t r) s (ext (x.sshiftRight n)) 0) ∧
    (FiresReal (.rol h t r) s → Gives (.rol h t r) s (ext (x.rotateLeft n)) 0) ∧
    (FiresReal (.ror h t r) s → Gives (.ror h t r) s (ext (x.rotateRight n)) 0)

/-- Products, counts, fields, extensions, tests and addresses (R281, R285-R290). -/
def Obligations.IntegerFields : Prop :=
  ∀ (s : State) (h : Hdr) (t : IntTy) (r : Rhs) (w : Width) (w3 : Width3) (pos lenM1 : BitVec 6) (sx : Bool) (c : Cond) (b : LeaRhs),
    let L : Word := s.left 64
    let R : Word := s.latch.opR.word
    let y : Word := s.right 64 r
    let z := s.left w.bits
    let d : Word := match b with | .port k => R <<< k.toNat | .imm v => v.signExtend 64
    (t.width ≤ 32 → FiresReal (.mulw h t r) s → Gives (.mulw h t r) s
      (.scalar (extended t.signed (BitVec.ofInt (2 * t.width)
        (valueOf t.signed (s.left t.width) * valueOf t.signed (s.right t.width r))))) 0) ∧
    (FiresReal (.clz h w) s → ∃ n, Gives (.clz h w) s (.scalar (BitVec.ofNat 64 n)) 0 ∧ n ≤ w.bits ∧
      (∀ k, w.bits - n ≤ k → z.getLsbD k = false) ∧ (n < w.bits → z.getLsbD (w.bits - 1 - n) = true)) ∧
    (FiresReal (.ctz h w) s → ∃ n, Gives (.ctz h w) s (.scalar (BitVec.ofNat 64 n)) 0 ∧ n ≤ w.bits ∧
      (∀ k, k < n → z.getLsbD k = false) ∧ (n < w.bits → z.getLsbD n = true)) ∧
    (FiresReal (.popc h w) s → Gives (.popc h w) s
      (.scalar (BitVec.ofNat 64 ((List.range w.bits).filter fun k => z.getLsbD k).length)) 0) ∧
    (pos.toNat + lenM1.toNat + 1 ≤ 64 → FiresReal (.bfx h pos lenM1 sx) s → Gives (.bfx h pos lenM1 sx) s
      (.scalar (extended sx (L.extractLsb' pos.toNat (lenM1.toNat + 1)))) 0) ∧
    (pos.toNat + lenM1.toNat + 1 ≤ 64 → FiresReal (.bfi h pos lenM1) s → ∃ v : Word, Gives (.bfi h pos lenM1) s (.scalar v) 0 ∧
      ∀ k, k < 64 → v.getLsbD k =
        if pos.toNat ≤ k ∧ k < pos.toNat + (lenM1.toNat + 1) then R.getLsbD (k - pos.toNat) else L.getLsbD k) ∧
    (FiresReal (.sext h w3) s → Gives (.sext h w3) s (.scalar ((L.setWidth w3.bits).signExtend 64)) 0) ∧
    (FiresReal (.zext h w3) s → Gives (.zext h w3) s (.scalar ((L.setWidth w3.bits).setWidth 64)) 0) ∧
    (FiresReal (.tst h c r) s → Gives (.tst h c r) s (.scalar (if (match c with
      | .eq => decide (L = y) | .ne => decide (L ≠ y) | .lt => decide (L.toInt < y.toInt) | .le => decide (L.toInt ≤ y.toInt)
      | .gt => decide (L.toInt > y.toInt) | .ge => decide (L.toInt ≥ y.toInt) | .ltn => decide (L.toNat < y.toNat)
      | .len => decide (L.toNat ≤ y.toNat) | .gtn => decide (L.toNat > y.toNat) | .gen => decide (L.toNat ≥ y.toNat)) then 1 else 0)) 0) ∧
    (FiresReal (.lea h b) s → Gives (.lea h b) s (.scalar (L.extractLsb' 44 20 ++ (L + d).extractLsb' 0 44)) 0) ∧
    (FiresReal (.apx h r) s → Gives (.apx h r) s (.scalar (L.extractLsb' 0 20 ++ y.extractLsb' 0 44)) 0)

/-- FADD, FSUB and FMUL (R160, R291, R292): `a` and `b` are the decoded operands. -/
def Obligations.FpAddMul : Prop :=
  ∀ (s : State) (h : Hdr) (t : FpTy) (r : FRhs),
    let f := fmtOf t
    let x := scalarOp (.fp t) s.latch.opL
    let y := s.latch.frhs (.fp t) r
    let rm := y.2
    let a := f.decode x.val
    let b := f.decode y.1.val
    let joined := fun (q : Res) => q.flags ||| x.flags ||| y.1.flags
    let isSum := fun (b : FpVal) (q : Res) =>
      ((a.isNan ∨ b.isNan) → q = nanRes f [a, b]) ∧
      (∀ u v, a = .inf u → b = .inf v → q = if u = v then ⟨f.infinity u, 0⟩ else ⟨f.qnan, flagNV⟩) ∧
      (∀ u v n g, (a = .inf u → b = .fin v n g → q = ⟨f.infinity u, 0⟩) ∧ (a = .fin v n g → b = .inf u → q = ⟨f.infinity u, 0⟩)) ∧
      (∀ u m e v n g, a = .fin u m e → b = .fin v n g →
        let sum := withSign u (m * 2 ^ (e - min e g).toNat) + withSign v (n * 2 ^ (g - min e g).toNat)
        (m = 0 → n = 0 → q = ⟨f.zero (if u = v then u else rm == .rd), 0⟩) ∧
        (m ≠ 0 → sum = 0 → q = ⟨f.zero (rm == .rd), 0⟩) ∧
        (sum ≠ 0 → Rounds f rm (decide (sum < 0)) (fun k p => dyadicCmp k p sum.natAbs (min e g)) q))
    let isProduct := fun (q : Res) =>
      ((a.isNan ∨ b.isNan) → q = nanRes f [a, b]) ∧
      (∀ u v, a = .inf u → b = .inf v → q = ⟨f.infinity (u != v), 0⟩) ∧
      (∀ u v n g, ((a = .inf u ∧ b = .fin v n g) ∨ (a = .fin v n g ∧ b = .inf u)) →
        q = if n = 0 then ⟨f.qnan, flagNV⟩ else ⟨f.infinity (u != v), 0⟩) ∧
      (∀ u m e v n g, a = .fin u m e → b = .fin v n g →
        (m * n = 0 → q = ⟨f.zero (u != v), 0⟩) ∧
        (m * n ≠ 0 → Rounds f rm (u != v) (fun k p => dyadicCmp k p (m * n) (e + g)) q))
    (FiresReal (.fadd h t r) s → ∃ q : Res, Gives (.fadd h t r) s (.scalar q.val) (joined q) ∧ isSum b q) ∧
    (FiresReal (.fsub h t r) s → ∃ q : Res, Gives (.fsub h t r) s (.scalar q.val) (joined q) ∧ isSum b.flip q) ∧
    (FiresReal (.fmul h t r) s → ∃ q : Res, Gives (.fmul h t r) s (.scalar q.val) (joined q) ∧ isProduct q)

/-- FDIV, FSQRT, FMA and RSQ (R160, R291, R292, R299): exact results are compared without forming quotients or roots. -/
def Obligations.FpDivRoot : Prop :=
  ∀ (s : State) (h : Hdr) (t : FpTy) (r : FRhs) (rm : Rm),
    let f := fmtOf t
    let x := scalarOp (.fp t) s.latch.opL
    let y := s.latch.frhs (.fp t) r
    let yR := scalarOp (.fp t) s.latch.opR
    let z := scalarOp (.fp t) s.latch.opX
    let a := f.decode x.val
    let b := f.decode y.1.val
    let bR := f.decode yR.val
    let c := f.decode z.val
    (FiresReal (.fdiv h t r) s → ∃ q : Res, Gives (.fdiv h t r) s (.scalar q.val) (q.flags ||| x.flags ||| y.1.flags) ∧
      ((a.isNan ∨ b.isNan) → q = nanRes f [a, b]) ∧
      (∀ u v, a = .inf u → b = .inf v → q = ⟨f.qnan, flagNV⟩) ∧
      (∀ u v n g, (a = .inf u → b = .fin v n g → q = ⟨f.infinity (u != v), 0⟩) ∧
        (a = .fin v n g → b = .inf u → q = ⟨f.zero (v != u), 0⟩)) ∧
      (∀ u m e v n g, a = .fin u m e → b = .fin v n g →
        (n = 0 → q = if m = 0 then ⟨f.qnan, flagNV⟩ else ⟨f.infinity (u != v), flagDZ⟩) ∧
        (n ≠ 0 → m = 0 → q = ⟨f.zero (u != v), 0⟩) ∧
        (n ≠ 0 → m ≠ 0 → Rounds f y.2 (u != v) (fun k p => dyadicCmp (k * n) (p + g) m e) q))) ∧
    (FiresReal (.fsqrt h t rm) s → ∃ q : Res, Gives (.fsqrt h t rm) s (.scalar q.val) (q.flags ||| x.flags) ∧
      (a.isNan → q = nanRes f [a]) ∧
      (∀ u, a = .inf u → q = if u then ⟨f.qnan, flagNV⟩ else ⟨f.infinity false, 0⟩) ∧
      (∀ u m e, a = .fin u m e → (m = 0 → q = ⟨f.zero u, 0⟩) ∧ (m ≠ 0 → u = true → q = ⟨f.qnan, flagNV⟩) ∧
        (m ≠ 0 → u = false → Rounds f rm false (fun k p => dyadicCmp (k * k) (2 * p) m e) q))) ∧
    (FiresReal (.rsq h t rm) s → ∃ q : Res, Gives (.rsq h t rm) s (.scalar q.val) (q.flags ||| x.flags) ∧
      (a.isNan → q = nanRes f [a]) ∧
      (∀ u, a = .inf u → q = if u then ⟨f.qnan, flagNV⟩ else ⟨f.zero false, 0⟩) ∧
      (∀ u m e, a = .fin u m e → (m = 0 → q = ⟨f.infinity u, flagDZ⟩) ∧ (m ≠ 0 → u = true → q = ⟨f.qnan, flagNV⟩) ∧
        (m ≠ 0 → u = false → Rounds f rm false (fun k p => dyadicCmp (k * k * m) (2 * p + e) 1 0) q))) ∧
    (FiresReal (.fma h t rm) s → ∃ q : Res, Gives (.fma h t rm) s (.scalar q.val) (q.flags ||| x.flags ||| yR.flags ||| z.flags) ∧
      (∀ u v g, ((a = .inf u ∧ bR = .fin v 0 g) ∨ (a = .fin v 0 g ∧ bR = .inf u)) → q = ⟨f.qnan, flagNV⟩) ∧
      ((∀ u v g, ¬((a = .inf u ∧ bR = .fin v 0 g) ∨ (a = .fin v 0 g ∧ bR = .inf u))) → (a.isNan ∨ bR.isNan ∨ c.isNan) →
        q = nanRes f [a, bR, c]) ∧
      (∀ u m e v n g w, a = .fin u m e → bR = .fin v n g → c = .inf w → q = ⟨f.infinity w, 0⟩) ∧
      (∀ u v, ((a = .inf u ∧ bR = .inf v) ∨ (∃ n g, n ≠ 0 ∧ ((a = .inf u ∧ bR = .fin v n g) ∨ (a = .fin u n g ∧ bR = .inf v)))) →
        (∀ w k l, c = .fin w k l → q = ⟨f.infinity (u != v), 0⟩) ∧
        (∀ w, c = .inf w → q = if (u != v) = w then ⟨f.infinity w, 0⟩ else ⟨f.qnan, flagNV⟩)) ∧
      (∀ u m e v n g w k l, a = .fin u m e → bR = .fin v n g → c = .fin w k l →
        let sum := withSign (u != v) (m * n * 2 ^ (e + g - min (e + g) l).toNat) + withSign w (k * 2 ^ (l - min (e + g) l).toNat)
        (m * n = 0 → k = 0 → q = ⟨f.zero (if (u != v) = w then w else rm == .rd), 0⟩) ∧
        (k ≠ 0 → sum = 0 → q = ⟨f.zero (rm == .rd), 0⟩) ∧
        (sum ≠ 0 → Rounds f rm (decide (sum < 0)) (fun j p => dyadicCmp j p sum.natAbs (min (e + g) l)) q)))

/-- The records on patterns (R293-R295, R298). `pat` is the pattern of the type's width; `key` orders patterns that are not NaN, -0 below
+0, and `num` with the two zeros alike. -/
def Obligations.FpSelect : Prop :=
  ∀ (s : State) (h : Hdr) (t : FpTy) (b : Rhs) (c : FCond),
    let f := fmtOf t
    let x := scalarOp (.fp t) s.latch.opL
    let y := s.latch.rhs (.fp t) b
    let yR := scalarOp (.fp t) s.latch.opR
    let pat := fun (w : Word) => w.toNat % 2 ^ t.width
    let mag := fun (w : Word) => w.toNat % 2 ^ (t.width - 1)
    let sign := fun (w : Word) => w.getLsbD (t.width - 1)
    let expo := fun (w : Word) => mag w / 2 ^ f.fb
    let frac := fun (w : Word) => mag w % 2 ^ f.fb
    let isNan := fun (w : Word) => decide (expo w = 2 ^ f.eb - 1 ∧ frac w ≠ 0)
    let isSnan := fun (w : Word) => isNan w && !w.getLsbD (f.fb - 1)
    let num := fun (w : Word) => withSign (sign w) (mag w)
    let key := fun (w : Word) => if sign w then -(mag w : Int) - 1 else (mag w : Int)
    let nv := fun (q : Bool) => if q then flagNV else (0 : Word)
    let pick := fun (better : Bool) => if isNan x.val then (if isNan y.val then f.qnan.toNat else pat y.val)
      else if isNan y.val then pat x.val else if better then pat y.val else pat x.val
    let signed := fun (u : Bool) (q : Word) => if isNan x.val then q = f.qnan else q.toNat = mag x.val + (if u then 2 ^ (t.width - 1) else 0)
    let un := isNan x.val || isNan y.val
    let both := x.flags ||| y.flags
    (FiresReal (.fmin h t b) s → ∃ v : Word, Gives (.fmin h t b) s (.scalar v) (nv (isSnan x.val || isSnan y.val) ||| both) ∧
      v.toNat = pick (decide (key y.val < key x.val))) ∧
    (FiresReal (.fmax h t b) s → ∃ v : Word, Gives (.fmax h t b) s (.scalar v) (nv (isSnan x.val || isSnan y.val) ||| both) ∧
      v.toNat = pick (decide (key x.val < key y.val))) ∧
    (FiresReal (.fabs h t) s → ∃ v : Word, Gives (.fabs h t) s (.scalar v) (nv (isSnan x.val) ||| x.flags) ∧ signed false v) ∧
    (FiresReal (.fneg h t) s → ∃ v : Word, Gives (.fneg h t) s (.scalar v) (nv (isSnan x.val) ||| x.flags) ∧ signed (!sign x.val) v) ∧
    (FiresReal (.fcpys h t) s → ∃ v : Word, Gives (.fcpys h t) s (.scalar v) (nv (isSnan x.val) ||| (x.flags ||| yR.flags)) ∧
      signed (sign yR.val) v) ∧
    (FiresReal (.ftst h c t b) s → Gives (.ftst h c t b) s
      (.scalar (if (match c with
        | .eq => !un && decide (num x.val = num y.val) | .ne => un || decide (num x.val ≠ num y.val)
        | .lt => !un && decide (num x.val < num y.val) | .le => !un && decide (num x.val ≤ num y.val)
        | .gt => !un && decide (num x.val > num y.val) | .ge => !un && decide (num x.val ≥ num y.val)
        | .un => un | .or => !un) then 1 else 0))
      (nv (isSnan x.val || isSnan y.val || (un && (match c with | .lt | .le | .gt | .ge => true | _ => false))) ||| both)) ∧
    (FiresReal (.fcls h t) s → Gives (.fcls h t) s
      (.scalar (if isNan x.val then (if isSnan x.val then 0x100 else 0x200)
        else if expo x.val = 2 ^ f.eb - 1 then (if sign x.val then 0x001 else 0x080)
        else if mag x.val = 0 then (if sign x.val then 0x008 else 0x010)
        else if expo x.val = 0 then (if sign x.val then 0x004 else 0x020)
        else if sign x.val then 0x002 else 0x040)) x.flags)

/-- FCVT and FRND (R160, R164, R296, R297). NV for a signalling NaN converted to T8 or T6 is the model's choice (log entry 35). -/
def Obligations.FpConvert : Prop :=
  ∀ (s : State) (h : Hdr) (src : Ty) (it : IntTy) (ft : FpTy) (tt : TapTy) (rm : Rm),
    let x := scalarOp src s.latch.opL
    let v := decodeTy src x.val
    let f := fmtOf ft
    let z := scalarOp (.fp ft) s.latch.opL
    let bound := fun (neg : Bool) => if neg then it.lo else it.hi
    (FiresReal (.fcvt h (.int it) src rm) s → ∃ q : Res, Gives (.fcvt h (.int it) src rm) s (.scalar q.val) (q.flags ||| x.flags) ∧
      (∀ st, src = .int st →
        let n := valueOf st.signed (s.left st.width)
        q = ⟨it.ext (max it.lo (min it.hi n)), if it.lo ≤ n ∧ n ≤ it.hi then 0 else flagSAT⟩) ∧
      (src.isInt = false → (∀ g, v = .nan g → q = ⟨0, flagNV⟩) ∧ (∀ u, v = .inf u → q = ⟨it.ext (bound u), flagNV⟩) ∧
        (∀ u m e, v = .fin u m e → ∃ n, Nearest rm u (fun k p => dyadicCmp k p m e) n 0 ∧
          q = if it.lo ≤ withSign u n ∧ withSign u n ≤ it.hi
            then ⟨it.ext (withSign u n), if dyadicCmp n 0 m e = .eq then 0 else flagNX⟩ else ⟨it.ext (bound u), flagNV⟩))) ∧
    (FiresReal (.fcvt h (.fp ft) src rm) s → ∃ q : Res, Gives (.fcvt h (.fp ft) src rm) s (.scalar q.val) (q.flags ||| x.flags) ∧
      (∀ g, v = .nan g → q = nanRes f [v]) ∧ (∀ u, v = .inf u → q = ⟨f.infinity u, 0⟩) ∧
      (∀ u m e, v = .fin u m e → (m = 0 → q = ⟨f.zero u, 0⟩) ∧ (m ≠ 0 → Rounds f rm u (fun k p => dyadicCmp k p m e) q))) ∧
    (FiresReal (.fcvt h (.tap tt) src rm) s → ∃ q : Res, Gives (.fcvt h (.tap tt) src rm) s (.scalar q.val) (q.flags ||| x.flags) ∧
      (∀ g, v = .nan g → q = ⟨tapNar tt, if g then flagNV else 0⟩) ∧
      (∀ u, v = .inf u → q = ⟨BitVec.ofNat 64 (if u then 2 ^ tt.width - tapMax tt else tapMax tt), flagSAT ||| flagNX⟩) ∧
      (∀ u m e, v = .fin u m e → (m = 0 → q = ⟨0, 0⟩) ∧
        (m ≠ 0 → TapRounds tt u m 1 e q))) ∧
    (FiresReal (.frnd h ft rm) s → ∃ q : Res, Gives (.frnd h ft rm) s (.scalar q.val) (q.flags ||| z.flags) ∧
      (f.decode z.val).isNan = (f.decode q.val).isNan ∧ ((f.decode z.val).isNan → q = nanRes f [f.decode z.val]) ∧
      (∀ u, f.decode z.val = .inf u → q = ⟨f.infinity u, 0⟩) ∧
      (∀ u m e, f.decode z.val = .fin u m e → ∃ n k g, Nearest rm u (fun k p => dyadicCmp k p m e) n 0 ∧
        f.decode q.val = .fin u k g ∧ dyadicCmp k g n 0 = .eq ∧ q.flags = if dyadicCmp n 0 m e = .eq then 0 else flagNX))

/-- EXP2 and LOG2 (R299). -/
def Obligations.FpTranscendental : Prop :=
  ∀ (s : State) (h : Hdr) (t : FpTy) (rm : Rm),
    let f := fmtOf t
    let x := scalarOp (.fp t) s.latch.opL
    let a := f.decode x.val
    (FiresReal (.exp2 h t rm) s → ∃ q : Res, Gives (.exp2 h t rm) s (.scalar q.val) (q.flags ||| x.flags) ∧ q = exp2Val f rm a ∧
      (a.isNan → q = nanRes f [a]) ∧
      (∀ u, a = .inf u → q = if u then ⟨f.zero false, 0⟩ else ⟨f.infinity false, 0⟩) ∧
      (∀ u m e n, a = .fin u m e → dyadicCmp n 0 m e = .eq →
        Rounds f rm false (fun k p => dyadicCmp k p 1 (withSign u n)) q)) ∧
    (FiresReal (.log2 h t rm) s → ∃ q : Res, Gives (.log2 h t rm) s (.scalar q.val) (q.flags ||| x.flags) ∧ q = log2Val f rm a ∧
      (a.isNan → q = nanRes f [a]) ∧
      (∀ u, a = .inf u → q = if u then ⟨f.qnan, flagNV⟩ else ⟨f.infinity false, 0⟩) ∧
      (∀ u m e, a = .fin u m e → (m = 0 → q = ⟨f.infinity true, flagDZ⟩) ∧ (m ≠ 0 → u = true → q = ⟨f.qnan, flagNV⟩) ∧
        (m ≠ 0 → u = false → ∀ k : Int, dyadicCmp 1 k m e = .eq →
          (k = 0 → q = ⟨f.zero false, 0⟩) ∧
          (k ≠ 0 → Rounds f rm (decide (k < 0)) (fun j p => dyadicCmp j p k.natAbs 0) q))))

/-- The lane-wise records beside the scalar records of their lanes (R305). -/
def Obligations.VectorLanes : Prop :=
  ∀ (s : State) (h : Hdr) (t : IntTy) (f : FpTy) (b : FRhs) (r : Rhs) (rm : Rm) (w : Width),
    let b' : Rhs := match b with | .port _ => .port | .imm v => .imm v
    Lanewise (.vadd h (.int t) b) (.add h t b') (.int t) s ∧ Lanewise (.vadd h (.fp f) b) (.fadd h f b) (.fp f) s ∧
    Lanewise (.vsub h (.int t) b) (.sub h t b') (.int t) s ∧ Lanewise (.vsub h (.fp f) b) (.fsub h f b) (.fp f) s ∧
    Lanewise (.vmul h (.int t) b) (.mul h t b') (.int t) s ∧ Lanewise (.vmul h (.fp f) b) (.fmul h f b) (.fp f) s ∧
    Lanewise (.vdiv h (.int t) b) (.div h t b') (.int t) s ∧ Lanewise (.vdiv h (.fp f) b) (.fdiv h f b) (.fp f) s ∧
    Lanewise (.vfma h f rm) (.fma h f rm) (.fp f) s ∧
    Lanewise (.vmin h (.int t) r) (.min h t r) (.int t) s ∧ Lanewise (.vmin h (.fp f) r) (.fmin h f r) (.fp f) s ∧
    Lanewise (.vmax h (.int t) r) (.max h t r) (.int t) s ∧ Lanewise (.vmax h (.fp f) r) (.fmax h f r) (.fp f) s ∧
    (w.bits = t.width → Lanewise (.vabs h (.int t)) (.abs h w) (.int t) s ∧ Lanewise (.vneg h (.int t)) (.neg h w) (.int t) s) ∧
    Lanewise (.vabs h (.fp f)) (.fabs h f) (.fp f) s ∧ Lanewise (.vneg h (.fp f)) (.fneg h f) (.fp f) s ∧
    Lanewise (.vand h t r) (.and h r) (.int t) s ∧ Lanewise (.vor h t r) (.or h r) (.int t) s ∧
    Lanewise (.vxor h t r) (.xor h r) (.int t) s ∧
    Lanewise (.vshl h t r) (.shl h t r) (.int t) s ∧ Lanewise (.vshr h t r) (.shr h t r) (.int t) s ∧
    Lanewise (.vsar h t r) (.sar h t r) (.int t) s ∧
    Lanewise (.vexp2 h f rm) (.exp2 h f rm) (.fp f) s ∧ Lanewise (.vlog2 h f rm) (.log2 h f rm) (.fp f) s ∧
    Lanewise (.vrsq h f rm) (.rsq h f rm) (.fp f) s

/-- The records that move lanes (R307, R309, R310). That VBCAST, VEXTR and VINS decode an operand on a bound channel is the model's choice (log
entry 83). -/
def Obligations.VectorMoves : Prop :=
  ∀ (s : State) (h : Hdr) (t : Ty) (it : IntTy) (n : BitVec 7),
    let L := elem t s.latch.opL
    let R := elem t s.latch.opR
    let w := t.lane
    let at_ := fun (v : Vec) (k : Nat) => v.extractLsb' (w * k) w
    let put := fun (q : Word) => (laneBits t q).setWidth w
    (FiresReal (.vsel h t) s → ∃ v, Gives (.vsel h t) s (.vector v) (lanesFlags t.lanes fun k => (L k).flags ||| (R k).flags) ∧
      ∀ k, k < t.lanes → at_ v k = put (if s.latch.opX.word.getLsbD k then (L k).val else (R k).val)) ∧
    (FiresReal (.vbcast h t) s → ∃ v, Gives (.vbcast h t) s (.vector v) (scalarOp t s.latch.opL).flags ∧
      ∀ k, k < t.lanes → at_ v k = put (scalarOp t s.latch.opL).val) ∧
    (n.toNat < t.lanes → FiresReal (.vextr h t n) s → Gives (.vextr h t n) s (.scalar (match t with
      | .int i => extended i.signed ((L n.toNat).val.setWidth i.width)
      | _ => laneBits t (L n.toNat).val)) (L n.toNat).flags) ∧
    (n.toNat < t.lanes → FiresReal (.vins h t n) s →
      let e := fun (k : Nat) => if k = n.toNat then scalarOp t s.latch.opR else L k
      ∃ v, Gives (.vins h t n) s (.vector v) (lanesFlags t.lanes fun k => (e k).flags) ∧
        ∀ k, k < t.lanes → at_ v k = put (e k).val) ∧
    (FiresReal (.vperm h t) s →
      let e := fun (k : Nat) => L ((R k).val.toNat % t.lanes)
      ∃ v, Gives (.vperm h t) s (.vector v) (lanesFlags t.lanes fun k => (e k).flags ||| (R k).flags) ∧
        ∀ k, k < t.lanes → at_ v k = put (e k).val) ∧
    (FiresReal (.viota h it) s → ∃ v, Gives (.viota h it) s (.vector v) 0 ∧
      ∀ k, k < (Ty.int it).lanes → v.extractLsb' (it.width * k) it.width = BitVec.ofNat it.width (s.latch.opL.word.toNat + k))

/-- VTST (R306) and VCVT (R308). -/
def Obligations.VectorTests : Prop :=
  ∀ (s : State) (h : Hdr) (it : IntTy) (ft : FpTy) (c : Cond) (c' : FCond) (d src : Ty) (rm : Rm) (part : BitVec 2),
    (it.isLane → it.width ≠ 8 → FiresReal (.vtst h (.int it) c) s → ∃ m : Word, Gives (.vtst h (.int it) c) s (.scalar m) 0 ∧
      ∀ k, m.getLsbD k = (decide (k < (Ty.int it).lanes) &&
        let x := extended it.signed ((elem (.int it) s.latch.opL k).val.setWidth it.width)
        let y := extended it.signed ((elem (.int it) s.latch.opR k).val.setWidth it.width)
        match c with
        | .eq => decide (x = y) | .ne => decide (x ≠ y) | .lt => decide (x.toInt < y.toInt) | .le => decide (x.toInt ≤ y.toInt)
        | .gt => decide (x.toInt > y.toInt) | .ge => decide (x.toInt ≥ y.toInt) | .ltn => decide (x.toNat < y.toNat)
        | .len => decide (x.toNat ≤ y.toNat) | .gtn => decide (x.toNat > y.toNat) | .gen => decide (x.toNat ≥ y.toNat))) ∧
    (ft.isLane → (c, c') ∈ [(Cond.eq, FCond.eq), (.ne, .ne), (.lt, .lt), (.le, .le), (.gt, .gt), (.ge, .ge)] →
      FiresReal (.vtst h (.fp ft) c) s → ∃ (m : Word) (r f : Nat → Word),
        Gives (.vtst h (.fp ft) c) s (.scalar m) (lanesFlags (Ty.fp ft).lanes f) ∧
        (∀ k, m.getLsbD k = (decide (k < (Ty.fp ft).lanes) && r k == 1)) ∧
        ∀ k, k < (Ty.fp ft).lanes → ∀ s', FiresReal (.ftst h c' ft .port) s' → s'.latch.opL = laneTok (.fp ft) s.latch.opL k →
          s'.latch.opR = laneTok (.fp ft) s.latch.opR k → Gives (.ftst h c' ft .port) s' (.scalar (r k)) (f k)) ∧
    ((Instr.vcvt h d src rm part).wf = true → FiresReal (.vcvt h d src rm part) s →
      let n := 1024 / Nat.max src.lane d.lane
      let src0 := if src.lane < d.lane then n * part.toNat else 0
      let dst0 := if d.lane < src.lane then n * part.toNat else 0
      ∃ (v : Vec) (r f : Nat → Word), Gives (.vcvt h d src rm part) s (.vector v) (lanesFlags n f) ∧
        (∀ k, k < d.lanes → ¬(dst0 ≤ k ∧ k < dst0 + n) → v.extractLsb' (d.lane * k) d.lane = 0) ∧
        ∀ k, k < n → v.extractLsb' (d.lane * (dst0 + k)) d.lane = (r k).setWidth d.lane ∧
          ∀ s', FiresReal (.fcvt h d src rm) s' → s'.latch.opL = laneTok src s.latch.opL (src0 + k) →
            Gives (.fcvt h d src rm) s' (.scalar (r k)) (f k))

/-- The reductions on integer lanes (R311-R313). -/
def Obligations.VectorIntReductions : Prop :=
  ∀ (s : State) (h : Hdr) (t : IntTy) (rm : Rm) (mk : Bool), t.isLane →
    let w := t.width
    let n := (Ty.int t).lanes
    let val := fun (a : Tok) (k : Nat) => valueOf t.signed (a.vec.extractLsb' (w * k) w)
    let x := val s.latch.opL
    let y := val s.latch.opR
    let inR := fun (k : Nat) => !mk || s.latch.opR.word.getLsbD k
    let inX := fun (k : Nat) => !mk || s.latch.opX.word.getLsbD k
    let sum := fun (p : Nat → Bool) (m : Nat) (f : Nat → Int) => (((List.range m).filter p).map f).foldl (fun a b => a + b) 0
    let ext := fun (v : Int) => TokVal.scalar (extended t.signed (BitVec.ofInt w v))
    (FiresReal (.vred h (.int t) .add rm mk) s →
      Gives (.vred h (.int t) .add rm mk) s (.scalar (BitVec.ofInt 64 (sum inR n x))) 0) ∧
    (FiresReal (.vred h (.int t) .min rm mk) s → ∃ v, Gives (.vred h (.int t) .min rm mk) s (ext v) 0 ∧
      ((∀ k, k < n → inR k = false) → v = t.hi) ∧ (∀ k, k < n → inR k = true → v ≤ x k) ∧
      ((∃ k, k < n ∧ inR k = true) → ∃ k, k < n ∧ inR k = true ∧ v = x k)) ∧
    (FiresReal (.vred h (.int t) .max rm mk) s → ∃ v, Gives (.vred h (.int t) .max rm mk) s (ext v) 0 ∧
      ((∀ k, k < n → inR k = false) → v = t.lo) ∧ (∀ k, k < n → inR k = true → x k ≤ v) ∧
      ((∃ k, k < n ∧ inR k = true) → ∃ k, k < n ∧ inR k = true ∧ v = x k)) ∧
    (FiresReal (.vdot h (.int t) rm mk) s →
      Gives (.vdot h (.int t) rm mk) s (.scalar (BitVec.ofInt 64 (sum inX n fun k => x k * y k))) 0) ∧
    (FiresReal (.vscan h (.int t) rm mk) s → ∃ v, Gives (.vscan h (.int t) rm mk) s (.vector v) 0 ∧
      ∀ k, k < n → v.extractLsb' (w * k) w = BitVec.ofInt w (sum inR (k + 1) x))

/-- The reductions on IEEE lanes (R159, R173, R311-R313) and the lane selections (R314). -/
def Obligations.VectorFpReductions : Prop :=
  ∀ (s : State) (h : Hdr) (t : Ty) (ft : FpTy) (rm : Rm) (mk isMax : Bool),
    let m := fmtOf .f32
    let f := fmtOf ft
    let n := (Ty.fp ft).lanes
    let L := elem (.fp ft) s.latch.opL
    let R := elem (.fp ft) s.latch.opR
    let inR := fun (k : Nat) => !mk || s.latch.opR.word.getLsbD k
    let inX := fun (k : Nat) => !mk || s.latch.opX.word.getLsbD k
    let F := fun (k : Nat) => toFp m .rne (f.decode (L k).val)
    let P := fun (k : Nat) => mulVal m rm (f.decode (L k).val) (f.decode (R k).val)
    let leaf := fun (p : Nat → Bool) (v : Nat → Res) (k : Nat) => if k < n ∧ p k = true then some (v k).val else none
    let only := fun (n : Nat) (p : Nat → Bool) (g : Nat → Word) => lanesFlags n fun k => if p k = true then g k else 0
    let first := if inR 0 = true then (if (f.decode (L 0).val).isNan then f.qnan else (L 0).val) else 0
    (ft.isLane → FiresReal (.vred h (.fp ft) .add rm mk) s →
      let q := treeAt rm (leaf inR F) 6 0
      Gives (.vred h (.fp ft) .add rm mk) s (.scalar (q.1.getD 0)) (q.2 ||| only n inR fun k => (F k).flags ||| (L k).flags)) ∧
    (ft.isLane → FiresReal (.vdot h (.fp ft) rm mk) s →
      let q := treeAt rm (leaf inX P) 6 0
      Gives (.vdot h (.fp ft) rm mk) s (.scalar (q.1.getD 0))
        (q.2 ||| only n inX fun k => (P k).flags ||| ((L k).flags ||| (R k).flags))) ∧
    (ft.isLane → FiresReal (.vred h (.fp ft) (if isMax then .max else .min) rm mk) s →
      let there := fun (k : Nat) => k < n ∧ inR k = true
      let num := fun (k : Nat) => there k ∧ (m.decode (F k).val).isNan = false
      ∃ v : Word, Gives (.vred h (.fp ft) (if isMax then .max else .min) rm mk) s (.scalar v)
        (only n inR fun k => (F k).flags ||| (L k).flags) ∧
        ((∀ k, ¬ there k) → v = m.infinity isMax) ∧ ((∃ k, there k) → (∀ k, ¬ num k) → v = m.qnan) ∧
        ((∃ k, num k) → (∃ k, num k ∧ v = (F k).val) ∧ ∀ k, num k →
          (if isMax then fpBelow (m.decode v) (m.decode (F k).val) else fpBelow (m.decode (F k).val) (m.decode v)) = false)) ∧
    (ft.isLane → FiresReal (.vscan h (.fp ft) rm mk) s → ∃ (v : Vec) (r : Nat → Res),
      Gives (.vscan h (.fp ft) rm mk) s (.vector v) (lanesFlags n fun k => (r k).flags) ∧
      (∀ k, k < n → v.extractLsb' (ft.width * k) ft.width = (r k).val.setWidth ft.width) ∧
      (r 0).val = first ∧
      (r 0).flags = (if inR 0 = true then (L 0).flags ||| (if (f.decode (L 0).val).isSnan then flagNV else 0) else 0) ∧
      ∀ k, k + 1 < n → r (k + 1) =
        if inR (k + 1) = true then
          let q := addVal f rm (f.decode (r k).val) (f.decode (L (k + 1)).val)
          ⟨q.val, q.flags ||| (L (k + 1)).flags⟩
        else ⟨(r k).val, 0⟩) ∧
    (t.isIntOrVfp = true → (mk = true → t.isWide = true) →
      let i := if isMax then Instr.vmaxi h t mk else Instr.vmini h t mk
      let E := elem t s.latch.opL
      let sn := fun (k : Nat) => match t with | .fp g => if ((fmtOf g).decode (E k).val).isSnan then flagNV else (0 : Word) | _ => 0
      let ok := fun (k : Nat) => k < t.lanes ∧ inR k = true ∧ (match t with | .fp g => ((fmtOf g).decode (E k).val).isNan = false | _ => True)
      let less := fun (j k : Nat) => match t with
        | .int g => valueOf g.signed ((E j).val.setWidth g.width) < valueOf g.signed ((E k).val.setWidth g.width)
        | .fp g => fpBelow ((fmtOf g).decode (E j).val) ((fmtOf g).decode (E k).val) = true
        | .tap _ => False
      let better := fun (j k : Nat) => if isMax then less k j else less j k
      let fl := only t.lanes inR fun k => (E k).flags ||| sn k
      FiresReal i s →
        ((∀ k, ¬ ok k) → Gives i s (.scalar (BitVec.ofNat 64 t.lanes)) (fl ||| flagNV)) ∧
        ∀ k, ok k → (∀ j, ok j → ¬ better j k) → (∀ j, j < k → ok j → better k j) → Gives i s (.scalar (BitVec.ofNat 64 k)) fl)

/-- The format records (R160, R161, R316-R318, R321). NV for a signalling NaN in CVQ is the model's choice (log entry 35). -/
def Obligations.FormatRecords : Prop :=
  ∀ (s : State) (h : Hdr) (t : TapTy) (ch : BitVec 5) (qtr : BitVec 2),
    let f := fmtOf .f32
    let x : Vec := s.latch.opL.vec
    let S : BitVec 20 := s.latch.opR.word.setWidth 20
    let mag := fun (k : Nat) => (x.extractLsb' (32 * k) 31).toNat
    let mant := fun (q : BitVec 20) => 4096 + (q.extractLsb' 0 12).toNat
    let expo := fun (q : BitVec 20) => (q.extractLsb' 12 8).toNat
    let isScale := fun (q : BitVec 20) => 1 ≤ expo q ∧ expo q ≤ 254
    let at8 := fun (v : Vec) (k : Nat) => v.extractLsb' (8 * k) 8
    (FiresReal (.amax h t) s → ∃ q : BitVec 20, Gives (.amax h t) s (.scalar (q.setWidth 64)) 0 ∧
      ((∃ k, k < 32 ∧ 0x7F800000 ≤ mag k) → q = 0xFF000) ∧ ((∀ k, k < 32 → mag k = 0) → q = 0) ∧
      ∀ k, k < 32 → (∀ j, j < 32 → mag j ≤ mag k) → mag k ≠ 0 → mag k < 0x7F800000 →
        ∀ u m e, f.decode (BitVec.ofNat 64 (mag k)) = .fin u m e →
          let covers := fun (q : BitVec 20) => dyadicCmp (mant q) ((expo q : Int) - 139) m (e - maxposLog t) ≠ .lt
          isScale q ∧ covers q ∧ ∀ q', isScale q' → covers q' → q.toNat ≤ q'.toNat) ∧
    (FiresReal (.cvq h t ch) s → ∃ (v : Vec) (r : Nat → Res),
      let tok := newTok (.vector v) ch (some (S.setWidth 22)) (s.outSlack (.cvq h t ch))
      exec (.cvq h t ch) s = .next (s.after (((s.begun (.cvq h t ch)).holdFlags (lanesFlags 32 fun k => (r k).flags)).send2
        (.cvq h t ch) tok tok)) ∧
      (∀ k, 32 ≤ k → k < 128 → at8 v k = 0) ∧
      ∀ k, k < 32 → at8 v k = (r k).val.setWidth 8 ∧ (expo S = 0 → r k = ⟨0, 0⟩) ∧ (expo S = 255 → r k = ⟨tapNar t, 0⟩) ∧
        (isScale S →
          let a := f.decode ((x.extractLsb' (32 * k) 32).setWidth 64)
          (∀ g, a = .nan g → r k = ⟨tapNar t, if g then flagNV else 0⟩) ∧
          (∀ u, a = .inf u → r k = ⟨BitVec.ofNat 64 (if u then 2 ^ t.width - tapMax t else tapMax t), flagSAT ||| flagNX⟩) ∧
          (∀ u m e, a = .fin u m e → (m = 0 → r k = ⟨0, 0⟩) ∧
            (m ≠ 0 → TapRounds t u m (mant S) (e - ((expo S : Int) - 139)) (r k))))) ∧
    (FiresReal (.cvdq h t qtr) s → ∃ (v : Vec) (r : Nat → Res),
      Gives (.cvdq h t qtr) s (.vector v) (lanesFlags 32 fun k => (r k).flags) ∧
      ∀ k, k < 32 → v.extractLsb' (32 * k) 32 = (r k).val.setWidth 32 ∧
        let a := TapTy_decode t ((at8 x (32 * qtr.toNat + k)).setWidth 64)
        (a.isNan ∨ expo S = 255 → r k = ⟨f.qnan, 0⟩) ∧
        (∀ u m e, a = .fin u m e → (expo S = 0 → r k = ⟨f.zero false, 0⟩) ∧
          (isScale S → (m = 0 → r k = ⟨f.zero u, 0⟩) ∧
            (m ≠ 0 → Rounds f .rne u (fun j p => dyadicCmp j p (m * mant S) (e + ((expo S : Int) - 139))) (r k))))) ∧
    (FiresReal (.vpk h) s → ∃ v : Vec, Sends (.vpk h) s (.vector v) ∧
      (∀ j, j < 128 → v.extractLsb' (6 * j) 6 = x.extractLsb' (8 * j) 6) ∧ v.extractLsb' 768 256 = 0) ∧
    (FiresReal (.vupk h) s → ∃ v : Vec, Sends (.vupk h) s (.vector v) ∧
      ∀ j, j < 128 → at8 v j = (x.extractLsb' (6 * j) 6).setWidth 8)

/-- CHSET, CHTAB and SCLW (R319); an allowed value is one of R168 with bits 15:13 and 4 clear. -/
def Obligations.ChannelWrites : Prop :=
  ∀ (s : State) (h : Hdr) (sreg qmask : BitVec 4),
    let allowed := fun (v : BitVec 16) =>
      let fmt := v.extractLsb' 5 5
      v.extractLsb' 13 3 = 0 ∧ v.getLsbD 4 = false ∧
      (fmt = 0x0C ∨ fmt = 0x0D ∨ (fmt = 0x0A ∧ v.getLsbD 10 = false ∧ v.extractLsb' 11 2 = 0) ∨
        ((fmt = 0x08 ∨ fmt = 0x09) ∧ v.getLsbD 10 = false ∧ v.getLsbD 12 = false))
    let L := s.latch.opL.word
    let R := s.latch.opR.word
    let x : Vec := s.latch.opL.vec
    let holds := fun (i : Instr) (ws : List ChanWrite) => exec i s = .next (s.after (((s.begun i).holdChan ws).result i (.scalar 1)))
    (FiresReal (.chset h) s →
      (1 ≤ L.toNat ∧ L.toNat ≤ 31 ∧ R.toNat < 65536 ∧ allowed (R.setWidth 16) → holds (.chset h) [.entry L.toNat (R.setWidth 16)]) ∧
      (¬(1 ≤ L.toNat ∧ L.toNat ≤ 31 ∧ R.toNat < 65536 ∧ allowed (R.setWidth 16)) → Sends (.chset h) s (.scalar 0))) ∧
    (FiresReal (.chtab h) s →
      ((∀ k, 1 ≤ k → k < 32 → allowed (x.extractLsb' (16 * k) 16)) →
        holds (.chtab h) [.table ((List.range 31).map fun k => x.extractLsb' (16 * (k + 1)) 16)]) ∧
      (¬(∀ k, 1 ≤ k → k < 32 → allowed (x.extractLsb' (16 * k) 16)) → Sends (.chtab h) s (.scalar 0))) ∧
    (FiresReal (.sclw h sreg qmask) s → ∃ ws, holds (.sclw h sreg qmask) ws ∧
      (∀ q, q < 4 → qmask.getLsbD q = true → ChanWrite.scale sreg.toNat q (x.extractLsb' (32 * q) 20) ∈ ws) ∧
      ∀ w ∈ ws, ∃ q, q < 4 ∧ qmask.getLsbD q = true ∧ w = .scale sreg.toNat q (x.extractLsb' (32 * q) 20))

/-- RNGS, RNGN, RNGF and SAMPLE (R322, R323, R325, R326). `cum k` is the running sum of the masked lanes below `k`. -/
def Obligations.GenerationRecords : Prop :=
  ∀ (s : State) (h : Hdr) (drw : BitVec 4) (key ctr : Word),
    let f := fmtOf .f32
    let c := ctr + drw.setWidth 64
    let x0 := c ^^^ key
    let x1 := (x0 ^^^ (x0 >>> 30)) * 0x9E6C63D0676A9A99
    let x2 := (x1 ^^^ (x1 >>> 27)) * 0xD6E8FEB86659FD93
    let out := x2 ^^^ (x2 >>> 31)
    let u := rngUnit out
    let reads := fun (i : Instr) => ((s.begun i).me.bind fun x => (s.begun i).readRng x s.latch.route) = some (key, ctr)
    let isUnit := fun (u : Word) => u.toNat < 2 ^ 32 ∧ ∃ n g, f.decode u = .fin false n g ∧ dyadicCmp n g (out.toNat / 2 ^ 40) (-24) = .eq
    (FiresReal (.rngs h) s → exec (.rngs h) s = .next (s.after
      (((s.begun (.rngs h)).holdRng ⟨some s.latch.opL.word, s.latch.opR.word⟩).result (.rngs h) (.scalar 0)))) ∧
    (FiresReal (.rngn h drw) s → reads (.rngn h drw) → Sends (.rngn h drw) s (.scalar out)) ∧
    (FiresReal (.rngf h drw) s → reads (.rngf h drw) → Sends (.rngf h drw) s (.scalar u) ∧ isUnit u) ∧
    (FiresReal (.sample h drw) s → reads (.sample h drw) → ∀ cum : Nat → Word, cum 0 = 0 →
      let W := fun (k : Nat) => (s.latch.opL.vec.extractLsb' (32 * k) 32).setWidth 64
      let on := fun (k : Nat) => s.latch.opR.word.getLsbD k
      (∀ k, k < 32 → cum (k + 1) = if on k then (addVal f .rne (f.decode (cum k)) (f.decode (W k))).val else cum k) →
      let total := f.decode (cum 32)
      let bad := fun (k : Nat) => (f.decode (W k)).isNan = true ∨ (∃ m e, m ≠ 0 ∧ f.decode (W k) = .fin true m e) ∨ f.decode (W k) = .inf true
      let gives := fun (v fl : Word) => exec (.sample h drw) s = .next (s.after
        (((s.begun (.sample h drw)).holdFlags fl).result2 (.sample h drw) (.scalar v) (.scalar c)))
      let none_ := (∃ k, k < 32 ∧ on k = true ∧ bad k) ∨ (∃ u e, total = .fin u 0 e) ∨ (∃ u, total = .inf u) ∨ total.isNan = true
      let above := fun (k : Nat) => fpCmp (f.decode (cum (k + 1))) (f.decode (mulVal f .rne (f.decode u) total).val) = .gt
      (none_ → gives 32 flagNV) ∧
      (¬ none_ → ∀ k, k < 32 → on k = true → above k → (∀ j, j < k → on j = true → ¬ above j) → gives (BitVec.ofNat 64 k) 0))

/-- TOPK (R327) and ACCEPT (R328). -/
def Obligations.TopkAccept : Prop :=
  ∀ (s : State) (h : Hdr) (b : Rhs) (dl : BitVec 5) (near : Option (BitVec 4)),
    let f := fmtOf .f32
    let X := fun (k : Nat) => (s.latch.opL.vec.extractLsb' (32 * k) 32).setWidth 64
    let Y := fun (k : Nat) => (s.latch.opR.vec.extractLsb' (32 * k) 32).setWidth 64
    let nan := fun (k : Nat) => (f.decode (X k)).isNan
    let key := fun (k : Nat) => if (X k).getLsbD 31 then -((X k).toNat % 2 ^ 31 : Int) - 1 else ((X k).toNat % 2 ^ 31 : Int)
    let before := fun (j k : Nat) => if nan j = true then nan k = true ∧ j < k else if nan k = true then True
      else key k < key j ∨ (key j = key k ∧ j < k)
    let n := (s.right 64 b).toNat
    (FiresReal (.topk h b) s → ∃ (v : Vec) (m : Word) (rank : Nat → List Nat),
      exec (.topk h b) s = .next (s.after ((s.begun (.topk h b)).result2 (.topk h b) (.vector v) (.scalar m))) ∧
      (∀ k, (rank k).Nodup ∧ ∀ j, j ∈ rank k ↔ j < 32 ∧ before j k) ∧
      (∀ k, m.getLsbD k = true ↔ k < 32 ∧ (rank k).length < n) ∧
      ∀ k, k < 32 → v.extractLsb' (32 * k) 32 =
        if (rank k).length < n then (if nan k = true then 0x7FC00000#32 else (X k).setWidth 32) else 0xFF800000#32) ∧
    (FiresReal (.accept h dl near) s → ∀ a, a ≤ dl.toNat → (∀ j, j < a → X j = Y j) → (a < dl.toNat → X a ≠ Y a) →
      let i := Instr.accept h dl near
      let t := (s.begun i).holdRng ⟨none, s.latch.opX.word + BitVec.ofNat 64 (a + 1)⟩
      exec i s = .next (s.after ((match near with
        | some k => t.updOut s.latch.ctx s.latch.route fun o => { o with kadds := o.kadds ++ [(k.toNat, BitVec.ofNat 64 (a + 1))] }
        | none => t).result2 i (.scalar (BitVec.ofNat 64 (a + 1))) (.scalar (Y a)))))

/-- The forwarding records (R263-R268). -/
def Obligations.DataflowMoves : Prop :=
  ∀ (s : State) (h : Hdr) (vk dly : Bool) (t2 t3 : Target) (ty : Ty) (v : Lit),
    let again := fun (i : Instr) (a : Tok) => newTok a.val a.chan a.beat (s.outSlack i)
    let L := s.latch.opL
    let R := s.latch.opR
    let k := s.latch.key
    (FiresReal (.mov h vk dly) s → let i := Instr.mov h vk dly
      exec i s = .next (s.after ((s.begun i).send2 i (again i L) (again i L)))) ∧
    (FiresReal (.movx h vk t2 t3) s → let i := Instr.movx h vk t2 t3
      exec i s = .next (s.after (((((s.begun i).out i k vk h.t0 (again i L)).out i k vk h.t1 (again i L)).out i k vk t2 (again i L)).out
        i k vk t3 (again i L)))) ∧
    (FiresReal (.sel h vk) s → let i := Instr.sel h vk
      let a := if s.latch.opX.word = 0 then R else L
      exec i s = .next (s.after ((s.begun i).send2 i (again i a) (again i a)))) ∧
    (FiresReal (.gate h vk) s → let i := Instr.gate h vk
      let n := nullTok (s.outSlack i)
      exec i s = .next (s.after (if R.word = 0 then (s.begun i).send2 i n (again i L) else (s.begun i).send2 i (again i L) n))) ∧
    (FiresReal (.null h vk) s → let i := Instr.null h vk
      let n := nullTok (s.outSlack i)
      exec i s = .next (s.after ((s.begun i).send2 i n n))) ∧
    (FiresReal (.const h ty v) s → ∃ w : Word, Sends (.const h ty v) s (.scalar w) ∧
      (∀ it, ty = .int it → w = extended it.signed (v.signExtend it.width)) ∧
      (ty = .fp .f64 →
        let a := (fmtOf .f32).decode (v.setWidth 64)
        let b := (fmtOf .f64).decode w
        (∀ q, a = .nan q → b = .nan q) ∧ (∀ u, a = .inf u → b = .inf u) ∧
        ∀ u m e, a = .fin u m e → ∃ n g, b = .fin u n g ∧ dyadicCmp n g m e = .eq) ∧
      (ty.isInt = false → ty ≠ .fp .f64 → w = v.setWidth 64))

/-- READ (R123, R262), TAGR, WFLD, SLKS and SLKR (R275-R278). -/
def Obligations.DataflowReads : Prop :=
  ∀ (s : State) (h : Hdr) (n : BitVec 6) (m : BitVec 4) (f : TagField) (vk : Bool) (k : Fin 6) (b : SlksRhs) (x : Ctx),
    s.me = some x →
    let a := s.latch
    (FiresReal (.read h (.g n)) s → x.olderThan a.route = [] → (∀ e ∈ x.pending, e.1 ≠ n.toNat) →
      Sends (.read h (.g n)) s (.scalar (if n = 0 then 0 else Sparse.get 0 x.regs.g n.toNat))) ∧
    (FiresReal (.read h (.v m)) s → x.olderThan a.route = [] → Sends (.read h (.v m)) s (.vector (Sparse.get 0 x.regs.v m.toNat))) ∧
    (∀ o older p w, x.olderThan a.route = o :: older → s.blockOf x.id o = some p →
      (FiresReal (.read h (.g n)) s → p.wmask.getLsbD n.toNat = true →
        (o.out.regs.find? fun w => w.vec == false && w.n == n.toNat && w.val != .null) = some w →
        (∀ h m sc nr, p.node w.node ≠ some (.caddr h m sc nr)) → Sends (.read h (.g n)) s w.val) ∧
      (FiresReal (.read h (.v m)) s → p.vmask.getLsbD m.toNat = true →
        (o.out.regs.find? fun w => w.vec == true && w.n == m.toNat && w.val != .null) = some w →
        (∀ h m sc nr, p.node w.node ≠ some (.caddr h m sc nr)) → Sends (.read h (.v m)) s w.val)) ∧
    (FiresReal (.tagr h f vk) s → Sends (.tagr h f vk) s (.scalar (BitVec.ofNat 64 (match f with
      | .iter => if a.key.deep then a.key.iter else 0
      | .colour => a.ctx.colour
      | .gen => a.ctx.gen)))) ∧
    (∀ j, s.job? x.env.job = some j → FiresReal (.wfld h k) s →
      let width := fun (q : Nat) => ((j.words.getD 1 0).extractLsb' (6 * q) 6).toNat
      let low := ((List.range k.val).map width).foldl (fun a b => a + b) 0
      ∃ v : Word, Sends (.wfld h k) s (.scalar v) ∧
        ∀ i, v.getLsbD i = (decide (i < width k.val) && x.env.wid.getLsbD (low + i))) ∧
    (FiresReal (.slks h b) s →
      let i := Instr.slks h b
      let v := match b with | .port _ => a.opR.word.toNat | .imm v => (v.signExtend 64).toNat
      let t := newTok a.opL.val a.opL.chan a.opL.beat (min v 507904)
      exec i s = .next (s.after ((s.begun i).send2 i t t))) ∧
    (FiresReal (.slkr h vk) s → Sends (.slkr h vk) s (.scalar (BitVec.ofNat 64 (if a.opL.late then 0 else a.slack))))

/-- The exits (R121, R124, R129, R270); the stack of predicted returns is that of log entry 36. -/
def Obligations.ExitRecords : Prop :=
  (∀ (s : State) (h : Hdr) (blk : BitVec 33) (j : Inst), s.myInst = some j →
    let near : Word := BitVec.ofNat 64 (2 ^ 44 + 2048 * blk.toNat)
    let L := s.latch.opL.word
    let stack := fun (t : State) (f : List Word → List Word) => t.updCtx s.latch.ctx fun x => { x with rstack := f x.rstack }
    (j.exit = none →
      (FiresReal (.exitJmp h blk) s → exec (.exitJmp h blk) s = .next (s.after ((s.begun (.exitJmp h blk)).nameExit (.block near)))) ∧
      (FiresReal (.exitJmpi h) s → exec (.exitJmpi h) s = .next (s.after ((s.begun (.exitJmpi h)).nameExit (.block L)))) ∧
      (FiresReal (.exitStop h) s → exec (.exitStop h) s = .next (s.after ((s.begun (.exitStop h)).nameExit .stop))) ∧
      (FiresReal (.exitCall h blk) s → exec (.exitCall h blk) s = .next (s.after
        (((stack (s.begun (.exitCall h blk)) fun l => (L :: l).take 16).nameExit (.block near)).result (.exitCall h blk) (.scalar L)))) ∧
      (FiresReal (.exitRet h) s → exec (.exitRet h) s = .next (s.after
        ((stack (s.begun (.exitRet h)) fun l => l.drop 1).nameExit (.block L))))) ∧
    (j.exit.isSome = true → ∀ i ∈ [Instr.exitJmp h blk, .exitJmpi h, .exitStop h, .exitCall h blk, .exitRet h], FiresReal i s →
      exec i s = .next (s.after ((s.begun i).incompleteHere 1)))) ∧
  ∀ (s : State) (e : Succ) (x : Ctx) (j : Inst), s.me = some x → x.inst? s.latch.route = some j → j.exit = none →
    (x.insts.map Inst.route).Nodup →
    ∃ y j', (s.nameExit e).me = some y ∧ y.inst? s.latch.route = some j' ∧ j'.exit = some e ∧ j'.out = j.out ∧
      y.regs = x.regs ∧ (s.nameExit e).mem = s.mem ∧ (s.nameExit e).latch = s.latch ∧
      (j.pred = some e → y.insts.map Inst.route = x.insts.map Inst.route ∧ (s.nameExit e).reqs = s.reqs) ∧
      (j.pred ≠ some e → ∀ older younger, x.insts.map Inst.route = older ++ s.latch.route :: younger →
        y.insts.map Inst.route = older ++ [s.latch.route])

/-- The loop records (R135, R136, R272-R274): what each does to its instance in every case. -/
def Obligations.LoopRecords : Prop :=
  ∀ (s : State) (h : Hdr) (vk : Bool) (j : Inst), s.myInst = some j →
    let k := s.latch.key
    let L := s.latch.opL
    let c := s.latch.opR.word.toNat
    let tok := fun (i : Instr) => newTok L.val L.chan L.beat (s.outSlack i)
    let nul := fun (i : Instr) => nullTok (s.outSlack i)
    let in_ := Instr.itin h vk
    let nx := Instr.itnx h vk
    let out := Instr.itout h vk
    let first : Key := ⟨k.node, 0, true⟩
    let next : Key := ⟨k.node, k.iter + 1, true⟩
    let outer : Key := ⟨k.node, 0, false⟩
    let leaves := fun (t : State) (q : Tok) => match j.level.last with
      | some l => if k.iter = l then t.sendAt out outer q else t
      | none => t.updInst s.latch.ctx s.latch.route fun i =>
          if ∃ o ∈ i.level.outs, o.1 = k.node ∧ k.iter < o.2.1 then i
          else { i with level := { i.level with outs := (i.level.outs.filter fun o => o.1 != k.node) ++ [(k.node, k.iter, q)] } }
    (FiresReal in_ s →
      (c ≤ 2 ^ 24 → (j.level.count = none ∨ j.level.count = some c) →
        exec in_ s = .next (s.after ((((s.begun in_).setCount c).sendAt in_ first (tok in_)).openLevel))) ∧
      (2 ^ 24 < c → exec in_ s = .next (s.after ((s.begun in_).faultHere codeLooptag 0 0))) ∧
      (c ≤ 2 ^ 24 → ∀ c', j.level.count = some c' → c' ≠ c → exec in_ s = .next (s.after ((s.begun in_).incompleteHere 3)))) ∧
    (FiresNull in_ s → exec in_ s = .next (s.after (((s.mark false).sendAt in_ first (nul in_)).openLevel))) ∧
    (FiresReal nx s →
      (j.level.count = some (k.iter + 1) → exec nx s = .next (s.after ((s.begun nx).noteNx .last))) ∧
      (j.level.count ≠ some (k.iter + 1) →
        (k.iter + 1 = 2 ^ 24 → exec nx s = .next (s.after ((s.begun nx).faultHere codeLooptag 0 0))) ∧
        (k.iter + 1 ≠ 2 ^ 24 → exec nx s = .next (s.after (((s.begun nx).sendAt nx next (tok nx)).noteNx .sent))))) ∧
    (FiresNull nx s →
      ((j.level.count = none ∨ j.level.count = some 0) → exec nx s = .next (s.after ((s.mark false).noteNx .vote))) ∧
      (∀ n, j.level.count = some (n + 1) →
        (k.iter = n → exec nx s = .next (s.after ((s.mark false).noteNx .last))) ∧
        (k.iter ≠ n → exec nx s = .next (s.after (((s.mark false).sendAt nx next (nul nx)).noteNx .nullSent))))) ∧
    (FiresReal out s → exec out s = .next (s.after (leaves (s.begun out) (tok out)))) ∧
    (FiresNull out s → exec out s = .next (s.after (leaves (s.mark false) (nul out))))

/-- The memory records (R122, R239, R334-R341, R196, R197, R252); RED and VREDM of type F32 decode an operand on a bound channel as they fire
(R170). -/
def Obligations.MemoryRequests : Prop :=
  (∀ (s : State) (h : Hdr) (t : Ty) (m : MemLit) (ch : BitVec 5) (f : MemFn) (l : BitVec 5) (o : BitVec 32) (kn pgs : BitVec 4),
    let bound := fun (k : Tok) => t = .fp .f32 ∧ k.chan ≠ 0 ∧ k.bind.isSome = true
    let R := s.latch.opR
    let X := s.latch.opX
    let raw := fun (k : Tok) (v : TokVal) => { k with val := v, chan := 0, bind := none }
    (∀ i ∈ [Instr.ld h t m ch, .st h t m, .vld h t m ch, .vst h t m, .vldg h t m ch, .vsts h t m, .mldred h l o, .persist h m kn],
      FiresReal i s → exec i s = .next (s.after ((s.begun i).request i .queued 0))) ∧
    (let i := Instr.red h t m f
     FiresReal i s → (¬ bound R → exec i s = .next (s.after ((s.begun i).request i .queued 0))) ∧
      (bound R → let x := scalarOp t R
        let b := { s.begun i with latch := { s.latch with r := some (raw R (.scalar x.val)) } }
        exec i s = .next (s.after ((b.holdFlags x.flags).request i .queued 0)))) ∧
    (let i := Instr.vredm h t m f
     FiresReal i s → (¬ bound X → exec i s = .next (s.after ((s.begun i).request i .queued 0))) ∧
      (bound X → ∃ (v : Vec) (fl : Word),
        let b := { s.begun i with latch := { s.latch with x := some (raw X (.vector v)) } }
        exec i s = .next (s.after ((b.holdFlags fl).request i .queued 0)) ∧
        (∀ k, k < 32 → v.extractLsb' (32 * k) 32 = ((elem t X k).val).setWidth 32) ∧
        ∀ n, fl.getLsbD n = true ↔ ∃ k, k < 32 ∧ R.vec.extractLsb' (32 * k) 32 ≠ BitVec.allOnes 32 ∧ (elem t X k).flags.getLsbD n = true)) ∧
    (FiresReal (.gset h l) s → exec (.gset h l) s = .next (s.after ((s.begun (.gset h l)).request (.gset h l) .homes 0))) ∧
    (FiresReal (.ldr h t m ch) s → exec (.ldr h t m ch) s =
      .next (s.after (((s.begun (.ldr h t m ch)).request (.ldr h t m ch) .queued 0).result (.ldr h t m ch) (.scalar 0)))) ∧
    (FiresReal (.pref h m pgs) s → exec (.pref h m pgs) s =
      .next (s.after (((s.begun (.pref h m pgs)).request (.pref h m pgs) .queued 0).updOut s.latch.ctx s.latch.route fun o =>
        { o with lsids := o.lsids.map fun k => if k.lsid = m.lsid.toNat ∧ k.iter = s.latch.key.iter ∧ k.node = s.latch.key.node
            then { k with done := true } else k })))) ∧
  ∀ (s : State) (i : Instr) (st : Stage) (v : Word),
    ∃ q : Req, s.request i st v = { s with nextId := s.nextId + 1, reqs := s.reqs ++ [q] } ∧ q.id = s.nextId ∧ q.instr = i ∧
      q.latch = s.latch ∧ q.slack0 = s.outSlack i ∧ q.slack = s.outSlack i ∧ (q.late = true ↔ s.outSlack i = 0) ∧ q.stage = st ∧
      q.served = false ∧ q.go = false ∧ q.pieces = [] ∧ q.aps = [] ∧ q.named = [] ∧ q.void = false ∧ q.fails = [] ∧ q.value = v

/-- The counter records (R129, R224, R225, R343). -/
def Obligations.CounterRecords : Prop :=
  ∀ (s : State) (h : Hdr) (m : MemLit) (sc : Scope) (k : BitVec 4) (n : BitVec 6),
    let big := 2 ^ 48 ≤ s.latch.opR.word.toNat
    let asks := fun (i : Instr) (st : Stage) => exec i s = .next (s.after ((s.begun i).request i st 0))
    let counted := fun (t : State) => t.updOut s.latch.ctx s.latch.route fun o =>
      { o with regs := o.regs ++ [⟨false, n.toNat, s.latch.key.node, .scalar 0⟩] }
    (∀ i ∈ [Instr.cadd h m sc none, .cwait h m sc none, .cpoll h m sc none], FiresReal i s → asks i .queued) ∧
    (∀ i ∈ [Instr.cwait h m sc (some k), .cpoll h m sc (some k)], FiresReal i s → asks i .homes) ∧
    (let i := Instr.cadd h m sc (some k)
     FiresReal i s → (¬ big → asks i .homes) ∧ (big → exec i s = .next (s.after ((s.begun i).faultHere codeCntadd 0 0)))) ∧
    (h.t0 = .reg n → ∀ near : Option (BitVec 4), let i := Instr.caddr h m sc near
      FiresReal i s →
        ((near = none ∨ ¬ big) →
          exec i s = .next (s.after (counted ((s.begun i).request i (if near = none then .queued else .homes) 0)))) ∧
        (near ≠ none → big → exec i s = .next (s.after (counted ((s.begun i).faultHere codeCntadd 0 0)))))

/-- COPY (R193) and the engine records (R207, R208). -/
def Obligations.EngineRecords : Prop :=
  ∀ (s : State) (h : Hdr) (t : Ty) (l : BitVec 5) (e : EngLit) (q : BitVec 10) (p : EngPort),
    h.t0 = .port q → s.portAt s.latch.ctx q.toNat = some p →
    let sends := fun (i : Instr) (b : State) => { b with
      nextId := b.nextId + 1
      packets := b.packets ++ [(⟨b.nextId, s.latch.ctx, .port p s.latch.route s.latch.key,
        newTok s.latch.opL.val 0 none (s.outSlack i), false, none, some i, s.outSlack i, [],
        ((s.begun i).myInst.map fun x => x.born).getD 0⟩ : Packet)] }
    (let i := Instr.copy h l e
     FiresReal i s → exec i s = .next (s.after ((sends i (s.begun i)).lsidOver i))) ∧
    ∀ i ∈ [Instr.mma h t e, .mmaz h e, .accld h e, .accst h t e, .lxtab h e, .lxctx h e, .lxrun h e, .lxtin h e, .lxtout h e],
      FiresReal i s → exec i s = .next (s.after (sends i (s.begun i)))

/-- SPAWN, SPAWN.NOWAIT, RETN, CANCEL of a task and of a launch, and LAUNCH (R104-R106, R109, R347-R350). The last three are for a firing
whose accesses need not wait. That the access of CANCEL KIND 1 is checked as one of 64 bytes aligned to 8 is the model's choice (log entry 75). -/
def Obligations.TaskRecords : Prop :=
  (∀ (s : State) (h : Hdr) (na : Fin 3) (blk : BitVec 33) (x : Ctx) (g : Region), s.me = some x → s.regionOf s.latch.ctx = some g →
    ∀ i ∈ [Instr.spawn h na blk, .spawnNowait h na blk], FiresReal i s →
      (x.mark = .seen → exec i s = .next (s.after ((s.begun i).emitNull i))) ∧
      (x.mark ≠ .seen → ∀ c, g.nextColour = some c → ∃ t y q, exec i s = .next t ∧ y ∈ t.ctxs ∧ q ∈ t.reqs ∧
        y.id = ⟨g.num, c, (Sparse.get 0#6 g.gens c + 1#6).toNat⟩ ∧ y.env.origin = .child s.latch.ctx s.nextId ∧ y.env.super = false ∧
        y.env.job = x.env.job ∧ y.env.wid = x.env.wid ∧ y.env.atp = x.env.atp ∧ (∀ j, s.job? x.env.job = some j → y.env.dslk = j.dslk) ∧
        y.regs = ⟨[], [], [], 0, 0, 0⟩ ∧ y.insts = [] ∧ y.next = some (.block (BitVec.ofNat 64 (2 ^ 44 + 2048 * blk.toNat))) ∧
        q.id = s.nextId ∧ q.instr = i ∧ q.latch = s.latch ∧ q.stage = .answer ∧ t.mem = s.mem) ∧
      (x.mark ≠ .seen → g.nextColour = none → exec i s = .next (s.after (if i = .spawn h na blk
        then ((s.begun i).request i .answer 0).updReq s.nextId fun r => { r with stage := .colour }
        else ((s.begun i).faultHere codeSpawn 0 0).emitNull i)))) ∧
  (∀ (s : State) (h : Hdr) (x : Ctx) (j : Inst), s.me = some x → s.myInst = some j → let i := Instr.retn h
    FiresReal i s →
      ((∃ p q, x.env.origin = .child p q) → j.out.retn = none → exec i s = .next (s.after ((s.begun i).updOut s.latch.ctx s.latch.route
        fun o => { o with retn := some (s.latch.key, newTok (.scalar s.latch.opL.word) 0 none (s.outSlack i)) }))) ∧
      (((∀ p q, x.env.origin ≠ .child p q) ∨ j.out.retn.isSome = true) →
        exec i s = .next (s.after ((s.begun i).faultHere codeSpawn 0 0)))) ∧
  (∀ (s : State) (h : Hdr) (l : Located) (u : State), (∀ q ∈ s.reqs, q.id ≠ s.nextId) → let i := Instr.cancel h
    let b := s.unitOf i .queued
    let c := s.latch.ctx
    FiresReal i s → b.unitLocate (b.dieOf c) (b.atpOf c) s.latch.opL.word 128 [.r, .w] 128 = .ok (l, u) → u.pause = none →
      ((∀ k ∈ u.tasks, k.at_ ≠ l.full) → exec i s = .next (s.over (u.cancelActed s.nextId false))) ∧
      ∀ k, (u.tasks.find? fun k => k.at_ == l.full) = some k →
        (k.status ≠ 3#4 → let v := u.endTask { k with status := 5#4, lastf := codeCancelled }
          v.pause = none → exec i s = .next (s.over (v.cancelActed s.nextId true))) ∧
        (k.status = 3#4 → ∀ d x, k.ctx = some d → u.ctx? d = some x → exec i s = .next (s.over
          (((u.updTask k.id fun t => { t with cancelled := true }).sendMark d).cancelActed s.nextId true)))) ∧
  (∀ (s : State) (h : Hdr) (l : Located) (u : State), (∀ q ∈ s.reqs, q.id ≠ s.nextId) → let i := Instr.cancelLaunch h
    let b := s.unitOf i .queued
    let c := s.latch.ctx
    FiresReal i s → b.unitLocate (b.dieOf c) (b.atpOf c) s.latch.opL.word 64 [.r] 8 = .ok (l, u) → u.pause = none →
      ((∀ j ∈ u.loader.jobs, j.at_ = l.full → j.refused = true ∨ j.complete = true) →
        exec i s = .next (s.over (u.cancelActed s.nextId false))) ∧
      (∀ j, (u.loader.jobs.filter fun j => j.at_ == l.full && !j.refused && !j.complete) = [j] → (u.cancelJob j).1.pause = none →
        exec i s = .next (s.over ((u.cancelJob j).1.cancelActed s.nextId (u.cancelJob j).2)))) ∧
  ∀ (s : State) (h : Hdr) (l dl p : Located) (bs : List Byte) (w : Option Word) (s0 s1 s2 s3 s4 : State),
    (∀ q ∈ s.reqs, q.id ≠ s.nextId) →
    let i := Instr.launch h
    let c := s.latch.ctx
    let L := s.latch.opL.word
    let b := s.unitOf i .queued
    let ws := (List.range 16).map fun k => leWord ((bs.drop (8 * k)).take 8)
    let word := fun (k : Nat) => ws.getD k 0
    let regs := fun (t : State) => t.loader.regions.filter fun g => g.job == t.jobIn c
    let k0 := s3.newTask c L l.full dl.full ws
    let t4 := ({ s4.bump with tasks := (s4.tasks.filter fun u => u.at_ != l.full) ++ [{ k0 with woken := w }] } : State).writeTcb k0
    FiresReal i s → ((s.begun i).request i .queued 0).olderReleased c s.latch.route (s.asked i .queued).born = true →
    b.unitLocate (b.dieOf c) (b.atpOf c) L 128 [.r] 128 = .ok (l, s0) → s0.readAt (s0.dieOf c) l 128 = .ok (bs, s1) → s1.pause = none →
    badTcb ws ((regs s1).map fun g => g.index) = none → s1.fetchAt (s1.dieOf c) (s1.atpOf c) (word 0) = .ok (p, s2) →
    s2.unitLocate (s1.dieOf c) (s2.atpOf c) (word 2) 8 [.c] 8 = .ok (dl, s3) → s3.pause = none →
    s3.awaitDep k0.die dl (word 3) (slkValue (s3.taskCode k0)) k0.id = .ok (w, s4) → t4.pause = none → t4.taskMarked c = false →
    ∃ t k, exec i s = .next t ∧ k ∈ t.tasks ∧ k.at_ = l.full ∧ k.near = L ∧ k.words = ws ∧ k.status = 1#4 ∧ k.woken = w ∧
      k.dep = dl.full ∧ k.issuer = c ∧ k.cancelled = false ∧
      (k.die = match (regs s3).find? fun g => g.index == ((word 4).extractLsb' 16 16).toNat with | some g => g.die | none => s3.dieOf c) ∧
      ∀ k' ∈ t.tasks, k'.at_ = l.full → k' = k

/-- The system records (R118, R352-R354, R357-R360); `b` is the state in which the record's effect happens. That MSG without REPLY always enters the
inbox (log entry 20), that BADN answers all ones for a die from 8 to 15, and that LITW rewrites the copies at the block's near address (log entry 46),
and the order in which an instance's TRAP records are posted (log entry 72), are the model's choices. -/
def Obligations.SystemRecords : Prop :=
  ∀ (s : State) (h : Hdr) (code : BitVec 16) (node : BitVec 7),
    let L := s.latch.opL.word
    let R := s.latch.opR.word
    let body : BitVec 512 := s.latch.opL.vec.extractLsb' 0 512
    let low := (R.extractLsb' 0 32).toNat
    let sl := fun (i : Instr) => s.outSlack i
    let c := s.latch.ctx
    let fresh := ∀ q ∈ s.reqs, q.id ≠ s.nextId
    let inbox := fun (b : State) (e : Nat) (req : Option Nat) => { b with
      nextId := b.nextId + 1
      hub := { b.hub with msgs := b.hub.msgs ++ [⟨b.nextId, e, b.myEndpoint, b.myAtp, req, false, body⟩] } }
    (FiresReal (.trap h code) s → exec (.trap h code) s = .next (s.after ((s.begun (.trap h code)).updOut s.latch.ctx s.latch.route
      fun o => { o with traps := o.traps ++ [⟨s.latch.key.node, s.latch.key.iteration, code, L⟩] }))) ∧
    (FiresReal (.time h) s → Sends (.time h) s (.scalar s.ticks)) ∧
    (∀ i ∈ [Instr.msg h, .msgReply h], FiresReal i s →
      let b := s.begun i
      let e := if low = 0 then b.myEndpoint else low
      let bad := R.extractLsb' 33 31 ≠ 0 ∨ b.endpointFor b.super e = false
      (bad → Sends i s (.scalar 0)) ∧
      (¬ bad → R.getLsbD 32 = false → exec i s = .next (s.after ((inbox b e none).result i (.scalar 1)))) ∧
      (¬ bad → R.getLsbD 32 = true → (b.waitingMsgr e = none → Sends i s (.scalar 0)) ∧
        ∀ q, b.waitingMsgr e = some q → exec i s = .next (s.after
          ((b.answer q (.vector (body.setWidth 1024)) (.scalar 1) 0 q.replySlack q.late).result i (.scalar 1))))) ∧
    (let i := Instr.msgr h
     let b := s.begun i
     let bad := R.extractLsb' 33 31 ≠ 0 ∨ (low ≠ 0 ∧ b.endpointFor b.super low = false)
     FiresReal i s →
      (bad → exec i s = .next (s.after (b.send2 i (nullTok (sl i)) (newTok (.scalar 0) 0 none (sl i))))) ∧
      (¬ bad → low = 0 → exec i s = .next (s.after (b.request i .waiter 0))) ∧
      (¬ bad → low ≠ 0 → exec i s = .next (s.after (inbox (b.request i .answer 0) low (some s.nextId))))) ∧
    (let i := Instr.fltr h
     let b := s.unitOf i .queued
     let q := s.asked i .queued
     ∀ l u, FiresReal i s → fresh → b.unitLocate (b.dieOf c) (b.atpOf c) L 32 [.w] 32 = .ok (l, u) → u.pause = none →
      ((8 < R.toNat ∨ u.faults.queues.getD R.toNat [] = []) → exec i s = .next (s.over (u.reqDone q 0))) ∧
      (∀ r rest t, R.toNat ≤ 8 → u.faults.queues.getD R.toNat [] = r :: rest →
        u.writeAt (u.dieOf c) l (toBytesLE 32 r.toNat) = .ok t → t.pause = none →
        exec i s = .next (s.over (({ t with faults := { t.faults with
          queues := updAt t.faults.queues R.toNat fun x => x.drop 1
          notes := updAt t.faults.notes R.toNat fun x => x.drop 1 } } : State).reqDone q 1)))) ∧
    (let i := Instr.badn h
     let b := s.begun i
     let die := (L.extractLsb' 0 4).toNat
     let key := die * 64 + (L.extractLsb' 4 6).toNat
     let bad := 7 < die ∨ L.extractLsb' 10 5 ≠ 0 ∨ L.extractLsb' 16 48 ≠ 0 ∨ (L.getLsbD 15 = true ∧ R.extractLsb' 16 48 ≠ 0)
     FiresReal i s →
      (bad → Sends i s (.scalar (BitVec.allOnes 64))) ∧
      (¬ bad → L.getLsbD 15 = true → exec i s = .next (s.after (({ b with faults := { b.faults with
        pmask := Sparse.put 0#16 b.faults.pmask key (R.setWidth 16) } }).result i
          (.scalar ((Sparse.get 0#16 s.faults.pmask key).setWidth 64))))) ∧
      (¬ bad → L.getLsbD 15 = false → exec i s = .next (s.after (({ b with faults := { b.faults with
        cmask := updAt b.faults.cmask die fun _ => R } }).checkReplace.result i (.scalar (s.faults.cmask.getD die 0)))))) ∧
    (let i := Instr.litw h node
     let b := s.unitOf i .queued
     ∀ l u v, FiresReal i s → fresh → b.fetchAt (b.dieOf c) (b.atpOf c) L = .ok (l, u) → u.pause = none →
      let copies := (u.regionsOf (u.jobIn c)).filterMap fun g => (g.block? L).map fun p => (g, p)
      R.toNat < 2 ^ 48 → copies ≠ [] → (∀ gp ∈ copies, node.toNat < gp.2.size ∧ u.liveBlock gp.1 L = false) →
      u.checkCopies (u.atpOf c) node.toNat (R.setWidth 48) copies = (false, v) → v.pause = none →
      exec i s = .next (s.over ((copies.foldl (fun t gp => t.updRegion gp.1.num fun g => { g with
        placed := g.placed.map fun p => if p.addr = L then p.setLit node.toNat (R.setWidth 48) else p }) v).reqDone (s.asked i .queued) 1))) ∧
    (let i := Instr.apset h
     let b := s.unitOf i .queued
     let X := s.latch.opX.word
     let index := (X.extractLsb' 0 20).toNat
     ∀ bs t u, FiresReal i s → fresh → b.unitRead (b.dieOf c) (b.atpOf c) L 32 32 = .ok (bs, t) → t.pause = none →
      X.extractLsb' 41 23 = 0 → t.badAperture (BitVec.ofNat 256 (ofBytesLE bs)) index (X.extractLsb' 20 21).toNat = false →
      t.writeAperture (t.dieOf c) R index (BitVec.ofNat 256 (ofBytesLE bs)) = some u → u.pause = none →
      exec i s = .next (s.over (u.reqDone (s.asked i .queued) 1)))

/-- DUSK (R355, R371), CTXSV and CTXLD (R356, R374, R377, R384), RETIRE (R48, R361). `s.asked` is the request of the record that fires. That a saving
dusk squashes the speculative instances as its marker is injected (log entry 22), the marker's slack (log entry 76), that CTXLD faults ORPHAN where a
context may not stand (log entry 73), and that RETIRE's length check is of one byte (log entry 58) are the model's choices. -/
def Obligations.SaveRecords : Prop :=
  ∀ (s : State) (h : Hdr), (∀ q ∈ s.reqs, q.id ≠ s.nextId) →
    let L := s.latch.opL.word
    let R := s.latch.opR.word
    let c := s.latch.ctx
    (∀ (save : Bool) (l : Located) (u : State), let i := if save then Instr.duskSave h else Instr.dusk h
      let b := s.unitOf i .queued
      let q := s.asked i .queued
      FiresReal i s → b.unitLocate (b.dieOf c) (b.atpOf c) R 8 [.c] 8 = .ok (l, u) → u.pause = none →
        ((2 ^ 16 ≤ L.toNat ∨ u.region? L.toNat = none) → exec i s = .next (s.over (u.reqDone q 0))) ∧
        ∀ g, L.toNat < 2 ^ 16 → u.region? L.toNat = some g →
          (g.dusk.isSome = true → exec i s = .next (s.over (u.reqDone q 0))) ∧
          (g.dusk = none →
            let v := if save then ((u.ctxsIn g.num).filter fun x => x.halt.isNone).foldl State.squashSpeculative u else u
            exec i s = .next (s.over
              ((v.injectMarker g ⟨save, false, R, u.atpOf c, [], g.sinks, 0, 507904, false⟩).reqDone q (BitVec.ofNat 64 g.sinks))))) ∧
    (let i := Instr.ctxsv h
     let b := s.unitOf i .answer
     let name : CtxId := ⟨(L.extractLsb' 16 16).toNat, (L.extractLsb' 0 10).toNat, (L.extractLsb' 10 6).toNat⟩
     ∀ x g loc u, FiresReal i s → L.extractLsb' 32 32 = 0 → b.ctx? name = some x →
      b.unitLocate (b.dieOf c) (b.atpOf c) R 262144 [.w] 4096 = .ok (loc, u) → u.pause = none → x.saveable = true →
      u.regionOf x.id = some g →
      (1024 ≤ g.saved.length → exec i s = .next (s.over (u.reqFault (s.asked i .answer) codeSpill 0))) ∧
      ∀ t, g.saved.length < 1024 → u.writeAt (u.dieOf c) loc (saveBytes u x) = .ok t → t.pause = none →
        exec i s = .next (s.over ((t.keepSaved x loc.full).reqDone (s.asked i .answer) (BitVec.ofNat 64 (saveBytes u x).length))) ∧
        ∀ y ∈ (t.keepSaved x loc.full).ctxs, y.id ≠ x.id) ∧
    (let i := Instr.ctxld h
     let b := s.unitOf i .colour
     let die := b.dieOf c
     let atp := b.atpOf c
     ∀ loc loc2 head bs s0 s1 s2 s3 s4 s5 g d, FiresReal i s → b.unitLocate die atp L 8192 [.r] 4096 = .ok (loc, s0) →
      s0.readAt die loc 16 = .ok (head, s1) → s1.pause = none → R.toNat < 2 ^ 16 → s1.region? R.toNat = some g →
      (recWord head 0).getLsbD 63 = true →
      (s1.mayStand g ((recWord head 0).getLsbD 62) = false → exec i s = .next (s.over (s1.reqFault (s.asked i .colour) codeOrphan 0))) ∧
      (s1.mayStand g ((recWord head 0).getLsbD 62) = true →
      s1.unitLocate die atp L (max 8192 (recWord head 8).toNat) [.r] 4096 = .ok (loc2, s2) →
      s2.readAt die loc2 (max 8192 (min (recWord head 8).toNat 262144)) = .ok (bs, s3) → s3.pause = none →
      s3.drawColour g.num = some (s4, d) → s4.restoreCtx d g loc.full bs = some s5 → s5.pause = none →
      let t := (s5.endRestore (s5.dieOf c) loc.full d (recWord bs 0) ((s5.ctx? d).bind fun x => x.env.task)).settle d
      t.pause = none →
      exec i s = .next (s.over (t.reqDone (s.asked i .colour) (BitVec.ofNat 64 (d.colour + 1024 * d.gen)))))) ∧
    (let i := Instr.retire h
     let b := s.unitOf i .queued
     let q := s.asked i .queued
     let rights := match b.entryFor (b.atpOf c) L with | some e => e.rights | none => 0
     let asks := fun (f : FullAddr) => exec i s = .next (s.over
       ((b.updReq s.nextId fun r => { r with stage := .answer }).enqueueMsg 3 b.myEndpoint (b.atpOf c) (some s.nextId) true
         (lanesMsg [4, (f.serial.extractLsb' 0 32).toNat, (f.serial.extractLsb' 32 32).toNat, f.dev.toNat])))
     let faults := fun (code : BitVec 8) => exec i s = .next (s.over (b.reqFault q code L))
     ∀ f d, FiresReal i s → b.locate (b.dieOf c) (b.atpOf c) L 1 [] 1 = .ok (.here f d) →
      (grants d.maxr [.w] = true → (grants rights [.w] = true → asks f) ∧ (grants rights [.w] = false → faults codeProt)) ∧
      (grants d.maxr [.w] = false → b.super = false → faults codePriv) ∧
      (grants d.maxr [.w] = false → b.super = true →
        (grants rights [.r] = true → asks f) ∧ (grants rights [.r] = false → faults codeProt)))

/-- A firing leaves every byte of memory as it was (R122, R130, R239, R240); the records named act within their step. -/
def Obligations.FiringKeepsMemory : Prop :=
  ∀ (i : Instr) (s t : State), i.isEvent = false → exec i s = .next t →
    (∀ h, i ≠ .launch h ∧ i ≠ .cancel h ∧ i ≠ .cancelLaunch h ∧ i ≠ .fltr h ∧ i ≠ .apset h ∧ i ≠ .ctxsv h ∧ i ≠ .ctxld h) → (∀ h n, i ≠ .litw h n) →
    SameMemory s t

/-- A firing leaves the committed registers of every context as they were (R123, R128, R130, R161, R322). -/
def Obligations.FiringKeepsRegisters : Prop :=
  ∀ (i : Instr) (s t : State), i.isEvent = false → exec i s = .next t → (∀ h, i ≠ .ctxld h) → SameRegisters s t

/-- HOME_PERFORM of a write and of a load (R178, R184, R240, R334-R340); `a` is where the piece's page entry `w` puts it (R44, R176). A load's piece
keeps the bytes read until the last is there; the reply then goes to the targets, or, for LDR, to the port that its operand names. -/
def Obligations.MemoryEffects : Prop :=
  ∀ (s : State) (r k a : Nat) (w : Word) (q : Req) (p : Piece), s.req? r = some q → q.stage = .homes → q.pieces[k]? = some p →
    p.stage = .ready → p.dev = s.names.devNum → q.fails = [] → s.orderOk q [p.foot] = true → s.atHome p = some (w, a) →
    (∀ new : List Byte,
      (∃ h t m f, (q.instr = .st h t m ∧ new = toBytesLE p.size q.latch.opR.word.toNat) ∨
        (q.instr = .vst h t m ∧ new = toBytesLE p.size (lane 64 q.latch.opR.vec p.lane).toNat) ∨
        (q.instr = .vsts h t m ∧ new = toBytesLE p.size (lane t.lane q.latch.opX.vec p.lane).toNat) ∨
        (q.instr = .red h t m f ∧ new = toBytesLE p.size
          (combine t f (leWord (Memory.readN s.mem a p.size)) q.latch.opR.word).toNat) ∨
        (q.instr = .vredm h t m f ∧ new = toBytesLE p.size
          (combine t f (leWord (Memory.readN s.mem a p.size)) (lane t.lane q.latch.opX.vec p.lane)).toNat)) →
      Memory.wf s.mem = true → q.go = true → s.stalled p = false → s.drainOk q k = true → s.outranked q k = false →
      (s.ctx? q.latch.ctx).isSome = true → (a + p.size ≤ p.pte ∨ p.pte + 8 ≤ a) →
      ∃ t, exec (.homePerform r k) s = .next t ∧ SameRegisters s t ∧
        (∀ b, a ≤ b → b < a + p.size → Memory.read t.mem b = new.getD (b - a) 0) ∧
        Memory.word t.mem p.pte = (if pteState w = 2 then mkPte 3 (ptePblk w) (pteFrame w) else w) ∧
        ∀ b, (b < a ∨ a + p.size ≤ b) → (b < p.pte ∨ p.pte + 8 ≤ b) → Memory.read t.mem b = Memory.read s.mem b) ∧
    ∀ d, inStream q.instr = true → s.desc? p.serial = some d → p.ofs % 8 + p.size ≤ 8 → s.locked p = false → s.heldWrites q = [] →
      s.outranked q k = false → (s.reqs.filter fun e => e.id == r) = [q] →
      (∀ e ∈ s.reqs, e.latch.ctx = q.latch.ctx → e.id = r ∨
        (inStream e.instr = false ∧ (r < e.id ∨ (opKind e.instr ≠ .acquire ∧ e.stage ≠ .answer)))) →
      let read := fun (e : Piece) => { e with stage := .done, data := Memory.readN s.mem a p.size }
      let ps := updAt q.pieces k read
      let bytes := ps.flatMap fun e => e.data
      let elems := match q.instr with | .vld _ t _ _ => p.size * 8 / t.lane | _ => 1
      let heat := fun (u : Tile) => { u with heat := addHeat u.heat p.serial (p.ofs / pageBytes d.pgsz) elems 0 }
      let b := s.updTile (homeOf a) heat
      let replies := fun (t : State) => exec (.homePerform r k) s = .next { t with
        packets := updWhere (fun x => x.req == some r) (fun x => { x with streams := s.streamsOf q }) t.packets }
      let brings := fun (v : TokVal) (c : BitVec 5) => replies (b.answer q v v c q.replySlack q.lateNow)
      ((∃ e ∈ ps, e.stage ≠ .done) → exec (.homePerform r k) s = .next (b.updReq r fun e => { e with served := true, pieces := ps })) ∧
      ((∀ e ∈ ps, e.stage = .done) → ∀ (h : Hdr) (t : Ty) (m : MemLit) (c : BitVec 5),
        (q.instr = .ld h t m c → brings (.scalar (loadWord t bytes)) c) ∧
        (q.instr = .vld h t m c → bytes.length = 128 → ∃ x : Vec, brings (.vector x) c ∧
          ∀ j, j < 128 → x.extractLsb' (8 * j) 8 = bytes.getD j 0 &&& (if t = .tap .t6 then 0x3F#8 else 0xFF#8)) ∧
        (q.instr = .vldg h t m c → ∃ x : Vec, brings (.vector x) c ∧
          ∀ j, j < t.lanes → x.extractLsb' (t.lane * j) t.lane =
            (leWord (((ps.find? fun e => e.lane == j).map fun e => e.data).getD [])).setWidth t.lane) ∧
        (q.instr = .ldr h t m c →
          (∀ port, q.void = false → s.ldrPort q.latch.ctx q.latch.opR.word = some port → replies ((({ b.bump with
            packets := b.packets ++ [(⟨b.nextId, q.latch.ctx, .port port q.latch.route q.latch.key,
              { newTok (.scalar (loadWord t bytes)) c none q.replySlack with
                late := q.lateNow || q.replySlack == 0, poison := ps.any fun e => e.poison },
              loudOf q.instr, some r, none, q.replySlack, [], 0⟩ : Packet)] } : State).lsidDone q).dropReq r)) ∧
          (q.void = true → exec (.homePerform r k) s = .next ((b.lsidDone q).dropReq r))))

/-- TOKEN_ARRIVAL (R122, R125, R129, R170, R186) and BLOCK_FETCH (R120, R121). That a fetch takes the lowest free slot and the prediction as the
event's argument (log entry 33), and that a node whose T0 and T1 name one register counts it by T0 (log entry 71), are the model's choices. -/
def Obligations.TokenEvents : Prop :=
  (∀ (s : State) (n : Nat) (pk : Packet), (s.packets.find? fun p => p.id == n) = some pk → s.replyAhead pk = false →
    pk.tok.late = false → pk.req = none →
    let u := { s with packets := s.packets.filter fun p => p.id != n, nextId := s.nextId + 1 }
    (∀ r k port grp x i g p, pk.dest = .node r k port grp → s.ctx? pk.ctx = some x → x.inst? r = some i → i.draining = false →
      s.regionOf pk.ctx = some g → g.block? i.block = some p → s.nodeLoaded pk.ctx r.con k.node = true → i.entry? k port = none →
      pk.tok.isNull = false → s.noRoom x r.con (s.peOf pk.ctx r.con k.node) (p.vecPort ⟨k, port, none, [], false, none, 0⟩) = false →
      ∃ t y j e, exec (.tokenArrival n) s = .next t ∧ t.ctx? pk.ctx = some y ∧ y.inst? r = some j ∧ e ∈ j.entries ∧ e.key = k ∧
        e.port = port ∧ e.tok = some ((g.scaleBeat r.con pk.tok).bindTok r.con pk.tok) ∧ e.groups = [grp] ∧ e.spilled = none ∧
        t.packets = u.packets ∧ t.mem = s.mem ∧ y.regs = x.regs) ∧
    (∀ r node vec m x i, pk.dest = .reg r node vec m → s.ctx? pk.ctx = some x → x.inst? r = some i → i.draining = false →
      (pk.tok.isNull = true ∨ i.regTaken vec m node = false) →
      (i.regHas vec m node = false →
        exec (.tokenArrival n) s = .next (u.updOut pk.ctx r fun o => { o with regs := o.regs ++ [⟨vec, m, node, pk.tok.val⟩] })) ∧
      (i.regHas vec m node = true → exec (.tokenArrival n) s = .next u)) ∧
    (∀ r k m, pk.dest = .port (.streamer m) r k → m < 8 → pk.tok.isNull = false → u.portOpen pk r k = true →
      (pk.instr = none ∨ ∃ h l e, pk.instr = some (.copy h l e)) →
      ∃ t q, exec (.tokenArrival n) s = .next t ∧ q.instr = pk.instr ∧ q.vec = pk.tok.vec ∧ q.ctx = pk.ctx ∧ q.slack = pk.tok.slack ∧
        (Sparse.get Streamer.idle t.engines.streamers (s.dieOf pk.ctx * 8 + m)).queue =
          (Sparse.get Streamer.idle s.engines.streamers (s.dieOf pk.ctx * 8 + m)).queue ++ [q] ∧
        t.packets = u.packets ∧ t.mem = s.mem)) ∧
  ∀ (s v : State) (c : CtxId) (x : Ctx) (g : Region) (a : Word) (real : Bool) (l : Located) (p : Placed) (n : Nat) (pred : Option Succ),
    s.ctx? c = some x → s.regionOf c = some g → x.halt = none → x.drained = false → s.outOfWork c = false → s.duskStops x g = false →
    (∀ t, x.env.origin ≠ .task t) → x.insts.length < (if g.die = 8 then 4 else 8) → x.fetches = some (.block a, real) →
    (s.acting (.fetch c)).fetchAt g.die x.env.atp a = .ok (l, v) → v.pause = none → g.block? a = some p →
    n < 32 → n ∉ s.slotsTaken g.num p.con →
    ∃ t y i, exec (.blockFetch c pred) s = .next t ∧ t.ctx? c = some y ∧ y.insts = x.insts ++ [i] ∧ i.route.con = p.con ∧
      i.route.slot ≤ n ∧ i.route.slot ∉ s.slotsTaken g.num p.con ∧
      i.route.seq = Sparse.get 0#4 g.seqs (p.con * 32 + i.route.slot) + 1#4 ∧ i.route.block = p.addr ∧ i.pred = pred ∧
      i.exit = none ∧ i.entries = [] ∧ i.fired = [] ∧ y.regs = x.regs ∧ t.mem = s.mem

/-- COMMIT (R128, R130, R161, R348), COMMIT_WATCHDOG (R132, R133, R402) and TICK (R142, R145). That an instance's channel writes take effect in firing
order is the model's choice (log entry 84). -/
def Obligations.CommitEvents : Prop :=
  (∀ (s : State) (c : CtxId) (x : Ctx) (i : Inst) (rest : List Inst) (p : Placed) (k : Key) (v : Tok), s.ctx? c = some x →
    x.insts = i :: rest → s.blockOf c i = some p → s.mayCommit x i p = true → i.out.retn = some (k, v) → i.exit ≠ some .stop →
    exec (.commit c) s = .next ((s.post c (s.recordFault c i.route k i.block codeSpawn 0 0)).endCtx c .null none)) ∧
  (∀ (s : State) (c : CtxId) (x : Ctx) (i : Inst) (rest : List Inst) (p : Placed), s.ctx? c = some x → x.insts = i :: rest →
    s.blockOf c i = some p → s.mayCommit x i p = true → (i.out.retn = none ∨ i.exit = some .stop) →
    let s1 := s.updCtx c fun y => y.writeBack p i (s.reqsOf c i.route)
    let s2 := s1.updRegion c.region fun g => i.out.chans.foldl Region.chanWrite g
    let s3 := i.out.kadds.foldl (fun t ka => t.addK c ka.1 ka.2) s2
    let s4 := s3.updInst c i.route fun j => { j with draining := true }
    exec (.commit c) s = .next (({ s4 with reqs := s4.reqs.map fun q =>
      if q.latch.ctx = c ∧ q.latch.route = i.route ∧ q.instr.writes = true then { q with go := true } else q } : State).drained c i.route) ∧
    (s.reqsOf c i.route = [] → i.out.traps = [] → i.out.retn = none → i.out.chans = [] → i.out.kadds = [] → x.mark ≠ .seen →
      (∀ j ∈ rest, j.faults = [] ∧ j.route ≠ i.route) → ∀ a, i.exit = some (.block a) →
      ∃ t y, exec (.commit c) s = .next t ∧ t.ctx? c = some y ∧ y.insts = rest ∧ y.next = some (.block a) ∧ y.halt = none ∧
        y.regs.flags = x.regs.flags ||| i.out.flags ∧ t.mem = s.mem ∧
        ∀ w v, i.out.regs = [w] → w.val = .scalar v → (∀ h m sc k, p.node w.node ≠ some (.caddr h m sc k)) → v ≠ 0 →
          Sparse.get 0 y.regs.g w.n = v)) ∧
  (∀ (s : State) (c : CtxId) (x : Ctx) (i : Inst) (rest : List Inst) (p : Placed) (n : Nat), s.ctx? c = some x → x.insts = i :: rest →
    s.blockOf c i = some p → 4096 ≤ x.watch → s.stuck x = true → n ∈ i.blamed p → (∀ m ∈ i.blamed p, n ≤ m) →
    exec (.commitWatchdog c) s = .next (s.raise c i.route (s.incomplete c i ⟨n, 0, false⟩ 0))) ∧
  ∀ (s : State) (wire : List Nat), ∃ t, exec (.tick wire) s = .next t ∧ t.ticks = s.ticks + 1 ∧ t.mem = s.mem ∧
    t.packets = s.packets.map (fun p => if p.id ∉ wire ∧ s.packetQueues p = true then
      { p with tok := { p.tok with slack := p.tok.slack - 1, late := p.tok.late || p.tok.slack - 1 == 0 } } else p) ∧
    t.ctxs.map (fun x => (x.id, x.regs)) = s.ctxs.map (fun x => (x.id, x.regs)) ∧
    t.ctxs.map (fun x => x.watch) = s.ctxs.map (fun x => if s.stuck (s.tickReady x) then x.watch + 8 else 0)

/-- The events of translation and residency (R41-R46, R146, R183, R184). -/
def Obligations.TranslationEvents : Prop :=
  (∀ (s v : State) (r : Nat) (q : Req) (ps ps1 : List Piece) (h : Hdr) (t : Ty) (m : MemLit) (ch : BitVec 5) (f : MemFn), s.req? r = some q →
    q.stage = .queued → q.instr ∈ [Instr.ld h t m ch, .vld h t m ch, .vldg h t m ch, .st h t m, .vst h t m, .vsts h t m, .red h t m f,
      .vredm h t m f] →
    let tile := s.walkTile q.latch.ctx q.latch.route.con
    let u := s.readApertures q
    (∀ e ∈ s.atTile tile .queued, e.urgent q = true → s.translate e = none) → u.walkTile q.latch.ctx q.latch.route.con = tile →
    u.checkSpans tile q.instr q.named (s.entriesFor q.latch.ctx q.instr q.latch q.aps) = .ok ps → ps ≠ [] →
    (∀ p ∈ ps, p.dev = u.names.devNum) → u.placePieces (u.dieOf q.latch.ctx) ps = .ok (ps1, v) → ps1 ≠ [] → (∀ p ∈ ps1, p.stage ≠ .probing) →
    exec (.tileAccess r) s = .next (v.updReq q.id fun e => { e with
      stage := .homes, pieces := ps1.map fun p => { p with slack := q.slack, late := q.late } })) ∧
  (∀ (s : State) (d n w : Nat) (k : CacheKey), (s.tile (d, n)).walkers[w]? = some (some k) →
    let s1 := s.updTile (d, n) fun t => { t.remember k with walkers := updAt t.walkers w fun _ => none }
    let ids := (s1.atTile (d, n) .walking).map fun q => q.id
    let s2 := { s1 with reqs := updWhere (fun q => ids.contains q.id) (fun q => { q with stage := .queued }) s1.reqs }
    let s3 := (ids.filterMap s2.req?).foldl (fun t q => ((t.req? q.id).bind t.translate).getD t) s2
    k ∈ (s1.tile (d, n)).cache ∧
    ((s3.atTile (d, n) .queued) = [] → exec (.tableWalkComplete d n w) s = .next s3) ∧
    ∀ q, firstBy Req.urgent (s3.atTile (d, n) .queued) = some q → exec (.tableWalkComplete d n w) s = .next ((s3.translate q).getD s3)) ∧
  (∀ (s : State) (pte : Nat) (m : Move), s.move? pte = some m → Memory.wf s.mem = true →
    let w := Memory.word s.mem pte
    let bad := s.badMove pte
    (m.kind = .fill → bad = none → ∃ t, exec (.pageFillComplete pte) s = .next t ∧
      Memory.word t.mem pte = mkPte 2 (ptePblk w) m.frame ∧ (∀ x ∈ t.names.moves, x.pte ≠ pte) ∧
      ∀ b, b < m.size → (m.base + b < pte ∨ pte + 8 ≤ m.base + b) → Memory.read t.mem (m.base + b) =
        if ptePblk w = 0 then 0 else Memory.read s.mem (tierAddr (ptePblk w) + b)) ∧
    (∀ g, m.kind = .migrate g → exec (.migrationComplete pte) s = .next (s.finishMigrate m g).retryParked ∧
      Memory.word (s.finishMigrate m g).mem pte = mkPte (if m.dirty then 3 else 2) (ptePblk w) g) ∧
    (m.kind = .evict → (s.heldAt pte = true → bad = none → exec (.evictionComplete pte) s = .next (s.abandonEvict m)) ∧
      (s.heldAt pte = false → bad = none → exec (.evictionComplete pte) s = .next ((({ s with
        mem := if m.dirty then Memory.copy s.mem m.base (tierAddr (ptePblk w)) m.size else s.mem
        names := { s.names with moves := s.names.moves.filter fun x => x.pte != pte } } : State).setPte pte
          (mkPte 0 (ptePblk w) 0)).giveFrame m.frame (pgszOf m.size)).retryParked)) ∧
    ∀ b, bad = some b → (m.kind = .fill → exec (.pageFillComplete pte) s = .fault (.noTierBlock b)) ∧
      (m.kind = .evict → exec (.evictionComplete pte) s = .fault (.noTierBlock b))) ∧
  (∀ (s : State) (pte : Nat) (b : WriteBack), (s.names.writebacks.find? fun b => b.pte == pte) = some b →
    let w := Memory.word s.mem pte
    let s1 := { s with mem := Memory.copy s.mem (pteFrame w * 2 ^ 16) (tierAddr (ptePblk w)) b.size
                       names := { s.names with writebacks := s.names.writebacks.filter fun x => x.pte != pte } }
    (s.badMove pte = none → exec (.writebackComplete pte) s =
      .next (if b.hit then s1 else s1.setPte pte (mkPte 2 (ptePblk w) (pteFrame w)))) ∧
    ∀ n, s.badMove pte = some n → exec (.writebackComplete pte) s = .fault (.noTierBlock n)) ∧
  (∀ (s : State) (pte die : Nat) (d : Desc) (page : Nat), s.owner? pte = some (d, page) →
    let w := Memory.word s.mem pte
    (pteState w = 2 ∨ pteState w = 3) → d.cls ≠ 2 → (∀ b ∈ s.names.writebacks, b.pte ≠ pte) →
    (∀ u ∈ s.durable, u.at_.serial = d.serial → u.at_.ofs / pageBytes d.pgsz ≠ page) →
    let moving := fun (t : State) (k : MoveKind) =>
      let t1 := t.setPte pte (mkPte 4 (ptePblk w) (pteFrame w))
      { t1 with names := { t1.names with moves := t1.names.moves ++ [⟨pte, k, pteFrame w, pageBytes d.pgsz, pteState w == 3⟩] } }
    (durableClass d.cls = true → exec (.pagerEvictStart pte) s = .next (moving s .evict)) ∧
    ∀ f s1, s.takeFrame die d.pgsz = (some f, s1) → exec (.pagerMigrateStart pte die) s = .next (moving s1 (.migrate f))) ∧
  (∀ (s : State) (pte : Nat), pteState (Memory.word s.mem pte) = 0 →
    let parked := s.reqs.filter fun q => q.pieces.any fun p => p.pte == pte && p.stage == .parked
    (parked ≠ [] ∨ ∃ e ∈ s.away, s.unitParked pte e = true) →
    exec (.pagerDecline pte) s = .next (parked.foldl (fun t q => t.declineOne q pte) { s with
      names := { s.names with pagerWoken := false }
      away := s.away.map fun e => if s.unitParked pte e then { e with ans := .fault codeResidency } else e })) ∧
  ∀ (s : State), Sparse.wf Tile.idle s.names.tiles = true →
    ∃ t, exec .heatWindowEnd s = .next t ∧ (∀ n, (Sparse.get Tile.idle t.names.tiles n).heat = []) ∧
      ∀ n u e d, s.names.tiles = [(n, u)] → u.heat = [e] → s.desc? e.serial = some d →
        let a := d.side + 8 * e.page
        let w := Memory.word s.mem a
        let half := fun (lo k : Nat) => BitVec.ofNat 32 (min (2 ^ 32 - 1) ((w.extractLsb' lo 32).toNat / 2 + k))
        t.mem = Memory.setWord s.mem a (half 32 e.stv ++ half 0 e.dlv)

/-- COUNTER_STEP and DURABLE_STEP_COMPLETE (R228, R229, R253), CADDR_REPLY (R224), PROMOTE_ANSWER (R248), MLDRED_REDUCE (R144, R197,
R411) and PERSIST_COMPLETE (R252). -/
def Obligations.CounterEvents : Prop :=
  (∀ (s : State) (pa : Nat) (ids : List Nat) (a : Add) (as : List Add), ids.map s.add? = (a :: as).map some → ids.Nodup →
    (∀ b ∈ a :: as, s.addAt b = .home pa ∨ s.addAt b = .dead) → inOrder (a :: as) = true →
    s.addsReleased (s.releases.countP fun r => r.at_.same (a.place s.names.devNum)) (a :: as) = true → s.passedOver pa (a :: as) = false →
    s.stepOutranked pa (a :: as) = false →
    exec (.counterStep pa ids) s = .next (s.applyAdds pa (a :: as)) ∧
    (∀ d e, (∀ b ∈ a :: as, s.addAt b = .home pa ∧ b.scope ≠ .durable ∧ b.tag.2.2 = false) → Memory.wf s.mem = true →
      s.live? (a.place s.names.devNum).serial = some d →
      s.leaf? d ((a.place s.names.devNum).ofs / pageBytes d.pgsz) = some e → (pa + 8 ≤ e ∨ e + 8 ≤ pa) →
      Memory.word (s.applyAdds pa (a :: as)).mem pa = (a :: as).foldl (fun v b => v + b.amount) (Memory.word s.mem pa))) ∧
  (∀ (s : State) (pa : Nat) (d : DurStep) (e : Desc) (l : Nat),
    (s.durable.find? fun d => ((s.desc? d.at_.serial).bind fun e => s.frameByte e d.at_.ofs) == some pa) = some d →
    s.desc? d.at_.serial = some e → s.leaf? e (d.at_.ofs / pageBytes e.pgsz) = some l → Memory.wf s.mem = true →
    let blk := ptePblk (Memory.word s.mem l)
    (blk < tierBlocks → ∃ t, exec (.durableStepComplete pa) s = .next t ∧ t.durable = s.durable.filter (fun x => !x.at_.same d.at_) ∧
      Memory.word t.mem (tierAddr blk + d.at_.ofs % pageBytes e.pgsz) = Memory.word s.mem pa) ∧
    (tierBlocks ≤ blk → exec (.durableStepComplete pa) s = .fault (.noTierBlock blk))) ∧
  (∀ (s : State) (r n : Nat) (q : Req) (x : Ctx) (h : Hdr) (m : MemLit) (sc : Scope) (k : Option (BitVec 4)), s.req? r = some q →
    q.instr = .caddr h m sc k → q.stage = .answer → s.streamAhead q = false → q.lateNow = false → q.replySlack ≠ 0 → s.ctx? q.latch.ctx = some x →
    (x.pending.find? fun e => e.2 == r) = some (n, r) → (s.ctxs.filter fun y => y.id == x.id) = [x] →
    exec (.caddrReply r) s = .next (((s.updCtx q.latch.ctx fun y => { y with
      regs := { y.regs with g := Sparse.put 0 y.regs.g n q.value }
      pending := y.pending.filter fun e => e.2 != r }).dropReq r).drained q.latch.ctx q.latch.route)) ∧
  (∀ (s : State) (n : Nat) (t : Task), s.task? n = some t → t.promote = true → t.dep.dev = s.names.devNum →
    (∀ r ∈ s.releases, r.at_.same t.dep = true → s.answered r = true) →
    exec (.promoteAnswer n) s = .next (({ s with releases := s.releases.filter fun r => !r.at_.same t.dep } : State).updTask n
      fun u => { u with promote := false })) ∧
  (∀ (s : State) (r : Nat) (q : Req) (h : Hdr) (l : BitVec 5) (o : BitVec 32), s.req? r = some q → q.instr = .mldred h l o →
    q.stage = .homes → (∀ p ∈ q.pieces, p.stage = .done) →
    (∀ j, j < 16 → q.value.getLsbD j = true → (∀ i, i < j → q.value.getLsbD i = false) → exec (.mldredReduce r) s =
      .next ((s.groupFault q (BitVec.ofNat 64 (q.latch.opL.word.toNat % 256 + 256 * j))).answer q .null .null 0 q.replySlack q.lateNow)) ∧
    (q.value = 0 → (s.reqInst q).isSome = true →
      let vs := (distinct (q.pieces.map fun p => p.lane / 8)).map fun j =>
        let bs := piecesBytes (q.pieces.filter fun p => p.lane / 8 == j)
        (List.range 32).map fun k => leWord ((bs.drop (2 * k)).take 2)
      ∃ (v : Vec) (f : Word), (∀ k, k < 32 → v.extractLsb' (32 * k) 32 = (reduceLane vs k).val.setWidth 32) ∧
        f = ((List.range 32).map fun k => (reduceLane vs k).flags).foldl (fun a b => a ||| b) 0 ∧
        exec (.mldredReduce r) s = .next ((s.updOutAny q.latch.ctx q.latch.route fun o => { o with flags := o.flags ||| f }).answer q
          (.vector v) (.vector v) 0 q.replySlack q.lateNow))) ∧
  ∀ (s : State) (r : Nat) (q : Req) (h : Hdr) (m : MemLit) (k : BitVec 4), s.req? r = some q → q.instr = .persist h m k →
    q.stage = .homes → (∀ p ∈ q.pieces, p.lines ≤ q.value.toNat) → s.persistsBefore q = false →
    exec (.persistComplete r) s = .next ((((s.serve q).dropReq r).addKAny q.latch.ctx k.toNat 1).drained q.latch.ctx q.latch.route)

/-- The events of streamers (R146, R178, R189-R192), islands (R202, R206, R210) and the lattice (R210, R216, R217). That an
LXTIN or LXTOUT count above 64 fails check 3 is the model's choice (log entry 81). -/
def Obligations.EngineEvents : Prop :=
  (∀ (s : State) (d k : Nat) (q : EngReq), d < 8 → s.dieWorks d = true →
    let left := fun (l : List EngReq) => l.filter fun e => e.id != q.id
    (k < 8 → nextQueued (s.streamer d k).queue = some q → (s.streamer d k).serving.length < 16 →
      let t := (s.updStreamer (d * 8 + k) fun x => { queue := left x.queue, serving := x.serving ++
        [{ q with bad := copyCheck q, base := s.baseAt q.atp (copyReq q).dst }] }).engineServes q
      exec (.streamerAccept d k q.id) s = .next (match copyCheck q with
        | some n => t.engineFault q d 1 k codeCopyshape (copyCounter q) n
        | none => t)) ∧
    (k < 18 → nextQueued (s.island d k).queue = some q → (s.island d k).serving.length < 16 →
      let t := (s.updIsland (d * 18 + k) fun x => { x with queue := left x.queue, serving := x.serving ++
        [{ q with bad := islandCheck q }] }).engineServes q
      exec (.islandAccept d k q.id) s = .next (match islandCheck q with
        | some n => t.engineFault q d 2 k codeAccbounds (islandReq q).cnt n
        | none => t)) ∧
    (nextQueued (s.lattice d).queue = some q → (s.lattice d).serving.length < 8 →
      let t := (s.updLattice d fun x => { x with queue := left x.queue, serving := x.serving ++ [{ q with bad := latCheck q }] }).engineServes q
      exec (.latticeAccept d q.id) s = .next (match latCheck q with
        | some n => t.engineFault q d 3 0 codeLxctx 0 n
        | none => t))) ∧
  (∀ (s : State) (n j : Nat) (q : EngReq), s.req? q.id = none → (s.copies.find? fun e => e.2.id == q.id) = some (n, q) → q.bad = none →
    q.stopped = false → j ∉ q.did → j < q.pieces → s.hasStreamer (n / 8) (n % 8) = true → s.copyOutranked q j = false →
    let r := (s.acting (.piece q.id j)).copyStep (n / 8) (n % 8) q j
    let t := (match r.2.2 with | some e => r.1.engineFault q (n / 8) 1 (n % 8) e.1 e.2 0 | none => r.1).updStreamer n fun x => { x with
      serving := updWhere (fun e => e.id == q.id) (fun _ => { r.2.1 with stopped := r.2.2.isSome }) x.serving }
    t.pause = none → exec (.homePerform q.id j) s = .next (t.acted (.piece q.id j))) ∧
  ∀ (s : State) (d k : Nat) (q : EngReq), d < 8 → s.dieWorks d = true →
    let u := s.acting (.engine q.id)
    let ended := fun (t : State) => t.acted (.engine q.id)
    let ends := fun (v : State) (kind i : Nat) (cnt : Word) (amt : Nat) (slk : BitVec 8) (e : Instr) =>
      let src := AddSrc.engine q.ctx q.route d (enginePort kind i)
      let add := v.unitAdd d q.atp cnt (BitVec.ofNat 64 (amt + 1)) q.scope (q.ownSlack slk) q.late src
      (∀ w, add = .ok w → w.pause = none → exec e s = .next (ended w) ∧
        ∃ a ∈ (ended w).adds, a.amt = BitVec.ofNat 64 (amt + 1) ∧ a.scope = q.scope ∧ a.src = src) ∧
      ∀ c, add = .error c → v.pause = none → exec e s = .next (ended (v.engineFault q d kind i c cnt 0))
    (k < 8 → ((s.streamer d k).serving.find? fun e => e.id == q.id) = some q → s.piecesOut q = false →
      let r := u.copyRest d k q
      let v := match r.2 with | some e => r.1.engineFault q d 1 k e.1 e.2 0 | none => r.1
      v.pause = none →
      ends ((v.endAway fun x => match x with | .piece e _ => e == q.id | _ => false).updStreamer (d * 8 + k) fun x => { x with
        serving := x.serving.filter fun e => e.id != q.id }) 1 k (copyCounter q) (q.vec.extractLsb' 232 8).toNat (copySlk q)
        (.streamerComplete d k q.id)) ∧
    (k < 18 → (s.island d k).serving.head? = some q → s.addOut d (.island k) = false →
      let r := if q.bad.isSome then (u, none) else u.runIsland d k q
      let v := match r.2 with | some e => r.1.engineFault q d 2 k e.1 e.2 0 | none => r.1
      v.pause = none →
      ends (v.updIsland (d * 18 + k) fun x => { x with serving := x.serving.drop 1 }) 2 k (islandReq q).cnt
        (q.vec.extractLsb' 408 8).toNat (q.vec.extractLsb' 400 8) (.islandComplete d k)) ∧
    ((s.lattice d).serving.head? = some q → s.addOut d .lattice = false →
      let r := if q.bad.isSome then (u, none, none) else u.runLattice d q
      let v := match r.2.1, r.2.2 with
        | some e, _ => r.1.engineFault q d 3 0 e.1 e.2 0
        | none, some n => r.1.engineFault q d 3 0 codeLxctx 0 n
        | none, none => r.1
      v.pause = none →
      ends (v.updLattice d fun x => { x with serving := x.serving.drop 1 }) 3 0 (latReq q).counter
        (q.vec.extractLsb' 200 8).toNat (q.vec.extractLsb' 192 8) (.latticeComplete d))

/-- The events of spawning, cancellation and tasks (R105, R108, R110, R111, R113, R349, R350). -/
def Obligations.TaskEvents : Prop :=
  (∀ (s t : State) (region : Nat) (q : Req) (h : Hdr) (na : Fin 3) (blk : BitVec 33), q ∈ s.reqs → s.mayResume q = true →
    q.latch.ctx.region = region → q.instr = .spawn h na blk →
    (∀ p ∈ s.reqs, p ≠ q → s.mayResume p = true → p.latch.ctx.region = region →
      q.slack < p.slack ∨ (q.slack = p.slack ∧ q.id < p.id)) →
    s.startChild q.latch q.id na.val blk (if h.slk = 0#8 then q.slack else slkValue h.slk) = some t →
    exec (.spawnResume region) s = .next (t.updReq q.id fun r => { r with stage := .answer })) ∧
  (∀ (s : State) (c : CtxId),
    (∀ x, s.ctx? c = some x → x.mark = .sent →
      let u := ((s.acting (.ctx c)).updCtx c fun y => { y with mark := .seen }).passMark c
      let v := (if x.halt.isSome then u.endCtx c .null none else u).cancelsDone
      v.pause = none → exec (.cancelMarkSeen c) s = .next (v.acted (.ctx c))) ∧
    (s.ctx? c = none → c ∈ s.marks →
      let u : State := { s.acting (.ctx c) with marks := s.marks.filter fun m => m != c }
      let v := match u.savedCtxs.find? fun e => e.1 == c with | some e => u.endSaved c e.2 | none => u
      let w := (v.passMark c).cancelsDone
      w.pause = none → exec (.cancelMarkSeen c) s = .next (w.acted (.ctx c))) ∧
    (s.ctx? c = none → s.marks = [] → (∀ x ∈ s.ctxs, x.mark ≠ .sent) →
      (∃ q ∈ s.reqs, q.stage = .answer ∧ ((∃ h, q.instr = .cancel h) ∨ ∃ h, q.instr = .cancelLaunch h)) →
      exec (.cancelMarkSeen c) s = .next s.cancelsDone)) ∧
  (∀ (s : State) (n : Nat) (t : Task), s.task? n = some t → t.dueOn t.die = true → t ∈ s.dueWith t →
    (∀ u ∈ s.tasks, u.dueOn t.die = true → u.order ≠ t.order → t.woke ≤ u.woke) →
    let queued := s.tasks.countP fun u => u.status == 2#4 && u.die == t.die
    let due := fun (u : Task) => u.dueOn t.die && u.order == t.order
    (∀ u ∈ s.dueWith t, u ∈ s.tasks ∧ due u = true) ∧
    (queued + s.tasks.countP due ≤ 4096 → ∀ u ∈ s.tasks, due u = true → u ∈ s.dueWith t) ∧
    let u := s.acting (.task n)
    let v := (s.dueWith t).foldl (fun v k => v.moveTask { k with status := 2#4, slack := slkValue (u.taskCode k) }) u
    v.pause = none → exec (.tcbReady n) s = .next (v.acted (.task n))) ∧
  (∀ (s v : State) (die : Nat) (t : Task) (g : Region), s.dieWorks die = true → t ∈ s.tasks → t.status = 2#4 →
    (t.die = die → s.regionFor die t = some g →
      (∀ u ∈ s.tasks, u ≠ t → u.status = 2#4 → u.die = die → (s.regionFor die u).isSome = true → t.before u = true) →
      (s.acting (.task t.id)).startTask t g = some v → v.pause = none →
      exec (.taskDispatch die) s = .next (v.acted (.task t.id))) ∧
    (t.die ≠ die → (∀ u ∈ s.tasks, u.status = 2#4 → u.die = die → s.regionFor die u = none) →
      let here := fun (j : Nat) => (s.regionsOf j).filter fun k => k.die == die && k.holding
      let may := fun (u : Task) => u.rhint = 0xFFFF ∧ here u.job ≠ [] ∧ ∀ k ∈ here u.job, k.nextColour.isSome = true
      may t → (∀ u ∈ s.tasks, u ≠ t → u.status = 2#4 → u.die ≠ die → may u → t.before u = true) →
      lowestRegion (here t.job) = some g → (s.acting (.task t.id)).startTask t g = some v → v.pause = none →
      exec (.taskSteal die) s = .next (v.acted (.task t.id)))) ∧
  ∀ (s : State) (n : Nat) (t : Task) (c : CtxId), s.task? n = some t → t.ctx = some c → t.status = 3#4 → s.taskBusy n = false →
    let u := s.acting (.task n)
    let ends := fun (v : State) => v.pause = none → exec (.taskFinish n) s = .next (v.acted (.task n))
    (t.cancelled = true → ends (u.endTask { t with status := 5#4, lastf := 0x17#8 })) ∧
    (t.cancelled = false → t.lastf = 0#8 → ends ((u.endTask { t with status := 4#4 }).addSuccs t c)) ∧
    (t.cancelled = false → t.lastf ≠ 0#8 →
      (t.fpol = 2 → ends ((u.endTask { t with status := 6#4 }).addSuccs t c)) ∧
      (t.fpol = 1 → t.tries < wordField t.words 4 38 4 →
        ends (u.moveTask { t with status := 7#4, tries := t.tries + 1, ctx := none, woken := none })) ∧
      (t.fpol ≠ 2 → (t.fpol = 1 → wordField t.words 4 38 4 ≤ t.tries) → ends (u.endTask { t with status := 5#4 })))

/-- The events of the loader, the marker and inboxes (R97-R100, R114, R117, R354, R371). That ITEM_FINISH charges the job where DONE no longer
translates (log entry 23), that REGION_FREE frees a running job's affected regions behind a marker (log entry 57), which launch's region comes
next (log entry 61), and the slack of a marker and of its sinks' adds (log entry 76), are the model's choices. -/
def Obligations.LaunchEvents : Prop :=
  (∀ (s v : State) (job num die : Nat) (cons : List Nat) (j : Job) (g : Graph), s.job? job = some j → j.graph = some g → j.waiting = true →
    (∀ k ∈ s.loader.jobs, k ≠ j → k.waiting = true → (j.begun = true ∧ k.begun = false) ∨ (k.begun = j.begun ∧ j.before k = true)) →
    let b := (s.acting (.job job)).graphBlocks j.atp g.blocks
    b.2.pause = none → b.2.roomFor g b.1 = some (die, cons) → b.2.freeNumber = some num →
    b.2.placeRegion j g num die cons b.1 = some v → v.pause = none →
    exec (.regionPlace job) s = .next (v.acted (.job job))) ∧
  (∀ (s s1 : State) (job region item : Nat) (c : CtxId) (j : Job) (g : Region), s.job? job = some j → s.region? region = some g →
    g.job = job → j.cancelled = false → s.dieWorks g.die = true → g.holding = true → j.itemAt g.index g.started = some item →
    (s.acting (.region region)).drawColour region = some (s1, c) → (s1.startAs j g item c).pause = none →
    exec (.itemStart job region) s = .next ((s1.startAs j g item c).acted (.region region))) ∧
  (∀ (s : State) (job item : Nat) (j : Job), s.job? job = some j → s.itemDone j item = true →
    let count := fun (t : State) => t.updJob job fun k =>
      { k with running := k.running.erase item, finished := k.finished + 1, complete := decide (k.finished + 1 = k.count) }
    let r := (s.acting (.job job)).unitAdd 8 j.atp (j.words.getD 4 0) 1 j.dscope (slkValue j.dslk) false (.item job item)
    (∀ u, r = .ok u → (count u).pause = none → exec (.itemFinish job item) s = .next ((count u).acted (.job job))) ∧
    ∀ e, r = .error e → exec (.itemFinish job item) s = .next ((count ((s.acting (.job job)).chargeJob job e)).acted (.job job))) ∧
  (∀ (s : State) (job : Nat) (j : Job), s.job? job = some j →
    let gs := s.regionsOf job
    let quiet := fun (g : Region) => g.dusk = none ∧ s.regionBusy g.num = false
    (j.complete = true → gs ≠ [] → (∀ g ∈ gs, quiet g) → exec (.regionFree job) s = .next (gs.foldl State.freeRegion s)) ∧
    (j.complete = false → (∃ g ∈ gs, quiet g ∧ s.affected g = true) → exec (.regionFree job) s = .next
      ((gs.filter fun g => g.dusk.isNone && !s.regionBusy g.num && s.affected g).foldl State.freeRegion s))) ∧
  (∀ (s : State) (region : Nat) (block : Word) (node : Nat) (g : Region) (d : Dusk) (p : Placed) (i : Instr), s.region? region = some g →
    g.dusk = some d → g.block? block = some p → p.node node = some i → (block, node) ∉ d.marks → s.mayForward g d p node i = true →
    let plain : Dusk := { d with marks := d.marks ++ [(block, node)] }
    let s1 := (s.acting (.region g.num)).updRegion region fun h => { h with dusk := some plain }
    ((isSink i = false ∨ d.free = true) → (d.free = true → g.allMarked plain = true → s.regionBusy g.num = false) →
      (g.allMarked plain = false → exec (.duskMarkerArrival region block node) s = .next (s1.acted (.region g.num))) ∧
      (g.allMarked plain = true → (s1.endDusk g plain).pause = none →
        exec (.duskMarkerArrival region block node) s = .next ((s1.endDusk g plain).acted (.region g.num)))) ∧
    (isSink i = true → d.free = false → ∀ u,
      let sunk : Dusk := { plain with drained := d.drained + 1 }
      ((s.acting (.region g.num)).updRegion region fun h => { h with dusk := some sunk }).unitAdd g.die d.atp d.counter 1 .module d.slack
        d.late (.sink region) = .ok u → u.pause = none →
      (g.allMarked sunk = false → exec (.duskMarkerArrival region block node) s = .next (u.acted (.region g.num))) ∧
      (g.allMarked sunk = true → (u.endDusk g sunk).pause = none →
        exec (.duskMarkerArrival region block node) s = .next ((u.endDusk g sunk).acted (.region g.num))))) ∧
  ∀ (s : State) (c : CtxId) (x : Ctx) (m : Msg) (q : Req) (h : Hdr), s.ctx? c = some x →
    (s.hub.msgs.find? fun m => m.ep == x.env.endpoint) = some m → q ∈ s.reqs → q.latch.ctx = c → q.stage = .waiter → q.instr = .msgr h →
    (∀ p ∈ s.reqs, p ≠ q → p.latch.ctx = c → p.stage = .waiter → ∀ h, p.instr ≠ .msgr h) →
    exec (.msgrReceive c) s = .next (({ s with hub := { s.hub with msgs := s.hub.msgs.filter fun x => x.id != m.id } } : State).answer q
      (.vector (m.body.setWidth 1024)) (.scalar (BitVec.ofNat 64 m.sender)) 0 q.replySlack q.late)

/-- The requests of the loader, the fault handler and the object server (R29, R39, R49, R50, R96, R98, R224, R368, R370, R385). That a bind whose
operand lanes are out of range is refused (log entries 23, 48), that HALT_ACTION 2 leaves no mark (log entry 48), and that RETIRE of a name no longer
live answers 1 (log entry 60), are the model's choices. -/
def Obligations.ServerEvents : Prop :=
  (∀ (s : State) (n : Nat) (m : Msg), s.msg? n = some m →
    let u := s.acting (.msg n)
    let answers := fun (ev : Instr) (v : State) => v.pause = none → exec ev s = .next (v.acted (.msg n))
    (m.ep = 4 →
      (m.lane 0 ∉ [1, 2, 3, 4] → exec (.launchSubmit n) s = .next (s.reply m [0])) ∧
      (m.lane 0 = 1 → let r := u.submit m.atp m.sender (m.word 1)
        r.1.pause = none → answers (.launchSubmit n) (r.1.reply m [if r.2 then 1 else 0])) ∧
      (m.lane 0 = 2 → (s.namedJob m = none → exec (.jobRecordRead n) s = .next (s.reply m [0])) ∧
        ∀ j, s.namedJob m = some j → exec (.jobRecordRead n) s =
          .next ((s.reply m (1 :: j.record.flatMap fun w => [bits w 0 32, bits w 32 32])).recordRead j)) ∧
      (m.lane 0 = 4 → (s.namedJob m = none → exec (.regionList n) s = .next (s.reply m [0])) ∧
        ∀ j, s.namedJob m = some j → exec (.regionList n) s = .next (s.reply m (1 :: (s.regionsOf j.id).length ::
          (List.range 14).map fun k => match (s.regionsOf j.id).find? fun g => g.index == m.lane 3 + k with
            | some g => g.num + 65536 * g.die
            | none => 0))) ∧
      (m.lane 0 = 3 →
        let c : CtxId := ⟨bits m.body 64 16, bits m.body 32 10, bits m.body 42 6⟩
        (s.ctx? c = none → exec (.haltAction n) s = .next (s.reply m [0])) ∧
        ∀ x j, s.ctx? c = some x → s.job? x.env.job = some j → j.submitter = m.sender → x.halt ≠ none →
          (m.lane 3 = 2 → exec (.haltAction n) s = .next ((s.endCtx c .null none).reply m [1])) ∧
          (m.lane 3 = 1 → x.pending ≠ [] → (s.regionOf c).isSome = true → exec (.haltAction n) s = .next s) ∧
          ∀ g v, m.lane 3 = 1 → s.regionOf c = some g → g.saved.length < 1024 → x.pending = [] → u.resumeHalted x = some v →
            v.pause = none → answers (.haltAction n) (v.reply m [1]))) ∧
    (m.ep = 3 →
      (m.lane 0 ∉ [1, 2, 3, 4] → exec (.objectCreate n) s = .next (s.reply m [0])) ∧
      (m.lane 0 = 1 → (u.create m = none → (u.reply m [0]).pause = none → answers (.objectCreate n) (u.reply m [0])) ∧
        ∀ v serial, u.create m = some (v, serial) → v.pause = none →
          answers (.objectCreate n) (v.reply m [1, bits serial 0 32, bits serial 32 32])) ∧
      (m.lane 0 = 2 →
        let bad := 2 ^ 48 ≤ (m.word 5).toNat ∨ 2 ^ 44 < (m.word 7).toNat ∨ 2 ^ 16 ≤ m.lane 4 ∨ 32 ≤ m.lane 9 ∨
          s.badAperture m.aperture (m.lane 1) (atc m.atp) = true
        (bad → exec (.apertureBind n) s = .next (s.reply m [0])) ∧
        ∀ v, ¬bad → u.setEntry m m.aperture = some v → v.pause = none → answers (.apertureBind n) (v.reply m [1])) ∧
      (m.lane 0 = 3 → (m.lane 1 = 0 ∨ atc m.atp ≤ m.lane 1 → exec (.apertureUnbind n) s = .next (s.reply m [0])) ∧
        ∀ v, 0 < m.lane 1 → m.lane 1 < atc m.atp → u.setEntry m 0 = some v → v.pause = none →
          answers (.apertureUnbind n) (v.reply m [1])) ∧
      (m.lane 0 = 4 → (m.retire = false → exec (.objectRetire n) s = .next (s.reply m [0])) ∧
        (m.retire = true → BitVec.ofNat 16 (m.lane 3) = s.names.devNum →
          (s.live? (m.word 1) = none → exec (.objectRetire n) s = .next (s.reply m [1])) ∧
          ∀ d, s.live? (m.word 1) = some d → exec (.objectRetire n) s = .next ((s.markDying d).reply m [1]))))) ∧
  (∀ (s t : State) (c : CtxId), (s.forsaken c = true → exec (.haltReport c) s = .next (s.endCtx c .null none)) ∧
    (s.forsaken c = false → s.readUntil (s.dieOf c) c (s.faults.notes.getD (s.dieOf c) []).length = some t →
      exec (.haltReport c) s = .next t)) ∧
  ∀ (s : State) (serial : BitVec 64) (d : Desc), serial ∈ s.names.dying → s.inFlight serial = false → s.desc? serial = some d →
    exec (.objectReclaim serial) s = .next (s.freeObject d)

/-- The events of links, peers and parity (R12, R28, R49, R51, R146, R248, R341, R380, R391-R393). What a check access is and that its pass is kept
(log entry 17), that FLIT_CRC_FAIL events with no pass between them are consecutive failures (log entry 25), and that a hop may be any node of a
die on the route (log entry 63), are the model's choices. -/
def Obligations.LinkEvents : Prop :=
  (∀ (s : State) (dev : BitVec 16) (seq : BitVec 32) (p : PeerPayload),
    let n := Sparse.get 0#32 s.hub.recvSeq dev.toNat
    let acks := fun (t : State) => exec (.peerPacketReceive dev seq p) s =
      .next { t with hub := { t.hub with sacks := t.hub.sacks ++ [(dev, t.sackFor dev)] } }
    ((2 ^ 31 ≤ (seq - n).toNat ∨ ∃ e ∈ s.hub.early, e.1 = dev ∧ e.2.1 = seq) → acks s) ∧
    ((∀ e ∈ s.hub.early, e.1 = dev → e.2.1 ≠ n) →
      (seq = n → acks ((({ s with hub := { s.hub with recvSeq := Sparse.put 0#32 s.hub.recvSeq dev.toNat (n + 1) } } : State).deliver dev
        p).deliverEarly dev s.hub.early.length)) ∧
      (seq ≠ n → (seq - n).toNat < 2 ^ 31 → (∀ e ∈ s.hub.early, e.1 = dev → e.2.1 ≠ seq) →
        acks { s with hub := { s.hub with early := s.hub.early ++ [(dev, seq, p)] } }))) ∧
  (∀ (s : State) (dev : BitVec 16) (base : BitVec 32) (bitmap : BitVec 64), base.toNat % 64 = 0 →
    let kept := s.hub.unacked.filter fun u =>
      !(u.dev == dev && decide ((u.seq - base).toNat < 64) && bitmap.getLsbD (u.seq - base).toNat)
    let below := fun (u : Sent) => u.dev == dev && decide (2 ^ 31 ≤ (u.seq - base).toNat)
    let again := { s with hub := { s.hub with unacked := kept.map fun u => if below u then { u with tries := u.tries + 1 } else u } }
    (((kept.filter below).map fun u => u.seq).Nodup → (∀ u ∈ kept, below u = true → u.tries < 15) → exec (.sack dev base bitmap) s = .next again) ∧
    ∀ u, kept.filter below = [u] → 15 ≤ u.tries → exec (.sack dev base bitmap) s = .next (again.losePeer dev)) ∧
  (∀ (s : State) (dev : BitVec 16) (seq : BitVec 32), (∃ u ∈ s.hub.unacked, u.dev = dev ∧ u.seq = seq) →
    let t := { s with hub := { s.hub with unacked := s.hub.unacked.map fun u =>
      if u.dev = dev ∧ u.seq = seq then { u with tries := u.tries + 1 } else u } }
    ((∀ u ∈ s.hub.unacked, u.dev = dev → u.seq = seq → u.tries < 15) → exec (.retransmitTimeout dev seq) s = .next t) ∧
    ((∃ u ∈ s.hub.unacked, u.dev = dev ∧ u.seq = seq ∧ 15 ≤ u.tries) → exec (.retransmitTimeout dev seq) s = .next (t.losePeer dev))) ∧
  (∀ (s : State) (l : Link), goodLink l = true →
    let n := ((s.hub.crcFails.find? fun e => e.1 == l).map fun e => e.2).getD 0
    let down := s.degrade (Link_bit l)
    let t := { down with hub := { down.hub with crcFails := down.hub.crcFails.filter fun e => e.1 != l } }
    let failed := (t.reqs.map fun q => q.id).foldl State.cutRequest t
    exec (.boundaryFail l) s = .next failed ∧
    (s.mgmt.degraded.getLsbD (Link_bit l) = false →
      (63 ≤ n → exec (.flitCrcFail l) s = .next failed) ∧
      (n < 63 → exec (.flitCrcFail l) s = .next { s with hub := { s.hub with
        crcFails := (s.hub.crcFails.filter fun e => e.1 != l) ++ [(l, n + 1)] } }))) ∧
  (∀ (s : State) (pkt die con pe : Nat) (dir : BitVec 3) (word : BitVec 5) (p : Packet),
    (s.packets.find? fun k => k.id == pkt) = some p → s.hopOn p die con pe dir word = true →
    exec (.parityError pkt die con pe dir word) s = .next (({ s with packets := s.packets.map fun k =>
      if k.id = pkt then { k with tok := { k.tok with poison := true } } else k } : State).post p.ctx (parityRecord die con pe dir word))) ∧
  ∀ (s : State) (dev : BitVec 16) (req : Nat) (a : PeerAcc), (s.hub.peerAccs.filter fun a => a.dev == dev && a.req == req) = [a] →
    a.held = false → s.peerWaits a = false →
    let answers := fun (t : State) => exec (.peerAccess dev req) s = .next t
    (∀ e, s.peerName a = .error e → e ≠ codeNameDead → answers (s.peerFaults a e)) ∧
    (s.peerName a = .error codeNameDead → s.passedHere a = false → (a.op = .retire → answers (s.peerReply a [])) ∧
      (a.op ≠ .retire → a.named = false → answers (s.peerFaults a codeNameDead))) ∧
    ∀ d, s.peerName a = .ok d →
      let t := s.passName a
      let a : PeerAcc := { a with named := true }
      let u := t.acting (.acc a.id)
      let f : FullAddr := ⟨t.names.devNum, a.serial, a.ofs⟩
      let whole := fun (v : State) => v.pause = none → answers (v.acted (.acc a.id))
      ((∃ ks, a.op = .check ks) → answers (t.peerPasses a d)) ∧
      (a.op = .retire → ∀ e, t.live? a.serial = some e → answers ((t.markDying e).peerReply a [])) ∧
      (∀ am sc v, a.op = .add am sc → t.counterStep ((t.addHome (.acc a)).getD 0) [a.id] = some v → answers v) ∧
      (∀ n lo hi, a.op = .warm n lo hi → answers ((t.warmPages d lo hi (a.ofs / pageBytes d.pgsz) n).peerReply a [])) ∧
      (a.op = .promote → (∀ r ∈ t.releases, r.at_.same f = true → t.answered r = true) →
        answers (({ t with releases := t.releases.filter fun r => !r.at_.same f } : State).peerReply a [])) ∧
      (t.peerHeld a = false → a.op = .persist → d.cls = 1 → t.persistBad d a.lines.1 a.lines.2 = none →
        answers ((t.persistLines d a.lines.1 a.lines.2).peerReply a [])) ∧
      (t.peerHeld a = false → t.accOutranked a = false →
        (∀ bs v, a.op = .load → u.readNow 0 { f with ofs := a.ofs / 8 * 8 } d 8 = .ok (bs, v) → whole (v.peerReply a bs)) ∧
        (∀ bs v, a.op = .store bs → u.writeNow 0 f d bs = .ok v → whole (v.peerReply a [])) ∧
        (∀ ps v, a.op = .stores ps → u.storeParts f d ps = .ok v → whole (v.peerReply a [])) ∧
        (∀ ty fn x old v w, a.op = .combine ty fn x → u.readNow 0 f d a.size = .ok (old, v) →
          v.writeNow 0 f d (toBytesLE a.size (combine ty fn (leWord old) x).toNat) = .ok w → whole (w.peerReply a [])) ∧
        (∀ thr bs v, a.op = .wait thr → u.readNow 0 f d 8 = .ok (bs, v) → (thr - leWord bs).toNat ≠ 2 ^ 63 →
          (satisfied (leWord bs) thr = true → whole (v.peerReply a (toBytesLE 8 (leWord bs).toNat))) ∧
          ∀ w, satisfied (leWord bs) thr = false → v.register f thr a.slack (.peer a.id) = some w → whole w) ∧
        (∀ thr bs v, a.op = .poll thr → u.readNow 0 f d 8 = .ok (bs, v) → (thr - leWord bs).toNat ≠ 2 ^ 63 →
          whole (v.peerReply a (toBytesLE 8 (leWord bs).toNat))) ∧
        ∀ bs v, a.op = .peek → u.readNow 0 f d 8 = .ok (bs, v) → whole (v.peerReply a (toBytesLE 8 (leWord bs).toNat)))

/-- The host-client links (R386-R390). An access stands behind those of its link that wait; one that meets a region it must wait for happens when it
is next taken up (log entry 13). The slack of a counter write (log entry 76) and that CODE written while BUSY changes nothing (log entry 24) are the
model's choices. -/
def Obligations.HostEvents : Prop :=
  (∀ (s : State) (n off size : Nat) (l : HostLink) (write : Option (List Byte)), s.hub.links[n]? = some l → off < 2 ^ 46 → 0 < size →
    (write.map List.length).getD size = size →
    let u := fun (write : Option (List Byte)) =>
      (s.updLink n fun k => { k with accesses := k.accesses ++ [⟨off, size, write⟩] }).acting (.link n)
    let does := fun (ev : Instr) (rest : List HostAcc) (v : State) => v.pause = none →
      exec ev s = .next ((v.updLink n fun k => { k with accesses := rest }).acted (.link n))
    let event := match l.kind (windowOf off) == 1#2, write with
      | true, none => Instr.hostCounterRead n off size
      | true, some bs => if size = 8 then .hostCounterWrite n off size (leWord bs) else .hostWindowAccess n off size write
      | false, _ => .hostWindowAccess n off size write
    (∀ b rest, l.accesses = b :: rest → does event (rest ++ [⟨off, size, write⟩]) ((u write).hostPerform n l b)) ∧
    (l.kind (windowOf off) ≠ 1#2 → ∀ amt, exec (.hostCounterRead n off size) s = .next s ∧ exec (.hostCounterWrite n off size amt) s = .next s) ∧
    (l.accesses = [] → l.kind (windowOf off) = 0#2 →
      (let reads := does (.hostWindowAccess n off size none) []
       (∀ e, (u none).unitLocate 8 l.atp (hostNear off) size [.r] (hostAlign size) = .error e → reads ((u none).hostReadFails n size)) ∧
       ∀ loc v w, (u none).unitLocate 8 l.atp (hostNear off) size [.r] (hostAlign size) = .ok (loc, v) → v.pause = none →
        v.takeRegions n off size = some w →
        (∀ bs x, w.readAt 8 loc size = .ok (bs, x) → reads (x.hostAnswer n bs)) ∧
        ∀ e, w.readAt 8 loc size = .error e → reads (w.hostReadFails n size)) ∧
      ∀ bs, bs.length = size →
        let writes := does (.hostWindowAccess n off size (some bs)) []
        (∀ e, (u (some bs)).unitLocate 8 l.atp (hostNear off) size [.w] (hostAlign size) = .error e → writes ((u (some bs)).hostRefused n)) ∧
        ∀ loc v w, (u (some bs)).unitLocate 8 l.atp (hostNear off) size [.w] (hostAlign size) = .ok (loc, v) → v.pause = none →
          v.takeRegions n off size = some w →
          (∀ x, w.writeAt 8 loc bs = .ok x → writes x) ∧ ∀ e, w.writeAt 8 loc bs = .error e → writes (w.hostRefused n)) ∧
    (l.accesses = [] → l.kind (windowOf off) = 1#2 →
      (let reads := does (.hostCounterRead n off size) []
       (size ≠ 8 → reads ((u none).hostReadFails n size)) ∧
       (size = 8 → (∀ e, (u none).unitLocate 8 l.atp (hostNear off) 8 [.c] 8 = .error e → reads ((u none).hostReadFails n 8)) ∧
         ∀ loc v w bs x, (u none).unitLocate 8 l.atp (hostNear off) 8 [.c] 8 = .ok (loc, v) → v.pause = none →
          v.takeRegions n off 8 = some w → State.readBy 64 w 8 .peek loc 8 = .ok (bs, x) → reads (x.hostAnswer n bs))) ∧
      ∀ (amt : BitVec 64), let adds := does (.hostCounterWrite n off size amt) []
        let t := u (some (toBytesLE size amt.toNat))
        (size ≠ 8 ∨ 2 ^ 48 ≤ amt.toNat → adds (t.hostRefused n)) ∧
        (size = 8 → amt.toNat < 2 ^ 48 →
          (∀ v w, t.unitAdd 8 l.atp (hostNear off) amt .domain 507904 false (.host n) = .ok v → v.pause = none →
            v.takeRegions n off 8 = some w → adds w) ∧
          ∀ e, t.unitAdd 8 l.atp (hostNear off) amt .domain 507904 false (.host n) = .error e → adds (t.hostRefused n)))) ∧
  (∀ (s : State) (link window region : Nat),
    let o := s.owner link window region
    (o.host = true → o.held = false → o.snooping = false → s.deviceWaits o = true →
      exec (.backInvalidate link window region) s = .next (s.setOwner { o with snooping := true })) ∧
    (o.held = true → exec (.ownerHoldExpire link window region) s = .next (s.setOwner { o with held := false })) ∧
    (o.host = true → o.snooping = true → ∀ dirty,
      let u := (s.acting (.link link)).setOwner { o with host := false, held := true, snooping := false }
      let v := dirty.foldl (State.writeBackByte link window region) u
      v.pause = none → exec (.backInvalidateComplete link window region dirty) s = .next (({ v with hub := { v.hub with
        wanted := v.hub.wanted.filter fun w => w != (link, window, region) } } : State).acted (.link link)))) ∧
  ∀ (s : State) (n : Nat) (l : HostLink) (v : Word), s.hub.links[n]? = some l →
    let launching := [Instr.hostLaunchWrite n v, .hostRegWrite n 0x10 v]
    let coding := [Instr.hostCodeWrite n v, .hostRegWrite n 0x30 v]
    let does := fun (evs : List Instr) (t : State) => t.pause = none → ∀ ev ∈ evs, exec ev s = .next (t.acted (.server n))
    let images := fun (evs : List Instr) (u : State) (v : Word) =>
      (∀ t serial, u.makeCode l v = some (t, serial) → does evs (t.updLink n fun k => { k with binding := some ⟨none, some serial⟩ })) ∧
      (u.makeCode l v = none → does evs (u.updLink n fun k => { k with binding := some ⟨none, none⟩ }))
    let at_ := s.acting (.server n)
    (l.busy = true → (∀ ev ∈ launching, exec ev s = .next (s.updLink n fun k => { k with launches := k.launches ++ [v] })) ∧
      ∀ ev ∈ coding, exec ev s = .next s) ∧
    (l.busy = false →
      (l.binding = none → l.launches = [] → does launching ((((s.updLink n fun k => { k with launches := [v] }).acting
        (.server n)).hostSubmit n v).updLink n fun k => { k with launches := [] })) ∧
      images coding ((s.updLink n fun k => { k with busy := true, binding := some ⟨some v, none⟩ }).acting (.server n)) v) ∧
    (∀ a b, l.binding = some ⟨some a, b⟩ → images [.codeBindComplete n] at_ a) ∧
    (∀ b, l.binding = some ⟨none, b⟩ →
      let bound := fun (t : State) => does [.codeBindComplete n] (t.updLink n fun k => { k with busy := false, binding := none })
      let refused := fun (t : State) => bound (t.updLink n fun k => { k with refusedCode := true })
      (∀ serial t, b = some serial → at_.bindCode l serial = some t →
        bound (t.updLink n fun k => { k with code := some serial, refusedCode := false })) ∧
      (∀ serial d, b = some serial → at_.bindCode l serial = none → at_.live? serial = some d → refused (at_.markDying d)) ∧
      (b = none → refused at_)) ∧
    (∀ a rest, l.binding = none → l.launches = a :: rest →
      does [.codeBindComplete n] ((at_.hostSubmit n a).updLink n fun k => { k with launches := rest })) ∧
    exec (.hostRegWrite n 0x28 v) s = .next (s.updLink n fun k => { k with codelen := v }) ∧
    ∀ w, w < 64 → bits v 0 2 < 2 → exec (.hostRegWrite n (0x100 + 8 * w) v) s =
      .next (s.updLink n fun k => { k with wkind := Sparse.put 0#2 k.wkind w (v.setWidth 2) })

/-- Management and power (R21, R31, R254, R366, R387, R394-R400). That SPDM requests are answered in any order (log entry 9), what of memory below
2^34 outlives a loss of power (log entries 5, 6), and that a junction's temperature is the last that its warning or trip reported (log entry 26),
are the model's choices. -/
def Obligations.ManagementEvents : Prop :=
  (∀ (s : State), let out := fun (t : State) (r : Response) => { t with mgmt := { t.mgmt with out := t.mgmt.out ++ [r] } }
    exec .resync s = .next (out s (.resync s.summary)) ∧
    (s.mgmt.mainUp = true → exec .mgmtRefresh s = .next { s with mgmt := { s.mgmt with copy := s.summaryTail } }) ∧
    (s.mgmt.mainUp = false → exec .mgmtRefresh s = .next s) ∧
    (∀ secver build : BitVec 32, (s.mgmt.counter.toNat ≤ secver.toNat → exec (.pldmFirmwareUpdate secver build true) s = .next
        (out { s with mgmt := { s.mgmt with secver := secver, build := build, counter := secver } } (.event "FIRMWARE_UPDATE" 1))) ∧
      ∀ ok, (ok = false ∨ secver.toNat < s.mgmt.counter.toNat) →
        exec (.pldmFirmwareUpdate secver build ok) s = .next (out s (.event "FIRMWARE_UPDATE" 0))) ∧
    exec .getVersion s = .next (out { s with mgmt := { s.mgmt with spdm := 1 } } (.spdm "VERSION" [0x13#8])) ∧
    exec .getCapabilities s = .next (out { s with mgmt := { s.mgmt with spdm := 2 } }
      (.spdm "CAPABILITIES" (toBytesLE 4 Config.spdmCapabilities.toNat))) ∧
    exec .negotiateAlgorithms s = .next (out { s with mgmt := { s.mgmt with spdm := 3 } }
      (.spdm "ALGORITHMS HSS/LMS LMS_SHA256_M32_H10 LMOTS_SHA256_N32_W4" [])) ∧
    exec .getDigests s = .next (out s (.spdm "DIGESTS" (digestBytes Config.certificateDigest))) ∧
    (∀ o n, exec (.getCertificate o n) s = .next (out s (.spdm "CERTIFICATE" ((Config.certificate.drop o).take n)))) ∧
    (let signs := fun (ev : Instr) (code : String) (nonce : BitVec 256) (body : List Byte) =>
      (2 ^ 20 ≤ s.mgmt.leaf → exec ev s = .next (out s (.spdm "ERROR Unspecified" []))) ∧
      (s.mgmt.leaf < 2 ^ 20 → exec ev s = .next (out { s with mgmt := { s.mgmt with leaf := s.mgmt.leaf + 1 } }
        (.spdm code (body ++ Config.signature s.mgmt.leaf nonce s.measurements))))
    (∀ nonce, signs (.challenge nonce) "CHALLENGE_AUTH" nonce (digestBytes Config.certificateDigest)) ∧
    signs (.getMeasurements true) "MEASUREMENTS" 0 (s.measurements.flatMap digestBytes) ∧
    exec (.getMeasurements false) s = .next (out s (.spdm "MEASUREMENTS" (s.measurements.flatMap digestBytes)))) ∧
    (∀ die, die < 9 → ∃ t, exec (.dieSupplyFault die) s = .next t ∧
      t.mgmt.degraded = s.mgmt.degraded ||| BitVec.ofNat 64 (2 ^ die) ∧ t.mem = s.mem ∧ t.ctxs = s.ctxs)) ∧
  (∀ (s : State) (die : Nat) (c : BitVec 8), let hot := updAt s.mgmt.temps die fun _ => c
    (95 ≤ c.toNat → exec (.thermalWarning die c) s = .next { s with mgmt := { s.mgmt with
      temps := hot, out := s.mgmt.out ++ [.event "THERMAL_WARNING" die] } }) ∧
    (c.toNat < 95 → exec (.thermalWarning die c) s = .next s) ∧
    (105 ≤ c.toNat → ∃ t, exec (.thermalTrip die c) s = .next t ∧ t.mgmt.mainUp = false ∧ t.ctxs = [] ∧
      t.mgmt.out = s.mgmt.out ++ [.event "THERMAL_TRIP" die] ∧ t.mgmt.temps = hot) ∧
    (c.toNat < 105 → exec (.thermalTrip die c) s = .next s)) ∧
  (∀ (s : State) (picks : List (Nat × Nat)), ∃ t, exec (.powerLoss picks) s = .next t ∧ t.ctxs = [] ∧ t.loader.regions = [] ∧
    t.loader.jobs = [] ∧ t.packets = [] ∧ t.reqs = [] ∧ t.tasks = [] ∧ t.mgmt.mainUp = false ∧ t.names.horizon = s.names.horizon ∧
    t.faults.cmask = s.faults.cmask ∧ t.faults.pmask = s.faults.pmask ∧ t.mgmt.counter = s.mgmt.counter ∧
    (picks = [] → ∀ a, (a < 2 ^ 34 ∨ tierBase ≤ a) → Memory.read t.mem a = Memory.read s.mem a)) ∧
  ∀ (s : State) (links : List Link) (dies : List Nat) (dev : BitVec 16) (secver build : BitVec 32), s.mgmt.mainUp = false →
    ((s.mgmt.badImage = true ∨ secver.toNat < s.mgmt.counter.toNat) → exec (.bringUp links dies dev (secver, build)) s = .next { s with mgmt := { s.mgmt with
      out := s.mgmt.out ++ [.event "FIRMWARE_REFUSED" 0] } }) ∧
    (s.mgmt.badImage = false → s.mgmt.counter.toNat ≤ secver.toNat → ∃ t, exec (.bringUp links dies dev (secver, build)) s = .next t ∧ t.mgmt.mainUp = true ∧
      t.names.devNum = dev ∧ t.ticks = 0 ∧ t.ctxs = [] ∧ t.mgmt.secver = secver ∧ t.mgmt.counter = secver ∧
      s.names.horizon.toNat ≤ t.names.horizon.toNat ∧ t.faults.cmask = s.faults.cmask ∧
      (t.loader.regions.map fun g => (g.die, g.cons)) = [(8, [0]), (8, [1]), (8, [2]), (8, [3]), (8, [4])] ∧
      ∀ d, d < 9 → (t.mgmt.degraded.getLsbD d = true ↔ d ∈ dies))
end

