-- ==== Sys2Proof/Laws/Encoding.lean ====
section
/-! SUPPORT. Encoding: the fields of a packed record read back, each code names what it stands for, and a record that the decoder's table builds decodes (R52, R56, R60, R71). -/

set_option linter.unusedSimpArgs false
set_option linter.unusedTactic false
set_option linter.unreachableTactic false

namespace Sys2Proof

/-! ### The fields of a packed record -/

theorem Raw.unpack_pack (r : Raw) : Raw.unpack r.pack = r := by
  obtain ⟨op, m, fn, pr, t0, t1, slk, lit⟩ := r
  simp only [Raw.unpack, Raw.pack, Raw.mk.injEq]
  refine ⟨?_, ?_, ?_, ?_, ?_, ?_, ?_, ?_⟩
  all_goals first
    | (apply BitVec.eq_of_getLsbD_eq; intro i hi
       simp only [BitVec.getLsbD_extractLsb', BitVec.getLsbD_cast, BitVec.getLsbD_append, BitVec.getLsbD_ofBool]
       grind)
    | (simp only [BitVec.getLsbD_cast, BitVec.getLsbD_append, BitVec.getLsbD_ofBool]
       simp)

theorem Pred.ofCode_code (p : Pred) : Pred.ofCode p.code = some p := by cases p <;> rfl
theorem Port.ofCode_code (p : Port) : Port.ofCode p.code = p := by cases p <;> rfl

theorem Target.ofCode_code (t : Target) : Target.ofCode t.code = some t := by
  cases t with
  | node n p =>
    have h1 : (Target.node n p).code.extractLsb' 10 2 = 0#2 := by
      apply BitVec.eq_of_getLsbD_eq; intro i hi
      simp only [Target.code, BitVec.getLsbD_extractLsb', BitVec.getLsbD_append]; grind
    have h2 : (Target.node n p).code.getLsbD 9 = false := by
      simp only [Target.code, BitVec.getLsbD_append]; grind
    have h3 : (Target.node n p).code.extractLsb' 2 7 = n := by
      apply BitVec.eq_of_getLsbD_eq; intro i hi
      simp only [Target.code, BitVec.getLsbD_extractLsb', BitVec.getLsbD_append]; grind
    have h4 : (Target.node n p).code.extractLsb' 0 2 = p.code := by
      apply BitVec.eq_of_getLsbD_eq; intro i hi
      simp only [Target.code, BitVec.getLsbD_extractLsb', BitVec.getLsbD_append]; grind
    simp only [Target.ofCode, h1, h2, h3, h4, Port.ofCode_code]; rfl
  | reg r =>
    have h1 : (Target.reg r).code.extractLsb' 10 2 = 1#2 := by
      apply BitVec.eq_of_getLsbD_eq; intro i hi
      simp only [Target.code, BitVec.getLsbD_extractLsb', BitVec.getLsbD_append]; grind
    have h2 : (Target.reg r).code.extractLsb' 6 4 = 0#4 := by
      apply BitVec.eq_of_getLsbD_eq; intro i hi
      simp only [Target.code, BitVec.getLsbD_extractLsb', BitVec.getLsbD_append]; grind
    have h3 : (Target.reg r).code.extractLsb' 0 6 = r := by
      apply BitVec.eq_of_getLsbD_eq; intro i hi
      simp only [Target.code, BitVec.getLsbD_extractLsb', BitVec.getLsbD_append]; grind
    simp only [Target.ofCode, h1, h2, h3]; rfl
  | port q =>
    have h1 : (Target.port q).code.extractLsb' 10 2 = 2#2 := by
      apply BitVec.eq_of_getLsbD_eq; intro i hi
      simp only [Target.code, BitVec.getLsbD_extractLsb', BitVec.getLsbD_append]; grind
    have h3 : (Target.port q).code.extractLsb' 0 10 = q := by
      apply BitVec.eq_of_getLsbD_eq; intro i hi
      simp only [Target.code, BitVec.getLsbD_extractLsb', BitVec.getLsbD_append]; grind
    simp only [Target.ofCode, h1, h3]; rfl
  | none => rfl

theorem IntTy.ofCode_code (t : IntTy) : IntTy.ofCode t.code = some t := by cases t <;> rfl
theorem FpTy.ofCode_code (t : FpTy) : FpTy.ofCode t.code = some t := by cases t <;> rfl
theorem TapTy.ofCode_code (t : TapTy) : TapTy.ofCode t.code = some t := by cases t <;> rfl
theorem Ty.ofCode_code (t : Ty) : Ty.ofCode t.code = some t := by
  cases t with
  | int t => cases t <;> rfl
  | fp t => cases t <;> rfl
  | tap t => cases t <;> rfl
theorem Width.ofCode_code (t : Width) : Width.ofCode t.code = some t := by cases t <;> rfl
theorem Width3.ofCode_code (t : Width3) : Width3.ofCode t.code = some t := by cases t <;> rfl
theorem Rm.ofCode_code (t : Rm) : Rm.ofCode t.code = some t := by cases t <;> rfl
theorem Scope.ofCode_code (t : Scope) : Scope.ofCode t.code = some t := by cases t <;> rfl
theorem Cond.ofCode_code (t : Cond) : Cond.ofCode t.code = some t := by cases t <;> rfl
theorem FCond.ofCode_code (t : FCond) : FCond.ofCode t.code = t := by cases t <;> rfl
theorem RedFn.ofCode_code (t : RedFn) : RedFn.ofCode t.code = some t := by cases t <;> rfl
theorem MemFn.ofCode_code (t : MemFn) : MemFn.ofCode t.code = some t := by cases t <;> rfl
theorem FpTy.ofW_w (t : FpTy) : FpTy.ofW t.w = t := by cases t <;> rfl
theorem nearOf_ext (n : Option (BitVec 4)) : nearOf (nearExt n) = n := by
  cases n with
  | none => rfl
  | some k =>
    have h1 : (nearExt (some k)).getLsbD 5 = true := by simp only [nearExt, BitVec.getLsbD_append]; grind
    have h2 : (nearExt (some k)).extractLsb' 0 4 = k := by
      apply BitVec.eq_of_getLsbD_eq; intro i hi
      simp only [nearExt, BitVec.getLsbD_extractLsb', BitVec.getLsbD_append]; grind
    simp only [nearOf, h1, h2]; rfl

/-- A record whose encoding the decoder's table reads back decodes to itself. -/
theorem decode_of_build {i : Instr} {h : Hdr} {op : BitVec 8} {m : Bool} {fn : BitVec 5} {lit : Lit} (hh : i.hdr = some h)
    (he : i.enc = some (op, m, fn, lit)) (hw : i.wf = true)
    (hb : Raw.build ⟨op, m, fn, h.pr.code, h.t0.code, h.t1.code, h.slk, lit⟩ h = .ok i) :
    ∃ w, encode i = some w ∧ decode w = .ok i := by
  refine ⟨Raw.pack ⟨op, m, fn, h.pr.code, h.t0.code, h.t1.code, h.slk, lit⟩, ?_, ?_⟩
  · simp only [encode, Instr.toRaw, he, hh, Option.map_some]
  · have hs : slkOk h.slk = true := by
      simp only [Instr.wf, hh, Bool.and_eq_true] at hw
      exact hw.1.1.1.1
    simp only [decode, Raw.unpack_pack, decodeRaw, Raw.hdr, Pred.ofCode_code, Target.ofCode_code, orErr, hs, if_true]
    simp only [bind, Except.bind, hb, Raw.confirm, he, hw, ne_eq, not_true_eq_false, or_self, if_false, if_true]

/-! ### Literals read back (R63) -/

theorem litC_rm {a : BitVec 3} {b : BitVec 5} {c : BitVec 40} : (litC a b c).extractLsb' 45 3 = a := by
  apply BitVec.eq_of_getLsbD_eq; intro i hi
  simp only [litC, BitVec.getLsbD_extractLsb', BitVec.getLsbD_append]; grind

theorem litC_aux {a : BitVec 3} {b : BitVec 5} {c : BitVec 40} : (litC a b c).extractLsb' 40 5 = b := by
  apply BitVec.eq_of_getLsbD_eq; intro i hi
  simp only [litC, BitVec.getLsbD_extractLsb', BitVec.getLsbD_append]; grind

theorem litM_scope {m : MemLit} {a : BitVec 3} {b : BitVec 6} : (litM m a b).extractLsb' 40 3 = a := by
  apply BitVec.eq_of_getLsbD_eq; intro i hi
  simp only [litM, BitVec.getLsbD_extractLsb', BitVec.getLsbD_append, BitVec.getLsbD_ofBool]; grind

theorem litM_ext {m : MemLit} {a : BitVec 3} {b : BitVec 6} : litExt (litM m a b) = b := by
  apply BitVec.eq_of_getLsbD_eq; intro i hi
  simp only [litExt, litM, BitVec.getLsbD_extractLsb', BitVec.getLsbD_append, BitVec.getLsbD_ofBool]; grind

theorem litM_mem {m : MemLit} {a : BitVec 3} {b : BitVec 6} : MemLit.ofLit (litM m a b) = m := by
  obtain ⟨l, t, r, o⟩ := m
  simp only [MemLit.ofLit, litM, MemLit.mk.injEq]
  refine ⟨?_, ?_, ?_, ?_⟩
  · apply BitVec.eq_of_getLsbD_eq; intro i hi
    simp only [BitVec.getLsbD_extractLsb', BitVec.getLsbD_append, BitVec.getLsbD_ofBool]; grind
  · simp only [BitVec.getLsbD_append, BitVec.getLsbD_ofBool]; grind
  · simp only [BitVec.getLsbD_append, BitVec.getLsbD_ofBool]; grind
  · apply BitVec.eq_of_getLsbD_eq; intro i hi
    simp only [BitVec.getLsbD_extractLsb', BitVec.getLsbD_append, BitVec.getLsbD_ofBool]; grind

theorem litVk_vk {vk : Bool} {low : BitVec 39} : (litVk vk low).getLsbD 39 = vk := by
  simp only [litVk, litC, BitVec.getLsbD_append, BitVec.getLsbD_ofBool]; grind

theorem litE_eng {r : Raw} {e : EngLit} (h : r.lit = litE e) : r.eng = .ok e := by
  obtain ⟨s, l, w⟩ := e
  have h1 : (litE ⟨s, l, w⟩).extractLsb' 40 3 = s.code := by
    apply BitVec.eq_of_getLsbD_eq; intro i hi
    simp only [litE, BitVec.getLsbD_extractLsb', BitVec.getLsbD_append, BitVec.getLsbD_ofBool]; grind
  have h2 : (litE ⟨s, l, w⟩).getLsbD 39 = l := by
    simp only [litE, BitVec.getLsbD_append, BitVec.getLsbD_ofBool]; grind
  have h3 : (litE ⟨s, l, w⟩).getLsbD 38 = w := by
    simp only [litE, BitVec.getLsbD_append, BitVec.getLsbD_ofBool]; grind
  simp only [Raw.eng, Raw.scope, h, h1, h2, h3, Scope.ofCode_code, orErr, Except.map]

theorem rhs_back {r : Raw} {b : Rhs} (hm : r.m = !b.isPort) (hl : r.lit = b.lit) : r.rhs = b := by
  cases b <;> simp_all [Raw.rhs, Rhs.isPort, Rhs.lit]

theorem frhs_back {r : Raw} {b : FRhs} (hm : r.m = !b.isPort) (hl : r.lit = b.lit) : r.frhs = .ok b := by
  cases b <;> simp_all [Raw.frhs, FRhs.isPort, FRhs.lit, Raw.rm, litC_rm, Rm.ofCode_code, orErr, Except.map]

/-! ### What the decoder builds for each OP (R71) -/

theorem build_01 {r : Raw} {h : Hdr} (k : r.op = 0x01) : r.build h = (.ok (.read h (if r.lit.getLsbD 6 then .v (r.lit.extractLsb' 0 4) else .g (r.lit.extractLsb' 0 6)))) := by
  unfold Raw.build Raw.buildCore
  rw [k]
  rfl
theorem build_02 {r : Raw} {h : Hdr} (k : r.op = 0x02) : r.build h = (.ok (.mov h r.vk (r.lit.getLsbD 5))) := by
  unfold Raw.build Raw.buildCore
  rw [k]
  rfl
theorem build_03 {r : Raw} {h : Hdr} (k : r.op = 0x03) : r.build h = (do
    let t2 ← orErr (Target.ofCode (r.lit.extractLsb' 12 12)) .further
    let t3 ← orErr (Target.ofCode (r.lit.extractLsb' 0 12)) .further
    .ok (.movx h r.vk t2 t3)) := by
  unfold Raw.build Raw.buildCore
  rw [k]
  rfl
theorem build_04 {r : Raw} {h : Hdr} (k : r.op = 0x04) : r.build h = (do .ok (.const h (← r.ty) r.lit)) := by
  unfold Raw.build Raw.buildCore
  rw [k]
  rfl
theorem build_05 {r : Raw} {h : Hdr} (k : r.op = 0x05) : r.build h = (.ok (.null h r.vk)) := by
  unfold Raw.build Raw.buildCore
  rw [k]
  rfl
theorem build_06 {r : Raw} {h : Hdr} (k : r.op = 0x06) : r.build h = (.ok (.sel h r.vk)) := by
  unfold Raw.build Raw.buildCore
  rw [k]
  rfl
theorem build_07 {r : Raw} {h : Hdr} (k : r.op = 0x07) : r.build h = (.ok (.gate h r.vk)) := by
  unfold Raw.build Raw.buildCore
  rw [k]
  rfl
theorem build_08 {r : Raw} {h : Hdr} (k : r.op = 0x08) : r.build h = (match r.fn.toNat with
    | 0 => .ok (.exitJmp h (r.lit.extractLsb' 0 33))
    | 1 => .ok (.exitJmpi h)
    | 2 => .ok (.exitCall h (r.lit.extractLsb' 0 33))
    | 3 => .ok (.exitRet h)
    | 4 => .ok (.exitStop h)
    | _ => .error .fnM) := by
  unfold Raw.build Raw.buildCore
  rw [k]
  rfl
theorem build_09 {r : Raw} {h : Hdr} (k : r.op = 0x09) : r.build h = (.ok (.itin h r.vk)) := by
  unfold Raw.build Raw.buildCore
  rw [k]
  rfl
theorem build_0A {r : Raw} {h : Hdr} (k : r.op = 0x0A) : r.build h = (.ok (.itnx h r.vk)) := by
  unfold Raw.build Raw.buildCore
  rw [k]
  rfl
theorem build_0B {r : Raw} {h : Hdr} (k : r.op = 0x0B) : r.build h = (.ok (.itout h r.vk)) := by
  unfold Raw.build Raw.buildCore
  rw [k]
  rfl
theorem build_0C {r : Raw} {h : Hdr} (k : r.op = 0x0C) : r.build h = (match r.fn.toNat with
    | 0 => .ok (.tagr h .iter r.vk)
    | 1 => .ok (.tagr h .colour r.vk)
    | 2 => .ok (.tagr h .gen r.vk)
    | _ => .error .fnM) := by
  unfold Raw.build Raw.buildCore
  rw [k]
  rfl
theorem build_0D {r : Raw} {h : Hdr} (k : r.op = 0x0D) : r.build h = (match r.fn.toNat with
    | 0 => .ok (.wfld h 0) | 1 => .ok (.wfld h 1) | 2 => .ok (.wfld h 2)
    | 3 => .ok (.wfld h 3) | 4 => .ok (.wfld h 4) | 5 => .ok (.wfld h 5)
    | _ => .error .fnM) := by
  unfold Raw.build Raw.buildCore
  rw [k]
  rfl
theorem build_0E {r : Raw} {h : Hdr} (k : r.op = 0x0E) : r.build h = (.ok (.slks h (if r.m then .imm r.lit else .port r.vk))) := by
  unfold Raw.build Raw.buildCore
  rw [k]
  rfl
theorem build_0F {r : Raw} {h : Hdr} (k : r.op = 0x0F) : r.build h = (.ok (.slkr h r.vk)) := by
  unfold Raw.build Raw.buildCore
  rw [k]
  rfl
theorem build_10 {r : Raw} {h : Hdr} (k : r.op = 0x10) : r.build h = (do .ok (.add h (← r.int) r.rhs)) := by
  unfold Raw.build Raw.buildInt
  rw [k]
  rfl
theorem build_11 {r : Raw} {h : Hdr} (k : r.op = 0x11) : r.build h = (do .ok (.sub h (← r.int) r.rhs)) := by
  unfold Raw.build Raw.buildInt
  rw [k]
  rfl
theorem build_12 {r : Raw} {h : Hdr} (k : r.op = 0x12) : r.build h = (do .ok (.mul h (← r.int) r.rhs)) := by
  unfold Raw.build Raw.buildInt
  rw [k]
  rfl
theorem build_13 {r : Raw} {h : Hdr} (k : r.op = 0x13) : r.build h = (do .ok (.mulh h (← r.int) r.rhs)) := by
  unfold Raw.build Raw.buildInt
  rw [k]
  rfl
theorem build_14 {r : Raw} {h : Hdr} (k : r.op = 0x14) : r.build h = (do .ok (.mulw h (← r.int) r.rhs)) := by
  unfold Raw.build Raw.buildInt
  rw [k]
  rfl
theorem build_15 {r : Raw} {h : Hdr} (k : r.op = 0x15) : r.build h = (do .ok (.div h (← r.int) r.rhs)) := by
  unfold Raw.build Raw.buildInt
  rw [k]
  rfl
theorem build_16 {r : Raw} {h : Hdr} (k : r.op = 0x16) : r.build h = (do .ok (.rem h (← r.int) r.rhs)) := by
  unfold Raw.build Raw.buildInt
  rw [k]
  rfl
theorem build_17 {r : Raw} {h : Hdr} (k : r.op = 0x17) : r.build h = (do .ok (.min h (← r.int) r.rhs)) := by
  unfold Raw.build Raw.buildInt
  rw [k]
  rfl
theorem build_18 {r : Raw} {h : Hdr} (k : r.op = 0x18) : r.build h = (do .ok (.max h (← r.int) r.rhs)) := by
  unfold Raw.build Raw.buildInt
  rw [k]
  rfl
theorem build_19 {r : Raw} {h : Hdr} (k : r.op = 0x19) : r.build h = (do .ok (.adds h (← r.int) r.rhs)) := by
  unfold Raw.build Raw.buildInt
  rw [k]
  rfl
theorem build_1A {r : Raw} {h : Hdr} (k : r.op = 0x1A) : r.build h = (do .ok (.subs h (← r.int) r.rhs)) := by
  unfold Raw.build Raw.buildInt
  rw [k]
  rfl
theorem build_1B {r : Raw} {h : Hdr} (k : r.op = 0x1B) : r.build h = (match r.fn.toNat with
    | 0 => .ok (.and h r.rhs)
    | 1 => .ok (.or h r.rhs)
    | 2 => .ok (.xor h r.rhs)
    | 3 => .ok (.andn h r.rhs)
    | 4 => .ok (.not h)
    | _ => .error .fnM) := by
  unfold Raw.build Raw.buildInt
  rw [k]
  rfl
theorem build_1C {r : Raw} {h : Hdr} (k : r.op = 0x1C) : r.build h = (do .ok (.neg h (← orErr (Width.ofCode (r.fn.extractLsb' 0 3)) .fnM))) := by
  unfold Raw.build Raw.buildInt
  rw [k]
  rfl
theorem build_1D {r : Raw} {h : Hdr} (k : r.op = 0x1D) : r.build h = (do .ok (.abs h (← orErr (Width.ofCode (r.fn.extractLsb' 0 3)) .fnM))) := by
  unfold Raw.build Raw.buildInt
  rw [k]
  rfl
theorem build_1E {r : Raw} {h : Hdr} (k : r.op = 0x1E) : r.build h = (do .ok (.shl h (← r.int) r.rhs)) := by
  unfold Raw.build Raw.buildInt
  rw [k]
  rfl
theorem build_1F {r : Raw} {h : Hdr} (k : r.op = 0x1F) : r.build h = (do .ok (.shr h (← r.int) r.rhs)) := by
  unfold Raw.build Raw.buildInt
  rw [k]
  rfl
theorem build_20 {r : Raw} {h : Hdr} (k : r.op = 0x20) : r.build h = (do .ok (.sar h (← r.int) r.rhs)) := by
  unfold Raw.build Raw.buildInt2
  rw [k]
  rfl
theorem build_21 {r : Raw} {h : Hdr} (k : r.op = 0x21) : r.build h = (do .ok (.rol h (← r.int) r.rhs)) := by
  unfold Raw.build Raw.buildInt2
  rw [k]
  rfl
theorem build_22 {r : Raw} {h : Hdr} (k : r.op = 0x22) : r.build h = (do .ok (.ror h (← r.int) r.rhs)) := by
  unfold Raw.build Raw.buildInt2
  rw [k]
  rfl
theorem build_23 {r : Raw} {h : Hdr} (k : r.op = 0x23) : r.build h = (do
    let w ← orErr (Width.ofCode (r.fn.extractLsb' 0 3)) .fnM
    match (r.fn.extractLsb' 3 2).toNat with
    | 0 => .ok (.clz h w)
    | 1 => .ok (.ctz h w)
    | 2 => .ok (.popc h w)
    | _ => .error .fnM) := by
  unfold Raw.build Raw.buildInt2
  rw [k]
  rfl
theorem build_24 {r : Raw} {h : Hdr} (k : r.op = 0x24) : r.build h = (.ok (.bfx h (r.lit.extractLsb' 0 6) (r.lit.extractLsb' 8 6) (r.lit.getLsbD 16))) := by
  unfold Raw.build Raw.buildInt2
  rw [k]
  rfl
theorem build_25 {r : Raw} {h : Hdr} (k : r.op = 0x25) : r.build h = (.ok (.bfi h (r.lit.extractLsb' 0 6) (r.lit.extractLsb' 8 6))) := by
  unfold Raw.build Raw.buildInt2
  rw [k]
  rfl
theorem build_26 {r : Raw} {h : Hdr} (k : r.op = 0x26) : r.build h = (do
    let w ← orErr (Width3.ofCode (r.fn.extractLsb' 0 4)) .fnM
    .ok (if r.fn.getLsbD 4 then .zext h w else .sext h w)) := by
  unfold Raw.build Raw.buildInt2
  rw [k]
  rfl
theorem build_27 {r : Raw} {h : Hdr} (k : r.op = 0x27) : r.build h = (do .ok (.tst h (← orErr (Cond.ofCode r.fn) .fnM) r.rhs)) := by
  unfold Raw.build Raw.buildInt2
  rw [k]
  rfl
theorem build_28 {r : Raw} {h : Hdr} (k : r.op = 0x28) : r.build h = (.ok (.lea h (if r.m then .imm r.lit else .port (r.lit.extractLsb' 0 3)))) := by
  unfold Raw.build Raw.buildInt2
  rw [k]
  rfl
theorem build_29 {r : Raw} {h : Hdr} (k : r.op = 0x29) : r.build h = (.ok (.apx h r.rhs)) := by
  unfold Raw.build Raw.buildInt2
  rw [k]
  rfl
theorem build_30 {r : Raw} {h : Hdr} (k : r.op = 0x30) : r.build h = (do .ok (.fadd h (← r.fp) (← r.frhs))) := by
  unfold Raw.build Raw.buildFp
  rw [k]
  rfl
theorem build_31 {r : Raw} {h : Hdr} (k : r.op = 0x31) : r.build h = (do .ok (.fsub h (← r.fp) (← r.frhs))) := by
  unfold Raw.build Raw.buildFp
  rw [k]
  rfl
theorem build_32 {r : Raw} {h : Hdr} (k : r.op = 0x32) : r.build h = (do .ok (.fmul h (← r.fp) (← r.frhs))) := by
  unfold Raw.build Raw.buildFp
  rw [k]
  rfl
theorem build_33 {r : Raw} {h : Hdr} (k : r.op = 0x33) : r.build h = (do .ok (.fdiv h (← r.fp) (← r.frhs))) := by
  unfold Raw.build Raw.buildFp
  rw [k]
  rfl
theorem build_34 {r : Raw} {h : Hdr} (k : r.op = 0x34) : r.build h = (do .ok (.fsqrt h (← r.fp) (← r.rm))) := by
  unfold Raw.build Raw.buildFp
  rw [k]
  rfl
theorem build_35 {r : Raw} {h : Hdr} (k : r.op = 0x35) : r.build h = (do .ok (.fma h (← r.fp) (← r.rm))) := by
  unfold Raw.build Raw.buildFp
  rw [k]
  rfl
theorem build_36 {r : Raw} {h : Hdr} (k : r.op = 0x36) : r.build h = (do .ok (.fmin h (← r.fp) r.rhs)) := by
  unfold Raw.build Raw.buildFp
  rw [k]
  rfl
theorem build_37 {r : Raw} {h : Hdr} (k : r.op = 0x37) : r.build h = (do .ok (.fmax h (← r.fp) r.rhs)) := by
  unfold Raw.build Raw.buildFp
  rw [k]
  rfl
theorem build_38 {r : Raw} {h : Hdr} (k : r.op = 0x38) : r.build h = (match (r.fn.extractLsb' 2 3).toNat with
    | 0 => .ok (.fabs h r.fpw)
    | 1 => .ok (.fneg h r.fpw)
    | 2 => .ok (.fcpys h r.fpw)
    | _ => .error .fnM) := by
  unfold Raw.build Raw.buildFp
  rw [k]
  rfl
theorem build_39 {r : Raw} {h : Hdr} (k : r.op = 0x39) : r.build h = (.ok (.ftst h (FCond.ofCode (r.fn.extractLsb' 2 3)) r.fpw r.rhs)) := by
  unfold Raw.build Raw.buildFp
  rw [k]
  rfl
theorem build_3A {r : Raw} {h : Hdr} (k : r.op = 0x3A) : r.build h = (do .ok (.fcvt h (← r.ty) (← orErr (Ty.ofCode (r.lit.extractLsb' 40 5)) .lit) (← r.rm))) := by
  unfold Raw.build Raw.buildFp
  rw [k]
  rfl
theorem build_3B {r : Raw} {h : Hdr} (k : r.op = 0x3B) : r.build h = (do .ok (.frnd h (← r.fp) (← r.rm))) := by
  unfold Raw.build Raw.buildFp
  rw [k]
  rfl
theorem build_3C {r : Raw} {h : Hdr} (k : r.op = 0x3C) : r.build h = (do .ok (.fcls h (← r.fp))) := by
  unfold Raw.build Raw.buildFp
  rw [k]
  rfl
theorem build_3D {r : Raw} {h : Hdr} (k : r.op = 0x3D) : r.build h = (do
    let rm ← r.rm
    match (r.fn.extractLsb' 2 3).toNat with
    | 0 => .ok (.exp2 h r.fpw rm)
    | 1 => .ok (.log2 h r.fpw rm)
    | 2 => .ok (.rsq h r.fpw rm)
    | _ => .error .fnM) := by
  unfold Raw.build Raw.buildFp
  rw [k]
  rfl
theorem build_40 {r : Raw} {h : Hdr} (k : r.op = 0x40) : r.build h = (do .ok (.vadd h (← r.ty) (← r.frhs))) := by
  unfold Raw.build Raw.buildVec
  rw [k]
  rfl
theorem build_41 {r : Raw} {h : Hdr} (k : r.op = 0x41) : r.build h = (do .ok (.vsub h (← r.ty) (← r.frhs))) := by
  unfold Raw.build Raw.buildVec
  rw [k]
  rfl
theorem build_42 {r : Raw} {h : Hdr} (k : r.op = 0x42) : r.build h = (do .ok (.vmul h (← r.ty) (← r.frhs))) := by
  unfold Raw.build Raw.buildVec
  rw [k]
  rfl
theorem build_43 {r : Raw} {h : Hdr} (k : r.op = 0x43) : r.build h = (do .ok (.vdiv h (← r.ty) (← r.frhs))) := by
  unfold Raw.build Raw.buildVec
  rw [k]
  rfl
theorem build_44 {r : Raw} {h : Hdr} (k : r.op = 0x44) : r.build h = (do .ok (.vfma h (← r.fp) (← r.rm))) := by
  unfold Raw.build Raw.buildVec
  rw [k]
  rfl
theorem build_45 {r : Raw} {h : Hdr} (k : r.op = 0x45) : r.build h = (do .ok (.vmin h (← r.ty) r.rhs)) := by
  unfold Raw.build Raw.buildVec
  rw [k]
  rfl
theorem build_46 {r : Raw} {h : Hdr} (k : r.op = 0x46) : r.build h = (do .ok (.vmax h (← r.ty) r.rhs)) := by
  unfold Raw.build Raw.buildVec
  rw [k]
  rfl
theorem build_47 {r : Raw} {h : Hdr} (k : r.op = 0x47) : r.build h = (do .ok (.vabs h (← r.ty))) := by
  unfold Raw.build Raw.buildVec
  rw [k]
  rfl
theorem build_48 {r : Raw} {h : Hdr} (k : r.op = 0x48) : r.build h = (do .ok (.vneg h (← r.ty))) := by
  unfold Raw.build Raw.buildVec
  rw [k]
  rfl
theorem build_49 {r : Raw} {h : Hdr} (k : r.op = 0x49) : r.build h = (do .ok (.vand h (← r.int) r.rhs)) := by
  unfold Raw.build Raw.buildVec
  rw [k]
  rfl
theorem build_4A {r : Raw} {h : Hdr} (k : r.op = 0x4A) : r.build h = (do .ok (.vor h (← r.int) r.rhs)) := by
  unfold Raw.build Raw.buildVec
  rw [k]
  rfl
theorem build_4B {r : Raw} {h : Hdr} (k : r.op = 0x4B) : r.build h = (do .ok (.vxor h (← r.int) r.rhs)) := by
  unfold Raw.build Raw.buildVec
  rw [k]
  rfl
theorem build_4C {r : Raw} {h : Hdr} (k : r.op = 0x4C) : r.build h = (do .ok (.vshl h (← r.int) r.rhs)) := by
  unfold Raw.build Raw.buildVec
  rw [k]
  rfl
theorem build_4D {r : Raw} {h : Hdr} (k : r.op = 0x4D) : r.build h = (do .ok (.vshr h (← r.int) r.rhs)) := by
  unfold Raw.build Raw.buildVec
  rw [k]
  rfl
theorem build_4E {r : Raw} {h : Hdr} (k : r.op = 0x4E) : r.build h = (do .ok (.vsar h (← r.int) r.rhs)) := by
  unfold Raw.build Raw.buildVec
  rw [k]
  rfl
theorem build_4F {r : Raw} {h : Hdr} (k : r.op = 0x4F) : r.build h = (do .ok (.vtst h (← r.ty) (← orErr (Cond.ofCode (r.lit.extractLsb' 40 5)) .lit))) := by
  unfold Raw.build Raw.buildVec
  rw [k]
  rfl
theorem build_50 {r : Raw} {h : Hdr} (k : r.op = 0x50) : r.build h = (do .ok (.vsel h (← r.ty))) := by
  unfold Raw.build Raw.buildVec2
  rw [k]
  rfl
theorem build_51 {r : Raw} {h : Hdr} (k : r.op = 0x51) : r.build h = (do
    .ok (.vcvt h (← r.ty) (← orErr (Ty.ofCode (r.lit.extractLsb' 40 5)) .lit) (← r.rm) (r.lit.extractLsb' 0 2))) := by
  unfold Raw.build Raw.buildVec2
  rw [k]
  rfl
theorem build_52 {r : Raw} {h : Hdr} (k : r.op = 0x52) : r.build h = (do .ok (.vexp2 h (← r.fp) (← r.rm))) := by
  unfold Raw.build Raw.buildVec2
  rw [k]
  rfl
theorem build_53 {r : Raw} {h : Hdr} (k : r.op = 0x53) : r.build h = (do .ok (.vlog2 h (← r.fp) (← r.rm))) := by
  unfold Raw.build Raw.buildVec2
  rw [k]
  rfl
theorem build_54 {r : Raw} {h : Hdr} (k : r.op = 0x54) : r.build h = (do .ok (.vrsq h (← r.fp) (← r.rm))) := by
  unfold Raw.build Raw.buildVec2
  rw [k]
  rfl
theorem build_55 {r : Raw} {h : Hdr} (k : r.op = 0x55) : r.build h = (do .ok (.vbcast h (← r.ty))) := by
  unfold Raw.build Raw.buildVec2
  rw [k]
  rfl
theorem build_56 {r : Raw} {h : Hdr} (k : r.op = 0x56) : r.build h = (do .ok (.vextr h (← r.ty) (r.lit.extractLsb' 0 7))) := by
  unfold Raw.build Raw.buildVec2
  rw [k]
  rfl
theorem build_57 {r : Raw} {h : Hdr} (k : r.op = 0x57) : r.build h = (do .ok (.vins h (← r.ty) (r.lit.extractLsb' 0 7))) := by
  unfold Raw.build Raw.buildVec2
  rw [k]
  rfl
theorem build_58 {r : Raw} {h : Hdr} (k : r.op = 0x58) : r.build h = (do .ok (.vperm h (← r.ty))) := by
  unfold Raw.build Raw.buildVec2
  rw [k]
  rfl
theorem build_59 {r : Raw} {h : Hdr} (k : r.op = 0x59) : r.build h = (do .ok (.viota h (← r.int))) := by
  unfold Raw.build Raw.buildVec2
  rw [k]
  rfl
theorem build_5A {r : Raw} {h : Hdr} (k : r.op = 0x5A) : r.build h = (do
    .ok (.vred h (← r.ty) (← orErr (RedFn.ofCode (r.lit.extractLsb' 40 5)) .lit) (← r.rm) r.vk)) := by
  unfold Raw.build Raw.buildVec2
  rw [k]
  rfl
theorem build_5B {r : Raw} {h : Hdr} (k : r.op = 0x5B) : r.build h = (do .ok (.vscan h (← r.ty) (← r.rm) r.vk)) := by
  unfold Raw.build Raw.buildVec2
  rw [k]
  rfl
theorem build_5C {r : Raw} {h : Hdr} (k : r.op = 0x5C) : r.build h = (do .ok (.vdot h (← r.ty) (← r.rm) r.vk)) := by
  unfold Raw.build Raw.buildVec2
  rw [k]
  rfl
theorem build_5D {r : Raw} {h : Hdr} (k : r.op = 0x5D) : r.build h = (do .ok (.vmaxi h (← r.ty) r.vk)) := by
  unfold Raw.build Raw.buildVec2
  rw [k]
  rfl
theorem build_5E {r : Raw} {h : Hdr} (k : r.op = 0x5E) : r.build h = (do .ok (.vmini h (← r.ty) r.vk)) := by
  unfold Raw.build Raw.buildVec2
  rw [k]
  rfl
theorem build_60 {r : Raw} {h : Hdr} (k : r.op = 0x60) : r.build h = (do .ok (.amax h (← r.tap))) := by
  unfold Raw.build Raw.buildFmt
  rw [k]
  rfl
theorem build_61 {r : Raw} {h : Hdr} (k : r.op = 0x61) : r.build h = (do .ok (.cvq h (← r.tap) (r.lit.extractLsb' 32 5))) := by
  unfold Raw.build Raw.buildFmt
  rw [k]
  rfl
theorem build_62 {r : Raw} {h : Hdr} (k : r.op = 0x62) : r.build h = (do .ok (.cvdq h (← r.tap) (r.lit.extractLsb' 0 2))) := by
  unfold Raw.build Raw.buildFmt
  rw [k]
  rfl
theorem build_63 {r : Raw} {h : Hdr} (k : r.op = 0x63) : r.build h = (.ok (.chset h)) := by
  unfold Raw.build Raw.buildFmt
  rw [k]
  rfl
theorem build_64 {r : Raw} {h : Hdr} (k : r.op = 0x64) : r.build h = (.ok (.chtab h)) := by
  unfold Raw.build Raw.buildFmt
  rw [k]
  rfl
theorem build_65 {r : Raw} {h : Hdr} (k : r.op = 0x65) : r.build h = (.ok (.sclw h (r.lit.extractLsb' 0 4) (r.lit.extractLsb' 4 4))) := by
  unfold Raw.build Raw.buildFmt
  rw [k]
  rfl
theorem build_66 {r : Raw} {h : Hdr} (k : r.op = 0x66) : r.build h = (.ok (.vpk h)) := by
  unfold Raw.build Raw.buildFmt
  rw [k]
  rfl
theorem build_67 {r : Raw} {h : Hdr} (k : r.op = 0x67) : r.build h = (.ok (.vupk h)) := by
  unfold Raw.build Raw.buildFmt
  rw [k]
  rfl
theorem build_68 {r : Raw} {h : Hdr} (k : r.op = 0x68) : r.build h = (.ok (.rngs h)) := by
  unfold Raw.build Raw.buildFmt
  rw [k]
  rfl
theorem build_69 {r : Raw} {h : Hdr} (k : r.op = 0x69) : r.build h = (.ok (.rngn h (r.lit.extractLsb' 0 4))) := by
  unfold Raw.build Raw.buildFmt
  rw [k]
  rfl
theorem build_6A {r : Raw} {h : Hdr} (k : r.op = 0x6A) : r.build h = (.ok (.rngf h (r.lit.extractLsb' 0 4))) := by
  unfold Raw.build Raw.buildFmt
  rw [k]
  rfl
theorem build_6B {r : Raw} {h : Hdr} (k : r.op = 0x6B) : r.build h = (.ok (.sample h (r.lit.extractLsb' 0 4))) := by
  unfold Raw.build Raw.buildFmt
  rw [k]
  rfl
theorem build_6C {r : Raw} {h : Hdr} (k : r.op = 0x6C) : r.build h = (.ok (.topk h r.rhs)) := by
  unfold Raw.build Raw.buildFmt
  rw [k]
  rfl
theorem build_6D {r : Raw} {h : Hdr} (k : r.op = 0x6D) : r.build h = (.ok (.accept h (r.lit.extractLsb' 0 5) (nearOf (litExt r.lit)))) := by
  unfold Raw.build Raw.buildFmt
  rw [k]
  rfl
theorem build_70 {r : Raw} {h : Hdr} (k : r.op = 0x70) : r.build h = (do .ok (.ld h (← r.ty) r.mem (r.lit.extractLsb' 32 5))) := by
  unfold Raw.build Raw.buildMem
  rw [k]
  rfl
theorem build_71 {r : Raw} {h : Hdr} (k : r.op = 0x71) : r.build h = (do .ok (.st h (← r.ty) r.mem)) := by
  unfold Raw.build Raw.buildMem
  rw [k]
  rfl
theorem build_72 {r : Raw} {h : Hdr} (k : r.op = 0x72) : r.build h = (do .ok (.vld h (← r.ty) r.mem (r.lit.extractLsb' 32 5))) := by
  unfold Raw.build Raw.buildMem
  rw [k]
  rfl
theorem build_73 {r : Raw} {h : Hdr} (k : r.op = 0x73) : r.build h = (do .ok (.vst h (← r.ty) r.mem)) := by
  unfold Raw.build Raw.buildMem
  rw [k]
  rfl
theorem build_74 {r : Raw} {h : Hdr} (k : r.op = 0x74) : r.build h = (do .ok (.vldg h (← r.ty) r.mem (r.lit.extractLsb' 32 5))) := by
  unfold Raw.build Raw.buildMem
  rw [k]
  rfl
theorem build_75 {r : Raw} {h : Hdr} (k : r.op = 0x75) : r.build h = (do .ok (.vsts h (← r.ty) r.mem)) := by
  unfold Raw.build Raw.buildMem
  rw [k]
  rfl
theorem build_76 {r : Raw} {h : Hdr} (k : r.op = 0x76) : r.build h = (do .ok (.ldr h (← r.ty) r.mem (r.lit.extractLsb' 32 5))) := by
  unfold Raw.build Raw.buildMem
  rw [k]
  rfl
theorem build_77 {r : Raw} {h : Hdr} (k : r.op = 0x77) : r.build h = (.ok (.pref h r.mem (r.lit.extractLsb' 32 4))) := by
  unfold Raw.build Raw.buildMem
  rw [k]
  rfl
theorem build_78 {r : Raw} {h : Hdr} (k : r.op = 0x78) : r.build h = (do .ok (.red h (← r.ty) r.mem (← orErr (MemFn.ofCode (r.lit.extractLsb' 32 4)) .lit))) := by
  unfold Raw.build Raw.buildMem
  rw [k]
  rfl
theorem build_79 {r : Raw} {h : Hdr} (k : r.op = 0x79) : r.build h = (do .ok (.vredm h (← r.ty) r.mem (← orErr (MemFn.ofCode (r.lit.extractLsb' 32 4)) .lit))) := by
  unfold Raw.build Raw.buildMem
  rw [k]
  rfl
theorem build_7A {r : Raw} {h : Hdr} (k : r.op = 0x7A) : r.build h = (.ok (.mldred h (r.lit.extractLsb' 43 5) (r.lit.extractLsb' 0 32))) := by
  unfold Raw.build Raw.buildMem
  rw [k]
  rfl
theorem build_7B {r : Raw} {h : Hdr} (k : r.op = 0x7B) : r.build h = (.ok (.gset h (r.lit.extractLsb' 43 5))) := by
  unfold Raw.build Raw.buildMem
  rw [k]
  rfl
theorem build_7C {r : Raw} {h : Hdr} (k : r.op = 0x7C) : r.build h = (do .ok (.copy h (r.lit.extractLsb' 43 5) (← r.eng))) := by
  unfold Raw.build Raw.buildMem
  rw [k]
  rfl
theorem build_7D {r : Raw} {h : Hdr} (k : r.op = 0x7D) : r.build h = (.ok (.persist h r.mem (r.lit.extractLsb' 32 4))) := by
  unfold Raw.build Raw.buildMem
  rw [k]
  rfl
theorem build_80 {r : Raw} {h : Hdr} (k : r.op = 0x80) : r.build h = (do .ok (.cadd h r.mem (← r.scope) (nearOf (litExt r.lit)))) := by
  unfold Raw.build Raw.buildCnt
  rw [k]
  rfl
theorem build_81 {r : Raw} {h : Hdr} (k : r.op = 0x81) : r.build h = (do .ok (.caddr h r.mem (← r.scope) (nearOf (litExt r.lit)))) := by
  unfold Raw.build Raw.buildCnt
  rw [k]
  rfl
theorem build_82 {r : Raw} {h : Hdr} (k : r.op = 0x82) : r.build h = (do .ok (.cwait h r.mem (← r.scope) (nearOf (litExt r.lit)))) := by
  unfold Raw.build Raw.buildCnt
  rw [k]
  rfl
theorem build_83 {r : Raw} {h : Hdr} (k : r.op = 0x83) : r.build h = (do .ok (.cpoll h r.mem (← r.scope) (nearOf (litExt r.lit)))) := by
  unfold Raw.build Raw.buildCnt
  rw [k]
  rfl
theorem build_88 {r : Raw} {h : Hdr} (k : r.op = 0x88) : r.build h = (do .ok (.mma h (← r.ty) (← r.eng))) := by
  unfold Raw.build Raw.buildCnt
  rw [k]
  rfl
theorem build_89 {r : Raw} {h : Hdr} (k : r.op = 0x89) : r.build h = (do .ok (.mmaz h (← r.eng))) := by
  unfold Raw.build Raw.buildCnt
  rw [k]
  rfl
theorem build_8A {r : Raw} {h : Hdr} (k : r.op = 0x8A) : r.build h = (do .ok (.accld h (← r.eng))) := by
  unfold Raw.build Raw.buildCnt
  rw [k]
  rfl
theorem build_8B {r : Raw} {h : Hdr} (k : r.op = 0x8B) : r.build h = (do .ok (.accst h (← r.ty) (← r.eng))) := by
  unfold Raw.build Raw.buildCnt
  rw [k]
  rfl
theorem build_90 {r : Raw} {h : Hdr} (k : r.op = 0x90) : r.build h = (do .ok (.lxtab h (← r.eng))) := by
  unfold Raw.build Raw.buildCnt
  rw [k]
  rfl
theorem build_91 {r : Raw} {h : Hdr} (k : r.op = 0x91) : r.build h = (do .ok (.lxctx h (← r.eng))) := by
  unfold Raw.build Raw.buildCnt
  rw [k]
  rfl
theorem build_92 {r : Raw} {h : Hdr} (k : r.op = 0x92) : r.build h = (do .ok (.lxrun h (← r.eng))) := by
  unfold Raw.build Raw.buildCnt
  rw [k]
  rfl
theorem build_93 {r : Raw} {h : Hdr} (k : r.op = 0x93) : r.build h = (do .ok (.lxtin h (← r.eng))) := by
  unfold Raw.build Raw.buildCnt
  rw [k]
  rfl
theorem build_94 {r : Raw} {h : Hdr} (k : r.op = 0x94) : r.build h = (do .ok (.lxtout h (← r.eng))) := by
  unfold Raw.build Raw.buildCnt
  rw [k]
  rfl
theorem build_98 {r : Raw} {h : Hdr} (k : r.op = 0x98) : r.build h = (do
    let na ← r.na
    match r.fn.toNat with
    | 0 => .ok (.spawn h na (r.lit.extractLsb' 0 33))
    | 1 => .ok (.spawnNowait h na (r.lit.extractLsb' 0 33))
    | _ => .error .fnM) := by
  unfold Raw.build Raw.buildSys
  rw [k]
  rfl
theorem build_99 {r : Raw} {h : Hdr} (k : r.op = 0x99) : r.build h = (.ok (.retn h)) := by
  unfold Raw.build Raw.buildSys
  rw [k]
  rfl
theorem build_9A {r : Raw} {h : Hdr} (k : r.op = 0x9A) : r.build h = (.ok (.launch h)) := by
  unfold Raw.build Raw.buildSys
  rw [k]
  rfl
theorem build_9B {r : Raw} {h : Hdr} (k : r.op = 0x9B) : r.build h = (.ok (if r.lit.getLsbD 0 then .cancelLaunch h else .cancel h)) := by
  unfold Raw.build Raw.buildSys
  rw [k]
  rfl
theorem build_A0 {r : Raw} {h : Hdr} (k : r.op = 0xA0) : r.build h = (.ok (.trap h (r.lit.extractLsb' 0 16))) := by
  unfold Raw.build Raw.buildSys
  rw [k]
  rfl
theorem build_A1 {r : Raw} {h : Hdr} (k : r.op = 0xA1) : r.build h = (.ok (.fltr h)) := by
  unfold Raw.build Raw.buildSys
  rw [k]
  rfl
theorem build_A2 {r : Raw} {h : Hdr} (k : r.op = 0xA2) : r.build h = (.ok (.msg h)) := by
  unfold Raw.build Raw.buildSys
  rw [k]
  rfl
theorem build_A3 {r : Raw} {h : Hdr} (k : r.op = 0xA3) : r.build h = (.ok (.msgr h)) := by
  unfold Raw.build Raw.buildSys
  rw [k]
  rfl
theorem build_A4 {r : Raw} {h : Hdr} (k : r.op = 0xA4) : r.build h = (.ok (if r.lit.getLsbD 0 then .duskSave h else .dusk h)) := by
  unfold Raw.build Raw.buildSys
  rw [k]
  rfl
theorem build_A5 {r : Raw} {h : Hdr} (k : r.op = 0xA5) : r.build h = (.ok (.ctxsv h)) := by
  unfold Raw.build Raw.buildSys
  rw [k]
  rfl
theorem build_A6 {r : Raw} {h : Hdr} (k : r.op = 0xA6) : r.build h = (.ok (.ctxld h)) := by
  unfold Raw.build Raw.buildSys
  rw [k]
  rfl
theorem build_A7 {r : Raw} {h : Hdr} (k : r.op = 0xA7) : r.build h = (.ok (.litw h (r.lit.extractLsb' 0 7))) := by
  unfold Raw.build Raw.buildSys
  rw [k]
  rfl
theorem build_A8 {r : Raw} {h : Hdr} (k : r.op = 0xA8) : r.build h = (.ok (.badn h)) := by
  unfold Raw.build Raw.buildSys
  rw [k]
  rfl
theorem build_A9 {r : Raw} {h : Hdr} (k : r.op = 0xA9) : r.build h = (.ok (.apset h)) := by
  unfold Raw.build Raw.buildSys
  rw [k]
  rfl
theorem build_AA {r : Raw} {h : Hdr} (k : r.op = 0xAA) : r.build h = (.ok (.time h)) := by
  unfold Raw.build Raw.buildSys
  rw [k]
  rfl
theorem build_AB {r : Raw} {h : Hdr} (k : r.op = 0xAB) : r.build h = (.ok (.retire h)) := by
  unfold Raw.build Raw.buildSys
  rw [k]
  rfl

end Sys2Proof
end

