-- ==== Sys2Proof/Laws/State.lean ====
section
/-! SUPPORT. The state record: one lemma for each field under each named update. -/

namespace Sys2Proof.Machine

/-! ### updCtx -/

@[simp] theorem State.updCtx_agenda (s : State) (c : CtxId) (f : Ctx → Ctx) : (s.updCtx c f).agenda = s.agenda := rfl
@[simp] theorem State.updCtx_turn (s : State) (c : CtxId) (f : Ctx → Ctx) : (s.updCtx c f).turn = s.turn := rfl
@[simp] theorem State.updCtx_latch (s : State) (c : CtxId) (f : Ctx → Ctx) : (s.updCtx c f).latch = s.latch := rfl
@[simp] theorem State.updCtx_doer (s : State) (c : CtxId) (f : Ctx → Ctx) : (s.updCtx c f).doer = s.doer := rfl
@[simp] theorem State.updCtx_pause (s : State) (c : CtxId) (f : Ctx → Ctx) : (s.updCtx c f).pause = s.pause := rfl
@[simp] theorem State.updCtx_away (s : State) (c : CtxId) (f : Ctx → Ctx) : (s.updCtx c f).away = s.away := rfl
@[simp] theorem State.updCtx_bound (s : State) (c : CtxId) (f : Ctx → Ctx) : (s.updCtx c f).bound = s.bound := rfl
@[simp] theorem State.updCtx_marks (s : State) (c : CtxId) (f : Ctx → Ctx) : (s.updCtx c f).marks = s.marks := rfl
@[simp] theorem State.updCtx_nextId (s : State) (c : CtxId) (f : Ctx → Ctx) : (s.updCtx c f).nextId = s.nextId := rfl
@[simp] theorem State.updCtx_freeCount (s : State) (c : CtxId) (f : Ctx → Ctx) : (s.updCtx c f).freeCount = s.freeCount := rfl
@[simp] theorem State.updCtx_ticks (s : State) (c : CtxId) (f : Ctx → Ctx) : (s.updCtx c f).ticks = s.ticks := rfl
@[simp] theorem State.updCtx_mem (s : State) (c : CtxId) (f : Ctx → Ctx) : (s.updCtx c f).mem = s.mem := rfl
@[simp] theorem State.updCtx_names (s : State) (c : CtxId) (f : Ctx → Ctx) : (s.updCtx c f).names = s.names := rfl
@[simp] theorem State.updCtx_ctxs (s : State) (c : CtxId) (f : Ctx → Ctx) : (s.updCtx c f).ctxs = updWhere (fun x => x.id == c) f s.ctxs := rfl
@[simp] theorem State.updCtx_loader (s : State) (c : CtxId) (f : Ctx → Ctx) : (s.updCtx c f).loader = s.loader := rfl
@[simp] theorem State.updCtx_packets (s : State) (c : CtxId) (f : Ctx → Ctx) : (s.updCtx c f).packets = s.packets := rfl
@[simp] theorem State.updCtx_reqs (s : State) (c : CtxId) (f : Ctx → Ctx) : (s.updCtx c f).reqs = s.reqs := rfl
@[simp] theorem State.updCtx_adds (s : State) (c : CtxId) (f : Ctx → Ctx) : (s.updCtx c f).adds = s.adds := rfl
@[simp] theorem State.updCtx_waiters (s : State) (c : CtxId) (f : Ctx → Ctx) : (s.updCtx c f).waiters = s.waiters := rfl
@[simp] theorem State.updCtx_releases (s : State) (c : CtxId) (f : Ctx → Ctx) : (s.updCtx c f).releases = s.releases := rfl
@[simp] theorem State.updCtx_durable (s : State) (c : CtxId) (f : Ctx → Ctx) : (s.updCtx c f).durable = s.durable := rfl
@[simp] theorem State.updCtx_engines (s : State) (c : CtxId) (f : Ctx → Ctx) : (s.updCtx c f).engines = s.engines := rfl
@[simp] theorem State.updCtx_tasks (s : State) (c : CtxId) (f : Ctx → Ctx) : (s.updCtx c f).tasks = s.tasks := rfl
@[simp] theorem State.updCtx_faults (s : State) (c : CtxId) (f : Ctx → Ctx) : (s.updCtx c f).faults = s.faults := rfl
@[simp] theorem State.updCtx_hub (s : State) (c : CtxId) (f : Ctx → Ctx) : (s.updCtx c f).hub = s.hub := rfl
@[simp] theorem State.updCtx_mgmt (s : State) (c : CtxId) (f : Ctx → Ctx) : (s.updCtx c f).mgmt = s.mgmt := rfl

/-! ### updInst -/

@[simp] theorem State.updInst_agenda (s : State) (c : CtxId) (r : Route) (f : Inst → Inst) : (s.updInst c r f).agenda = s.agenda := rfl
@[simp] theorem State.updInst_turn (s : State) (c : CtxId) (r : Route) (f : Inst → Inst) : (s.updInst c r f).turn = s.turn := rfl
@[simp] theorem State.updInst_latch (s : State) (c : CtxId) (r : Route) (f : Inst → Inst) : (s.updInst c r f).latch = s.latch := rfl
@[simp] theorem State.updInst_doer (s : State) (c : CtxId) (r : Route) (f : Inst → Inst) : (s.updInst c r f).doer = s.doer := rfl
@[simp] theorem State.updInst_pause (s : State) (c : CtxId) (r : Route) (f : Inst → Inst) : (s.updInst c r f).pause = s.pause := rfl
@[simp] theorem State.updInst_away (s : State) (c : CtxId) (r : Route) (f : Inst → Inst) : (s.updInst c r f).away = s.away := rfl
@[simp] theorem State.updInst_bound (s : State) (c : CtxId) (r : Route) (f : Inst → Inst) : (s.updInst c r f).bound = s.bound := rfl
@[simp] theorem State.updInst_marks (s : State) (c : CtxId) (r : Route) (f : Inst → Inst) : (s.updInst c r f).marks = s.marks := rfl
@[simp] theorem State.updInst_nextId (s : State) (c : CtxId) (r : Route) (f : Inst → Inst) : (s.updInst c r f).nextId = s.nextId := rfl
@[simp] theorem State.updInst_freeCount (s : State) (c : CtxId) (r : Route) (f : Inst → Inst) : (s.updInst c r f).freeCount = s.freeCount := rfl
@[simp] theorem State.updInst_ticks (s : State) (c : CtxId) (r : Route) (f : Inst → Inst) : (s.updInst c r f).ticks = s.ticks := rfl
@[simp] theorem State.updInst_mem (s : State) (c : CtxId) (r : Route) (f : Inst → Inst) : (s.updInst c r f).mem = s.mem := rfl
@[simp] theorem State.updInst_names (s : State) (c : CtxId) (r : Route) (f : Inst → Inst) : (s.updInst c r f).names = s.names := rfl
@[simp] theorem State.updInst_ctxs (s : State) (c : CtxId) (r : Route) (f : Inst → Inst) : (s.updInst c r f).ctxs = updWhere (fun x => x.id == c) (fun x => { x with insts := updWhere (fun i => i.route == r) f x.insts }) s.ctxs := rfl
@[simp] theorem State.updInst_loader (s : State) (c : CtxId) (r : Route) (f : Inst → Inst) : (s.updInst c r f).loader = s.loader := rfl
@[simp] theorem State.updInst_packets (s : State) (c : CtxId) (r : Route) (f : Inst → Inst) : (s.updInst c r f).packets = s.packets := rfl
@[simp] theorem State.updInst_reqs (s : State) (c : CtxId) (r : Route) (f : Inst → Inst) : (s.updInst c r f).reqs = s.reqs := rfl
@[simp] theorem State.updInst_adds (s : State) (c : CtxId) (r : Route) (f : Inst → Inst) : (s.updInst c r f).adds = s.adds := rfl
@[simp] theorem State.updInst_waiters (s : State) (c : CtxId) (r : Route) (f : Inst → Inst) : (s.updInst c r f).waiters = s.waiters := rfl
@[simp] theorem State.updInst_releases (s : State) (c : CtxId) (r : Route) (f : Inst → Inst) : (s.updInst c r f).releases = s.releases := rfl
@[simp] theorem State.updInst_durable (s : State) (c : CtxId) (r : Route) (f : Inst → Inst) : (s.updInst c r f).durable = s.durable := rfl
@[simp] theorem State.updInst_engines (s : State) (c : CtxId) (r : Route) (f : Inst → Inst) : (s.updInst c r f).engines = s.engines := rfl
@[simp] theorem State.updInst_tasks (s : State) (c : CtxId) (r : Route) (f : Inst → Inst) : (s.updInst c r f).tasks = s.tasks := rfl
@[simp] theorem State.updInst_faults (s : State) (c : CtxId) (r : Route) (f : Inst → Inst) : (s.updInst c r f).faults = s.faults := rfl
@[simp] theorem State.updInst_hub (s : State) (c : CtxId) (r : Route) (f : Inst → Inst) : (s.updInst c r f).hub = s.hub := rfl
@[simp] theorem State.updInst_mgmt (s : State) (c : CtxId) (r : Route) (f : Inst → Inst) : (s.updInst c r f).mgmt = s.mgmt := rfl

/-! ### updOut -/

@[simp] theorem State.updOut_agenda (s : State) (c : CtxId) (r : Route) (f : Outputs → Outputs) : (s.updOut c r f).agenda = s.agenda := rfl
@[simp] theorem State.updOut_turn (s : State) (c : CtxId) (r : Route) (f : Outputs → Outputs) : (s.updOut c r f).turn = s.turn := rfl
@[simp] theorem State.updOut_latch (s : State) (c : CtxId) (r : Route) (f : Outputs → Outputs) : (s.updOut c r f).latch = s.latch := rfl
@[simp] theorem State.updOut_doer (s : State) (c : CtxId) (r : Route) (f : Outputs → Outputs) : (s.updOut c r f).doer = s.doer := rfl
@[simp] theorem State.updOut_pause (s : State) (c : CtxId) (r : Route) (f : Outputs → Outputs) : (s.updOut c r f).pause = s.pause := rfl
@[simp] theorem State.updOut_away (s : State) (c : CtxId) (r : Route) (f : Outputs → Outputs) : (s.updOut c r f).away = s.away := rfl
@[simp] theorem State.updOut_bound (s : State) (c : CtxId) (r : Route) (f : Outputs → Outputs) : (s.updOut c r f).bound = s.bound := rfl
@[simp] theorem State.updOut_marks (s : State) (c : CtxId) (r : Route) (f : Outputs → Outputs) : (s.updOut c r f).marks = s.marks := rfl
@[simp] theorem State.updOut_nextId (s : State) (c : CtxId) (r : Route) (f : Outputs → Outputs) : (s.updOut c r f).nextId = s.nextId := rfl
@[simp] theorem State.updOut_freeCount (s : State) (c : CtxId) (r : Route) (f : Outputs → Outputs) : (s.updOut c r f).freeCount = s.freeCount := rfl
@[simp] theorem State.updOut_ticks (s : State) (c : CtxId) (r : Route) (f : Outputs → Outputs) : (s.updOut c r f).ticks = s.ticks := rfl
@[simp] theorem State.updOut_mem (s : State) (c : CtxId) (r : Route) (f : Outputs → Outputs) : (s.updOut c r f).mem = s.mem := rfl
@[simp] theorem State.updOut_names (s : State) (c : CtxId) (r : Route) (f : Outputs → Outputs) : (s.updOut c r f).names = s.names := rfl
@[simp] theorem State.updOut_loader (s : State) (c : CtxId) (r : Route) (f : Outputs → Outputs) : (s.updOut c r f).loader = s.loader := rfl
@[simp] theorem State.updOut_packets (s : State) (c : CtxId) (r : Route) (f : Outputs → Outputs) : (s.updOut c r f).packets = s.packets := rfl
@[simp] theorem State.updOut_reqs (s : State) (c : CtxId) (r : Route) (f : Outputs → Outputs) : (s.updOut c r f).reqs = s.reqs := rfl
@[simp] theorem State.updOut_adds (s : State) (c : CtxId) (r : Route) (f : Outputs → Outputs) : (s.updOut c r f).adds = s.adds := rfl
@[simp] theorem State.updOut_waiters (s : State) (c : CtxId) (r : Route) (f : Outputs → Outputs) : (s.updOut c r f).waiters = s.waiters := rfl
@[simp] theorem State.updOut_releases (s : State) (c : CtxId) (r : Route) (f : Outputs → Outputs) : (s.updOut c r f).releases = s.releases := rfl
@[simp] theorem State.updOut_durable (s : State) (c : CtxId) (r : Route) (f : Outputs → Outputs) : (s.updOut c r f).durable = s.durable := rfl
@[simp] theorem State.updOut_engines (s : State) (c : CtxId) (r : Route) (f : Outputs → Outputs) : (s.updOut c r f).engines = s.engines := rfl
@[simp] theorem State.updOut_tasks (s : State) (c : CtxId) (r : Route) (f : Outputs → Outputs) : (s.updOut c r f).tasks = s.tasks := rfl
@[simp] theorem State.updOut_faults (s : State) (c : CtxId) (r : Route) (f : Outputs → Outputs) : (s.updOut c r f).faults = s.faults := rfl
@[simp] theorem State.updOut_hub (s : State) (c : CtxId) (r : Route) (f : Outputs → Outputs) : (s.updOut c r f).hub = s.hub := rfl
@[simp] theorem State.updOut_mgmt (s : State) (c : CtxId) (r : Route) (f : Outputs → Outputs) : (s.updOut c r f).mgmt = s.mgmt := rfl

/-! ### updRegion -/

@[simp] theorem State.updRegion_agenda (s : State) (n : Nat) (f : Region → Region) : (s.updRegion n f).agenda = s.agenda := rfl
@[simp] theorem State.updRegion_turn (s : State) (n : Nat) (f : Region → Region) : (s.updRegion n f).turn = s.turn := rfl
@[simp] theorem State.updRegion_latch (s : State) (n : Nat) (f : Region → Region) : (s.updRegion n f).latch = s.latch := rfl
@[simp] theorem State.updRegion_doer (s : State) (n : Nat) (f : Region → Region) : (s.updRegion n f).doer = s.doer := rfl
@[simp] theorem State.updRegion_pause (s : State) (n : Nat) (f : Region → Region) : (s.updRegion n f).pause = s.pause := rfl
@[simp] theorem State.updRegion_away (s : State) (n : Nat) (f : Region → Region) : (s.updRegion n f).away = s.away := rfl
@[simp] theorem State.updRegion_bound (s : State) (n : Nat) (f : Region → Region) : (s.updRegion n f).bound = s.bound := rfl
@[simp] theorem State.updRegion_marks (s : State) (n : Nat) (f : Region → Region) : (s.updRegion n f).marks = s.marks := rfl
@[simp] theorem State.updRegion_nextId (s : State) (n : Nat) (f : Region → Region) : (s.updRegion n f).nextId = s.nextId := rfl
@[simp] theorem State.updRegion_freeCount (s : State) (n : Nat) (f : Region → Region) : (s.updRegion n f).freeCount = s.freeCount := rfl
@[simp] theorem State.updRegion_ticks (s : State) (n : Nat) (f : Region → Region) : (s.updRegion n f).ticks = s.ticks := rfl
@[simp] theorem State.updRegion_mem (s : State) (n : Nat) (f : Region → Region) : (s.updRegion n f).mem = s.mem := rfl
@[simp] theorem State.updRegion_names (s : State) (n : Nat) (f : Region → Region) : (s.updRegion n f).names = s.names := rfl
@[simp] theorem State.updRegion_ctxs (s : State) (n : Nat) (f : Region → Region) : (s.updRegion n f).ctxs = s.ctxs := rfl
@[simp] theorem State.updRegion_loader (s : State) (n : Nat) (f : Region → Region) : (s.updRegion n f).loader = { s.loader with regions := updWhere (fun r => r.num == n) f s.loader.regions } := rfl
@[simp] theorem State.updRegion_packets (s : State) (n : Nat) (f : Region → Region) : (s.updRegion n f).packets = s.packets := rfl
@[simp] theorem State.updRegion_reqs (s : State) (n : Nat) (f : Region → Region) : (s.updRegion n f).reqs = s.reqs := rfl
@[simp] theorem State.updRegion_adds (s : State) (n : Nat) (f : Region → Region) : (s.updRegion n f).adds = s.adds := rfl
@[simp] theorem State.updRegion_waiters (s : State) (n : Nat) (f : Region → Region) : (s.updRegion n f).waiters = s.waiters := rfl
@[simp] theorem State.updRegion_releases (s : State) (n : Nat) (f : Region → Region) : (s.updRegion n f).releases = s.releases := rfl
@[simp] theorem State.updRegion_durable (s : State) (n : Nat) (f : Region → Region) : (s.updRegion n f).durable = s.durable := rfl
@[simp] theorem State.updRegion_engines (s : State) (n : Nat) (f : Region → Region) : (s.updRegion n f).engines = s.engines := rfl
@[simp] theorem State.updRegion_tasks (s : State) (n : Nat) (f : Region → Region) : (s.updRegion n f).tasks = s.tasks := rfl
@[simp] theorem State.updRegion_faults (s : State) (n : Nat) (f : Region → Region) : (s.updRegion n f).faults = s.faults := rfl
@[simp] theorem State.updRegion_hub (s : State) (n : Nat) (f : Region → Region) : (s.updRegion n f).hub = s.hub := rfl
@[simp] theorem State.updRegion_mgmt (s : State) (n : Nat) (f : Region → Region) : (s.updRegion n f).mgmt = s.mgmt := rfl

/-! ### updJob -/

@[simp] theorem State.updJob_agenda (s : State) (j : Nat) (f : Job → Job) : (s.updJob j f).agenda = s.agenda := rfl
@[simp] theorem State.updJob_turn (s : State) (j : Nat) (f : Job → Job) : (s.updJob j f).turn = s.turn := rfl
@[simp] theorem State.updJob_latch (s : State) (j : Nat) (f : Job → Job) : (s.updJob j f).latch = s.latch := rfl
@[simp] theorem State.updJob_doer (s : State) (j : Nat) (f : Job → Job) : (s.updJob j f).doer = s.doer := rfl
@[simp] theorem State.updJob_pause (s : State) (j : Nat) (f : Job → Job) : (s.updJob j f).pause = s.pause := rfl
@[simp] theorem State.updJob_away (s : State) (j : Nat) (f : Job → Job) : (s.updJob j f).away = s.away := rfl
@[simp] theorem State.updJob_bound (s : State) (j : Nat) (f : Job → Job) : (s.updJob j f).bound = s.bound := rfl
@[simp] theorem State.updJob_marks (s : State) (j : Nat) (f : Job → Job) : (s.updJob j f).marks = s.marks := rfl
@[simp] theorem State.updJob_nextId (s : State) (j : Nat) (f : Job → Job) : (s.updJob j f).nextId = s.nextId := rfl
@[simp] theorem State.updJob_freeCount (s : State) (j : Nat) (f : Job → Job) : (s.updJob j f).freeCount = s.freeCount := rfl
@[simp] theorem State.updJob_ticks (s : State) (j : Nat) (f : Job → Job) : (s.updJob j f).ticks = s.ticks := rfl
@[simp] theorem State.updJob_mem (s : State) (j : Nat) (f : Job → Job) : (s.updJob j f).mem = s.mem := rfl
@[simp] theorem State.updJob_names (s : State) (j : Nat) (f : Job → Job) : (s.updJob j f).names = s.names := rfl
@[simp] theorem State.updJob_ctxs (s : State) (j : Nat) (f : Job → Job) : (s.updJob j f).ctxs = s.ctxs := rfl
@[simp] theorem State.updJob_loader (s : State) (j : Nat) (f : Job → Job) : (s.updJob j f).loader = { s.loader with jobs := updWhere (fun x => x.id == j) f s.loader.jobs } := rfl
@[simp] theorem State.updJob_packets (s : State) (j : Nat) (f : Job → Job) : (s.updJob j f).packets = s.packets := rfl
@[simp] theorem State.updJob_reqs (s : State) (j : Nat) (f : Job → Job) : (s.updJob j f).reqs = s.reqs := rfl
@[simp] theorem State.updJob_adds (s : State) (j : Nat) (f : Job → Job) : (s.updJob j f).adds = s.adds := rfl
@[simp] theorem State.updJob_waiters (s : State) (j : Nat) (f : Job → Job) : (s.updJob j f).waiters = s.waiters := rfl
@[simp] theorem State.updJob_releases (s : State) (j : Nat) (f : Job → Job) : (s.updJob j f).releases = s.releases := rfl
@[simp] theorem State.updJob_durable (s : State) (j : Nat) (f : Job → Job) : (s.updJob j f).durable = s.durable := rfl
@[simp] theorem State.updJob_engines (s : State) (j : Nat) (f : Job → Job) : (s.updJob j f).engines = s.engines := rfl
@[simp] theorem State.updJob_tasks (s : State) (j : Nat) (f : Job → Job) : (s.updJob j f).tasks = s.tasks := rfl
@[simp] theorem State.updJob_faults (s : State) (j : Nat) (f : Job → Job) : (s.updJob j f).faults = s.faults := rfl
@[simp] theorem State.updJob_hub (s : State) (j : Nat) (f : Job → Job) : (s.updJob j f).hub = s.hub := rfl
@[simp] theorem State.updJob_mgmt (s : State) (j : Nat) (f : Job → Job) : (s.updJob j f).mgmt = s.mgmt := rfl

/-! ### updReq -/

@[simp] theorem State.updReq_agenda (s : State) (r : Nat) (f : Req → Req) : (s.updReq r f).agenda = s.agenda := rfl
@[simp] theorem State.updReq_turn (s : State) (r : Nat) (f : Req → Req) : (s.updReq r f).turn = s.turn := rfl
@[simp] theorem State.updReq_latch (s : State) (r : Nat) (f : Req → Req) : (s.updReq r f).latch = s.latch := rfl
@[simp] theorem State.updReq_doer (s : State) (r : Nat) (f : Req → Req) : (s.updReq r f).doer = s.doer := rfl
@[simp] theorem State.updReq_pause (s : State) (r : Nat) (f : Req → Req) : (s.updReq r f).pause = s.pause := rfl
@[simp] theorem State.updReq_away (s : State) (r : Nat) (f : Req → Req) : (s.updReq r f).away = s.away := rfl
@[simp] theorem State.updReq_bound (s : State) (r : Nat) (f : Req → Req) : (s.updReq r f).bound = s.bound := rfl
@[simp] theorem State.updReq_marks (s : State) (r : Nat) (f : Req → Req) : (s.updReq r f).marks = s.marks := rfl
@[simp] theorem State.updReq_nextId (s : State) (r : Nat) (f : Req → Req) : (s.updReq r f).nextId = s.nextId := rfl
@[simp] theorem State.updReq_freeCount (s : State) (r : Nat) (f : Req → Req) : (s.updReq r f).freeCount = s.freeCount := rfl
@[simp] theorem State.updReq_ticks (s : State) (r : Nat) (f : Req → Req) : (s.updReq r f).ticks = s.ticks := rfl
@[simp] theorem State.updReq_mem (s : State) (r : Nat) (f : Req → Req) : (s.updReq r f).mem = s.mem := rfl
@[simp] theorem State.updReq_names (s : State) (r : Nat) (f : Req → Req) : (s.updReq r f).names = s.names := rfl
@[simp] theorem State.updReq_ctxs (s : State) (r : Nat) (f : Req → Req) : (s.updReq r f).ctxs = s.ctxs := rfl
@[simp] theorem State.updReq_loader (s : State) (r : Nat) (f : Req → Req) : (s.updReq r f).loader = s.loader := rfl
@[simp] theorem State.updReq_packets (s : State) (r : Nat) (f : Req → Req) : (s.updReq r f).packets = s.packets := rfl
@[simp] theorem State.updReq_reqs (s : State) (r : Nat) (f : Req → Req) : (s.updReq r f).reqs = updWhere (fun x => x.id == r) f s.reqs := rfl
@[simp] theorem State.updReq_adds (s : State) (r : Nat) (f : Req → Req) : (s.updReq r f).adds = s.adds := rfl
@[simp] theorem State.updReq_waiters (s : State) (r : Nat) (f : Req → Req) : (s.updReq r f).waiters = s.waiters := rfl
@[simp] theorem State.updReq_releases (s : State) (r : Nat) (f : Req → Req) : (s.updReq r f).releases = s.releases := rfl
@[simp] theorem State.updReq_durable (s : State) (r : Nat) (f : Req → Req) : (s.updReq r f).durable = s.durable := rfl
@[simp] theorem State.updReq_engines (s : State) (r : Nat) (f : Req → Req) : (s.updReq r f).engines = s.engines := rfl
@[simp] theorem State.updReq_tasks (s : State) (r : Nat) (f : Req → Req) : (s.updReq r f).tasks = s.tasks := rfl
@[simp] theorem State.updReq_faults (s : State) (r : Nat) (f : Req → Req) : (s.updReq r f).faults = s.faults := rfl
@[simp] theorem State.updReq_hub (s : State) (r : Nat) (f : Req → Req) : (s.updReq r f).hub = s.hub := rfl
@[simp] theorem State.updReq_mgmt (s : State) (r : Nat) (f : Req → Req) : (s.updReq r f).mgmt = s.mgmt := rfl

/-! ### dropReq -/

@[simp] theorem State.dropReq_agenda (s : State) (r : Nat) : (s.dropReq r).agenda = s.agenda := rfl
@[simp] theorem State.dropReq_turn (s : State) (r : Nat) : (s.dropReq r).turn = s.turn := rfl
@[simp] theorem State.dropReq_latch (s : State) (r : Nat) : (s.dropReq r).latch = s.latch := rfl
@[simp] theorem State.dropReq_doer (s : State) (r : Nat) : (s.dropReq r).doer = s.doer := rfl
@[simp] theorem State.dropReq_pause (s : State) (r : Nat) : (s.dropReq r).pause = s.pause := rfl
@[simp] theorem State.dropReq_away (s : State) (r : Nat) : (s.dropReq r).away = s.away := rfl
@[simp] theorem State.dropReq_bound (s : State) (r : Nat) : (s.dropReq r).bound = s.bound := rfl
@[simp] theorem State.dropReq_marks (s : State) (r : Nat) : (s.dropReq r).marks = s.marks := rfl
@[simp] theorem State.dropReq_nextId (s : State) (r : Nat) : (s.dropReq r).nextId = s.nextId := rfl
@[simp] theorem State.dropReq_freeCount (s : State) (r : Nat) : (s.dropReq r).freeCount = s.freeCount := rfl
@[simp] theorem State.dropReq_ticks (s : State) (r : Nat) : (s.dropReq r).ticks = s.ticks := rfl
@[simp] theorem State.dropReq_mem (s : State) (r : Nat) : (s.dropReq r).mem = s.mem := rfl
@[simp] theorem State.dropReq_names (s : State) (r : Nat) : (s.dropReq r).names = s.names := rfl
@[simp] theorem State.dropReq_ctxs (s : State) (r : Nat) : (s.dropReq r).ctxs = s.ctxs := rfl
@[simp] theorem State.dropReq_loader (s : State) (r : Nat) : (s.dropReq r).loader = s.loader := rfl
@[simp] theorem State.dropReq_packets (s : State) (r : Nat) : (s.dropReq r).packets = s.packets := rfl
@[simp] theorem State.dropReq_reqs (s : State) (r : Nat) : (s.dropReq r).reqs = s.reqs.filter fun x => x.id != r := rfl
@[simp] theorem State.dropReq_adds (s : State) (r : Nat) : (s.dropReq r).adds = s.adds := rfl
@[simp] theorem State.dropReq_waiters (s : State) (r : Nat) : (s.dropReq r).waiters = s.waiters := rfl
@[simp] theorem State.dropReq_releases (s : State) (r : Nat) : (s.dropReq r).releases = s.releases := rfl
@[simp] theorem State.dropReq_durable (s : State) (r : Nat) : (s.dropReq r).durable = s.durable := rfl
@[simp] theorem State.dropReq_engines (s : State) (r : Nat) : (s.dropReq r).engines = s.engines := rfl
@[simp] theorem State.dropReq_tasks (s : State) (r : Nat) : (s.dropReq r).tasks = s.tasks := rfl
@[simp] theorem State.dropReq_faults (s : State) (r : Nat) : (s.dropReq r).faults = s.faults := rfl
@[simp] theorem State.dropReq_hub (s : State) (r : Nat) : (s.dropReq r).hub = s.hub := rfl
@[simp] theorem State.dropReq_mgmt (s : State) (r : Nat) : (s.dropReq r).mgmt = s.mgmt := rfl

/-! ### updTask -/

@[simp] theorem State.updTask_agenda (s : State) (t : Nat) (f : Task → Task) : (s.updTask t f).agenda = s.agenda := rfl
@[simp] theorem State.updTask_turn (s : State) (t : Nat) (f : Task → Task) : (s.updTask t f).turn = s.turn := rfl
@[simp] theorem State.updTask_latch (s : State) (t : Nat) (f : Task → Task) : (s.updTask t f).latch = s.latch := rfl
@[simp] theorem State.updTask_doer (s : State) (t : Nat) (f : Task → Task) : (s.updTask t f).doer = s.doer := rfl
@[simp] theorem State.updTask_pause (s : State) (t : Nat) (f : Task → Task) : (s.updTask t f).pause = s.pause := rfl
@[simp] theorem State.updTask_away (s : State) (t : Nat) (f : Task → Task) : (s.updTask t f).away = s.away := rfl
@[simp] theorem State.updTask_bound (s : State) (t : Nat) (f : Task → Task) : (s.updTask t f).bound = s.bound := rfl
@[simp] theorem State.updTask_marks (s : State) (t : Nat) (f : Task → Task) : (s.updTask t f).marks = s.marks := rfl
@[simp] theorem State.updTask_nextId (s : State) (t : Nat) (f : Task → Task) : (s.updTask t f).nextId = s.nextId := rfl
@[simp] theorem State.updTask_freeCount (s : State) (t : Nat) (f : Task → Task) : (s.updTask t f).freeCount = s.freeCount := rfl
@[simp] theorem State.updTask_ticks (s : State) (t : Nat) (f : Task → Task) : (s.updTask t f).ticks = s.ticks := rfl
@[simp] theorem State.updTask_mem (s : State) (t : Nat) (f : Task → Task) : (s.updTask t f).mem = s.mem := rfl
@[simp] theorem State.updTask_names (s : State) (t : Nat) (f : Task → Task) : (s.updTask t f).names = s.names := rfl
@[simp] theorem State.updTask_ctxs (s : State) (t : Nat) (f : Task → Task) : (s.updTask t f).ctxs = s.ctxs := rfl
@[simp] theorem State.updTask_loader (s : State) (t : Nat) (f : Task → Task) : (s.updTask t f).loader = s.loader := rfl
@[simp] theorem State.updTask_packets (s : State) (t : Nat) (f : Task → Task) : (s.updTask t f).packets = s.packets := rfl
@[simp] theorem State.updTask_reqs (s : State) (t : Nat) (f : Task → Task) : (s.updTask t f).reqs = s.reqs := rfl
@[simp] theorem State.updTask_adds (s : State) (t : Nat) (f : Task → Task) : (s.updTask t f).adds = s.adds := rfl
@[simp] theorem State.updTask_waiters (s : State) (t : Nat) (f : Task → Task) : (s.updTask t f).waiters = s.waiters := rfl
@[simp] theorem State.updTask_releases (s : State) (t : Nat) (f : Task → Task) : (s.updTask t f).releases = s.releases := rfl
@[simp] theorem State.updTask_durable (s : State) (t : Nat) (f : Task → Task) : (s.updTask t f).durable = s.durable := rfl
@[simp] theorem State.updTask_engines (s : State) (t : Nat) (f : Task → Task) : (s.updTask t f).engines = s.engines := rfl
@[simp] theorem State.updTask_tasks (s : State) (t : Nat) (f : Task → Task) : (s.updTask t f).tasks = updWhere (fun x => x.id == t) f s.tasks := rfl
@[simp] theorem State.updTask_faults (s : State) (t : Nat) (f : Task → Task) : (s.updTask t f).faults = s.faults := rfl
@[simp] theorem State.updTask_hub (s : State) (t : Nat) (f : Task → Task) : (s.updTask t f).hub = s.hub := rfl
@[simp] theorem State.updTask_mgmt (s : State) (t : Nat) (f : Task → Task) : (s.updTask t f).mgmt = s.mgmt := rfl

/-! ### bump -/

@[simp] theorem State.bump_agenda (s : State) : (s.bump).agenda = s.agenda := rfl
@[simp] theorem State.bump_turn (s : State) : (s.bump).turn = s.turn := rfl
@[simp] theorem State.bump_latch (s : State) : (s.bump).latch = s.latch := rfl
@[simp] theorem State.bump_doer (s : State) : (s.bump).doer = s.doer := rfl
@[simp] theorem State.bump_pause (s : State) : (s.bump).pause = s.pause := rfl
@[simp] theorem State.bump_away (s : State) : (s.bump).away = s.away := rfl
@[simp] theorem State.bump_bound (s : State) : (s.bump).bound = s.bound := rfl
@[simp] theorem State.bump_marks (s : State) : (s.bump).marks = s.marks := rfl
@[simp] theorem State.bump_nextId (s : State) : (s.bump).nextId = s.nextId + 1 := rfl
@[simp] theorem State.bump_freeCount (s : State) : (s.bump).freeCount = s.freeCount := rfl
@[simp] theorem State.bump_ticks (s : State) : (s.bump).ticks = s.ticks := rfl
@[simp] theorem State.bump_mem (s : State) : (s.bump).mem = s.mem := rfl
@[simp] theorem State.bump_names (s : State) : (s.bump).names = s.names := rfl
@[simp] theorem State.bump_ctxs (s : State) : (s.bump).ctxs = s.ctxs := rfl
@[simp] theorem State.bump_loader (s : State) : (s.bump).loader = s.loader := rfl
@[simp] theorem State.bump_packets (s : State) : (s.bump).packets = s.packets := rfl
@[simp] theorem State.bump_reqs (s : State) : (s.bump).reqs = s.reqs := rfl
@[simp] theorem State.bump_adds (s : State) : (s.bump).adds = s.adds := rfl
@[simp] theorem State.bump_waiters (s : State) : (s.bump).waiters = s.waiters := rfl
@[simp] theorem State.bump_releases (s : State) : (s.bump).releases = s.releases := rfl
@[simp] theorem State.bump_durable (s : State) : (s.bump).durable = s.durable := rfl
@[simp] theorem State.bump_engines (s : State) : (s.bump).engines = s.engines := rfl
@[simp] theorem State.bump_tasks (s : State) : (s.bump).tasks = s.tasks := rfl
@[simp] theorem State.bump_faults (s : State) : (s.bump).faults = s.faults := rfl
@[simp] theorem State.bump_hub (s : State) : (s.bump).hub = s.hub := rfl
@[simp] theorem State.bump_mgmt (s : State) : (s.bump).mgmt = s.mgmt := rfl

/-! ### setPte -/

@[simp] theorem State.setPte_agenda (s : State) (a : Nat) (w : Word) : (s.setPte a w).agenda = s.agenda := rfl
@[simp] theorem State.setPte_turn (s : State) (a : Nat) (w : Word) : (s.setPte a w).turn = s.turn := rfl
@[simp] theorem State.setPte_latch (s : State) (a : Nat) (w : Word) : (s.setPte a w).latch = s.latch := rfl
@[simp] theorem State.setPte_doer (s : State) (a : Nat) (w : Word) : (s.setPte a w).doer = s.doer := rfl
@[simp] theorem State.setPte_pause (s : State) (a : Nat) (w : Word) : (s.setPte a w).pause = s.pause := rfl
@[simp] theorem State.setPte_away (s : State) (a : Nat) (w : Word) : (s.setPte a w).away = s.away := rfl
@[simp] theorem State.setPte_bound (s : State) (a : Nat) (w : Word) : (s.setPte a w).bound = s.bound := rfl
@[simp] theorem State.setPte_marks (s : State) (a : Nat) (w : Word) : (s.setPte a w).marks = s.marks := rfl
@[simp] theorem State.setPte_nextId (s : State) (a : Nat) (w : Word) : (s.setPte a w).nextId = s.nextId := rfl
@[simp] theorem State.setPte_freeCount (s : State) (a : Nat) (w : Word) : (s.setPte a w).freeCount = s.freeCount := rfl
@[simp] theorem State.setPte_ticks (s : State) (a : Nat) (w : Word) : (s.setPte a w).ticks = s.ticks := rfl
@[simp] theorem State.setPte_mem (s : State) (a : Nat) (w : Word) : (s.setPte a w).mem = Memory.setWord s.mem a w := rfl
@[simp] theorem State.setPte_names (s : State) (a : Nat) (w : Word) : (s.setPte a w).names = s.names := rfl
@[simp] theorem State.setPte_ctxs (s : State) (a : Nat) (w : Word) : (s.setPte a w).ctxs = s.ctxs := rfl
@[simp] theorem State.setPte_loader (s : State) (a : Nat) (w : Word) : (s.setPte a w).loader = s.loader := rfl
@[simp] theorem State.setPte_packets (s : State) (a : Nat) (w : Word) : (s.setPte a w).packets = s.packets := rfl
@[simp] theorem State.setPte_reqs (s : State) (a : Nat) (w : Word) : (s.setPte a w).reqs = s.reqs := rfl
@[simp] theorem State.setPte_adds (s : State) (a : Nat) (w : Word) : (s.setPte a w).adds = s.adds := rfl
@[simp] theorem State.setPte_waiters (s : State) (a : Nat) (w : Word) : (s.setPte a w).waiters = s.waiters := rfl
@[simp] theorem State.setPte_releases (s : State) (a : Nat) (w : Word) : (s.setPte a w).releases = s.releases := rfl
@[simp] theorem State.setPte_durable (s : State) (a : Nat) (w : Word) : (s.setPte a w).durable = s.durable := rfl
@[simp] theorem State.setPte_engines (s : State) (a : Nat) (w : Word) : (s.setPte a w).engines = s.engines := rfl
@[simp] theorem State.setPte_tasks (s : State) (a : Nat) (w : Word) : (s.setPte a w).tasks = s.tasks := rfl
@[simp] theorem State.setPte_faults (s : State) (a : Nat) (w : Word) : (s.setPte a w).faults = s.faults := rfl
@[simp] theorem State.setPte_hub (s : State) (a : Nat) (w : Word) : (s.setPte a w).hub = s.hub := rfl
@[simp] theorem State.setPte_mgmt (s : State) (a : Nat) (w : Word) : (s.setPte a w).mgmt = s.mgmt := rfl

/-! ### sendPacket -/

@[simp] theorem State.sendPacket_agenda (s : State) (c : CtxId) (d : Dest) (t : Tok) (loud : Bool) (req : Option Nat) : (s.sendPacket c d t loud req).agenda = s.agenda := rfl
@[simp] theorem State.sendPacket_turn (s : State) (c : CtxId) (d : Dest) (t : Tok) (loud : Bool) (req : Option Nat) : (s.sendPacket c d t loud req).turn = s.turn := rfl
@[simp] theorem State.sendPacket_latch (s : State) (c : CtxId) (d : Dest) (t : Tok) (loud : Bool) (req : Option Nat) : (s.sendPacket c d t loud req).latch = s.latch := rfl
@[simp] theorem State.sendPacket_doer (s : State) (c : CtxId) (d : Dest) (t : Tok) (loud : Bool) (req : Option Nat) : (s.sendPacket c d t loud req).doer = s.doer := rfl
@[simp] theorem State.sendPacket_pause (s : State) (c : CtxId) (d : Dest) (t : Tok) (loud : Bool) (req : Option Nat) : (s.sendPacket c d t loud req).pause = s.pause := rfl
@[simp] theorem State.sendPacket_away (s : State) (c : CtxId) (d : Dest) (t : Tok) (loud : Bool) (req : Option Nat) : (s.sendPacket c d t loud req).away = s.away := rfl
@[simp] theorem State.sendPacket_bound (s : State) (c : CtxId) (d : Dest) (t : Tok) (loud : Bool) (req : Option Nat) : (s.sendPacket c d t loud req).bound = s.bound := rfl
@[simp] theorem State.sendPacket_marks (s : State) (c : CtxId) (d : Dest) (t : Tok) (loud : Bool) (req : Option Nat) : (s.sendPacket c d t loud req).marks = s.marks := rfl
@[simp] theorem State.sendPacket_nextId (s : State) (c : CtxId) (d : Dest) (t : Tok) (loud : Bool) (req : Option Nat) : (s.sendPacket c d t loud req).nextId = s.nextId + 1 := rfl
@[simp] theorem State.sendPacket_freeCount (s : State) (c : CtxId) (d : Dest) (t : Tok) (loud : Bool) (req : Option Nat) : (s.sendPacket c d t loud req).freeCount = s.freeCount := rfl
@[simp] theorem State.sendPacket_ticks (s : State) (c : CtxId) (d : Dest) (t : Tok) (loud : Bool) (req : Option Nat) : (s.sendPacket c d t loud req).ticks = s.ticks := rfl
@[simp] theorem State.sendPacket_mem (s : State) (c : CtxId) (d : Dest) (t : Tok) (loud : Bool) (req : Option Nat) : (s.sendPacket c d t loud req).mem = s.mem := rfl
@[simp] theorem State.sendPacket_names (s : State) (c : CtxId) (d : Dest) (t : Tok) (loud : Bool) (req : Option Nat) : (s.sendPacket c d t loud req).names = s.names := rfl
@[simp] theorem State.sendPacket_ctxs (s : State) (c : CtxId) (d : Dest) (t : Tok) (loud : Bool) (req : Option Nat) : (s.sendPacket c d t loud req).ctxs = s.ctxs := rfl
@[simp] theorem State.sendPacket_loader (s : State) (c : CtxId) (d : Dest) (t : Tok) (loud : Bool) (req : Option Nat) : (s.sendPacket c d t loud req).loader = s.loader := rfl
@[simp] theorem State.sendPacket_packets (s : State) (c : CtxId) (d : Dest) (t : Tok) (loud : Bool) (req : Option Nat) : (s.sendPacket c d t loud req).packets = s.packets ++ [⟨s.nextId, c, d, t, loud, req, none, t.slack, [], 0⟩] := rfl
@[simp] theorem State.sendPacket_reqs (s : State) (c : CtxId) (d : Dest) (t : Tok) (loud : Bool) (req : Option Nat) : (s.sendPacket c d t loud req).reqs = s.reqs := rfl
@[simp] theorem State.sendPacket_adds (s : State) (c : CtxId) (d : Dest) (t : Tok) (loud : Bool) (req : Option Nat) : (s.sendPacket c d t loud req).adds = s.adds := rfl
@[simp] theorem State.sendPacket_waiters (s : State) (c : CtxId) (d : Dest) (t : Tok) (loud : Bool) (req : Option Nat) : (s.sendPacket c d t loud req).waiters = s.waiters := rfl
@[simp] theorem State.sendPacket_releases (s : State) (c : CtxId) (d : Dest) (t : Tok) (loud : Bool) (req : Option Nat) : (s.sendPacket c d t loud req).releases = s.releases := rfl
@[simp] theorem State.sendPacket_durable (s : State) (c : CtxId) (d : Dest) (t : Tok) (loud : Bool) (req : Option Nat) : (s.sendPacket c d t loud req).durable = s.durable := rfl
@[simp] theorem State.sendPacket_engines (s : State) (c : CtxId) (d : Dest) (t : Tok) (loud : Bool) (req : Option Nat) : (s.sendPacket c d t loud req).engines = s.engines := rfl
@[simp] theorem State.sendPacket_tasks (s : State) (c : CtxId) (d : Dest) (t : Tok) (loud : Bool) (req : Option Nat) : (s.sendPacket c d t loud req).tasks = s.tasks := rfl
@[simp] theorem State.sendPacket_faults (s : State) (c : CtxId) (d : Dest) (t : Tok) (loud : Bool) (req : Option Nat) : (s.sendPacket c d t loud req).faults = s.faults := rfl
@[simp] theorem State.sendPacket_hub (s : State) (c : CtxId) (d : Dest) (t : Tok) (loud : Bool) (req : Option Nat) : (s.sendPacket c d t loud req).hub = s.hub := rfl
@[simp] theorem State.sendPacket_mgmt (s : State) (c : CtxId) (d : Dest) (t : Tok) (loud : Bool) (req : Option Nat) : (s.sendPacket c d t loud req).mgmt = s.mgmt := rfl

/-! ### holdFault -/

@[simp] theorem State.holdFault_agenda (s : State) (c : CtxId) (r : Route) (f : FaultRec) : (s.holdFault c r f).agenda = s.agenda := rfl
@[simp] theorem State.holdFault_turn (s : State) (c : CtxId) (r : Route) (f : FaultRec) : (s.holdFault c r f).turn = s.turn := rfl
@[simp] theorem State.holdFault_latch (s : State) (c : CtxId) (r : Route) (f : FaultRec) : (s.holdFault c r f).latch = s.latch := rfl
@[simp] theorem State.holdFault_doer (s : State) (c : CtxId) (r : Route) (f : FaultRec) : (s.holdFault c r f).doer = s.doer := rfl
@[simp] theorem State.holdFault_pause (s : State) (c : CtxId) (r : Route) (f : FaultRec) : (s.holdFault c r f).pause = s.pause := rfl
@[simp] theorem State.holdFault_away (s : State) (c : CtxId) (r : Route) (f : FaultRec) : (s.holdFault c r f).away = s.away := rfl
@[simp] theorem State.holdFault_bound (s : State) (c : CtxId) (r : Route) (f : FaultRec) : (s.holdFault c r f).bound = s.bound := rfl
@[simp] theorem State.holdFault_marks (s : State) (c : CtxId) (r : Route) (f : FaultRec) : (s.holdFault c r f).marks = s.marks := rfl
@[simp] theorem State.holdFault_nextId (s : State) (c : CtxId) (r : Route) (f : FaultRec) : (s.holdFault c r f).nextId = s.nextId := rfl
@[simp] theorem State.holdFault_freeCount (s : State) (c : CtxId) (r : Route) (f : FaultRec) : (s.holdFault c r f).freeCount = s.freeCount := rfl
@[simp] theorem State.holdFault_ticks (s : State) (c : CtxId) (r : Route) (f : FaultRec) : (s.holdFault c r f).ticks = s.ticks := rfl
@[simp] theorem State.holdFault_mem (s : State) (c : CtxId) (r : Route) (f : FaultRec) : (s.holdFault c r f).mem = s.mem := rfl
@[simp] theorem State.holdFault_names (s : State) (c : CtxId) (r : Route) (f : FaultRec) : (s.holdFault c r f).names = s.names := rfl
@[simp] theorem State.holdFault_loader (s : State) (c : CtxId) (r : Route) (f : FaultRec) : (s.holdFault c r f).loader = s.loader := rfl
@[simp] theorem State.holdFault_packets (s : State) (c : CtxId) (r : Route) (f : FaultRec) : (s.holdFault c r f).packets = s.packets := rfl
@[simp] theorem State.holdFault_reqs (s : State) (c : CtxId) (r : Route) (f : FaultRec) : (s.holdFault c r f).reqs = s.reqs := rfl
@[simp] theorem State.holdFault_adds (s : State) (c : CtxId) (r : Route) (f : FaultRec) : (s.holdFault c r f).adds = s.adds := rfl
@[simp] theorem State.holdFault_waiters (s : State) (c : CtxId) (r : Route) (f : FaultRec) : (s.holdFault c r f).waiters = s.waiters := rfl
@[simp] theorem State.holdFault_releases (s : State) (c : CtxId) (r : Route) (f : FaultRec) : (s.holdFault c r f).releases = s.releases := rfl
@[simp] theorem State.holdFault_durable (s : State) (c : CtxId) (r : Route) (f : FaultRec) : (s.holdFault c r f).durable = s.durable := rfl
@[simp] theorem State.holdFault_engines (s : State) (c : CtxId) (r : Route) (f : FaultRec) : (s.holdFault c r f).engines = s.engines := rfl
@[simp] theorem State.holdFault_tasks (s : State) (c : CtxId) (r : Route) (f : FaultRec) : (s.holdFault c r f).tasks = s.tasks := rfl
@[simp] theorem State.holdFault_faults (s : State) (c : CtxId) (r : Route) (f : FaultRec) : (s.holdFault c r f).faults = s.faults := rfl
@[simp] theorem State.holdFault_hub (s : State) (c : CtxId) (r : Route) (f : FaultRec) : (s.holdFault c r f).hub = s.hub := rfl
@[simp] theorem State.holdFault_mgmt (s : State) (c : CtxId) (r : Route) (f : FaultRec) : (s.holdFault c r f).mgmt = s.mgmt := rfl

/-! ### addCtx -/

@[simp] theorem State.addCtx_agenda (s : State) (x : Ctx) : (s.addCtx x).agenda = s.agenda := rfl
@[simp] theorem State.addCtx_turn (s : State) (x : Ctx) : (s.addCtx x).turn = s.turn := rfl
@[simp] theorem State.addCtx_latch (s : State) (x : Ctx) : (s.addCtx x).latch = s.latch := rfl
@[simp] theorem State.addCtx_doer (s : State) (x : Ctx) : (s.addCtx x).doer = s.doer := rfl
@[simp] theorem State.addCtx_pause (s : State) (x : Ctx) : (s.addCtx x).pause = s.pause := rfl
@[simp] theorem State.addCtx_away (s : State) (x : Ctx) : (s.addCtx x).away = s.away := rfl
@[simp] theorem State.addCtx_bound (s : State) (x : Ctx) : (s.addCtx x).bound = s.bound := rfl
@[simp] theorem State.addCtx_marks (s : State) (x : Ctx) : (s.addCtx x).marks = s.marks := rfl
@[simp] theorem State.addCtx_nextId (s : State) (x : Ctx) : (s.addCtx x).nextId = s.nextId := rfl
@[simp] theorem State.addCtx_freeCount (s : State) (x : Ctx) : (s.addCtx x).freeCount = s.freeCount := rfl
@[simp] theorem State.addCtx_ticks (s : State) (x : Ctx) : (s.addCtx x).ticks = s.ticks := rfl
@[simp] theorem State.addCtx_mem (s : State) (x : Ctx) : (s.addCtx x).mem = s.mem := rfl
@[simp] theorem State.addCtx_names (s : State) (x : Ctx) : (s.addCtx x).names = s.names := rfl
@[simp] theorem State.addCtx_ctxs (s : State) (x : Ctx) : (s.addCtx x).ctxs = s.ctxs ++ [x] := rfl
@[simp] theorem State.addCtx_loader (s : State) (x : Ctx) : (s.addCtx x).loader = s.loader := rfl
@[simp] theorem State.addCtx_packets (s : State) (x : Ctx) : (s.addCtx x).packets = s.packets := rfl
@[simp] theorem State.addCtx_reqs (s : State) (x : Ctx) : (s.addCtx x).reqs = s.reqs := rfl
@[simp] theorem State.addCtx_adds (s : State) (x : Ctx) : (s.addCtx x).adds = s.adds := rfl
@[simp] theorem State.addCtx_waiters (s : State) (x : Ctx) : (s.addCtx x).waiters = s.waiters := rfl
@[simp] theorem State.addCtx_releases (s : State) (x : Ctx) : (s.addCtx x).releases = s.releases := rfl
@[simp] theorem State.addCtx_durable (s : State) (x : Ctx) : (s.addCtx x).durable = s.durable := rfl
@[simp] theorem State.addCtx_engines (s : State) (x : Ctx) : (s.addCtx x).engines = s.engines := rfl
@[simp] theorem State.addCtx_tasks (s : State) (x : Ctx) : (s.addCtx x).tasks = s.tasks := rfl
@[simp] theorem State.addCtx_faults (s : State) (x : Ctx) : (s.addCtx x).faults = s.faults := rfl
@[simp] theorem State.addCtx_hub (s : State) (x : Ctx) : (s.addCtx x).hub = s.hub := rfl
@[simp] theorem State.addCtx_mgmt (s : State) (x : Ctx) : (s.addCtx x).mgmt = s.mgmt := rfl

/-! ### chargeJob -/

@[simp] theorem State.chargeJob_agenda (s : State) (j : Nat) (k : BitVec 8) : (s.chargeJob j k).agenda = s.agenda := rfl
@[simp] theorem State.chargeJob_turn (s : State) (j : Nat) (k : BitVec 8) : (s.chargeJob j k).turn = s.turn := rfl
@[simp] theorem State.chargeJob_latch (s : State) (j : Nat) (k : BitVec 8) : (s.chargeJob j k).latch = s.latch := rfl
@[simp] theorem State.chargeJob_doer (s : State) (j : Nat) (k : BitVec 8) : (s.chargeJob j k).doer = s.doer := rfl
@[simp] theorem State.chargeJob_pause (s : State) (j : Nat) (k : BitVec 8) : (s.chargeJob j k).pause = s.pause := rfl
@[simp] theorem State.chargeJob_away (s : State) (j : Nat) (k : BitVec 8) : (s.chargeJob j k).away = s.away := rfl
@[simp] theorem State.chargeJob_bound (s : State) (j : Nat) (k : BitVec 8) : (s.chargeJob j k).bound = s.bound := rfl
@[simp] theorem State.chargeJob_marks (s : State) (j : Nat) (k : BitVec 8) : (s.chargeJob j k).marks = s.marks := rfl
@[simp] theorem State.chargeJob_nextId (s : State) (j : Nat) (k : BitVec 8) : (s.chargeJob j k).nextId = s.nextId := rfl
@[simp] theorem State.chargeJob_freeCount (s : State) (j : Nat) (k : BitVec 8) : (s.chargeJob j k).freeCount = s.freeCount := rfl
@[simp] theorem State.chargeJob_ticks (s : State) (j : Nat) (k : BitVec 8) : (s.chargeJob j k).ticks = s.ticks := rfl
@[simp] theorem State.chargeJob_mem (s : State) (j : Nat) (k : BitVec 8) : (s.chargeJob j k).mem = s.mem := rfl
@[simp] theorem State.chargeJob_names (s : State) (j : Nat) (k : BitVec 8) : (s.chargeJob j k).names = s.names := rfl
@[simp] theorem State.chargeJob_ctxs (s : State) (j : Nat) (k : BitVec 8) : (s.chargeJob j k).ctxs = s.ctxs := rfl
@[simp] theorem State.chargeJob_packets (s : State) (j : Nat) (k : BitVec 8) : (s.chargeJob j k).packets = s.packets := rfl
@[simp] theorem State.chargeJob_reqs (s : State) (j : Nat) (k : BitVec 8) : (s.chargeJob j k).reqs = s.reqs := rfl
@[simp] theorem State.chargeJob_adds (s : State) (j : Nat) (k : BitVec 8) : (s.chargeJob j k).adds = s.adds := rfl
@[simp] theorem State.chargeJob_waiters (s : State) (j : Nat) (k : BitVec 8) : (s.chargeJob j k).waiters = s.waiters := rfl
@[simp] theorem State.chargeJob_releases (s : State) (j : Nat) (k : BitVec 8) : (s.chargeJob j k).releases = s.releases := rfl
@[simp] theorem State.chargeJob_durable (s : State) (j : Nat) (k : BitVec 8) : (s.chargeJob j k).durable = s.durable := rfl
@[simp] theorem State.chargeJob_engines (s : State) (j : Nat) (k : BitVec 8) : (s.chargeJob j k).engines = s.engines := rfl
@[simp] theorem State.chargeJob_tasks (s : State) (j : Nat) (k : BitVec 8) : (s.chargeJob j k).tasks = s.tasks := rfl
@[simp] theorem State.chargeJob_faults (s : State) (j : Nat) (k : BitVec 8) : (s.chargeJob j k).faults = s.faults := rfl
@[simp] theorem State.chargeJob_hub (s : State) (j : Nat) (k : BitVec 8) : (s.chargeJob j k).hub = s.hub := rfl
@[simp] theorem State.chargeJob_mgmt (s : State) (j : Nat) (k : BitVec 8) : (s.chargeJob j k).mgmt = s.mgmt := rfl

/-! ### jobFlags -/

@[simp] theorem State.jobFlags_agenda (s : State) (j : Nat) (f : Word) : (s.jobFlags j f).agenda = s.agenda := rfl
@[simp] theorem State.jobFlags_turn (s : State) (j : Nat) (f : Word) : (s.jobFlags j f).turn = s.turn := rfl
@[simp] theorem State.jobFlags_latch (s : State) (j : Nat) (f : Word) : (s.jobFlags j f).latch = s.latch := rfl
@[simp] theorem State.jobFlags_doer (s : State) (j : Nat) (f : Word) : (s.jobFlags j f).doer = s.doer := rfl
@[simp] theorem State.jobFlags_pause (s : State) (j : Nat) (f : Word) : (s.jobFlags j f).pause = s.pause := rfl
@[simp] theorem State.jobFlags_away (s : State) (j : Nat) (f : Word) : (s.jobFlags j f).away = s.away := rfl
@[simp] theorem State.jobFlags_bound (s : State) (j : Nat) (f : Word) : (s.jobFlags j f).bound = s.bound := rfl
@[simp] theorem State.jobFlags_marks (s : State) (j : Nat) (f : Word) : (s.jobFlags j f).marks = s.marks := rfl
@[simp] theorem State.jobFlags_nextId (s : State) (j : Nat) (f : Word) : (s.jobFlags j f).nextId = s.nextId := rfl
@[simp] theorem State.jobFlags_freeCount (s : State) (j : Nat) (f : Word) : (s.jobFlags j f).freeCount = s.freeCount := rfl
@[simp] theorem State.jobFlags_ticks (s : State) (j : Nat) (f : Word) : (s.jobFlags j f).ticks = s.ticks := rfl
@[simp] theorem State.jobFlags_mem (s : State) (j : Nat) (f : Word) : (s.jobFlags j f).mem = s.mem := rfl
@[simp] theorem State.jobFlags_names (s : State) (j : Nat) (f : Word) : (s.jobFlags j f).names = s.names := rfl
@[simp] theorem State.jobFlags_ctxs (s : State) (j : Nat) (f : Word) : (s.jobFlags j f).ctxs = s.ctxs := rfl
@[simp] theorem State.jobFlags_packets (s : State) (j : Nat) (f : Word) : (s.jobFlags j f).packets = s.packets := rfl
@[simp] theorem State.jobFlags_reqs (s : State) (j : Nat) (f : Word) : (s.jobFlags j f).reqs = s.reqs := rfl
@[simp] theorem State.jobFlags_adds (s : State) (j : Nat) (f : Word) : (s.jobFlags j f).adds = s.adds := rfl
@[simp] theorem State.jobFlags_waiters (s : State) (j : Nat) (f : Word) : (s.jobFlags j f).waiters = s.waiters := rfl
@[simp] theorem State.jobFlags_releases (s : State) (j : Nat) (f : Word) : (s.jobFlags j f).releases = s.releases := rfl
@[simp] theorem State.jobFlags_durable (s : State) (j : Nat) (f : Word) : (s.jobFlags j f).durable = s.durable := rfl
@[simp] theorem State.jobFlags_engines (s : State) (j : Nat) (f : Word) : (s.jobFlags j f).engines = s.engines := rfl
@[simp] theorem State.jobFlags_tasks (s : State) (j : Nat) (f : Word) : (s.jobFlags j f).tasks = s.tasks := rfl
@[simp] theorem State.jobFlags_faults (s : State) (j : Nat) (f : Word) : (s.jobFlags j f).faults = s.faults := rfl
@[simp] theorem State.jobFlags_hub (s : State) (j : Nat) (f : Word) : (s.jobFlags j f).hub = s.hub := rfl
@[simp] theorem State.jobFlags_mgmt (s : State) (j : Nat) (f : Word) : (s.jobFlags j f).mgmt = s.mgmt := rfl

end Sys2Proof.Machine
end

