-- ==== Sys2Proof/Laws/Firing.lean ====
section
/-! SUPPORT. The shared operation of firing a record: what it answers in each of its cases (R55, R122, R129, R345, R380). -/

namespace Sys2Proof.Machine
open Sys2Proof
variable {s : State} {i : Instr} {n e : State → State}

/-! ### Changing the members of a list -/

theorem find?_updWhere {α : Type} {p q : α → Bool} {f : α → α} (hq : ∀ x, q (f x) = q x) (l : List α) :
    (updWhere p f l).find? q = (l.find? q).map fun x => if p x then f x else x := by
  induction l with
  | nil => rfl
  | cons a l ih =>
    simp only [updWhere, List.map_cons, List.find?_cons] at *
    by_cases h : p a <;> by_cases k : q a <;> simp_all

/-- A firing changes no instance's place, exit or prediction. -/
theorem settled_updWhere {c : Ctx} {r q : Route} {f : Inst → Inst}
    (hf : ∀ j, (f j).route = j.route ∧ (f j).exit = j.exit ∧ (f j).pred = j.pred) :
    ({ c with insts := updWhere (fun j => j.route == r) f c.insts } : Ctx).settled q = c.settled q := by
  simp only [Ctx.settled]
  induction c.insts with
  | nil => rfl
  | cons a l ih =>
    obtain ⟨h1, h2, h3⟩ := hf a
    simp only [updWhere, List.map_cons, List.takeWhile_cons] at *
    by_cases h : a.route == r <;> by_cases k : a.route != q <;> simp_all

theorem nonSpec_updInst {c d : CtxId} {r q : Route} {f : Inst → Inst}
    (hf : ∀ j, (f j).route = j.route ∧ (f j).exit = j.exit ∧ (f j).pred = j.pred) :
    (s.updInst c r f).nonSpec d q = s.nonSpec d q := by
  unfold State.nonSpec State.ctx?
  rw [State.updInst_ctxs, find?_updWhere (by intro x; rfl)]
  cases h : s.ctxs.find? fun x => x.id == d with
  | none => rfl
  | some x =>
    by_cases k : x.id == c
    · simp only [Option.map_some, k, if_true]
      exact settled_updWhere hf
    · simp only [Option.map_some, k]; rfl

theorem nonSpec_mark {b : Bool} {d : CtxId} {q : Route} : (s.mark b).nonSpec d q = s.nonSpec d q :=
  nonSpec_updInst fun _ => ⟨rfl, rfl, rfl⟩

/-- Counting what a record claims changes nothing, or what its instance holds for commit (R129). -/
theorem State.markLsid_cases : s.markLsid i = s ∨ ∃ f, s.markLsid i = s.updOut s.latch.ctx s.latch.route f := by
  unfold State.markLsid
  exact (Decidable.em _).elim (fun h => .inl (if_pos h)) fun h => .inr ⟨_, if_neg h⟩

theorem nonSpec_markLsid {d : CtxId} {q : Route} : (s.markLsid i).nonSpec d q = s.nonSpec d q := by
  rcases State.markLsid_cases (s := s) (i := i) with h | ⟨f, h⟩
  · rw [h]
  · rw [h]; exact nonSpec_updInst fun _ => ⟨rfl, rfl, rfl⟩

theorem nonSpec_begun {d : CtxId} {q : Route} : (s.begun i).nonSpec d q = s.nonSpec d q :=
  nonSpec_markLsid.trans nonSpec_mark

@[simp] theorem State.mark_latch (b : Bool) : (s.mark b).latch = s.latch := rfl
@[simp] theorem State.markLsid_latch : (s.markLsid i).latch = s.latch := by
  rcases State.markLsid_cases (s := s) (i := i) with h | ⟨f, h⟩ <;> rw [h] <;> rfl
@[simp] theorem State.begun_latch : (s.begun i).latch = s.latch := by simp [State.begun]
@[simp] theorem State.holdFlags_latch (f : Word) : (s.holdFlags f).latch = s.latch := rfl

/-! ### The cases of a firing -/

theorem fireWith_real (h : FiresReal i s) : s.fireWith i n e = s.after (e (s.begun i)) := by
  obtain ⟨-, h2, h3, h4, h5, h6, h7⟩ := h
  have h8 := @nonSpec_begun s i s.latch.ctx s.latch.route
  unfold State.begun at h8
  unfold State.fireWith State.fireCore State.after State.begun
  grind

theorem fireWith_null (h : FiresNull i s) : s.fireWith i n e = s.after (n (s.mark false)) := by
  obtain ⟨-, h2, h3, h4⟩ := h
  unfold State.fireWith State.fireCore State.after
  grind

theorem fireWith_released (h : s.latch.released = true) : s.fireWith i n e = s.after (e s.sent) := by
  unfold State.fireWith State.fireCore State.after
  grind

theorem fireWith_priv (hr : s.latch.released = false) (hi : i.privileged = true) (hs : s.super = false)
    (hn : s.latch.firesNull (hdrOf i).pr = false) :
    s.fireWith i n e = s.after ((s.mark true).faultHere codePriv 0 0) := by
  unfold State.fireWith State.fireCore State.after
  grind

theorem fireWith_parity (hr : s.latch.released = false)
    (ha : i.privileged = true → s.super = true ∨ s.latch.firesNull (hdrOf i).pr = true) (hp : s.latch.poisoned = true) :
    s.fireWith i n e = s.after ((s.mark true).faultHere codeParity 0 0) := by
  unfold State.fireWith State.fireCore State.after
  grind

theorem fireWith_lsid (hr : s.latch.released = false) (ha : i.privileged = true → s.super = true)
    (hp : s.latch.poisoned = false) (hn : s.latch.firesNull (hdrOf i).pr = false) (hl : s.outTaken i = true) :
    s.fireWith i n e = s.after ((s.mark true).incompleteHere 2) := by
  unfold State.fireWith State.fireCore State.after
  grind

theorem fireWith_held (hr : s.latch.released = false) (ha : i.privileged = true → s.super = true)
    (hp : s.latch.poisoned = false) (hn : s.latch.firesNull (hdrOf i).pr = false) (hl : s.outTaken i = false)
    (hh : i.held = true) (hs : s.nonSpec s.latch.ctx s.latch.route = false) :
    s.fireWith i n e = s.after ((s.begun i).hold i) := by
  have h8 := @nonSpec_begun s i s.latch.ctx s.latch.route
  unfold State.begun at h8
  unfold State.fireWith State.fireCore State.after State.begun
  grind

end Sys2Proof.Machine
end

