-- ==== Sys2Proof/Laws/Integer.lean ====
section
/-! SUPPORT. Integer arithmetic: the exact-integer definitions of the model in the terms of bit vectors (R156, R280-R287). -/

namespace Sys2Proof.Machine
open Sys2Proof

/-! ### Operands -/

theorem IntTy.width_pos {t : IntTy} : 0 < t.width := by cases t <;> decide
theorem IntTy.width_le {t : IntTy} : t.width ≤ 64 := by cases t <;> decide
theorem Width.bits_pos {w : Width} : 0 < w.bits := by cases w <;> decide
theorem Width.bits_le {w : Width} : w.bits ≤ 64 := by cases w <;> decide

theorem rhs_int {a : Latch} {t : IntTy} {b : Rhs} :
    (a.rhs (.int t) b).val = match b with | .port => a.opR.word | .imm v => v.signExtend 64 := by
  cases b <;> rfl

theorem setWidth_signExtend_lit {v : Lit} {w : Nat} (hw : w ≤ 64) : (v.signExtend 64).setWidth w = v.signExtend w := by
  apply BitVec.eq_of_getLsbD_eq
  intro i hi
  simp only [BitVec.getLsbD_setWidth, BitVec.getLsbD_signExtend]
  have : i < 64 := by omega
  simp [this, hi]

theorem right_eq {s : State} {t : IntTy} {b : Rhs} {w : Nat} (hw : w ≤ 64) :
    ((s.latch.rhs (.int t) b).val).setWidth w = s.right w b := by
  rw [rhs_int]
  unfold State.right
  cases b with
  | port => rfl
  | imm v => exact setWidth_signExtend_lit hw

/-! ### Reading and narrowing -/

theorem readInt_eq {w : Nat} {x : Word} {sg : Bool} : readInt w sg x = valueOf sg (x.setWidth w) := by
  unfold readInt valueOf
  rw [BitVec.toInt_eq_msb_cond, BitVec.msb_eq_decide]
  simp only [BitVec.toNat_setWidth]
  cases sg <;> simp

theorem extInt_eq {w : Nat} {v : Int} {sg : Bool} : extInt w sg v = extended sg (BitVec.ofInt w v) := by
  unfold extInt extended
  have e : (v % (2 ^ w : Int)).toNat = (BitVec.ofInt w v).toNat := by simp [BitVec.toNat_ofInt]
  simp only [e]
  cases sg
  · simp only [Bool.false_and, Bool.false_eq_true, if_false]
    rw [BitVec.ofInt_natCast, BitVec.ofNat_toNat]
  · rw [BitVec.signExtend, BitVec.toInt_eq_msb_cond, BitVec.msb_eq_decide]
    simp

theorem read_eq {t : IntTy} {x : Word} : t.read x = valueOf t.signed (x.setWidth t.width) := readInt_eq
theorem ext_eq {t : IntTy} {v : Int} : t.ext v = extended t.signed (BitVec.ofInt t.width v) := extInt_eq

theorem ofInt_nat {w : Nat} {x : BitVec w} : BitVec.ofInt w (x.toNat : Int) = x := by simp

theorem ofInt_value {w : Nat} {sg : Bool} {x : BitVec w} : BitVec.ofInt w (valueOf sg x) = x := by
  unfold valueOf
  split <;> simp only [BitVec.ofInt_toInt, ofInt_nat]

theorem value_zero {sg : Bool} {w : Nat} {x : BitVec w} : valueOf sg x = 0 ↔ x = 0 := by
  constructor
  · intro h
    rw [← @ofInt_value w sg x, h]
    simp
  · rintro rfl
    unfold valueOf
    split <;> simp

theorem extended_zero {sg : Bool} {w : Nat} : extended sg (0 : BitVec w) = 0 := by
  unfold extended
  cases sg <;> simp [BitVec.signExtend]

theorem ofInt_sub {w : Nat} {x y : Int} : BitVec.ofInt w (x - y) = BitVec.ofInt w x - BitVec.ofInt w y := by
  rw [Int.sub_eq_add_neg, BitVec.ofInt_add, BitVec.ofInt_neg, BitVec.sub_eq_add_neg]

/-! ### The records of R280 and R281 -/

variable {t : IntTy} {a b : Word}

theorem intArith_add : intArith (fun x y => x + y) t a b = ⟨extended t.signed (a.setWidth t.width + b.setWidth t.width), 0⟩ := by
  simp only [intArith, Res.plain, ext_eq, read_eq, BitVec.ofInt_add, ofInt_value]

theorem intArith_sub : intArith (fun x y => x - y) t a b = ⟨extended t.signed (a.setWidth t.width - b.setWidth t.width), 0⟩ := by
  simp only [intArith, Res.plain, ext_eq, read_eq, ofInt_sub, ofInt_value]

theorem intArith_mul : intArith (fun x y => x * y) t a b = ⟨extended t.signed (a.setWidth t.width * b.setWidth t.width), 0⟩ := by
  simp only [intArith, Res.plain, ext_eq, read_eq, BitVec.ofInt_mul, ofInt_value]

theorem intMulh_eq : intMulh t a b = ⟨extended t.signed (BitVec.ofInt t.width
    (valueOf t.signed (a.setWidth t.width) * valueOf t.signed (b.setWidth t.width) / 2 ^ t.width)), 0⟩ := by
  simp only [intMulh, Res.plain, ext_eq, read_eq]

theorem intMulw_eq : intMulw t a b = ⟨extended t.signed (BitVec.ofInt (2 * t.width)
    (valueOf t.signed (a.setWidth t.width) * valueOf t.signed (b.setWidth t.width))), 0⟩ := by
  simp only [intMulw, Res.plain, read_eq, extInt_eq]

theorem ofInt_tdiv {w : Nat} {sg : Bool} {x y : BitVec w} :
    BitVec.ofInt w ((valueOf sg x).tdiv (valueOf sg y)) = if sg then x.sdiv y else x / y := by
  cases sg
  · simp only [valueOf, Bool.false_eq_true, if_false, ← Int.ofNat_tdiv, BitVec.ofInt_natCast]
    apply BitVec.eq_of_toNat_eq
    rw [BitVec.toNat_ofNat, BitVec.toNat_udiv]
    exact Nat.mod_eq_of_lt (Nat.lt_of_le_of_lt (Nat.div_le_self _ _) x.isLt)
  · simp only [valueOf, if_true]
    apply BitVec.eq_of_toInt_eq
    rw [BitVec.toInt_sdiv, BitVec.toInt_ofInt]

theorem ofInt_tmod {w : Nat} {sg : Bool} {x y : BitVec w} :
    BitVec.ofInt w ((valueOf sg x).tmod (valueOf sg y)) = if sg then x.srem y else x % y := by
  cases sg
  · simp only [valueOf, Bool.false_eq_true, if_false, ← Int.ofNat_tmod, BitVec.ofInt_natCast]
    apply BitVec.eq_of_toNat_eq
    rw [BitVec.toNat_ofNat, BitVec.toNat_umod]
    exact Nat.mod_eq_of_lt (Nat.lt_of_le_of_lt (Nat.mod_le _ _) x.isLt)
  · simp only [valueOf, if_true]
    rw [← BitVec.toInt_srem, BitVec.ofInt_toInt]

theorem intDiv_eq : intDiv t a b =
    ⟨extended t.signed (if b.setWidth t.width = 0 then 0 else
        if t.signed then (a.setWidth t.width).sdiv (b.setWidth t.width) else a.setWidth t.width / b.setWidth t.width),
      if b.setWidth t.width = 0 then flagDZ else 0⟩ := by
  simp only [intDiv, Res.plain, ext_eq, read_eq, value_zero, ofInt_tdiv]
  split
  · simp only [extended_zero]
  · rfl

theorem intRem_eq : intRem t a b =
    ⟨extended t.signed (if b.setWidth t.width = 0 then a.setWidth t.width else
        if t.signed then (a.setWidth t.width).srem (b.setWidth t.width) else a.setWidth t.width % b.setWidth t.width),
      if b.setWidth t.width = 0 then flagDZ else 0⟩ := by
  simp only [intRem, Res.plain, ext_eq, read_eq, value_zero, ofInt_tmod]
  split
  · rw [ofInt_value]
  · rfl

theorem intMin_eq : intMin t a b = ⟨extended t.signed
    (if valueOf t.signed (a.setWidth t.width) ≤ valueOf t.signed (b.setWidth t.width) then a.setWidth t.width
      else b.setWidth t.width), 0⟩ := by
  simp only [intMin, Res.plain, ext_eq, read_eq]
  split <;> rw [ofInt_value]

theorem intMax_eq : intMax t a b = ⟨extended t.signed
    (if valueOf t.signed (b.setWidth t.width) ≤ valueOf t.signed (a.setWidth t.width) then a.setWidth t.width
      else b.setWidth t.width), 0⟩ := by
  simp only [intMax, Res.plain, ext_eq, read_eq, ge_iff_le]
  split <;> rw [ofInt_value]

theorem intClamp_eq {v : Int} : intClamp t v = ⟨extended t.signed (BitVec.ofInt t.width (max t.lo (min t.hi v))),
    if t.lo ≤ v ∧ v ≤ t.hi then 0 else flagSAT⟩ := by
  have h : t.lo ≤ t.hi := by cases t <;> decide
  unfold intClamp Res.plain
  simp only [ext_eq]
  split
  · rw [if_neg (by omega), max_eq_left (by omega)]
  · split
    · rw [if_neg (by omega), min_eq_left (by omega), max_eq_right h]
    · rw [if_pos (by omega), min_eq_right (by omega), max_eq_right (by omega)]

/-! ### Shifts, counts and fields (R284-R286) -/

theorem shift_count {w : Nat} (h : w ∣ 2 ^ w) : b.toNat % w = (b.setWidth w).toNat % w := by
  rw [BitVec.toNat_setWidth, Nat.mod_mod_of_dvd _ h]

theorem width_dvd : t.width ∣ 2 ^ t.width := by cases t <;> decide

theorem intShl_eq : intShl t a b = ⟨extended t.signed (a.setWidth t.width <<< ((b.setWidth t.width).toNat % t.width)), 0⟩ := by
  simp only [intShl, Res.plain, ext_eq, ← shift_count width_dvd, BitVec.ofInt_natCast]
  congr 2
  apply BitVec.eq_of_toNat_eq
  simp [BitVec.toNat_shiftLeft, Nat.shiftLeft_eq]

theorem intShr_eq : intShr t a b = ⟨extended t.signed (a.setWidth t.width >>> ((b.setWidth t.width).toNat % t.width)), 0⟩ := by
  simp only [intShr, Res.plain, ext_eq, ← shift_count width_dvd, BitVec.ofInt_natCast]
  congr 2
  apply BitVec.eq_of_toNat_eq
  rw [BitVec.toNat_ofNat, BitVec.toNat_ushiftRight, Nat.shiftRight_eq_div_pow, BitVec.toNat_setWidth]
  exact Nat.mod_eq_of_lt (Nat.lt_of_le_of_lt (Nat.div_le_self _ _) (Nat.mod_lt _ (Nat.two_pow_pos _)))

theorem intSar_eq : intSar t a b = ⟨extended t.signed ((a.setWidth t.width).sshiftRight ((b.setWidth t.width).toNat % t.width)), 0⟩ := by
  simp only [intSar, Res.plain, ext_eq, ← shift_count width_dvd, readInt_eq, valueOf, if_true]
  congr 2
  rw [BitVec.sshiftRight, Int.shiftRight_eq_div_pow]
  norm_cast

theorem intRol_eq : intRol t a b = ⟨extended t.signed ((a.setWidth t.width).rotateLeft ((b.setWidth t.width).toNat % t.width)), 0⟩ := by
  simp only [intRol, Res.plain, ext_eq, ← shift_count width_dvd, BitVec.ofInt_natCast]
  congr 2
  have hn : b.toNat % t.width < t.width := Nat.mod_lt _ IntTy.width_pos
  generalize b.toNat % t.width = n at *
  rw [← BitVec.toNat_setWidth, BitVec.rotateLeft_def, Nat.mod_eq_of_lt hn]
  generalize BitVec.setWidth t.width a = x
  generalize t.width = w at *
  apply BitVec.eq_of_getLsbD_eq
  intro i hi
  rw [BitVec.getLsbD_or, BitVec.getLsbD_shiftLeft, BitVec.getLsbD_ushiftRight, BitVec.getLsbD_ofNat]
  have e : x.toNat * 2 ^ n % 2 ^ w + x.toNat / 2 ^ (w - n) = x.toNat * 2 ^ n % 2 ^ w ||| x.toNat / 2 ^ (w - n) := by
    have hx : x.toNat / 2 ^ (w - n) < 2 ^ n := by
      rw [Nat.div_lt_iff_lt_mul (Nat.two_pow_pos _), ← pow_add, show n + (w - n) = w by omega]
      exact x.isLt
    have hm : x.toNat * 2 ^ n % 2 ^ w = (x.toNat % 2 ^ (w - n)) * 2 ^ n := by
      rw [← Nat.mul_mod_mul_right, ← pow_add, show w - n + n = w by omega]
    rw [hm, Nat.mul_comm, Nat.two_pow_add_eq_or_of_lt hx]
  rw [e, Nat.testBit_or, Nat.testBit_mod_two_pow, Nat.testBit_mul_two_pow, Nat.testBit_div_two_pow]
  simp only [BitVec.getLsbD, hi, decide_true, Bool.true_and]
  grind
theorem intRor_eq : intRor t a b = ⟨extended t.signed ((a.setWidth t.width).rotateRight ((b.setWidth t.width).toNat % t.width)), 0⟩ := by
  simp only [intRor, Res.plain, ext_eq, ← shift_count width_dvd, BitVec.ofInt_natCast]
  congr 2
  have hn : b.toNat % t.width < t.width := Nat.mod_lt _ IntTy.width_pos
  generalize b.toNat % t.width = n at *
  rw [← BitVec.toNat_setWidth, BitVec.rotateRight_def, Nat.mod_eq_of_lt hn]
  generalize BitVec.setWidth t.width a = x
  generalize t.width = w at *
  apply BitVec.eq_of_getLsbD_eq
  intro i hi
  rw [BitVec.getLsbD_or, BitVec.getLsbD_shiftLeft, BitVec.getLsbD_ushiftRight, BitVec.getLsbD_ofNat]
  have e : x.toNat / 2 ^ n + x.toNat * 2 ^ (w - n) % 2 ^ w = x.toNat * 2 ^ (w - n) % 2 ^ w ||| x.toNat / 2 ^ n := by
    have hx : x.toNat / 2 ^ n < 2 ^ (w - n) := by
      rw [Nat.div_lt_iff_lt_mul (Nat.two_pow_pos _), ← pow_add, show w - n + n = w by omega]
      exact x.isLt
    have hm : x.toNat * 2 ^ (w - n) % 2 ^ w = (x.toNat % 2 ^ n) * 2 ^ (w - n) := by
      rw [← Nat.mul_mod_mul_right, ← pow_add, show n + (w - n) = w by omega]
    rw [hm, Nat.mul_comm, ← Nat.two_pow_add_eq_or_of_lt hx, Nat.add_comm]
  rw [e, Nat.testBit_or, Nat.testBit_mod_two_pow, Nat.testBit_mul_two_pow, Nat.testBit_div_two_pow]
  simp only [BitVec.getLsbD, hi, decide_true, Bool.true_and]
  grind

theorem clzAt_le {w x : Nat} : clzAt w x ≤ w := by
  induction w with
  | zero => simp [clzAt]
  | succ w ih => simp only [clzAt]; split <;> omega

theorem clzAt_high {w x j : Nat} (h : w - clzAt w x ≤ j) (k : j < w) : x.testBit j = false := by
  induction w with
  | zero => omega
  | succ w ih =>
    simp only [clzAt] at h
    split at h
    · omega
    · rename_i hb
      by_cases e : j = w
      · subst e; simpa using hb
      · exact ih (by omega) (by omega)

theorem clzAt_bit {w x : Nat} (h : clzAt w x < w) : x.testBit (w - 1 - clzAt w x) = true := by
  induction w with
  | zero => omega
  | succ w ih =>
    simp only [clzAt] at h ⊢
    split
    · simpa using ‹_›
    · rw [if_neg ‹_›] at h
      have := ih (by omega)
      rwa [show w + 1 - 1 - (1 + clzAt w x) = w - 1 - clzAt w x by omega]

theorem ctzAt_le {w x : Nat} : ctzAt w x ≤ w := by
  induction w generalizing x with
  | zero => simp [ctzAt]
  | succ w ih => simp only [ctzAt]; split <;> grind

theorem ctzAt_low {w x j : Nat} (h : j < ctzAt w x) : x.testBit j = false := by
  induction w generalizing x j with
  | zero => simp [ctzAt] at h
  | succ w ih =>
    simp only [ctzAt] at h
    split at h
    · omega
    · cases j with
      | zero => simp [Nat.testBit_zero]; omega
      | succ j => rw [Nat.testBit_succ]; exact ih (by omega)

theorem ctzAt_bit {w x : Nat} (h : ctzAt w x < w) : x.testBit (ctzAt w x) = true := by
  induction w generalizing x with
  | zero => omega
  | succ w ih =>
    simp only [ctzAt] at h ⊢
    split
    · simp [Nat.testBit_zero, *]
    · rw [if_neg ‹_›] at h
      rw [Nat.add_comm, Nat.testBit_succ]
      exact ih (by omega)

theorem popAt_eq {w x : Nat} : popAt w x = ((List.range w).filter fun i => x.testBit i).length := by
  induction w generalizing x with
  | zero => rfl
  | succ w ih =>
    rw [popAt, ih, List.range_succ_eq_map, List.filter_cons, List.filter_map]
    simp only [Function.comp_def, Nat.testBit_succ, Nat.testBit_zero]
    have := Nat.mod_two_eq_zero_or_one x
    split <;> simp_all <;> omega

theorem bitField_eq {pos len : Nat} {sx : Bool} {x : Word} : bitField pos len sx x = extended sx (x.extractLsb' pos len) := by
  rw [bitField, extInt_eq, BitVec.ofInt_natCast, BitVec.extractLsb', Nat.shiftRight_eq_div_pow]

theorem bitInsert_bit {pos len i : Nat} {x y : Word} (hi : i < 64) :
    (bitInsert pos len x y).getLsbD i = if pos ≤ i ∧ i < pos + len then y.getLsbD (i - pos) else x.getLsbD i := by
  have e : ((2 ^ len - 1) * 2 ^ pos).testBit i = decide (pos ≤ i ∧ i < pos + len) := by
    rw [Nat.testBit_mul_two_pow, Nat.testBit_two_pow_sub_one]
    grind
  unfold bitInsert
  simp only [BitVec.getLsbD_or, BitVec.getLsbD_and, BitVec.getLsbD_not, BitVec.getLsbD_ofNat, BitVec.getLsbD_shiftLeft, e, hi]
  grind

/-! ### Addresses (R289, R290) -/

theorem leaAt_eq {x d : Word} : leaAt x d = x.extractLsb' 44 20 ++ (x + d).extractLsb' 0 44 := by
  apply BitVec.eq_of_getLsbD_eq
  intro i hi
  unfold leaAt
  rw [BitVec.getLsbD_append, BitVec.getLsbD_or, BitVec.getLsbD_and, BitVec.getLsbD_and]
  generalize x + d = y
  have h1 : (0xFFFFF00000000000 : Word).getLsbD i = decide (44 ≤ i) := by revert i; decide
  have h2 : (0x00000FFFFFFFFFFF : Word).getLsbD i = decide (i < 44) := by revert i; decide
  rw [h1, h2]
  simp only [BitVec.getLsbD_extractLsb']
  grind

end Sys2Proof.Machine
end

