-- ==== Sys2Proof/Laws/Memory.lean ====
section
/-! SUPPORT. Sparse tables and memory: every operation keeps the canonical form, and what a read answers after a write. -/

namespace Sys2Proof.Machine

/-! ### Sparse tables -/

section
variable {α : Type} [DecidableEq α] {d : α} {t : Sparse α} {k j lo : Nat} {v : α}

theorem Sparse.wfFrom_mono (h : lo ≤ k) (w : Sparse.wfFrom d k t = true) : Sparse.wfFrom d lo t = true := by
  cases t with
  | nil => rfl
  | cons e t => simp only [wfFrom, Bool.and_eq_true, decide_eq_true_eq] at w ⊢; exact ⟨⟨by omega, w.1.2⟩, w.2⟩

theorem Sparse.del_wfFrom (w : Sparse.wfFrom d lo t = true) : Sparse.wfFrom d lo (Sparse.del t k) = true := by
  induction t generalizing lo with
  | nil => rfl
  | cons e t ih =>
    simp only [wfFrom, Bool.and_eq_true, decide_eq_true_eq] at w
    simp only [del]
    split
    · exact wfFrom_mono (by omega) w.2
    · simp only [wfFrom, Bool.and_eq_true, decide_eq_true_eq]; exact ⟨w.1, ih w.2⟩

theorem Sparse.insert_wfFrom (hv : v ≠ d) (hk : lo ≤ k) (w : Sparse.wfFrom d lo t = true) :
    Sparse.wfFrom d lo (Sparse.insert t k v) = true := by
  induction t generalizing lo with
  | nil => simp [insert, wfFrom, hv, hk]
  | cons e t ih =>
    simp only [wfFrom, Bool.and_eq_true, decide_eq_true_eq] at w
    simp only [insert]
    split
    · simp only [wfFrom, Bool.and_eq_true, decide_eq_true_eq]
      exact ⟨⟨hk, hv⟩, ⟨by omega, w.1.2⟩, w.2⟩
    · split
      · rename_i h; subst h
        simp only [wfFrom, Bool.and_eq_true, decide_eq_true_eq]; exact ⟨⟨hk, hv⟩, w.2⟩
      · simp only [wfFrom, Bool.and_eq_true, decide_eq_true_eq]; exact ⟨w.1, ih (by omega) w.2⟩

theorem Sparse.put_wf (w : Sparse.wf d t = true) : Sparse.wf d (Sparse.put d t k v) = true := by
  unfold put
  split
  · exact del_wfFrom w
  · exact insert_wfFrom (by assumption) (Nat.zero_le _) w

theorem Sparse.filter_wfFrom (p : Nat × α → Bool) (w : Sparse.wfFrom d lo t = true) :
    Sparse.wfFrom d lo (t.filter p) = true := by
  induction t generalizing lo with
  | nil => rfl
  | cons e t ih =>
    simp only [wfFrom, Bool.and_eq_true, decide_eq_true_eq] at w
    simp only [List.filter]
    split
    · simp only [wfFrom, Bool.and_eq_true, decide_eq_true_eq]; exact ⟨w.1, ih w.2⟩
    · exact ih (wfFrom_mono (by omega) w.2)

theorem Sparse.get_below (w : Sparse.wfFrom d lo t = true) (h : k < lo) : Sparse.get d t k = d := by
  induction t generalizing lo with
  | nil => rfl
  | cons e t ih =>
    simp only [wfFrom, Bool.and_eq_true, decide_eq_true_eq] at w
    simp only [get]
    rw [if_neg (by omega)]
    exact ih w.2 (by omega)

theorem Sparse.get_del (w : Sparse.wfFrom d lo t = true) :
    Sparse.get d (Sparse.del t k) j = if j = k then d else Sparse.get d t j := by
  induction t generalizing lo with
  | nil => simp [del, get]
  | cons e t ih =>
    simp only [wfFrom, Bool.and_eq_true, decide_eq_true_eq] at w
    simp only [del]
    split
    · rename_i h; subst h
      split
      · rename_i h; subst h; exact get_below w.2 (by omega)
      · rename_i h; rw [get, if_neg (fun e => h e.symm)]
    · rename_i h
      simp only [get]
      split
      · rename_i h'; subst h'; rw [if_neg h]
      · exact ih w.2

omit [DecidableEq α] in
theorem Sparse.get_insert : Sparse.get d (Sparse.insert t k v) j = if j = k then v else Sparse.get d t j := by
  induction t with
  | nil => simp only [insert, get, eq_comm]
  | cons e t ih =>
    simp only [insert]
    split
    · simp only [get, eq_comm]
    · split
      · rename_i h; subst h; simp only [get, eq_comm]; split <;> rfl
      · rename_i h1 h2
        simp only [get, ih]
        split
        · rename_i h; subst h; rw [if_neg (fun e => h2 e.symm)]
        · rfl

/-- A read of a table after a write. -/
theorem Sparse.get_put (w : Sparse.wf d t = true) :
    Sparse.get d (Sparse.put d t k v) j = if j = k then v else Sparse.get d t j := by
  unfold put
  split
  · rename_i h; subst h; exact get_del w
  · exact get_insert

end

/-! ### Memory -/

variable {m : List Host.Cell} {a b n : Nat}

@[simp] theorem Memory.wf_nil : Memory.wf [] = true := rfl

@[simp] theorem Memory.write_wf {v : Byte} (w : Memory.wf m = true) : Memory.wf (Memory.write m a v) = true := Sparse.put_wf w

theorem Memory.read_write {v : Byte} (w : Memory.wf m = true) :
    Memory.read (Memory.write m a v) b = if b = a then v else Memory.read m b := Sparse.get_put w

@[simp] theorem Memory.writeN_wf {bs : List Byte} (w : Memory.wf m = true) : Memory.wf (Memory.writeN m a bs) = true := by
  induction bs generalizing m a with
  | nil => exact w
  | cons b bs ih => exact ih (write_wf w)

@[simp] theorem Memory.setWord_wf {v : Word} (w : Memory.wf m = true) : Memory.wf (Memory.setWord m a v) = true := writeN_wf w

@[simp] theorem Memory.clear_wf (w : Memory.wf m = true) : Memory.wf (Memory.clear m a n) = true := Sparse.filter_wfFrom _ w

@[simp] theorem Memory.paste_wf {cs : List Host.Cell} (w : Memory.wf m = true) : Memory.wf (Memory.paste m a cs) = true := by
  induction cs generalizing m with
  | nil => exact w
  | cons c cs ih => exact ih (write_wf w)

@[simp] theorem Memory.copy_wf (w : Memory.wf m = true) : Memory.wf (Memory.copy m b a n) = true := paste_wf (clear_wf w)

/-- A byte after bytes are written from `a` upward: one of them, or what stood there. -/
theorem Memory.read_writeN {bs : List Byte} (w : Memory.wf m = true) :
    Memory.read (Memory.writeN m a bs) b =
      if a ≤ b ∧ b < a + bs.length then bs.getD (b - a) 0 else Memory.read m b := by
  induction bs generalizing m a with
  | nil =>
    rw [if_neg (by simp only [List.length_nil]; omega)]
    rfl
  | cons v bs ih =>
    simp only [writeN]
    rw [ih (write_wf w), read_write w]
    by_cases h : b = a
    · subst h; simp <;> omega
    · rw [if_neg h]
      simp only [List.length_cons]
      by_cases h1 : a + 1 ≤ b ∧ b < a + 1 + bs.length
      · rw [if_pos h1, if_pos (by omega)]
        obtain ⟨k, hk⟩ : ∃ k, b = a + 1 + k := ⟨b - (a + 1), by omega⟩
        subst hk
        rw [show a + 1 + k - (a + 1) = k by omega, show a + 1 + k - a = k + 1 by omega]; rfl
      · rw [if_neg h1, if_neg (by omega)]

@[simp] theorem length_toBytesLE (n v : Nat) : (toBytesLE n v).length = n := by
  induction n generalizing v with
  | zero => rfl
  | succ n ih => simp [toBytesLE, ih]

@[simp] theorem ofBytesLE_toBytesLE (n v : Nat) : ofBytesLE (toBytesLE n v) = v % 256 ^ n := by
  induction n generalizing v with
  | zero => simp [toBytesLE, ofBytesLE, Nat.mod_one]
  | succ n ih =>
    simp only [toBytesLE, ofBytesLE, ih, BitVec.toNat_ofNat]
    rw [show 256 ^ (n + 1) = 256 * 256 ^ n by rw [Nat.pow_succ, Nat.mul_comm], Nat.mod_mul]

theorem Memory.readN_eq (m : List Host.Cell) (a n : Nat) :
    Memory.readN m a n = (List.range n).map fun k => Memory.read m (a + k) := by
  induction n generalizing a with
  | zero => rfl
  | succ n ih =>
    simp only [readN, ih, List.range_succ_eq_map, List.map_cons, List.map_map, Nat.add_zero]
    congr 1
    apply List.map_congr_left
    intro k _
    simp only [Function.comp, Nat.succ_eq_add_one]
    rw [Nat.add_right_comm, Nat.add_assoc]

/-- Bytes that a store does not touch read as before. -/
theorem Memory.read_writeN_of_outside {bs : List Byte} (w : Memory.wf m = true) (h : b < a ∨ a + bs.length ≤ b) :
    Memory.read (Memory.writeN m a bs) b = Memory.read m b := by
  rw [read_writeN w, if_neg (by omega)]

/-- A word read where it was written. -/
theorem Memory.word_setWord {v : Word} (w : Memory.wf m = true) : Memory.word (Memory.setWord m a v) a = v := by
  have h : Memory.readN (Memory.setWord m a v) a 8 = toBytesLE 8 v.toNat := by
    rw [readN_eq]
    apply List.ext_getElem
    · simp
    · intro k h1 h2
      simp only [List.length_map, List.length_range] at h1
      simp only [List.getElem_map, List.getElem_range, setWord, read_writeN w, length_toBytesLE]
      rw [if_pos (by omega), show a + k - a = k by omega]
      simp [List.getD_eq_getElem?_getD, List.getElem?_eq_getElem h2]
  rw [word, readLE, h, ofBytesLE_toBytesLE]
  apply BitVec.eq_of_toNat_eq
  have := v.isLt
  simp only [BitVec.toNat_ofNat]
  omega

end Sys2Proof.Machine
end

