-- ==== Sys2Proof/Laws/PerInstr.lean ====
section
/-! SUPPORT. Statements made per instruction: a well-formed record decodes from its encoding (R52-R71). -/

set_option linter.unusedSimpArgs false
set_option linter.unusedTactic false
set_option linter.unreachableTactic false

namespace Sys2Proof.Laws.RoundTrip
open Sys2Proof
/-- A record other than MSG in its second form, which has the first one's words, decodes to itself from its encoding (R52, R71). -/
def Statement (i : Instr) : Prop := i.isEvent = false → (∀ h, i ≠ .msgReply h) → i.wf = true → ∃ w, encode i = some w ∧ decode w = .ok i
theorem read (h : Hdr) (r : RegName) : Statement (.read h r) := by
  intro _ _ hw
  cases r with
  | g n =>
    refine decode_of_build rfl rfl hw ?_
    have f1 : (litC 0 0 (0#34 ++ n)).getLsbD 6 = false := by
      simp only [litC, BitVec.getLsbD_append]; grind
    have f2 : (litC 0 0 (0#34 ++ n)).extractLsb' 0 6 = n := by
      apply BitVec.eq_of_getLsbD_eq; intro i hi
      simp only [litC, BitVec.getLsbD_extractLsb', BitVec.getLsbD_append]; grind
    rw [build_01 rfl]
    simp only [f1, f2, Bool.false_eq_true, if_false]
  | v n =>
    refine decode_of_build rfl rfl hw ?_
    have f1 : (litC 0 0 (0#33 ++ 1#1 ++ 0#2 ++ n)).getLsbD 6 = true := by
      simp only [litC, BitVec.getLsbD_append]; grind
    have f2 : (litC 0 0 (0#33 ++ 1#1 ++ 0#2 ++ n)).extractLsb' 0 4 = n := by
      apply BitVec.eq_of_getLsbD_eq; intro i hi
      simp only [litC, BitVec.getLsbD_extractLsb', BitVec.getLsbD_append]; grind
    rw [build_01 rfl]
    simp only [f1, f2, if_true]
theorem mov (h : Hdr) (vk : Bool) (dly : Bool) : Statement (.mov h vk dly) := by
  intro _ _ hw
  refine decode_of_build rfl rfl hw ?_
  rw [build_02 rfl]
  simp only [Raw.vk, litVk_vk, orErr, bind, Except.bind, Except.map]
  refine congrArg Except.ok ?_
  congr 1
  all_goals first
    | rfl
    | (apply BitVec.eq_of_getLsbD_eq; intro i hi
       simp only [litC, litVk, litM, BitVec.getLsbD_extractLsb', BitVec.getLsbD_append, BitVec.getLsbD_ofBool]; grind)
    | (simp only [litC, litVk, litM, BitVec.getLsbD_append, BitVec.getLsbD_ofBool]; grind)
theorem movx (h : Hdr) (vk : Bool) (t2 : Target) (t3 : Target) : Statement (.movx h vk t2 t3) := by
  intro _ _ hw
  refine decode_of_build rfl rfl hw ?_
  rw [build_03 rfl]
  have f1 : (litVk vk (0#15 ++ t2.code ++ t3.code)).extractLsb' 12 12 = t2.code := by
    apply BitVec.eq_of_getLsbD_eq; intro i hi
    simp only [litVk, litC, BitVec.getLsbD_extractLsb', BitVec.getLsbD_append, BitVec.getLsbD_ofBool]; grind
  have f2 : (litVk vk (0#15 ++ t2.code ++ t3.code)).extractLsb' 0 12 = t3.code := by
    apply BitVec.eq_of_getLsbD_eq; intro i hi
    simp only [litVk, litC, BitVec.getLsbD_extractLsb', BitVec.getLsbD_append, BitVec.getLsbD_ofBool]; grind
  simp only [Raw.vk, Target.ofCode_code, litVk_vk, f1, f2, orErr, bind, Except.bind, Except.map]
theorem const (h : Hdr) (t : Ty) (v : Lit) : Statement (.const h t v) := by
  intro _ _ hw
  refine decode_of_build rfl rfl hw ?_
  rw [build_04 rfl]
  simp only [Raw.ty, Ty.ofCode_code, orErr, bind, Except.bind, Except.map]
theorem null (h : Hdr) (vk : Bool) : Statement (.null h vk) := by
  intro _ _ hw
  refine decode_of_build rfl rfl hw ?_
  rw [build_05 rfl]
  simp only [Raw.vk, litVk_vk, orErr, bind, Except.bind, Except.map]
theorem sel (h : Hdr) (vk : Bool) : Statement (.sel h vk) := by
  intro _ _ hw
  refine decode_of_build rfl rfl hw ?_
  rw [build_06 rfl]
  simp only [Raw.vk, litVk_vk, orErr, bind, Except.bind, Except.map]
theorem gate (h : Hdr) (vk : Bool) : Statement (.gate h vk) := by
  intro _ _ hw
  refine decode_of_build rfl rfl hw ?_
  rw [build_07 rfl]
  simp only [Raw.vk, litVk_vk, orErr, bind, Except.bind, Except.map]
theorem exitJmp (h : Hdr) (blk : BitVec 33) : Statement (.exitJmp h blk) := by
  intro _ _ hw
  refine decode_of_build rfl rfl hw ?_
  rw [build_08 rfl]
  refine congrArg Except.ok ?_
  congr 1
  all_goals
    apply BitVec.eq_of_getLsbD_eq; intro i hi
    simp only [litC, litM, litVk, BitVec.getLsbD_extractLsb', BitVec.getLsbD_append, BitVec.getLsbD_ofBool]; grind
theorem exitJmpi (h : Hdr) : Statement (.exitJmpi h) := by
  intro _ _ hw
  refine decode_of_build rfl rfl hw ?_
  rw [build_08 rfl]
  rfl
theorem exitCall (h : Hdr) (blk : BitVec 33) : Statement (.exitCall h blk) := by
  intro _ _ hw
  refine decode_of_build rfl rfl hw ?_
  rw [build_08 rfl]
  refine congrArg Except.ok ?_
  congr 1
  all_goals
    apply BitVec.eq_of_getLsbD_eq; intro i hi
    simp only [litC, litM, litVk, BitVec.getLsbD_extractLsb', BitVec.getLsbD_append, BitVec.getLsbD_ofBool]; grind
theorem exitRet (h : Hdr) : Statement (.exitRet h) := by
  intro _ _ hw
  refine decode_of_build rfl rfl hw ?_
  rw [build_08 rfl]
  rfl
theorem exitStop (h : Hdr) : Statement (.exitStop h) := by
  intro _ _ hw
  refine decode_of_build rfl rfl hw ?_
  rw [build_08 rfl]
  rfl
theorem itin (h : Hdr) (vk : Bool) : Statement (.itin h vk) := by
  intro _ _ hw
  refine decode_of_build rfl rfl hw ?_
  rw [build_09 rfl]
  simp only [Raw.vk, litVk_vk, orErr, bind, Except.bind, Except.map]
theorem itnx (h : Hdr) (vk : Bool) : Statement (.itnx h vk) := by
  intro _ _ hw
  refine decode_of_build rfl rfl hw ?_
  rw [build_0A rfl]
  simp only [Raw.vk, litVk_vk, orErr, bind, Except.bind, Except.map]
theorem itout (h : Hdr) (vk : Bool) : Statement (.itout h vk) := by
  intro _ _ hw
  refine decode_of_build rfl rfl hw ?_
  rw [build_0B rfl]
  simp only [Raw.vk, litVk_vk, orErr, bind, Except.bind, Except.map]
theorem tagr (h : Hdr) (f : TagField) (vk : Bool) : Statement (.tagr h f vk) := by
  intro _ _ hw
  cases f
  all_goals
    refine decode_of_build rfl rfl hw ?_
    rw [build_0C rfl]
    simp only [Raw.vk, litVk_vk, orErr, bind, Except.bind, Except.map]
    rfl
theorem wfld (h : Hdr) (k : Fin 6) : Statement (.wfld h k) := by
  intro _ _ hw
  fin_cases k
  all_goals
    refine decode_of_build rfl rfl hw ?_
    rw [build_0D rfl]
    rfl
theorem slks (h : Hdr) (b : SlksRhs) : Statement (.slks h b) := by
  intro _ _ hw
  cases b
  all_goals
    refine decode_of_build rfl rfl hw ?_
    rw [build_0E rfl]
    simp only [Raw.vk, litVk_vk, orErr, bind, Except.bind, Except.map]
    rfl
theorem slkr (h : Hdr) (vk : Bool) : Statement (.slkr h vk) := by
  intro _ _ hw
  refine decode_of_build rfl rfl hw ?_
  rw [build_0F rfl]
  simp only [Raw.vk, litVk_vk, orErr, bind, Except.bind, Except.map]
theorem add (h : Hdr) (t : IntTy) (b : Rhs) : Statement (.add h t b) := by
  intro _ _ hw
  refine decode_of_build rfl rfl hw ?_
  rw [build_10 rfl]
  rw [rhs_back (b := b) rfl rfl]
  simp only [Raw.int, IntTy.ofCode_code, orErr, bind, Except.bind, Except.map]
theorem sub (h : Hdr) (t : IntTy) (b : Rhs) : Statement (.sub h t b) := by
  intro _ _ hw
  refine decode_of_build rfl rfl hw ?_
  rw [build_11 rfl]
  rw [rhs_back (b := b) rfl rfl]
  simp only [Raw.int, IntTy.ofCode_code, orErr, bind, Except.bind, Except.map]
theorem mul (h : Hdr) (t : IntTy) (b : Rhs) : Statement (.mul h t b) := by
  intro _ _ hw
  refine decode_of_build rfl rfl hw ?_
  rw [build_12 rfl]
  rw [rhs_back (b := b) rfl rfl]
  simp only [Raw.int, IntTy.ofCode_code, orErr, bind, Except.bind, Except.map]
theorem mulh (h : Hdr) (t : IntTy) (b : Rhs) : Statement (.mulh h t b) := by
  intro _ _ hw
  refine decode_of_build rfl rfl hw ?_
  rw [build_13 rfl]
  rw [rhs_back (b := b) rfl rfl]
  simp only [Raw.int, IntTy.ofCode_code, orErr, bind, Except.bind, Except.map]
theorem mulw (h : Hdr) (t : IntTy) (b : Rhs) : Statement (.mulw h t b) := by
  intro _ _ hw
  refine decode_of_build rfl rfl hw ?_
  rw [build_14 rfl]
  rw [rhs_back (b := b) rfl rfl]
  simp only [Raw.int, IntTy.ofCode_code, orErr, bind, Except.bind, Except.map]
theorem div (h : Hdr) (t : IntTy) (b : Rhs) : Statement (.div h t b) := by
  intro _ _ hw
  refine decode_of_build rfl rfl hw ?_
  rw [build_15 rfl]
  rw [rhs_back (b := b) rfl rfl]
  simp only [Raw.int, IntTy.ofCode_code, orErr, bind, Except.bind, Except.map]
theorem rem (h : Hdr) (t : IntTy) (b : Rhs) : Statement (.rem h t b) := by
  intro _ _ hw
  refine decode_of_build rfl rfl hw ?_
  rw [build_16 rfl]
  rw [rhs_back (b := b) rfl rfl]
  simp only [Raw.int, IntTy.ofCode_code, orErr, bind, Except.bind, Except.map]
theorem min (h : Hdr) (t : IntTy) (b : Rhs) : Statement (.min h t b) := by
  intro _ _ hw
  refine decode_of_build rfl rfl hw ?_
  rw [build_17 rfl]
  rw [rhs_back (b := b) rfl rfl]
  simp only [Raw.int, IntTy.ofCode_code, orErr, bind, Except.bind, Except.map]
theorem max (h : Hdr) (t : IntTy) (b : Rhs) : Statement (.max h t b) := by
  intro _ _ hw
  refine decode_of_build rfl rfl hw ?_
  rw [build_18 rfl]
  rw [rhs_back (b := b) rfl rfl]
  simp only [Raw.int, IntTy.ofCode_code, orErr, bind, Except.bind, Except.map]
theorem adds (h : Hdr) (t : IntTy) (b : Rhs) : Statement (.adds h t b) := by
  intro _ _ hw
  refine decode_of_build rfl rfl hw ?_
  rw [build_19 rfl]
  rw [rhs_back (b := b) rfl rfl]
  simp only [Raw.int, IntTy.ofCode_code, orErr, bind, Except.bind, Except.map]
theorem subs (h : Hdr) (t : IntTy) (b : Rhs) : Statement (.subs h t b) := by
  intro _ _ hw
  refine decode_of_build rfl rfl hw ?_
  rw [build_1A rfl]
  rw [rhs_back (b := b) rfl rfl]
  simp only [Raw.int, IntTy.ofCode_code, orErr, bind, Except.bind, Except.map]
theorem and (h : Hdr) (b : Rhs) : Statement (.and h b) := by
  intro _ _ hw
  refine decode_of_build rfl rfl hw ?_
  rw [build_1B rfl]
  rw [rhs_back (b := b) rfl rfl]
  rfl
theorem or (h : Hdr) (b : Rhs) : Statement (.or h b) := by
  intro _ _ hw
  refine decode_of_build rfl rfl hw ?_
  rw [build_1B rfl]
  rw [rhs_back (b := b) rfl rfl]
  rfl
theorem xor (h : Hdr) (b : Rhs) : Statement (.xor h b) := by
  intro _ _ hw
  refine decode_of_build rfl rfl hw ?_
  rw [build_1B rfl]
  rw [rhs_back (b := b) rfl rfl]
  rfl
theorem andn (h : Hdr) (b : Rhs) : Statement (.andn h b) := by
  intro _ _ hw
  refine decode_of_build rfl rfl hw ?_
  rw [build_1B rfl]
  rw [rhs_back (b := b) rfl rfl]
  rfl
theorem not (h : Hdr) : Statement (.not h) := by
  intro _ _ hw
  refine decode_of_build rfl rfl hw ?_
  rw [build_1B rfl]
  rfl
theorem neg (h : Hdr) (w : Width) : Statement (.neg h w) := by
  intro _ _ hw
  cases w
  all_goals
    refine decode_of_build rfl rfl hw ?_
    rw [build_1C rfl]
    dsimp only
    rfl
theorem abs (h : Hdr) (w : Width) : Statement (.abs h w) := by
  intro _ _ hw
  cases w
  all_goals
    refine decode_of_build rfl rfl hw ?_
    rw [build_1D rfl]
    dsimp only
    rfl
theorem shl (h : Hdr) (t : IntTy) (b : Rhs) : Statement (.shl h t b) := by
  intro _ _ hw
  refine decode_of_build rfl rfl hw ?_
  rw [build_1E rfl]
  rw [rhs_back (b := b) rfl rfl]
  simp only [Raw.int, IntTy.ofCode_code, orErr, bind, Except.bind, Except.map]
theorem shr (h : Hdr) (t : IntTy) (b : Rhs) : Statement (.shr h t b) := by
  intro _ _ hw
  refine decode_of_build rfl rfl hw ?_
  rw [build_1F rfl]
  rw [rhs_back (b := b) rfl rfl]
  simp only [Raw.int, IntTy.ofCode_code, orErr, bind, Except.bind, Except.map]
theorem sar (h : Hdr) (t : IntTy) (b : Rhs) : Statement (.sar h t b) := by
  intro _ _ hw
  refine decode_of_build rfl rfl hw ?_
  rw [build_20 rfl]
  rw [rhs_back (b := b) rfl rfl]
  simp only [Raw.int, IntTy.ofCode_code, orErr, bind, Except.bind, Except.map]
theorem rol (h : Hdr) (t : IntTy) (b : Rhs) : Statement (.rol h t b) := by
  intro _ _ hw
  refine decode_of_build rfl rfl hw ?_
  rw [build_21 rfl]
  rw [rhs_back (b := b) rfl rfl]
  simp only [Raw.int, IntTy.ofCode_code, orErr, bind, Except.bind, Except.map]
theorem ror (h : Hdr) (t : IntTy) (b : Rhs) : Statement (.ror h t b) := by
  intro _ _ hw
  refine decode_of_build rfl rfl hw ?_
  rw [build_22 rfl]
  rw [rhs_back (b := b) rfl rfl]
  simp only [Raw.int, IntTy.ofCode_code, orErr, bind, Except.bind, Except.map]
theorem clz (h : Hdr) (w : Width) : Statement (.clz h w) := by
  intro _ _ hw
  cases w
  all_goals
    refine decode_of_build rfl rfl hw ?_
    rw [build_23 rfl]
    dsimp only
    rfl
theorem ctz (h : Hdr) (w : Width) : Statement (.ctz h w) := by
  intro _ _ hw
  cases w
  all_goals
    refine decode_of_build rfl rfl hw ?_
    rw [build_23 rfl]
    dsimp only
    rfl
theorem popc (h : Hdr) (w : Width) : Statement (.popc h w) := by
  intro _ _ hw
  cases w
  all_goals
    refine decode_of_build rfl rfl hw ?_
    rw [build_23 rfl]
    dsimp only
    rfl
theorem bfx (h : Hdr) (pos : BitVec 6) (lenM1 : BitVec 6) (sx : Bool) : Statement (.bfx h pos lenM1 sx) := by
  intro _ _ hw
  refine decode_of_build rfl rfl hw ?_
  rw [build_24 rfl]
  refine congrArg Except.ok ?_
  congr 1
  all_goals first
    | rfl
    | (apply BitVec.eq_of_getLsbD_eq; intro i hi
       simp only [litC, litVk, litM, BitVec.getLsbD_extractLsb', BitVec.getLsbD_append, BitVec.getLsbD_ofBool]; grind)
    | (simp only [litC, litVk, litM, BitVec.getLsbD_append, BitVec.getLsbD_ofBool]; grind)
theorem bfi (h : Hdr) (pos : BitVec 6) (lenM1 : BitVec 6) : Statement (.bfi h pos lenM1) := by
  intro _ _ hw
  refine decode_of_build rfl rfl hw ?_
  rw [build_25 rfl]
  refine congrArg Except.ok ?_
  congr 1
  all_goals
    apply BitVec.eq_of_getLsbD_eq; intro i hi
    simp only [litC, litM, litVk, BitVec.getLsbD_extractLsb', BitVec.getLsbD_append, BitVec.getLsbD_ofBool]; grind
theorem sext (h : Hdr) (w : Width3) : Statement (.sext h w) := by
  intro _ _ hw
  cases w
  all_goals
    refine decode_of_build rfl rfl hw ?_
    rw [build_26 rfl]
    dsimp only
    exact congrArg Except.ok (if_neg (by decide))
theorem zext (h : Hdr) (w : Width3) : Statement (.zext h w) := by
  intro _ _ hw
  cases w
  all_goals
    refine decode_of_build rfl rfl hw ?_
    rw [build_26 rfl]
    dsimp only
    exact congrArg Except.ok (if_pos (by decide))
theorem tst (h : Hdr) (c : Cond) (b : Rhs) : Statement (.tst h c b) := by
  intro _ _ hw
  refine decode_of_build rfl rfl hw ?_
  rw [build_27 rfl]
  rw [rhs_back (b := b) rfl rfl]
  simp only [Cond.ofCode_code, orErr, bind, Except.bind, Except.map]
theorem lea (h : Hdr) (b : LeaRhs) : Statement (.lea h b) := by
  intro _ _ hw
  cases b with
  | port sh =>
    refine decode_of_build rfl rfl hw ?_
    have f1 : (litC 0 0 (0#37 ++ sh)).extractLsb' 0 3 = sh := by
      apply BitVec.eq_of_getLsbD_eq; intro i hi
      simp only [litC, BitVec.getLsbD_extractLsb', BitVec.getLsbD_append]; grind
    rw [build_28 rfl]
    simp only [f1, Bool.false_eq_true, if_false]
  | imm v => exact decode_of_build rfl rfl hw (by rw [build_28 rfl]; rfl)
theorem apx (h : Hdr) (b : Rhs) : Statement (.apx h b) := by
  intro _ _ hw
  refine decode_of_build rfl rfl hw ?_
  rw [build_29 rfl]
  rw [rhs_back (b := b) rfl rfl]
theorem fadd (h : Hdr) (t : FpTy) (b : FRhs) : Statement (.fadd h t b) := by
  intro _ _ hw
  refine decode_of_build rfl rfl hw ?_
  rw [build_30 rfl]
  rw [frhs_back (b := b) rfl rfl]
  simp only [Raw.fp, FpTy.ofCode_code, orErr, bind, Except.bind, Except.map]
theorem fsub (h : Hdr) (t : FpTy) (b : FRhs) : Statement (.fsub h t b) := by
  intro _ _ hw
  refine decode_of_build rfl rfl hw ?_
  rw [build_31 rfl]
  rw [frhs_back (b := b) rfl rfl]
  simp only [Raw.fp, FpTy.ofCode_code, orErr, bind, Except.bind, Except.map]
theorem fmul (h : Hdr) (t : FpTy) (b : FRhs) : Statement (.fmul h t b) := by
  intro _ _ hw
  refine decode_of_build rfl rfl hw ?_
  rw [build_32 rfl]
  rw [frhs_back (b := b) rfl rfl]
  simp only [Raw.fp, FpTy.ofCode_code, orErr, bind, Except.bind, Except.map]
theorem fdiv (h : Hdr) (t : FpTy) (b : FRhs) : Statement (.fdiv h t b) := by
  intro _ _ hw
  refine decode_of_build rfl rfl hw ?_
  rw [build_33 rfl]
  rw [frhs_back (b := b) rfl rfl]
  simp only [Raw.fp, FpTy.ofCode_code, orErr, bind, Except.bind, Except.map]
theorem fsqrt (h : Hdr) (t : FpTy) (rm : Rm) : Statement (.fsqrt h t rm) := by
  intro _ _ hw
  refine decode_of_build rfl rfl hw ?_
  rw [build_34 rfl]
  simp only [Raw.fp, FpTy.ofCode_code, Raw.rm, litC_rm, Rm.ofCode_code, orErr, bind, Except.bind, Except.map]
theorem fma (h : Hdr) (t : FpTy) (rm : Rm) : Statement (.fma h t rm) := by
  intro _ _ hw
  refine decode_of_build rfl rfl hw ?_
  rw [build_35 rfl]
  simp only [Raw.fp, FpTy.ofCode_code, Raw.rm, litC_rm, Rm.ofCode_code, orErr, bind, Except.bind, Except.map]
theorem fmin (h : Hdr) (t : FpTy) (b : Rhs) : Statement (.fmin h t b) := by
  intro _ _ hw
  refine decode_of_build rfl rfl hw ?_
  rw [build_36 rfl]
  rw [rhs_back (b := b) rfl rfl]
  simp only [Raw.fp, FpTy.ofCode_code, orErr, bind, Except.bind, Except.map]
theorem fmax (h : Hdr) (t : FpTy) (b : Rhs) : Statement (.fmax h t b) := by
  intro _ _ hw
  refine decode_of_build rfl rfl hw ?_
  rw [build_37 rfl]
  rw [rhs_back (b := b) rfl rfl]
  simp only [Raw.fp, FpTy.ofCode_code, orErr, bind, Except.bind, Except.map]
theorem fabs (h : Hdr) (t : FpTy) : Statement (.fabs h t) := by
  intro _ _ hw
  cases t
  all_goals
    refine decode_of_build rfl rfl hw ?_
    rw [build_38 rfl]
    dsimp only
    rfl
theorem fneg (h : Hdr) (t : FpTy) : Statement (.fneg h t) := by
  intro _ _ hw
  cases t
  all_goals
    refine decode_of_build rfl rfl hw ?_
    rw [build_38 rfl]
    dsimp only
    simp [Raw.fpw, FpTy.ofW, FpTy.w]
theorem fcpys (h : Hdr) (t : FpTy) : Statement (.fcpys h t) := by
  intro _ _ hw
  cases t
  all_goals
    refine decode_of_build rfl rfl hw ?_
    rw [build_38 rfl]
    dsimp only
    simp [Raw.fpw, FpTy.ofW, FpTy.w]
theorem ftst (h : Hdr) (c : FCond) (t : FpTy) (b : Rhs) : Statement (.ftst h c t b) := by
  intro _ _ hw
  cases c
  all_goals cases t
  all_goals
    refine decode_of_build rfl rfl hw ?_
    rw [build_39 rfl]
    rw [rhs_back (b := b) rfl rfl]
    simp only [Raw.fpw, FpTy.ofW_w, FCond.ofCode_code, orErr, bind, Except.bind, Except.map]
    rfl
theorem fcvt (h : Hdr) (d : Ty) (s : Ty) (rm : Rm) : Statement (.fcvt h d s rm) := by
  intro _ _ hw
  refine decode_of_build rfl rfl hw ?_
  rw [build_3A rfl]
  simp only [Raw.ty, Ty.ofCode_code, Raw.rm, litC_rm, Rm.ofCode_code, litC_aux, orErr, bind, Except.bind, Except.map]
theorem frnd (h : Hdr) (t : FpTy) (rm : Rm) : Statement (.frnd h t rm) := by
  intro _ _ hw
  refine decode_of_build rfl rfl hw ?_
  rw [build_3B rfl]
  simp only [Raw.fp, FpTy.ofCode_code, Raw.rm, litC_rm, Rm.ofCode_code, orErr, bind, Except.bind, Except.map]
theorem fcls (h : Hdr) (t : FpTy) : Statement (.fcls h t) := by
  intro _ _ hw
  refine decode_of_build rfl rfl hw ?_
  rw [build_3C rfl]
  simp only [Raw.fp, FpTy.ofCode_code, orErr, bind, Except.bind, Except.map]
theorem exp2 (h : Hdr) (t : FpTy) (rm : Rm) : Statement (.exp2 h t rm) := by
  intro _ _ hw
  cases t
  all_goals
    refine decode_of_build rfl rfl hw ?_
    rw [build_3D rfl]
    simp only [Raw.rm, litC_rm, Rm.ofCode_code, Raw.fpw, FpTy.ofW_w, orErr, bind, Except.bind, Except.map]
    rfl
theorem log2 (h : Hdr) (t : FpTy) (rm : Rm) : Statement (.log2 h t rm) := by
  intro _ _ hw
  cases t
  all_goals
    refine decode_of_build rfl rfl hw ?_
    rw [build_3D rfl]
    simp only [Raw.rm, litC_rm, Rm.ofCode_code, Raw.fpw, FpTy.ofW_w, orErr, bind, Except.bind, Except.map]
    rfl
theorem rsq (h : Hdr) (t : FpTy) (rm : Rm) : Statement (.rsq h t rm) := by
  intro _ _ hw
  cases t
  all_goals
    refine decode_of_build rfl rfl hw ?_
    rw [build_3D rfl]
    simp only [Raw.rm, litC_rm, Rm.ofCode_code, Raw.fpw, FpTy.ofW_w, orErr, bind, Except.bind, Except.map]
    rfl
theorem vadd (h : Hdr) (t : Ty) (b : FRhs) : Statement (.vadd h t b) := by
  intro _ _ hw
  refine decode_of_build rfl rfl hw ?_
  rw [build_40 rfl]
  rw [frhs_back (b := b) rfl rfl]
  simp only [Raw.ty, Ty.ofCode_code, orErr, bind, Except.bind, Except.map]
theorem vsub (h : Hdr) (t : Ty) (b : FRhs) : Statement (.vsub h t b) := by
  intro _ _ hw
  refine decode_of_build rfl rfl hw ?_
  rw [build_41 rfl]
  rw [frhs_back (b := b) rfl rfl]
  simp only [Raw.ty, Ty.ofCode_code, orErr, bind, Except.bind, Except.map]
theorem vmul (h : Hdr) (t : Ty) (b : FRhs) : Statement (.vmul h t b) := by
  intro _ _ hw
  refine decode_of_build rfl rfl hw ?_
  rw [build_42 rfl]
  rw [frhs_back (b := b) rfl rfl]
  simp only [Raw.ty, Ty.ofCode_code, orErr, bind, Except.bind, Except.map]
theorem vdiv (h : Hdr) (t : Ty) (b : FRhs) : Statement (.vdiv h t b) := by
  intro _ _ hw
  refine decode_of_build rfl rfl hw ?_
  rw [build_43 rfl]
  rw [frhs_back (b := b) rfl rfl]
  simp only [Raw.ty, Ty.ofCode_code, orErr, bind, Except.bind, Except.map]
theorem vfma (h : Hdr) (t : FpTy) (rm : Rm) : Statement (.vfma h t rm) := by
  intro _ _ hw
  refine decode_of_build rfl rfl hw ?_
  rw [build_44 rfl]
  simp only [Raw.fp, FpTy.ofCode_code, Raw.rm, litC_rm, Rm.ofCode_code, orErr, bind, Except.bind, Except.map]
theorem vmin (h : Hdr) (t : Ty) (b : Rhs) : Statement (.vmin h t b) := by
  intro _ _ hw
  refine decode_of_build rfl rfl hw ?_
  rw [build_45 rfl]
  rw [rhs_back (b := b) rfl rfl]
  simp only [Raw.ty, Ty.ofCode_code, orErr, bind, Except.bind, Except.map]
theorem vmax (h : Hdr) (t : Ty) (b : Rhs) : Statement (.vmax h t b) := by
  intro _ _ hw
  refine decode_of_build rfl rfl hw ?_
  rw [build_46 rfl]
  rw [rhs_back (b := b) rfl rfl]
  simp only [Raw.ty, Ty.ofCode_code, orErr, bind, Except.bind, Except.map]
theorem vabs (h : Hdr) (t : Ty) : Statement (.vabs h t) := by
  intro _ _ hw
  refine decode_of_build rfl rfl hw ?_
  rw [build_47 rfl]
  simp only [Raw.ty, Ty.ofCode_code, orErr, bind, Except.bind, Except.map]
theorem vneg (h : Hdr) (t : Ty) : Statement (.vneg h t) := by
  intro _ _ hw
  refine decode_of_build rfl rfl hw ?_
  rw [build_48 rfl]
  simp only [Raw.ty, Ty.ofCode_code, orErr, bind, Except.bind, Except.map]
theorem vand (h : Hdr) (t : IntTy) (b : Rhs) : Statement (.vand h t b) := by
  intro _ _ hw
  refine decode_of_build rfl rfl hw ?_
  rw [build_49 rfl]
  rw [rhs_back (b := b) rfl rfl]
  simp only [Raw.int, IntTy.ofCode_code, orErr, bind, Except.bind, Except.map]
theorem vor (h : Hdr) (t : IntTy) (b : Rhs) : Statement (.vor h t b) := by
  intro _ _ hw
  refine decode_of_build rfl rfl hw ?_
  rw [build_4A rfl]
  rw [rhs_back (b := b) rfl rfl]
  simp only [Raw.int, IntTy.ofCode_code, orErr, bind, Except.bind, Except.map]
theorem vxor (h : Hdr) (t : IntTy) (b : Rhs) : Statement (.vxor h t b) := by
  intro _ _ hw
  refine decode_of_build rfl rfl hw ?_
  rw [build_4B rfl]
  rw [rhs_back (b := b) rfl rfl]
  simp only [Raw.int, IntTy.ofCode_code, orErr, bind, Except.bind, Except.map]
theorem vshl (h : Hdr) (t : IntTy) (b : Rhs) : Statement (.vshl h t b) := by
  intro _ _ hw
  refine decode_of_build rfl rfl hw ?_
  rw [build_4C rfl]
  rw [rhs_back (b := b) rfl rfl]
  simp only [Raw.int, IntTy.ofCode_code, orErr, bind, Except.bind, Except.map]
theorem vshr (h : Hdr) (t : IntTy) (b : Rhs) : Statement (.vshr h t b) := by
  intro _ _ hw
  refine decode_of_build rfl rfl hw ?_
  rw [build_4D rfl]
  rw [rhs_back (b := b) rfl rfl]
  simp only [Raw.int, IntTy.ofCode_code, orErr, bind, Except.bind, Except.map]
theorem vsar (h : Hdr) (t : IntTy) (b : Rhs) : Statement (.vsar h t b) := by
  intro _ _ hw
  refine decode_of_build rfl rfl hw ?_
  rw [build_4E rfl]
  rw [rhs_back (b := b) rfl rfl]
  simp only [Raw.int, IntTy.ofCode_code, orErr, bind, Except.bind, Except.map]
theorem vtst (h : Hdr) (t : Ty) (c : Cond) : Statement (.vtst h t c) := by
  intro _ _ hw
  refine decode_of_build rfl rfl hw ?_
  rw [build_4F rfl]
  simp only [Raw.ty, Ty.ofCode_code, Cond.ofCode_code, litC_aux, orErr, bind, Except.bind, Except.map]
theorem vsel (h : Hdr) (t : Ty) : Statement (.vsel h t) := by
  intro _ _ hw
  refine decode_of_build rfl rfl hw ?_
  rw [build_50 rfl]
  simp only [Raw.ty, Ty.ofCode_code, orErr, bind, Except.bind, Except.map]
theorem vcvt (h : Hdr) (d : Ty) (s : Ty) (rm : Rm) (part : BitVec 2) : Statement (.vcvt h d s rm part) := by
  intro _ _ hw
  refine decode_of_build rfl rfl hw ?_
  rw [build_51 rfl]
  simp only [Raw.ty, Ty.ofCode_code, Raw.rm, litC_rm, Rm.ofCode_code, litC_aux, orErr, bind, Except.bind, Except.map]
  refine congrArg Except.ok ?_
  congr 1
  all_goals
    apply BitVec.eq_of_getLsbD_eq; intro i hi
    simp only [litC, litM, litVk, BitVec.getLsbD_extractLsb', BitVec.getLsbD_append, BitVec.getLsbD_ofBool]; grind
theorem vexp2 (h : Hdr) (t : FpTy) (rm : Rm) : Statement (.vexp2 h t rm) := by
  intro _ _ hw
  refine decode_of_build rfl rfl hw ?_
  rw [build_52 rfl]
  simp only [Raw.fp, FpTy.ofCode_code, Raw.rm, litC_rm, Rm.ofCode_code, orErr, bind, Except.bind, Except.map]
theorem vlog2 (h : Hdr) (t : FpTy) (rm : Rm) : Statement (.vlog2 h t rm) := by
  intro _ _ hw
  refine decode_of_build rfl rfl hw ?_
  rw [build_53 rfl]
  simp only [Raw.fp, FpTy.ofCode_code, Raw.rm, litC_rm, Rm.ofCode_code, orErr, bind, Except.bind, Except.map]
theorem vrsq (h : Hdr) (t : FpTy) (rm : Rm) : Statement (.vrsq h t rm) := by
  intro _ _ hw
  refine decode_of_build rfl rfl hw ?_
  rw [build_54 rfl]
  simp only [Raw.fp, FpTy.ofCode_code, Raw.rm, litC_rm, Rm.ofCode_code, orErr, bind, Except.bind, Except.map]
theorem vbcast (h : Hdr) (t : Ty) : Statement (.vbcast h t) := by
  intro _ _ hw
  refine decode_of_build rfl rfl hw ?_
  rw [build_55 rfl]
  simp only [Raw.ty, Ty.ofCode_code, orErr, bind, Except.bind, Except.map]
theorem vextr (h : Hdr) (t : Ty) (lane : BitVec 7) : Statement (.vextr h t lane) := by
  intro _ _ hw
  refine decode_of_build rfl rfl hw ?_
  rw [build_56 rfl]
  simp only [Raw.ty, Ty.ofCode_code, orErr, bind, Except.bind, Except.map]
  refine congrArg Except.ok ?_
  congr 1
  all_goals
    apply BitVec.eq_of_getLsbD_eq; intro i hi
    simp only [litC, litM, litVk, BitVec.getLsbD_extractLsb', BitVec.getLsbD_append, BitVec.getLsbD_ofBool]; grind
theorem vins (h : Hdr) (t : Ty) (lane : BitVec 7) : Statement (.vins h t lane) := by
  intro _ _ hw
  refine decode_of_build rfl rfl hw ?_
  rw [build_57 rfl]
  simp only [Raw.ty, Ty.ofCode_code, orErr, bind, Except.bind, Except.map]
  refine congrArg Except.ok ?_
  congr 1
  all_goals
    apply BitVec.eq_of_getLsbD_eq; intro i hi
    simp only [litC, litM, litVk, BitVec.getLsbD_extractLsb', BitVec.getLsbD_append, BitVec.getLsbD_ofBool]; grind
theorem vperm (h : Hdr) (t : Ty) : Statement (.vperm h t) := by
  intro _ _ hw
  refine decode_of_build rfl rfl hw ?_
  rw [build_58 rfl]
  simp only [Raw.ty, Ty.ofCode_code, orErr, bind, Except.bind, Except.map]
theorem viota (h : Hdr) (t : IntTy) : Statement (.viota h t) := by
  intro _ _ hw
  refine decode_of_build rfl rfl hw ?_
  rw [build_59 rfl]
  simp only [Raw.int, IntTy.ofCode_code, orErr, bind, Except.bind, Except.map]
theorem vred (h : Hdr) (t : Ty) (f : RedFn) (rm : Rm) (mk : Bool) : Statement (.vred h t f rm mk) := by
  intro _ _ hw
  refine decode_of_build rfl rfl hw ?_
  rw [build_5A rfl]
  simp only [Raw.ty, Ty.ofCode_code, Raw.rm, litC_rm, Rm.ofCode_code, Raw.vk, RedFn.ofCode_code, litC_aux, litVk_vk, orErr, bind, Except.bind, Except.map]
  refine congrArg Except.ok ?_
  congr 1
  all_goals first
    | rfl
    | (apply BitVec.eq_of_getLsbD_eq; intro i hi
       simp only [litC, litVk, litM, BitVec.getLsbD_extractLsb', BitVec.getLsbD_append, BitVec.getLsbD_ofBool]; grind)
    | (simp only [litC, litVk, litM, BitVec.getLsbD_append, BitVec.getLsbD_ofBool]; grind)
theorem vscan (h : Hdr) (t : Ty) (rm : Rm) (mk : Bool) : Statement (.vscan h t rm mk) := by
  intro _ _ hw
  refine decode_of_build rfl rfl hw ?_
  rw [build_5B rfl]
  simp only [Raw.ty, Ty.ofCode_code, Raw.rm, litC_rm, Rm.ofCode_code, Raw.vk, litVk_vk, orErr, bind, Except.bind, Except.map]
  refine congrArg Except.ok ?_
  congr 1
  all_goals first
    | rfl
    | (apply BitVec.eq_of_getLsbD_eq; intro i hi
       simp only [litC, litVk, litM, BitVec.getLsbD_extractLsb', BitVec.getLsbD_append, BitVec.getLsbD_ofBool]; grind)
    | (simp only [litC, litVk, litM, BitVec.getLsbD_append, BitVec.getLsbD_ofBool]; grind)
theorem vdot (h : Hdr) (t : Ty) (rm : Rm) (mk : Bool) : Statement (.vdot h t rm mk) := by
  intro _ _ hw
  refine decode_of_build rfl rfl hw ?_
  rw [build_5C rfl]
  simp only [Raw.ty, Ty.ofCode_code, Raw.rm, litC_rm, Rm.ofCode_code, Raw.vk, litVk_vk, orErr, bind, Except.bind, Except.map]
  refine congrArg Except.ok ?_
  congr 1
  all_goals first
    | rfl
    | (apply BitVec.eq_of_getLsbD_eq; intro i hi
       simp only [litC, litVk, litM, BitVec.getLsbD_extractLsb', BitVec.getLsbD_append, BitVec.getLsbD_ofBool]; grind)
    | (simp only [litC, litVk, litM, BitVec.getLsbD_append, BitVec.getLsbD_ofBool]; grind)
theorem vmaxi (h : Hdr) (t : Ty) (mk : Bool) : Statement (.vmaxi h t mk) := by
  intro _ _ hw
  refine decode_of_build rfl rfl hw ?_
  rw [build_5D rfl]
  simp only [Raw.ty, Ty.ofCode_code, Raw.vk, litVk_vk, orErr, bind, Except.bind, Except.map]
  refine congrArg Except.ok ?_
  congr 1
  all_goals first
    | rfl
    | (apply BitVec.eq_of_getLsbD_eq; intro i hi
       simp only [litC, litVk, litM, BitVec.getLsbD_extractLsb', BitVec.getLsbD_append, BitVec.getLsbD_ofBool]; grind)
    | (simp only [litC, litVk, litM, BitVec.getLsbD_append, BitVec.getLsbD_ofBool]; grind)
theorem vmini (h : Hdr) (t : Ty) (mk : Bool) : Statement (.vmini h t mk) := by
  intro _ _ hw
  refine decode_of_build rfl rfl hw ?_
  rw [build_5E rfl]
  simp only [Raw.ty, Ty.ofCode_code, Raw.vk, litVk_vk, orErr, bind, Except.bind, Except.map]
  refine congrArg Except.ok ?_
  congr 1
  all_goals first
    | rfl
    | (apply BitVec.eq_of_getLsbD_eq; intro i hi
       simp only [litC, litVk, litM, BitVec.getLsbD_extractLsb', BitVec.getLsbD_append, BitVec.getLsbD_ofBool]; grind)
    | (simp only [litC, litVk, litM, BitVec.getLsbD_append, BitVec.getLsbD_ofBool]; grind)
theorem amax (h : Hdr) (t : TapTy) : Statement (.amax h t) := by
  intro _ _ hw
  refine decode_of_build rfl rfl hw ?_
  rw [build_60 rfl]
  simp only [Raw.tap, TapTy.ofCode_code, orErr, bind, Except.bind, Except.map]
theorem cvq (h : Hdr) (t : TapTy) (ch : BitVec 5) : Statement (.cvq h t ch) := by
  intro _ _ hw
  refine decode_of_build rfl rfl hw ?_
  rw [build_61 rfl]
  simp only [Raw.tap, TapTy.ofCode_code, orErr, bind, Except.bind, Except.map]
  refine congrArg Except.ok ?_
  congr 1
  all_goals
    apply BitVec.eq_of_getLsbD_eq; intro i hi
    simp only [litC, litM, litVk, BitVec.getLsbD_extractLsb', BitVec.getLsbD_append, BitVec.getLsbD_ofBool]; grind
theorem cvdq (h : Hdr) (t : TapTy) (qtr : BitVec 2) : Statement (.cvdq h t qtr) := by
  intro _ _ hw
  refine decode_of_build rfl rfl hw ?_
  rw [build_62 rfl]
  simp only [Raw.tap, TapTy.ofCode_code, orErr, bind, Except.bind, Except.map]
  refine congrArg Except.ok ?_
  congr 1
  all_goals
    apply BitVec.eq_of_getLsbD_eq; intro i hi
    simp only [litC, litM, litVk, BitVec.getLsbD_extractLsb', BitVec.getLsbD_append, BitVec.getLsbD_ofBool]; grind
theorem chset (h : Hdr) : Statement (.chset h) := by
  intro _ _ hw
  refine decode_of_build rfl rfl hw ?_
  rw [build_63 rfl]
theorem chtab (h : Hdr) : Statement (.chtab h) := by
  intro _ _ hw
  refine decode_of_build rfl rfl hw ?_
  rw [build_64 rfl]
theorem sclw (h : Hdr) (sreg : BitVec 4) (qmask : BitVec 4) : Statement (.sclw h sreg qmask) := by
  intro _ _ hw
  refine decode_of_build rfl rfl hw ?_
  rw [build_65 rfl]
  refine congrArg Except.ok ?_
  congr 1
  all_goals
    apply BitVec.eq_of_getLsbD_eq; intro i hi
    simp only [litC, litM, litVk, BitVec.getLsbD_extractLsb', BitVec.getLsbD_append, BitVec.getLsbD_ofBool]; grind
theorem vpk (h : Hdr) : Statement (.vpk h) := by
  intro _ _ hw
  refine decode_of_build rfl rfl hw ?_
  rw [build_66 rfl]
theorem vupk (h : Hdr) : Statement (.vupk h) := by
  intro _ _ hw
  refine decode_of_build rfl rfl hw ?_
  rw [build_67 rfl]
theorem rngs (h : Hdr) : Statement (.rngs h) := by
  intro _ _ hw
  refine decode_of_build rfl rfl hw ?_
  rw [build_68 rfl]
theorem rngn (h : Hdr) (drw : BitVec 4) : Statement (.rngn h drw) := by
  intro _ _ hw
  refine decode_of_build rfl rfl hw ?_
  rw [build_69 rfl]
  refine congrArg Except.ok ?_
  congr 1
  all_goals
    apply BitVec.eq_of_getLsbD_eq; intro i hi
    simp only [litC, litM, litVk, BitVec.getLsbD_extractLsb', BitVec.getLsbD_append, BitVec.getLsbD_ofBool]; grind
theorem rngf (h : Hdr) (drw : BitVec 4) : Statement (.rngf h drw) := by
  intro _ _ hw
  refine decode_of_build rfl rfl hw ?_
  rw [build_6A rfl]
  refine congrArg Except.ok ?_
  congr 1
  all_goals
    apply BitVec.eq_of_getLsbD_eq; intro i hi
    simp only [litC, litM, litVk, BitVec.getLsbD_extractLsb', BitVec.getLsbD_append, BitVec.getLsbD_ofBool]; grind
theorem sample (h : Hdr) (drw : BitVec 4) : Statement (.sample h drw) := by
  intro _ _ hw
  refine decode_of_build rfl rfl hw ?_
  rw [build_6B rfl]
  refine congrArg Except.ok ?_
  congr 1
  all_goals
    apply BitVec.eq_of_getLsbD_eq; intro i hi
    simp only [litC, litM, litVk, BitVec.getLsbD_extractLsb', BitVec.getLsbD_append, BitVec.getLsbD_ofBool]; grind
theorem topk (h : Hdr) (b : Rhs) : Statement (.topk h b) := by
  intro _ _ hw
  refine decode_of_build rfl rfl hw ?_
  rw [build_6C rfl]
  rw [rhs_back (b := b) rfl rfl]
theorem accept (h : Hdr) (dl : BitVec 5) (near : Option (BitVec 4)) : Statement (.accept h dl near) := by
  intro _ _ hw
  refine decode_of_build rfl rfl hw ?_
  rw [build_6D rfl]
  have f1 : litExt (litC 0 0 (0#2 ++ nearExt near ++ 0#27 ++ dl)) = nearExt near := by
    apply BitVec.eq_of_getLsbD_eq; intro i hi
    simp only [litExt, litC, BitVec.getLsbD_extractLsb', BitVec.getLsbD_append, BitVec.getLsbD_ofBool]; grind
  simp only [litM_ext, nearOf_ext, f1, orErr, bind, Except.bind, Except.map]
  refine congrArg Except.ok ?_
  congr 1
  all_goals
    apply BitVec.eq_of_getLsbD_eq; intro i hi
    simp only [litC, litM, litVk, BitVec.getLsbD_extractLsb', BitVec.getLsbD_append, BitVec.getLsbD_ofBool]; grind
theorem ld (h : Hdr) (t : Ty) (m : MemLit) (ch : BitVec 5) : Statement (.ld h t m ch) := by
  intro _ _ hw
  refine decode_of_build rfl rfl hw ?_
  rw [build_70 rfl]
  simp only [Raw.ty, Ty.ofCode_code, Raw.mem, litM_mem, orErr, bind, Except.bind, Except.map]
  refine congrArg Except.ok ?_
  congr 1
  all_goals
    apply BitVec.eq_of_getLsbD_eq; intro i hi
    simp only [litC, litM, litVk, BitVec.getLsbD_extractLsb', BitVec.getLsbD_append, BitVec.getLsbD_ofBool]; grind
theorem st (h : Hdr) (t : Ty) (m : MemLit) : Statement (.st h t m) := by
  intro _ _ hw
  refine decode_of_build rfl rfl hw ?_
  rw [build_71 rfl]
  simp only [Raw.ty, Ty.ofCode_code, Raw.mem, litM_mem, orErr, bind, Except.bind, Except.map]
theorem vld (h : Hdr) (t : Ty) (m : MemLit) (ch : BitVec 5) : Statement (.vld h t m ch) := by
  intro _ _ hw
  refine decode_of_build rfl rfl hw ?_
  rw [build_72 rfl]
  simp only [Raw.ty, Ty.ofCode_code, Raw.mem, litM_mem, orErr, bind, Except.bind, Except.map]
  refine congrArg Except.ok ?_
  congr 1
  all_goals
    apply BitVec.eq_of_getLsbD_eq; intro i hi
    simp only [litC, litM, litVk, BitVec.getLsbD_extractLsb', BitVec.getLsbD_append, BitVec.getLsbD_ofBool]; grind
theorem vst (h : Hdr) (t : Ty) (m : MemLit) : Statement (.vst h t m) := by
  intro _ _ hw
  refine decode_of_build rfl rfl hw ?_
  rw [build_73 rfl]
  simp only [Raw.ty, Ty.ofCode_code, Raw.mem, litM_mem, orErr, bind, Except.bind, Except.map]
theorem vldg (h : Hdr) (t : Ty) (m : MemLit) (ch : BitVec 5) : Statement (.vldg h t m ch) := by
  intro _ _ hw
  refine decode_of_build rfl rfl hw ?_
  rw [build_74 rfl]
  simp only [Raw.ty, Ty.ofCode_code, Raw.mem, litM_mem, orErr, bind, Except.bind, Except.map]
  refine congrArg Except.ok ?_
  congr 1
  all_goals
    apply BitVec.eq_of_getLsbD_eq; intro i hi
    simp only [litC, litM, litVk, BitVec.getLsbD_extractLsb', BitVec.getLsbD_append, BitVec.getLsbD_ofBool]; grind
theorem vsts (h : Hdr) (t : Ty) (m : MemLit) : Statement (.vsts h t m) := by
  intro _ _ hw
  refine decode_of_build rfl rfl hw ?_
  rw [build_75 rfl]
  simp only [Raw.ty, Ty.ofCode_code, Raw.mem, litM_mem, orErr, bind, Except.bind, Except.map]
theorem ldr (h : Hdr) (t : Ty) (m : MemLit) (ch : BitVec 5) : Statement (.ldr h t m ch) := by
  intro _ _ hw
  refine decode_of_build rfl rfl hw ?_
  rw [build_76 rfl]
  simp only [Raw.ty, Ty.ofCode_code, Raw.mem, litM_mem, orErr, bind, Except.bind, Except.map]
  refine congrArg Except.ok ?_
  congr 1
  all_goals
    apply BitVec.eq_of_getLsbD_eq; intro i hi
    simp only [litC, litM, litVk, BitVec.getLsbD_extractLsb', BitVec.getLsbD_append, BitVec.getLsbD_ofBool]; grind
theorem pref (h : Hdr) (m : MemLit) (pgs : BitVec 4) : Statement (.pref h m pgs) := by
  intro _ _ hw
  refine decode_of_build rfl rfl hw ?_
  rw [build_77 rfl]
  simp only [Raw.mem, litM_mem, orErr, bind, Except.bind, Except.map]
  refine congrArg Except.ok ?_
  congr 1
  all_goals
    apply BitVec.eq_of_getLsbD_eq; intro i hi
    simp only [litC, litM, litVk, BitVec.getLsbD_extractLsb', BitVec.getLsbD_append, BitVec.getLsbD_ofBool]; grind
theorem red (h : Hdr) (t : Ty) (m : MemLit) (f : MemFn) : Statement (.red h t m f) := by
  intro _ _ hw
  refine decode_of_build rfl rfl hw ?_
  rw [build_78 rfl]
  have f1 : (litM m 0 (0#2 ++ f.code)).extractLsb' 32 4 = f.code := by
    apply BitVec.eq_of_getLsbD_eq; intro i hi
    simp only [litM, BitVec.getLsbD_extractLsb', BitVec.getLsbD_append, BitVec.getLsbD_ofBool]; grind
  simp only [Raw.ty, Ty.ofCode_code, Raw.mem, litM_mem, MemFn.ofCode_code, f1, orErr, bind, Except.bind, Except.map]
theorem vredm (h : Hdr) (t : Ty) (m : MemLit) (f : MemFn) : Statement (.vredm h t m f) := by
  intro _ _ hw
  refine decode_of_build rfl rfl hw ?_
  rw [build_79 rfl]
  have f1 : (litM m 0 (0#2 ++ f.code)).extractLsb' 32 4 = f.code := by
    apply BitVec.eq_of_getLsbD_eq; intro i hi
    simp only [litM, BitVec.getLsbD_extractLsb', BitVec.getLsbD_append, BitVec.getLsbD_ofBool]; grind
  simp only [Raw.ty, Ty.ofCode_code, Raw.mem, litM_mem, MemFn.ofCode_code, f1, orErr, bind, Except.bind, Except.map]
theorem mldred (h : Hdr) (lsid : BitVec 5) (ofs : BitVec 32) : Statement (.mldred h lsid ofs) := by
  intro _ _ hw
  refine decode_of_build rfl rfl hw ?_
  rw [build_7A rfl]
  refine congrArg Except.ok ?_
  congr 1
  all_goals
    apply BitVec.eq_of_getLsbD_eq; intro i hi
    simp only [litC, litM, litVk, BitVec.getLsbD_extractLsb', BitVec.getLsbD_append, BitVec.getLsbD_ofBool]; grind
theorem mldredReduce (req : Nat) : Statement (.mldredReduce req) := fun hh => Bool.noConfusion hh
theorem gset (h : Hdr) (lsid : BitVec 5) : Statement (.gset h lsid) := by
  intro _ _ hw
  refine decode_of_build rfl rfl hw ?_
  rw [build_7B rfl]
  refine congrArg Except.ok ?_
  congr 1
  all_goals
    apply BitVec.eq_of_getLsbD_eq; intro i hi
    simp only [litC, litM, litVk, BitVec.getLsbD_extractLsb', BitVec.getLsbD_append, BitVec.getLsbD_ofBool]; grind
theorem copy (h : Hdr) (lsid : BitVec 5) (e : EngLit) : Statement (.copy h lsid e) := by
  intro _ _ hw
  refine decode_of_build rfl rfl hw ?_
  rw [build_7C rfl]
  have f1 : (lsid ++ e.scope.code ++ BitVec.ofBool e.late ++ BitVec.ofBool e.renew ++ 0#38 : Lit).extractLsb' 40 3 = e.scope.code := by
    apply BitVec.eq_of_getLsbD_eq; intro i hi
    simp only [BitVec.getLsbD_extractLsb', BitVec.getLsbD_append, BitVec.getLsbD_ofBool]; grind
  have f2 : (lsid ++ e.scope.code ++ BitVec.ofBool e.late ++ BitVec.ofBool e.renew ++ 0#38 : Lit).getLsbD 39 = e.late := by
    simp only [BitVec.getLsbD_append, BitVec.getLsbD_ofBool]; grind
  have f3 : (lsid ++ e.scope.code ++ BitVec.ofBool e.late ++ BitVec.ofBool e.renew ++ 0#38 : Lit).getLsbD 38 = e.renew := by
    simp only [BitVec.getLsbD_append, BitVec.getLsbD_ofBool]; grind
  simp only [Raw.eng, Raw.scope, Scope.ofCode_code, f1, f2, f3, orErr, bind, Except.bind, Except.map]
  refine congrArg Except.ok ?_
  congr 1
  all_goals first
    | rfl
    | (apply BitVec.eq_of_getLsbD_eq; intro i hi
       simp only [litC, litVk, litM, BitVec.getLsbD_extractLsb', BitVec.getLsbD_append, BitVec.getLsbD_ofBool]; grind)
    | (simp only [litC, litVk, litM, BitVec.getLsbD_append, BitVec.getLsbD_ofBool]; grind)
theorem persist (h : Hdr) (m : MemLit) (kn : BitVec 4) : Statement (.persist h m kn) := by
  intro _ _ hw
  refine decode_of_build rfl rfl hw ?_
  rw [build_7D rfl]
  simp only [Raw.mem, litM_mem, orErr, bind, Except.bind, Except.map]
  refine congrArg Except.ok ?_
  congr 1
  all_goals
    apply BitVec.eq_of_getLsbD_eq; intro i hi
    simp only [litC, litM, litVk, BitVec.getLsbD_extractLsb', BitVec.getLsbD_append, BitVec.getLsbD_ofBool]; grind
theorem persistComplete (req : Nat) : Statement (.persistComplete req) := fun hh => Bool.noConfusion hh
theorem cadd (h : Hdr) (m : MemLit) (scope : Scope) (near : Option (BitVec 4)) : Statement (.cadd h m scope near) := by
  intro _ _ hw
  refine decode_of_build rfl rfl hw ?_
  rw [build_80 rfl]
  simp only [Raw.scope, litM_scope, Scope.ofCode_code, Raw.mem, litM_mem, litM_ext, nearOf_ext, orErr, bind, Except.bind, Except.map]
theorem caddr (h : Hdr) (m : MemLit) (scope : Scope) (near : Option (BitVec 4)) : Statement (.caddr h m scope near) := by
  intro _ _ hw
  refine decode_of_build rfl rfl hw ?_
  rw [build_81 rfl]
  simp only [Raw.scope, litM_scope, Scope.ofCode_code, Raw.mem, litM_mem, litM_ext, nearOf_ext, orErr, bind, Except.bind, Except.map]
theorem caddrReply (req : Nat) : Statement (.caddrReply req) := fun hh => Bool.noConfusion hh
theorem cwait (h : Hdr) (m : MemLit) (scope : Scope) (near : Option (BitVec 4)) : Statement (.cwait h m scope near) := by
  intro _ _ hw
  refine decode_of_build rfl rfl hw ?_
  rw [build_82 rfl]
  simp only [Raw.scope, litM_scope, Scope.ofCode_code, Raw.mem, litM_mem, litM_ext, nearOf_ext, orErr, bind, Except.bind, Except.map]
theorem cpoll (h : Hdr) (m : MemLit) (scope : Scope) (near : Option (BitVec 4)) : Statement (.cpoll h m scope near) := by
  intro _ _ hw
  refine decode_of_build rfl rfl hw ?_
  rw [build_83 rfl]
  simp only [Raw.scope, litM_scope, Scope.ofCode_code, Raw.mem, litM_mem, litM_ext, nearOf_ext, orErr, bind, Except.bind, Except.map]
theorem counterStep (pa : Nat) (reqs : List Nat) : Statement (.counterStep pa reqs) := fun hh => Bool.noConfusion hh
theorem durableStepComplete (pa : Nat) : Statement (.durableStepComplete pa) := fun hh => Bool.noConfusion hh
theorem promoteAnswer (task : Nat) : Statement (.promoteAnswer task) := fun hh => Bool.noConfusion hh
theorem mma (h : Hdr) (t : Ty) (e : EngLit) : Statement (.mma h t e) := by
  intro _ _ hw
  refine decode_of_build rfl rfl hw ?_
  rw [build_88 rfl]
  rw [litE_eng (e := e) rfl]
  simp only [Raw.ty, Ty.ofCode_code, orErr, bind, Except.bind, Except.map]
theorem mmaz (h : Hdr) (e : EngLit) : Statement (.mmaz h e) := by
  intro _ _ hw
  refine decode_of_build rfl rfl hw ?_
  rw [build_89 rfl]
  rw [litE_eng (e := e) rfl]
  rfl
theorem accld (h : Hdr) (e : EngLit) : Statement (.accld h e) := by
  intro _ _ hw
  refine decode_of_build rfl rfl hw ?_
  rw [build_8A rfl]
  rw [litE_eng (e := e) rfl]
  rfl
theorem accst (h : Hdr) (t : Ty) (e : EngLit) : Statement (.accst h t e) := by
  intro _ _ hw
  refine decode_of_build rfl rfl hw ?_
  rw [build_8B rfl]
  rw [litE_eng (e := e) rfl]
  simp only [Raw.ty, Ty.ofCode_code, orErr, bind, Except.bind, Except.map]
theorem lxtab (h : Hdr) (e : EngLit) : Statement (.lxtab h e) := by
  intro _ _ hw
  refine decode_of_build rfl rfl hw ?_
  rw [build_90 rfl]
  rw [litE_eng (e := e) rfl]
  rfl
theorem lxctx (h : Hdr) (e : EngLit) : Statement (.lxctx h e) := by
  intro _ _ hw
  refine decode_of_build rfl rfl hw ?_
  rw [build_91 rfl]
  rw [litE_eng (e := e) rfl]
  rfl
theorem lxrun (h : Hdr) (e : EngLit) : Statement (.lxrun h e) := by
  intro _ _ hw
  refine decode_of_build rfl rfl hw ?_
  rw [build_92 rfl]
  rw [litE_eng (e := e) rfl]
  rfl
theorem lxtin (h : Hdr) (e : EngLit) : Statement (.lxtin h e) := by
  intro _ _ hw
  refine decode_of_build rfl rfl hw ?_
  rw [build_93 rfl]
  rw [litE_eng (e := e) rfl]
  rfl
theorem lxtout (h : Hdr) (e : EngLit) : Statement (.lxtout h e) := by
  intro _ _ hw
  refine decode_of_build rfl rfl hw ?_
  rw [build_94 rfl]
  rw [litE_eng (e := e) rfl]
  rfl
theorem spawn (h : Hdr) (na : Fin 3) (blk : BitVec 33) : Statement (.spawn h na blk) := by
  intro _ _ hw
  fin_cases na
  all_goals
    refine decode_of_build rfl rfl hw ?_
    rw [build_98 rfl]
    have f1 : ∀ x : BitVec 2, (0#13 ++ x ++ blk : Lit).extractLsb' 33 2 = x := by
      intro x
      apply BitVec.eq_of_getLsbD_eq; intro i hi
      simp only [BitVec.getLsbD_extractLsb', BitVec.getLsbD_append]; grind
    simp only [Raw.na, f1, orErr, bind, Except.bind, Except.map]
    refine congrArg Except.ok ?_
    congr 1
    all_goals
      apply BitVec.eq_of_getLsbD_eq; intro i hi
      simp only [litC, litM, litVk, BitVec.getLsbD_extractLsb', BitVec.getLsbD_append, BitVec.getLsbD_ofBool]; grind
theorem spawnNowait (h : Hdr) (na : Fin 3) (blk : BitVec 33) : Statement (.spawnNowait h na blk) := by
  intro _ _ hw
  fin_cases na
  all_goals
    refine decode_of_build rfl rfl hw ?_
    rw [build_98 rfl]
    have f1 : ∀ x : BitVec 2, (0#13 ++ x ++ blk : Lit).extractLsb' 33 2 = x := by
      intro x
      apply BitVec.eq_of_getLsbD_eq; intro i hi
      simp only [BitVec.getLsbD_extractLsb', BitVec.getLsbD_append]; grind
    simp only [Raw.na, f1, orErr, bind, Except.bind, Except.map]
    refine congrArg Except.ok ?_
    congr 1
    all_goals
      apply BitVec.eq_of_getLsbD_eq; intro i hi
      simp only [litC, litM, litVk, BitVec.getLsbD_extractLsb', BitVec.getLsbD_append, BitVec.getLsbD_ofBool]; grind
theorem spawnResume (region : Nat) : Statement (.spawnResume region) := fun hh => Bool.noConfusion hh
theorem retn (h : Hdr) : Statement (.retn h) := by
  intro _ _ hw
  refine decode_of_build rfl rfl hw ?_
  rw [build_99 rfl]
theorem launch (h : Hdr) : Statement (.launch h) := by
  intro _ _ hw
  refine decode_of_build rfl rfl hw ?_
  rw [build_9A rfl]
theorem cancel (h : Hdr) : Statement (.cancel h) := by
  intro _ _ hw
  refine decode_of_build rfl rfl hw ?_
  rw [build_9B rfl]
  dsimp only
  exact congrArg Except.ok (if_neg (by decide))
theorem cancelLaunch (h : Hdr) : Statement (.cancelLaunch h) := by
  intro _ _ hw
  refine decode_of_build rfl rfl hw ?_
  rw [build_9B rfl]
  dsimp only
  exact congrArg Except.ok (if_pos (by decide))
theorem cancelMarkSeen (c : CtxId) : Statement (.cancelMarkSeen c) := fun hh => Bool.noConfusion hh
theorem trap (h : Hdr) (code : BitVec 16) : Statement (.trap h code) := by
  intro _ _ hw
  refine decode_of_build rfl rfl hw ?_
  rw [build_A0 rfl]
  refine congrArg Except.ok ?_
  congr 1
  all_goals
    apply BitVec.eq_of_getLsbD_eq; intro i hi
    simp only [litC, litM, litVk, BitVec.getLsbD_extractLsb', BitVec.getLsbD_append, BitVec.getLsbD_ofBool]; grind
theorem fltr (h : Hdr) : Statement (.fltr h) := by
  intro _ _ hw
  refine decode_of_build rfl rfl hw ?_
  rw [build_A1 rfl]
theorem msg (h : Hdr) : Statement (.msg h) := by
  intro _ _ hw
  refine decode_of_build rfl rfl hw ?_
  rw [build_A2 rfl]
theorem msgReply (h : Hdr) : Statement (.msgReply h) := fun _ hn => absurd rfl (hn h)
theorem msgr (h : Hdr) : Statement (.msgr h) := by
  intro _ _ hw
  refine decode_of_build rfl rfl hw ?_
  rw [build_A3 rfl]
theorem msgrReceive (c : CtxId) : Statement (.msgrReceive c) := fun hh => Bool.noConfusion hh
theorem dusk (h : Hdr) : Statement (.dusk h) := by
  intro _ _ hw
  refine decode_of_build rfl rfl hw ?_
  rw [build_A4 rfl]
  dsimp only
  exact congrArg Except.ok (if_neg (by decide))
theorem duskSave (h : Hdr) : Statement (.duskSave h) := by
  intro _ _ hw
  refine decode_of_build rfl rfl hw ?_
  rw [build_A4 rfl]
  dsimp only
  exact congrArg Except.ok (if_pos (by decide))
theorem duskMarkerArrival (region : Nat) (block : Word) (node : Nat) : Statement (.duskMarkerArrival region block node) := fun hh => Bool.noConfusion hh
theorem ctxsv (h : Hdr) : Statement (.ctxsv h) := by
  intro _ _ hw
  refine decode_of_build rfl rfl hw ?_
  rw [build_A5 rfl]
theorem ctxld (h : Hdr) : Statement (.ctxld h) := by
  intro _ _ hw
  refine decode_of_build rfl rfl hw ?_
  rw [build_A6 rfl]
theorem litw (h : Hdr) (node : BitVec 7) : Statement (.litw h node) := by
  intro _ _ hw
  refine decode_of_build rfl rfl hw ?_
  rw [build_A7 rfl]
  refine congrArg Except.ok ?_
  congr 1
  all_goals
    apply BitVec.eq_of_getLsbD_eq; intro i hi
    simp only [litC, litM, litVk, BitVec.getLsbD_extractLsb', BitVec.getLsbD_append, BitVec.getLsbD_ofBool]; grind
theorem badn (h : Hdr) : Statement (.badn h) := by
  intro _ _ hw
  refine decode_of_build rfl rfl hw ?_
  rw [build_A8 rfl]
theorem apset (h : Hdr) : Statement (.apset h) := by
  intro _ _ hw
  refine decode_of_build rfl rfl hw ?_
  rw [build_A9 rfl]
theorem time (h : Hdr) : Statement (.time h) := by
  intro _ _ hw
  refine decode_of_build rfl rfl hw ?_
  rw [build_AA rfl]
theorem retire (h : Hdr) : Statement (.retire h) := by
  intro _ _ hw
  refine decode_of_build rfl rfl hw ?_
  rw [build_AB rfl]
theorem tokenArrival (pkt : Nat) : Statement (.tokenArrival pkt) := fun hh => Bool.noConfusion hh
theorem blockFetch (c : CtxId) (pred : Option Succ) : Statement (.blockFetch c pred) := fun hh => Bool.noConfusion hh
theorem commit (c : CtxId) : Statement (.commit c) := fun hh => Bool.noConfusion hh
theorem commitWatchdog (c : CtxId) : Statement (.commitWatchdog c) := fun hh => Bool.noConfusion hh
theorem tick (onWire : List Nat) : Statement (.tick onWire) := fun hh => Bool.noConfusion hh
theorem tileAccess (req : Nat) : Statement (.tileAccess req) := fun hh => Bool.noConfusion hh
theorem pageFillComplete (pte : Nat) : Statement (.pageFillComplete pte) := fun hh => Bool.noConfusion hh
theorem pagerDecline (pte : Nat) : Statement (.pagerDecline pte) := fun hh => Bool.noConfusion hh
theorem pagerMigrateStart (pte : Nat) (die : Nat) : Statement (.pagerMigrateStart pte die) := fun hh => Bool.noConfusion hh
theorem pagerEvictStart (pte : Nat) : Statement (.pagerEvictStart pte) := fun hh => Bool.noConfusion hh
theorem migrationComplete (pte : Nat) : Statement (.migrationComplete pte) := fun hh => Bool.noConfusion hh
theorem evictionComplete (pte : Nat) : Statement (.evictionComplete pte) := fun hh => Bool.noConfusion hh
theorem writebackComplete (pte : Nat) : Statement (.writebackComplete pte) := fun hh => Bool.noConfusion hh
theorem heatWindowEnd : Statement (.heatWindowEnd) := fun hh => Bool.noConfusion hh
theorem homePerform (req : Nat) (piece : Nat) : Statement (.homePerform req piece) := fun hh => Bool.noConfusion hh
theorem peerAccess (dev : BitVec 16) (req : Nat) : Statement (.peerAccess dev req) := fun hh => Bool.noConfusion hh
theorem streamerAccept (die : Nat) (k : Nat) (req : Nat) : Statement (.streamerAccept die k req) := fun hh => Bool.noConfusion hh
theorem streamerComplete (die : Nat) (k : Nat) (req : Nat) : Statement (.streamerComplete die k req) := fun hh => Bool.noConfusion hh
theorem islandAccept (die : Nat) (k : Nat) (req : Nat) : Statement (.islandAccept die k req) := fun hh => Bool.noConfusion hh
theorem islandComplete (die : Nat) (k : Nat) : Statement (.islandComplete die k) := fun hh => Bool.noConfusion hh
theorem latticeAccept (die : Nat) (req : Nat) : Statement (.latticeAccept die req) := fun hh => Bool.noConfusion hh
theorem latticeComplete (die : Nat) : Statement (.latticeComplete die) := fun hh => Bool.noConfusion hh
theorem tcbReady (task : Nat) : Statement (.tcbReady task) := fun hh => Bool.noConfusion hh
theorem taskDispatch (die : Nat) : Statement (.taskDispatch die) := fun hh => Bool.noConfusion hh
theorem taskSteal (die : Nat) : Statement (.taskSteal die) := fun hh => Bool.noConfusion hh
theorem taskFinish (task : Nat) : Statement (.taskFinish task) := fun hh => Bool.noConfusion hh
theorem regionPlace (job : Nat) : Statement (.regionPlace job) := fun hh => Bool.noConfusion hh
theorem itemStart (job : Nat) (region : Nat) : Statement (.itemStart job region) := fun hh => Bool.noConfusion hh
theorem itemFinish (job : Nat) (item : Nat) : Statement (.itemFinish job item) := fun hh => Bool.noConfusion hh
theorem regionFree (job : Nat) : Statement (.regionFree job) := fun hh => Bool.noConfusion hh
theorem launchSubmit (msg : Nat) : Statement (.launchSubmit msg) := fun hh => Bool.noConfusion hh
theorem jobRecordRead (msg : Nat) : Statement (.jobRecordRead msg) := fun hh => Bool.noConfusion hh
theorem haltReport (c : CtxId) : Statement (.haltReport c) := fun hh => Bool.noConfusion hh
theorem haltAction (msg : Nat) : Statement (.haltAction msg) := fun hh => Bool.noConfusion hh
theorem regionList (msg : Nat) : Statement (.regionList msg) := fun hh => Bool.noConfusion hh
theorem objectCreate (msg : Nat) : Statement (.objectCreate msg) := fun hh => Bool.noConfusion hh
theorem apertureBind (msg : Nat) : Statement (.apertureBind msg) := fun hh => Bool.noConfusion hh
theorem apertureUnbind (msg : Nat) : Statement (.apertureUnbind msg) := fun hh => Bool.noConfusion hh
theorem objectRetire (msg : Nat) : Statement (.objectRetire msg) := fun hh => Bool.noConfusion hh
theorem objectReclaim (serial : BitVec 64) : Statement (.objectReclaim serial) := fun hh => Bool.noConfusion hh
theorem parityError (pkt : Nat) (die : Nat) (con : Nat) (pe : Nat) (dir : BitVec 3) (word : BitVec 5) : Statement (.parityError pkt die con pe dir word) := fun hh => Bool.noConfusion hh
theorem peerPacketReceive (dev : BitVec 16) (seq : BitVec 32) (p : PeerPayload) : Statement (.peerPacketReceive dev seq p) := fun hh => Bool.noConfusion hh
theorem sack (dev : BitVec 16) (base : BitVec 32) (bitmap : BitVec 64) : Statement (.sack dev base bitmap) := fun hh => Bool.noConfusion hh
theorem retransmitTimeout (dev : BitVec 16) (seq : BitVec 32) : Statement (.retransmitTimeout dev seq) := fun hh => Bool.noConfusion hh
theorem flitCrcFail (l : Link) : Statement (.flitCrcFail l) := fun hh => Bool.noConfusion hh
theorem boundaryFail (l : Link) : Statement (.boundaryFail l) := fun hh => Bool.noConfusion hh
theorem hostWindowAccess (link : Nat) (off : Nat) (size : Nat) (write : Option (List Byte)) : Statement (.hostWindowAccess link off size write) := fun hh => Bool.noConfusion hh
theorem backInvalidate (link : Nat) (window : Nat) (region : Nat) : Statement (.backInvalidate link window region) := fun hh => Bool.noConfusion hh
theorem backInvalidateComplete (link : Nat) (window : Nat) (region : Nat) (dirty : List (Nat × BitVec 8)) : Statement (.backInvalidateComplete link window region dirty) := fun hh => Bool.noConfusion hh
theorem ownerHoldExpire (link : Nat) (window : Nat) (region : Nat) : Statement (.ownerHoldExpire link window region) := fun hh => Bool.noConfusion hh
theorem hostCounterRead (link : Nat) (off : Nat) (size : Nat) : Statement (.hostCounterRead link off size) := fun hh => Bool.noConfusion hh
theorem hostCounterWrite (link : Nat) (off : Nat) (size : Nat) (v : BitVec 64) : Statement (.hostCounterWrite link off size v) := fun hh => Bool.noConfusion hh
theorem hostLaunchWrite (link : Nat) (v : BitVec 64) : Statement (.hostLaunchWrite link v) := fun hh => Bool.noConfusion hh
theorem hostCodeWrite (link : Nat) (v : BitVec 64) : Statement (.hostCodeWrite link v) := fun hh => Bool.noConfusion hh
theorem codeBindComplete (link : Nat) : Statement (.codeBindComplete link) := fun hh => Bool.noConfusion hh
theorem hostRegWrite (link : Nat) (off : Nat) (v : BitVec 64) : Statement (.hostRegWrite link off v) := fun hh => Bool.noConfusion hh
theorem resync : Statement (.resync) := fun hh => Bool.noConfusion hh
theorem mgmtRefresh : Statement (.mgmtRefresh) := fun hh => Bool.noConfusion hh
theorem pldmFirmwareUpdate (secver : BitVec 32) (build : BitVec 32) (verified : Bool) : Statement (.pldmFirmwareUpdate secver build verified) := fun hh => Bool.noConfusion hh
theorem getVersion : Statement (.getVersion) := fun hh => Bool.noConfusion hh
theorem getCapabilities : Statement (.getCapabilities) := fun hh => Bool.noConfusion hh
theorem negotiateAlgorithms : Statement (.negotiateAlgorithms) := fun hh => Bool.noConfusion hh
theorem getDigests : Statement (.getDigests) := fun hh => Bool.noConfusion hh
theorem getCertificate (offset : Nat) (length : Nat) : Statement (.getCertificate offset length) := fun hh => Bool.noConfusion hh
theorem challenge (nonce : BitVec 256) : Statement (.challenge nonce) := fun hh => Bool.noConfusion hh
theorem getMeasurements (signed : Bool) : Statement (.getMeasurements signed) := fun hh => Bool.noConfusion hh
theorem thermalWarning (die : Nat) (celsius : BitVec 8) : Statement (.thermalWarning die celsius) := fun hh => Bool.noConfusion hh
theorem thermalTrip (die : Nat) (celsius : BitVec 8) : Statement (.thermalTrip die celsius) := fun hh => Bool.noConfusion hh
theorem powerLoss (picks : List (Nat × Nat)) : Statement (.powerLoss picks) := fun hh => Bool.noConfusion hh
theorem bringUp (failedLinks : List Link) (failedDies : List Nat) (devNum : BitVec 16) (image : BitVec 32 × BitVec 32) : Statement (.bringUp failedLinks failedDies devNum image) := fun hh => Bool.noConfusion hh
theorem dieSupplyFault (die : Nat) : Statement (.dieSupplyFault die) := fun hh => Bool.noConfusion hh
theorem tableWalkComplete (die : Nat) (tile : Nat) (walker : Nat) : Statement (.tableWalkComplete die tile walker) := fun hh => Bool.noConfusion hh
end Sys2Proof.Laws.RoundTrip
end

