-- ==== Sys2Proof/Laws/SoundOps.lean ====
section
/-! SUPPORT. Soundness (`State.Sound`): the operations over memory, registers, requests, tiles and units keep a state sound. One lemma per function that answers a state. -/

namespace Sys2Proof.Machine
open Sys2Proof
variable {s t : State}

theorem sound_def : s.Sound = SoundAt s.mem s.faults.queues := rfl
variable {m : List Host.Cell} {qs : List (List (BitVec 256))}
theorem soundAt_write {a v} (h : SoundAt m qs) : SoundAt (Memory.write m a v) qs := ⟨Memory.write_wf h.1, h.2⟩
theorem soundAt_writeN {a v} (h : SoundAt m qs) : SoundAt (Memory.writeN m a v) qs := ⟨Memory.writeN_wf h.1, h.2⟩
theorem soundAt_setWord {a v} (h : SoundAt m qs) : SoundAt (Memory.setWord m a v) qs := ⟨Memory.setWord_wf h.1, h.2⟩
theorem soundAt_clear {a n} (h : SoundAt m qs) : SoundAt (Memory.clear m a n) qs := ⟨Memory.clear_wf h.1, h.2⟩
theorem soundAt_copy {a b n} (h : SoundAt m qs) : SoundAt (Memory.copy m a b n) qs := ⟨Memory.copy_wf h.1, h.2⟩
theorem soundAt_paste {a cs} (h : SoundAt m qs) : SoundAt (Memory.paste m a cs) qs := ⟨Memory.paste_wf h.1, h.2⟩
theorem mem_updAt {α : Type} {l : List α} {n : Nat} {f : α → α} {x : α} (h : x ∈ updAt l n f) : x ∈ l ∨ ∃ y ∈ l, x = f y := by
  induction l generalizing n with
  | nil => cases n <;> simp [updAt] at h
  | cons a l ih =>
    cases n with
    | zero => simp only [updAt, List.mem_cons] at h; grind
    | succ n => simp only [updAt, List.mem_cons] at h; grind
theorem updAt_append_le {ls : List (List (BitVec 256))} {q : Nat} {x : BitVec 256} (h : ∀ l ∈ ls, l.length ≤ 4096)
    (hq : ¬ (ls.getD q []).length ≥ 4096) : ∀ l ∈ updAt ls q (fun l => l ++ [x]), l.length ≤ 4096 := by
  induction ls generalizing q with
  | nil => cases q <;> simp [updAt]
  | cons a ls ih =>
    cases q with
    | zero =>
      simp only [updAt, List.mem_cons, forall_eq_or_imp, List.getD_cons_zero] at hq h ⊢
      exact ⟨by simp; omega, h.2⟩
    | succ q =>
      simp only [updAt, List.mem_cons, forall_eq_or_imp, List.getD_cons_succ] at hq h ⊢
      exact ⟨h.1, ih h.2 hq⟩
theorem soundAt_drop {q k} (h : SoundAt m qs) : SoundAt m (updAt qs q fun x => x.drop k) := by
  refine ⟨h.1, fun x hx => ?_⟩
  rcases mem_updAt hx with hx | ⟨y, hy, rfl⟩
  · exact h.2 x hx
  · have := h.2 y hy; simp; omega
theorem soundAt_filter {p} (h : SoundAt m qs) : SoundAt (m.filter p) qs := ⟨Sparse.filter_wfFrom p h.1, h.2⟩
theorem foldl_inv {α β : Type} {P : β → Prop} {f : β → α → β} {l : List α} {b : β} (hf : ∀ b a, P b → P (f b a)) (h : P b) :
    P (l.foldl f b) := by
  induction l generalizing b with
  | nil => exact h
  | cons a l ih => exact ih (hf b a h)
theorem sound_getD {o : Option State} (h : s.Sound) (ho : ∀ t, o = some t → t.Sound) : (o.getD s).Sound := by
  cases o with
  | none => exact h
  | some t => exact ho t rfl
theorem ite_cases {α : Type} {c : Prop} [Decidable c] {a b x : α} (e : (if c then a else b) = x) : a = x ∨ b = x := by
  by_cases h : c
  · exact .inl (by rwa [if_pos h] at e)
  · exact .inr (by rwa [if_neg h] at e)
theorem of_some (e : some s = some t) (h : s.Sound) : t.Sound := Option.some.inj e ▸ h
theorem sound_foldl {α : Type} {f : State → α → State} {l : List α} (hf : ∀ s a, State.Sound s → State.Sound (f s a)) (h : s.Sound) :
    State.Sound (l.foldl f s) := by
  induction l generalizing s with
  | nil => exact h
  | cons a l ih => exact ih (hf s a h)
theorem except_map_ok {ε α β : Type} {f : α → β} {x : Except ε α} {y : β} (e : x.map f = .ok y) : ∃ z, x = .ok z ∧ f z = y := by
  cases x with
  | error _ => simp [Except.map] at e
  | ok z => exact ⟨z, rfl, by simpa [Except.map] using e⟩
theorem toOption_some {ε α : Type} {x : Except ε α} {y : α} (e : x.toOption = some y) : x = .ok y := by
  cases x with
  | error _ => simp [Except.toOption] at e
  | ok z => simpa [Except.toOption] using e
theorem getD_cases {α : Type} (o : Option α) (x : α) : o.getD x = x ∨ o = some (o.getD x) := by
  cases o <;> simp
theorem State.updCtx_sound {a1 a2} (h : s.Sound) : (State.updCtx s a1 a2).Sound := by
  unfold State.updCtx
  grind [sound_def, soundAt_write, soundAt_writeN, soundAt_setWord, soundAt_clear, soundAt_copy, soundAt_paste, soundAt_drop, sound_foldl]
theorem State.updInst_sound {a1 a2 a3} (h : s.Sound) : (State.updInst s a1 a2 a3).Sound := by
  unfold State.updInst
  grind [sound_def, soundAt_write, soundAt_writeN, soundAt_setWord, soundAt_clear, soundAt_copy, soundAt_paste, soundAt_drop, sound_foldl, State.updCtx_sound]
theorem State.updOut_sound {a1 a2 a3} (h : s.Sound) : (State.updOut s a1 a2 a3).Sound := by
  unfold State.updOut
  grind [sound_def, soundAt_write, soundAt_writeN, soundAt_setWord, soundAt_clear, soundAt_copy, soundAt_paste, soundAt_drop, sound_foldl, State.updInst_sound]
theorem State.updRegion_sound {a1 a2} (h : s.Sound) : (State.updRegion s a1 a2).Sound := by
  unfold State.updRegion
  grind [sound_def, soundAt_write, soundAt_writeN, soundAt_setWord, soundAt_clear, soundAt_copy, soundAt_paste, soundAt_drop, sound_foldl]
theorem State.updJob_sound {a1 a2} (h : s.Sound) : (State.updJob s a1 a2).Sound := by
  unfold State.updJob
  grind [sound_def, soundAt_write, soundAt_writeN, soundAt_setWord, soundAt_clear, soundAt_copy, soundAt_paste, soundAt_drop, sound_foldl]
theorem State.updReq_sound {a1 a2} (h : s.Sound) : (State.updReq s a1 a2).Sound := by
  unfold State.updReq
  grind [sound_def, soundAt_write, soundAt_writeN, soundAt_setWord, soundAt_clear, soundAt_copy, soundAt_paste, soundAt_drop, sound_foldl]
theorem State.dropReq_sound {a1} (h : s.Sound) : (State.dropReq s a1).Sound := by
  unfold State.dropReq
  grind [sound_def, soundAt_write, soundAt_writeN, soundAt_setWord, soundAt_clear, soundAt_copy, soundAt_paste, soundAt_drop, sound_foldl]
theorem State.updTask_sound {a1 a2} (h : s.Sound) : (State.updTask s a1 a2).Sound := by
  unfold State.updTask
  grind [sound_def, soundAt_write, soundAt_writeN, soundAt_setWord, soundAt_clear, soundAt_copy, soundAt_paste, soundAt_drop, sound_foldl]
theorem State.bump_sound (h : s.Sound) : (State.bump s).Sound := by
  unfold State.bump
  grind [sound_def, soundAt_write, soundAt_writeN, soundAt_setWord, soundAt_clear, soundAt_copy, soundAt_paste, soundAt_drop, sound_foldl]
theorem State.free_sound (h : s.Sound) : (State.free s).2.Sound := by
  unfold State.free
  grind [sound_def, soundAt_write, soundAt_writeN, soundAt_setWord, soundAt_clear, soundAt_copy, soundAt_paste, soundAt_drop, sound_foldl]
theorem State.enqueueFault_sound {a1 a2 a3} (h : s.Sound) : (State.enqueueFault s a1 a2 a3).Sound := by
  unfold State.enqueueFault
  dsimp only
  split
  · exact h
  · rename_i hl
    have key : SoundAt s.mem (updAt s.faults.queues a1 fun l => l ++ [a3.words a2 (s.faults.loss.getD a1 false)]) :=
      ⟨h.1, updAt_append_le h.2 (by omega)⟩
    split <;> exact key
theorem State.postTo_sound {a1 a2 a3 a4} (h : s.Sound) : (State.postTo s a1 a2 a3 a4).Sound := by
  unfold State.postTo
  grind [sound_def, soundAt_write, soundAt_writeN, soundAt_setWord, soundAt_clear, soundAt_copy, soundAt_paste, soundAt_drop, sound_foldl, State.enqueueFault_sound]
theorem State.chargeJob_sound {a1 a2} (h : s.Sound) : (State.chargeJob s a1 a2).Sound := by
  unfold State.chargeJob
  grind [sound_def, soundAt_write, soundAt_writeN, soundAt_setWord, soundAt_clear, soundAt_copy, soundAt_paste, soundAt_drop, sound_foldl, State.updJob_sound]
theorem State.jobFlags_sound {a1 a2} (h : s.Sound) : (State.jobFlags s a1 a2).Sound := by
  unfold State.jobFlags
  grind [sound_def, soundAt_write, soundAt_writeN, soundAt_setWord, soundAt_clear, soundAt_copy, soundAt_paste, soundAt_drop, sound_foldl, State.updJob_sound]
theorem State.postAs_sound {a1 a2 a3} (h : s.Sound) : (State.postAs s a1 a2 a3).Sound := by
  unfold State.postAs
  grind [sound_def, soundAt_write, soundAt_writeN, soundAt_setWord, soundAt_clear, soundAt_copy, soundAt_paste, soundAt_drop, sound_foldl, State.postTo_sound]
theorem State.post_sound {a1 a2} (h : s.Sound) : (State.post s a1 a2).Sound := by
  unfold State.post
  grind [sound_def, soundAt_write, soundAt_writeN, soundAt_setWord, soundAt_clear, soundAt_copy, soundAt_paste, soundAt_drop, sound_foldl, State.postAs_sound]
theorem State.sendPacket_sound {a1 a2 a3 a4 a5} (h : s.Sound) : (State.sendPacket s a1 a2 a3 a4 a5).Sound := by
  unfold State.sendPacket
  grind [sound_def, soundAt_write, soundAt_writeN, soundAt_setWord, soundAt_clear, soundAt_copy, soundAt_paste, soundAt_drop, sound_foldl, State.bump_sound]
theorem State.sendTo_sound {a1 a2 a3 a4 a5 a6 a7 a8 a9} (h : s.Sound) : (State.sendTo s a1 a2 a3 a4 a5 a6 a7 a8 a9).Sound := by
  unfold State.sendTo
  grind [sound_def, soundAt_write, soundAt_writeN, soundAt_setWord, soundAt_clear, soundAt_copy, soundAt_paste, soundAt_drop, sound_foldl, State.sendPacket_sound, Option.bind_eq_some_iff, Option.map_eq_some_iff]
theorem State.reply2_sound {a1 a2 a3 a4 a5 a6} (h : s.Sound) : (State.reply2 s a1 a2 a3 a4 a5 a6).Sound := by
  unfold State.reply2
  grind [sound_def, soundAt_write, soundAt_writeN, soundAt_setWord, soundAt_clear, soundAt_copy, soundAt_paste, soundAt_drop, sound_foldl, State.sendTo_sound]
theorem State.updKept_sound {a1 a2 a3} (h : s.Sound) : (State.updKept s a1 a2 a3).Sound := by
  unfold State.updKept
  grind [sound_def, soundAt_write, soundAt_writeN, soundAt_setWord, soundAt_clear, soundAt_copy, soundAt_paste, soundAt_drop, sound_foldl]
theorem State.updOutAny_sound {a1 a2 a3} (h : s.Sound) : (State.updOutAny s a1 a2 a3).Sound := by
  unfold State.updOutAny
  grind [sound_def, soundAt_write, soundAt_writeN, soundAt_setWord, soundAt_clear, soundAt_copy, soundAt_paste, soundAt_drop, sound_foldl, State.updKept_sound, State.updOut_sound]
theorem State.lsidDone_sound {a1} (h : s.Sound) : (State.lsidDone s a1).Sound := by
  unfold State.lsidDone
  grind [sound_def, soundAt_write, soundAt_writeN, soundAt_setWord, soundAt_clear, soundAt_copy, soundAt_paste, soundAt_drop, sound_foldl, State.updOutAny_sound]
theorem State.answer_sound {a1 a2 a3 a4 a5 a6} (h : s.Sound) : (State.answer s a1 a2 a3 a4 a5 a6).Sound := by
  unfold State.answer
  grind [sound_def, soundAt_write, soundAt_writeN, soundAt_setWord, soundAt_clear, soundAt_copy, soundAt_paste, soundAt_drop, sound_foldl, State.dropReq_sound, State.lsidDone_sound, State.reply2_sound]
theorem State.wakeReq_sound {a1 a2} (h : s.Sound) : (State.wakeReq s a1 a2).Sound := by
  unfold State.wakeReq
  grind [sound_def, soundAt_write, soundAt_writeN, soundAt_setWord, soundAt_clear, soundAt_copy, soundAt_paste, soundAt_drop, sound_foldl, State.answer_sound]
theorem State.addK_sound {a1 a2 a3} (h : s.Sound) : (State.addK s a1 a2 a3).Sound := by
  unfold State.addK
  grind [sound_def, soundAt_write, soundAt_writeN, soundAt_setWord, soundAt_clear, soundAt_copy, soundAt_paste, soundAt_drop, sound_foldl, State.updCtx_sound, State.wakeReq_sound]
theorem State.holdFault_sound {a1 a2 a3} (h : s.Sound) : (State.holdFault s a1 a2 a3).Sound := by
  unfold State.holdFault
  grind [sound_def, soundAt_write, soundAt_writeN, soundAt_setWord, soundAt_clear, soundAt_copy, soundAt_paste, soundAt_drop, sound_foldl, State.updInst_sound]
theorem State.toPeer_sound {a1 a2 a3 a4} (h : s.Sound) : (State.toPeer s a1 a2 a3 a4).Sound := by
  unfold State.toPeer
  grind [sound_def, soundAt_write, soundAt_writeN, soundAt_setWord, soundAt_clear, soundAt_copy, soundAt_paste, soundAt_drop, sound_foldl]
theorem State.endAway_sound {a1} (h : s.Sound) : (State.endAway s a1).Sound := by
  unfold State.endAway
  grind [sound_def, soundAt_write, soundAt_writeN, soundAt_setWord, soundAt_clear, soundAt_copy, soundAt_paste, soundAt_drop, sound_foldl, State.toPeer_sound]
theorem State.giveUp_sound {a1} (h : s.Sound) : (State.giveUp s a1).Sound := by
  unfold State.giveUp
  grind [sound_def, soundAt_write, soundAt_writeN, soundAt_setWord, soundAt_clear, soundAt_copy, soundAt_paste, soundAt_drop, sound_foldl, State.toPeer_sound]
theorem State.discard_sound {a1 a2} (h : s.Sound) : (State.discard s a1 a2).Sound := by
  unfold State.discard
  grind [sound_def, soundAt_write, soundAt_writeN, soundAt_setWord, soundAt_clear, soundAt_copy, soundAt_paste, soundAt_drop, sound_foldl, State.giveUp_sound]
theorem State.voidReqs_sound {a1 a2} (h : s.Sound) : (State.voidReqs s a1 a2).Sound := by
  unfold State.voidReqs
  grind [sound_def, soundAt_write, soundAt_writeN, soundAt_setWord, soundAt_clear, soundAt_copy, soundAt_paste, soundAt_drop, sound_foldl]
theorem State.squash_sound {a1 a2} (h : s.Sound) : (State.squash s a1 a2).Sound := by
  unfold State.squash
  grind [sound_def, soundAt_write, soundAt_writeN, soundAt_setWord, soundAt_clear, soundAt_copy, soundAt_paste, soundAt_drop, sound_foldl, State.endAway_sound, State.voidReqs_sound, State.discard_sound]
theorem State.returnTo_sound {a1 a2 a3} (h : s.Sound) : (State.returnTo s a1 a2 a3).Sound := by
  unfold State.returnTo
  grind [sound_def, soundAt_write, soundAt_writeN, soundAt_setWord, soundAt_clear, soundAt_copy, soundAt_paste, soundAt_drop, sound_foldl, getD_cases, State.sendTo_sound, State.dropReq_sound]
theorem State.releaseColour_sound {a1} (h : s.Sound) : (State.releaseColour s a1).Sound := by
  unfold State.releaseColour
  grind [sound_def, soundAt_write, soundAt_writeN, soundAt_setWord, soundAt_clear, soundAt_copy, soundAt_paste, soundAt_drop, sound_foldl, State.updRegion_sound]
theorem State.endCtx_sound {a1 a2 a3} (h : s.Sound) : (State.endCtx s a1 a2 a3).Sound := by
  unfold State.endCtx
  grind [sound_def, soundAt_write, soundAt_writeN, soundAt_setWord, soundAt_clear, soundAt_copy, soundAt_paste, soundAt_drop, sound_foldl, State.squash_sound, State.releaseColour_sound, State.jobFlags_sound, State.returnTo_sound]
theorem State.halt_sound {a1 a2} (h : s.Sound) : (State.halt s a1 a2).Sound := by
  unfold State.halt
  grind [sound_def, soundAt_write, soundAt_writeN, soundAt_setWord, soundAt_clear, soundAt_copy, soundAt_paste, soundAt_drop, sound_foldl, State.endAway_sound, State.voidReqs_sound, State.discard_sound, State.updCtx_sound, State.endCtx_sound]
theorem State.postHeld_sound {a1 a2} (h : s.Sound) : (State.postHeld s a1 a2).Sound := by
  unfold State.postHeld
  grind [sound_def, soundAt_write, soundAt_writeN, soundAt_setWord, soundAt_clear, soundAt_copy, soundAt_paste, soundAt_drop, sound_foldl, State.post_sound, State.addK_sound]
theorem State.settle_sound {a1} (h : s.Sound) : (State.settle s a1).Sound := by
  unfold State.settle
  grind [sound_def, soundAt_write, soundAt_writeN, soundAt_setWord, soundAt_clear, soundAt_copy, soundAt_paste, soundAt_drop, sound_foldl, Option.bind_eq_some_iff, State.postHeld_sound, State.updInst_sound, State.halt_sound]
theorem State.raise_sound {a1 a2 a3} (h : s.Sound) : (State.raise s a1 a2 a3).Sound := by
  unfold State.raise
  grind [sound_def, soundAt_write, soundAt_writeN, soundAt_setWord, soundAt_clear, soundAt_copy, soundAt_paste, soundAt_drop, sound_foldl, State.settle_sound, State.holdFault_sound]
theorem State.drawColour_sound {a1} (h : s.Sound) (e : State.drawColour s a1 = some (t, y1)) : t.Sound := by
  unfold State.drawColour at e
  grind [sound_def, soundAt_write, soundAt_writeN, soundAt_setWord, soundAt_clear, soundAt_copy, soundAt_paste, soundAt_drop, sound_foldl, State.updRegion_sound]
theorem State.addCtx_sound {a1} (h : s.Sound) : (State.addCtx s a1).Sound := by
  unfold State.addCtx
  grind [sound_def, soundAt_write, soundAt_writeN, soundAt_setWord, soundAt_clear, soundAt_copy, soundAt_paste, soundAt_drop, sound_foldl]
theorem State.squashYounger_sound {a1 a2} (h : s.Sound) : (State.squashYounger s a1 a2).Sound := by
  unfold State.squashYounger
  grind [sound_def, soundAt_write, soundAt_writeN, soundAt_setWord, soundAt_clear, soundAt_copy, soundAt_paste, soundAt_drop, sound_foldl, State.updCtx_sound, State.squash_sound]
theorem State.newNode_sound (h : s.Sound) (e : State.newNode s = some (y0, t)) : t.Sound := by
  unfold State.newNode at e
  grind [sound_def, soundAt_write, soundAt_writeN, soundAt_setWord, soundAt_clear, soundAt_copy, soundAt_paste, soundAt_drop, sound_foldl]
theorem State.makeLeaf_sound {a1 a2 a3} (h : s.Sound) (e : State.makeLeaf s a1 a2 a3 = some (y0, t)) : t.Sound := by
  induction a2 generalizing s a1 with
  | zero => simp [State.makeLeaf] at e
  | succ n ih =>
    cases n with
    | zero => simp only [State.makeLeaf, Option.some.injEq, Prod.mk.injEq] at e; exact e.2 ▸ h
    | succ d =>
      simp only [State.makeLeaf] at e
      split at e
      · exact ih h e
      · split at e
        · simp at e
        · rename_i k
          refine ih ?_ e
          exact soundAt_setWord (State.newNode_sound h k)
theorem State.noteBound_sound {a1 a2} (h : s.Sound) : (State.noteBound s a1 a2).Sound := by
  unfold State.noteBound
  grind [sound_def, soundAt_write, soundAt_writeN, soundAt_setWord, soundAt_clear, soundAt_copy, soundAt_paste, soundAt_drop, sound_foldl]
theorem State.noteWanted_sound {a1 a2} (h : s.Sound) : (State.noteWanted s a1 a2).Sound := by
  unfold State.noteWanted
  grind [sound_def, soundAt_write, soundAt_writeN, soundAt_setWord, soundAt_clear, soundAt_copy, soundAt_paste, soundAt_drop, sound_foldl]
theorem State.updTile_sound {a1 a2} (h : s.Sound) : (State.updTile s a1 a2).Sound := by
  unfold State.updTile
  grind [sound_def, soundAt_write, soundAt_writeN, soundAt_setWord, soundAt_clear, soundAt_copy, soundAt_paste, soundAt_drop, sound_foldl]
theorem State.setPte_sound {a1 a2} (h : s.Sound) : (State.setPte s a1 a2).Sound := by
  unfold State.setPte
  grind [sound_def, soundAt_write, soundAt_writeN, soundAt_setWord, soundAt_clear, soundAt_copy, soundAt_paste, soundAt_drop, sound_foldl]
theorem State.takeFrame_sound {a1 a2} (h : s.Sound) : (State.takeFrame s a1 a2).2.Sound := by
  unfold State.takeFrame
  grind [sound_def, soundAt_write, soundAt_writeN, soundAt_setWord, soundAt_clear, soundAt_copy, soundAt_paste, soundAt_drop, sound_foldl, Option.bind_eq_some_iff]
theorem State.giveFrame_sound {a1 a2} (h : s.Sound) : (State.giveFrame s a1 a2).Sound := by
  unfold State.giveFrame
  grind [sound_def, soundAt_write, soundAt_writeN, soundAt_setWord, soundAt_clear, soundAt_copy, soundAt_paste, soundAt_drop, sound_foldl]
theorem State.noteOwner_sound {a1 a2 a3} (h : s.Sound) : (State.noteOwner s a1 a2 a3).Sound := by
  unfold State.noteOwner
  grind [sound_def, soundAt_write, soundAt_writeN, soundAt_setWord, soundAt_clear, soundAt_copy, soundAt_paste, soundAt_drop, sound_foldl]
theorem State.leafFor_sound {a1 a2} (h : s.Sound) (e : State.leafFor s a1 a2 = some (y0, t)) : t.Sound := by
  unfold State.leafFor at e
  grind [sound_def, soundAt_write, soundAt_writeN, soundAt_setWord, soundAt_clear, soundAt_copy, soundAt_paste, soundAt_drop, sound_foldl, → State.makeLeaf_sound, State.noteOwner_sound]
theorem State.startFill_sound {a1 a2 a3} (h : s.Sound) (e : State.startFill s a1 a2 a3 = some t) : t.Sound := by
  unfold State.startFill at e
  grind [sound_def, soundAt_write, soundAt_writeN, soundAt_setWord, soundAt_clear, soundAt_copy, soundAt_paste, soundAt_drop, sound_foldl, State.takeFrame_sound, State.setPte_sound]
theorem State.unpark_sound {a1} (h : s.Sound) : (State.unpark s a1).Sound := by
  unfold State.unpark
  grind [sound_def, soundAt_write, soundAt_writeN, soundAt_setWord, soundAt_clear, soundAt_copy, soundAt_paste, soundAt_drop, sound_foldl]
theorem State.finishFill_sound {a1} (h : s.Sound) : (State.finishFill s a1).Sound := by
  unfold State.finishFill
  grind [sound_def, soundAt_write, soundAt_writeN, soundAt_setWord, soundAt_clear, soundAt_copy, soundAt_paste, soundAt_drop, sound_foldl, State.unpark_sound, State.setPte_sound]
theorem State.finishMigrate_sound {a1 a2} (h : s.Sound) : (State.finishMigrate s a1 a2).Sound := by
  unfold State.finishMigrate
  grind [sound_def, soundAt_write, soundAt_writeN, soundAt_setWord, soundAt_clear, soundAt_copy, soundAt_paste, soundAt_drop, sound_foldl, State.unpark_sound, State.giveFrame_sound, State.setPte_sound]
theorem State.abandonEvict_sound {a1} (h : s.Sound) : (State.abandonEvict s a1).Sound := by
  unfold State.abandonEvict
  grind [sound_def, soundAt_write, soundAt_writeN, soundAt_setWord, soundAt_clear, soundAt_copy, soundAt_paste, soundAt_drop, sound_foldl, State.unpark_sound, State.setPte_sound]
theorem State.finishMove_sound {a1} (h : s.Sound) : (State.finishMove s a1).Sound := by
  unfold State.finishMove
  grind [sound_def, soundAt_write, soundAt_writeN, soundAt_setWord, soundAt_clear, soundAt_copy, soundAt_paste, soundAt_drop, sound_foldl, State.finishFill_sound, State.finishMigrate_sound, State.abandonEvict_sound]
theorem State.dirty_sound {a1} (h : s.Sound) : (State.dirty s a1).Sound := by
  unfold State.dirty
  grind [sound_def, soundAt_write, soundAt_writeN, soundAt_setWord, soundAt_clear, soundAt_copy, soundAt_paste, soundAt_drop, sound_foldl, State.setPte_sound]
theorem State.residentNow_sound {a1 a2 a3 a4} (h : s.Sound) (e : State.residentNow s a1 a2 a3 a4 = .ok (y0, t)) : t.Sound := by
  unfold State.residentNow at e
  grind [sound_def, soundAt_write, soundAt_writeN, soundAt_setWord, soundAt_clear, soundAt_copy, soundAt_paste, soundAt_drop, sound_foldl, → State.leafFor_sound, State.finishMove_sound, → State.startFill_sound]
theorem State.pauseFor_sound {a1} (h : s.Sound) : (State.pauseFor s a1).Sound := by
  unfold State.pauseFor
  grind [sound_def, soundAt_write, soundAt_writeN, soundAt_setWord, soundAt_clear, soundAt_copy, soundAt_paste, soundAt_drop, sound_foldl]
theorem State.unitWalk_sound {a1 a2 a3} (h : s.Sound) : (State.unitWalk s a1 a2 a3).Sound := by
  unfold State.unitWalk
  grind [sound_def, soundAt_write, soundAt_writeN, soundAt_setWord, soundAt_clear, soundAt_copy, soundAt_paste, soundAt_drop, sound_foldl, State.pauseFor_sound, State.updTile_sound]
theorem State.resident_sound {a1 a2 a3 a4} (h : s.Sound) (e : State.resident s a1 a2 a3 a4 = .ok (y0, t)) : t.Sound := by
  unfold State.resident at e
  grind [sound_def, soundAt_write, soundAt_writeN, soundAt_setWord, soundAt_clear, soundAt_copy, soundAt_paste, soundAt_drop, sound_foldl, → State.residentNow_sound, → State.leafFor_sound, State.unitWalk_sound, State.noteWanted_sound, State.pauseFor_sound]
theorem State.countHeat_sound {a1 a2 a3 a4} (h : s.Sound) : (State.countHeat s a1 a2 a3 a4).Sound := by
  unfold State.countHeat
  grind [sound_def, soundAt_write, soundAt_writeN, soundAt_setWord, soundAt_clear, soundAt_copy, soundAt_paste, soundAt_drop, sound_foldl, State.updTile_sound]
theorem State.readNowAs_sound {a0 a2 a3 a4 a5} (h : s.Sound) (e : State.readNowAs a0 s a2 a3 a4 a5 = .ok (y0, t)) : t.Sound := by
  unfold State.readNowAs at e
  grind [sound_def, soundAt_write, soundAt_writeN, soundAt_setWord, soundAt_clear, soundAt_copy, soundAt_paste, soundAt_drop, sound_foldl, → State.resident_sound, State.countHeat_sound]
theorem State.readNow_sound {a1 a2 a3 a4} (h : s.Sound) (e : State.readNow s a1 a2 a3 a4 = .ok (y0, t)) : t.Sound := by
  unfold State.readNow at e
  grind [sound_def, soundAt_write, soundAt_writeN, soundAt_setWord, soundAt_clear, soundAt_copy, soundAt_paste, soundAt_drop, sound_foldl, → State.readNowAs_sound]
theorem State.writeNow_sound {a1 a2 a3 a4} (h : s.Sound) (e : State.writeNow s a1 a2 a3 a4 = .ok t) : t.Sound := by
  unfold State.writeNow at e
  grind [sound_def, soundAt_write, soundAt_writeN, soundAt_setWord, soundAt_clear, soundAt_copy, soundAt_paste, soundAt_drop, sound_foldl, → State.resident_sound, State.dirty_sound]
theorem State.readRange_sound {a0 a2 a3 a4 a5 a6} (h : s.Sound) (e : State.readRange a0 s a2 a3 a4 a5 a6 = .ok (y0, t)) : t.Sound := by
  induction a5 generalizing s a3 a6 y0 with
  | zero => simp only [State.readRange] at e; grind
  | succ n ih => simp only [State.readRange] at e; grind [→ State.readNowAs_sound]
theorem State.writeRange_sound {a1 a2 a3 a4 a5} (h : s.Sound) (e : State.writeRange s a1 a2 a3 a4 a5 = .ok t) : t.Sound := by
  induction a4 generalizing s a2 a5 with
  | zero => simp only [State.writeRange] at e; grind
  | succ n ih => simp only [State.writeRange] at e; grind [→ State.writeNow_sound]
theorem State.atRest_sound_eq {f : State → State} : (State.atRest s f).Sound = (f { s with doer := none }).Sound := rfl
theorem State.atRest_sound {f : State → State} (hf : ∀ u, State.Sound u → (f u).Sound) (h : s.Sound) : (State.atRest s f).Sound :=
  hf { s with doer := none } h
theorem State.restFault_sound {a1 a2} (h : s.Sound) : (State.restFault s a1 a2).Sound := by
  unfold State.restFault
  grind [sound_def, soundAt_write, soundAt_writeN, soundAt_setWord, soundAt_clear, soundAt_copy, soundAt_paste, soundAt_drop, sound_foldl, State.post_sound]
theorem State.updSaved_sound {a1 a2 a3 a4} (h : s.Sound) : (State.updSaved s a1 a2 a3 a4).Sound := by
  unfold State.updSaved
  dsimp only
  split
  · exact State.toPeer_sound (State.bump_sound h)
  · refine State.atRest_sound (fun u hu => ?_) h
    grind [→ State.readNow_sound, → State.writeNow_sound, State.restFault_sound]
theorem State.addKAny_sound {a1 a2 a3} (h : s.Sound) : (State.addKAny s a1 a2 a3).Sound := by
  unfold State.addKAny
  grind [sound_def, soundAt_write, soundAt_writeN, soundAt_setWord, soundAt_clear, soundAt_copy, soundAt_paste, soundAt_drop, sound_foldl, State.addK_sound, State.updSaved_sound]
theorem State.flagAny_sound {a1 a2} (h : s.Sound) : (State.flagAny s a1 a2).Sound := by
  unfold State.flagAny
  grind [sound_def, soundAt_write, soundAt_writeN, soundAt_setWord, soundAt_clear, soundAt_copy, soundAt_paste, soundAt_drop, sound_foldl, State.updCtx_sound, State.updSaved_sound, State.updRegion_sound, State.jobFlags_sound]
theorem State.chargeAny_sound {a1 a2} (h : s.Sound) : (State.chargeAny s a1 a2).Sound := by
  unfold State.chargeAny
  grind [sound_def, soundAt_write, soundAt_writeN, soundAt_setWord, soundAt_clear, soundAt_copy, soundAt_paste, soundAt_drop, sound_foldl, State.addKAny_sound, State.post_sound]
theorem State.lateDelivery_sound {a1 a2 a3 a4 a5} (h : s.Sound) : (State.lateDelivery s a1 a2 a3 a4 a5).Sound := by
  unfold State.lateDelivery
  grind [sound_def, soundAt_write, soundAt_writeN, soundAt_setWord, soundAt_clear, soundAt_copy, soundAt_paste, soundAt_drop, sound_foldl, State.addKAny_sound, Option.bind_eq_some_iff, State.raise_sound, State.post_sound]
theorem State.countReg_sound {a1 a2 a3 a4 a5 a6 a7} (h : s.Sound) : (State.countReg s a1 a2 a3 a4 a5 a6 a7).Sound := by
  unfold State.countReg
  grind [sound_def, soundAt_write, soundAt_writeN, soundAt_setWord, soundAt_clear, soundAt_copy, soundAt_paste, soundAt_drop, sound_foldl, Option.bind_eq_some_iff, State.raise_sound, State.updOut_sound, State.lateDelivery_sound]
theorem State.emit_sound {a1 a2 a3 a4 a5 a6 a7} (h : s.Sound) : (State.emit s a1 a2 a3 a4 a5 a6 a7).Sound := by
  unfold State.emit
  grind [sound_def, soundAt_write, soundAt_writeN, soundAt_setWord, soundAt_clear, soundAt_copy, soundAt_paste, soundAt_drop, sound_foldl, State.countReg_sound, State.sendTo_sound]
theorem State.advanceLevel_sound {a1 a2} (h : s.Sound) : (State.advanceLevel s a1 a2).Sound := by
  unfold State.advanceLevel
  grind [sound_def, soundAt_write, soundAt_writeN, soundAt_setWord, soundAt_clear, soundAt_copy, soundAt_paste, soundAt_drop, sound_foldl, Option.bind_eq_some_iff, State.updInst_sound]
theorem State.sendOuts_sound {a1 a2 a3} (h : s.Sound) : (State.sendOuts s a1 a2 a3).Sound := by
  unfold State.sendOuts
  split
  · exact h
  · split
    · exact h
    · refine sound_foldl ?_ (State.updInst_sound h)
      intro u a hu
      grind [State.emit_sound]
theorem State.out_sound {a1 a2 a3 a4 a5} (h : s.Sound) : (State.out s a1 a2 a3 a4 a5).Sound := by
  unfold State.out
  grind [sound_def, soundAt_write, soundAt_writeN, soundAt_setWord, soundAt_clear, soundAt_copy, soundAt_paste, soundAt_drop, sound_foldl, State.emit_sound]
theorem State.send2_sound {a1 a2 a3} (h : s.Sound) : (State.send2 s a1 a2 a3).Sound := by
  unfold State.send2
  grind [sound_def, soundAt_write, soundAt_writeN, soundAt_setWord, soundAt_clear, soundAt_copy, soundAt_paste, soundAt_drop, sound_foldl, State.out_sound]
theorem State.result_sound {a1 a2} (h : s.Sound) : (State.result s a1 a2).Sound := by
  unfold State.result
  grind [sound_def, soundAt_write, soundAt_writeN, soundAt_setWord, soundAt_clear, soundAt_copy, soundAt_paste, soundAt_drop, sound_foldl, State.send2_sound]
theorem State.forward_sound {a1 a2} (h : s.Sound) : (State.forward s a1 a2).Sound := by
  unfold State.forward
  grind [sound_def, soundAt_write, soundAt_writeN, soundAt_setWord, soundAt_clear, soundAt_copy, soundAt_paste, soundAt_drop, sound_foldl, State.send2_sound]
theorem State.holdFlags_sound {a1} (h : s.Sound) : (State.holdFlags s a1).Sound := by
  unfold State.holdFlags
  grind [sound_def, soundAt_write, soundAt_writeN, soundAt_setWord, soundAt_clear, soundAt_copy, soundAt_paste, soundAt_drop, sound_foldl, State.updOut_sound]
theorem State.mark_sound {a1} (h : s.Sound) : (State.mark s a1).Sound := by
  unfold State.mark
  grind [sound_def, soundAt_write, soundAt_writeN, soundAt_setWord, soundAt_clear, soundAt_copy, soundAt_paste, soundAt_drop, sound_foldl, State.updInst_sound]
theorem State.emitNull_sound {a1} (h : s.Sound) : (State.emitNull s a1).Sound := by
  unfold State.emitNull
  grind [sound_def, soundAt_write, soundAt_writeN, soundAt_setWord, soundAt_clear, soundAt_copy, soundAt_paste, soundAt_drop, sound_foldl, State.out_sound, State.send2_sound]
theorem State.faultHere_sound {a1 a2 a3} (h : s.Sound) : (State.faultHere s a1 a2 a3).Sound := by
  unfold State.faultHere
  grind [sound_def, soundAt_write, soundAt_writeN, soundAt_setWord, soundAt_clear, soundAt_copy, soundAt_paste, soundAt_drop, sound_foldl, State.raise_sound]
theorem State.incompleteHere_sound {a1} (h : s.Sound) : (State.incompleteHere s a1).Sound := by
  unfold State.incompleteHere
  grind [sound_def, soundAt_write, soundAt_writeN, soundAt_setWord, soundAt_clear, soundAt_copy, soundAt_paste, soundAt_drop, sound_foldl, State.raise_sound]
theorem State.markLsid_sound {a1} (h : s.Sound) : (State.markLsid s a1).Sound := by
  unfold State.markLsid
  grind [sound_def, soundAt_write, soundAt_writeN, soundAt_setWord, soundAt_clear, soundAt_copy, soundAt_paste, soundAt_drop, sound_foldl, State.updOut_sound]
theorem State.hold_sound {a1} (h : s.Sound) : (State.hold s a1).Sound := by
  unfold State.hold
  grind [sound_def, soundAt_write, soundAt_writeN, soundAt_setWord, soundAt_clear, soundAt_copy, soundAt_paste, soundAt_drop, sound_foldl, State.updInst_sound]
theorem State.sent_sound (h : s.Sound) : (State.sent s).Sound := by
  unfold State.sent
  grind [sound_def, soundAt_write, soundAt_writeN, soundAt_setWord, soundAt_clear, soundAt_copy, soundAt_paste, soundAt_drop, sound_foldl]
theorem State.fireCore_sound {i n e} (h : s.Sound) (hn : ∀ u : State, u.Sound → (n u).Sound) (he : ∀ u : State, u.Sound → (e u).Sound) : (State.fireCore s i n e).Sound := by
  unfold State.fireCore
  dsimp only
  split
  · exact he _ h
  · repeat' split
    · exact State.faultHere_sound (State.mark_sound h)
    · exact State.faultHere_sound (State.mark_sound h)
    · exact hn _ (State.mark_sound h)
    · exact State.incompleteHere_sound (State.mark_sound h)
    · exact State.hold_sound (State.markLsid_sound (State.mark_sound h))
    · exact he _ (State.markLsid_sound (State.mark_sound h))
theorem State.fireWith_sound {i n e} (h : s.Sound) (hn : ∀ u : State, u.Sound → (n u).Sound) (he : ∀ u : State, u.Sound → (e u).Sound) : (State.fireWith s i n e).Sound :=
  State.advanceLevel_sound (State.fireCore_sound h hn he)
theorem State.fire_sound {i e} (h : s.Sound) (he : ∀ u : State, u.Sound → (e u).Sound) : (State.fire s i e).Sound :=
  State.fireWith_sound h (fun _ hu => State.emitNull_sound hu) he
theorem State.fireRes_sound {i f} (h : s.Sound) : (State.fireRes s i f).Sound :=
  State.fire_sound h fun _ hu => State.result_sound (State.holdFlags_sound hu)
theorem State.fireVec_sound {i w f} (h : s.Sound) : (State.fireVec s i w f).Sound :=
  State.fire_sound h fun _ hu => State.result_sound (State.holdFlags_sound hu)
theorem State.prepareFire_sound {f i} (h : s.Sound) (e : State.prepareFire s f = some (.ok (i, t))) : t.Sound := by
  unfold State.prepareFire at e
  repeat' split at e
  all_goals simp only [Option.some.injEq, Except.ok.injEq, Prod.mk.injEq, reduceCtorEq] at e
  exact e.2 ▸ h
theorem State.prepareSend_sound {a1} (h : s.Sound) (e : State.prepareSend s a1 = some (y0, t)) : t.Sound := by
  unfold State.prepareSend at e
  grind [sound_def, soundAt_write, soundAt_writeN, soundAt_setWord, soundAt_clear, soundAt_copy, soundAt_paste, soundAt_drop, sound_foldl, State.updInst_sound]
theorem State.postTraps_sound {a1 a2} (h : s.Sound) : (State.postTraps s a1 a2).Sound := by
  unfold State.postTraps
  grind [sound_def, soundAt_write, soundAt_writeN, soundAt_setWord, soundAt_clear, soundAt_copy, soundAt_paste, soundAt_drop, sound_foldl, State.post_sound]
theorem State.finishInst_sound {a1 a2} (h : s.Sound) : (State.finishInst s a1 a2).Sound := by
  unfold State.finishInst
  grind [sound_def, soundAt_write, soundAt_writeN, soundAt_setWord, soundAt_clear, soundAt_copy, soundAt_paste, soundAt_drop, sound_foldl, State.updCtx_sound, State.postTraps_sound, State.post_sound, State.endCtx_sound, State.settle_sound, State.halt_sound]
theorem State.drained_sound {a1 a2} (h : s.Sound) : (State.drained s a1 a2).Sound := by
  unfold State.drained
  grind [sound_def, soundAt_write, soundAt_writeN, soundAt_setWord, soundAt_clear, soundAt_copy, soundAt_paste, soundAt_drop, sound_foldl, Option.bind_eq_some_iff, State.finishInst_sound]
theorem State.commitNow_sound {a1} (h : s.Sound) (e : State.commitNow s a1 = some t) : t.Sound := by
  unfold State.commitNow at e
  grind [sound_def, soundAt_write, soundAt_writeN, soundAt_setWord, soundAt_clear, soundAt_copy, soundAt_paste, soundAt_drop, sound_foldl, getD_cases, Option.map_eq_some_iff, State.endCtx_sound, State.post_sound, State.updCtx_sound, State.updRegion_sound, State.addK_sound, State.updInst_sound, State.drained_sound]
theorem execCommit_sound {a0} (h : s.Sound) (e : execCommit a0 s = .next t) : t.Sound := by
  unfold execCommit at e
  grind [sound_def, soundAt_write, soundAt_writeN, soundAt_setWord, soundAt_clear, soundAt_copy, soundAt_paste, soundAt_drop, sound_foldl, getD_cases, → State.commitNow_sound]
theorem State.watchdogNow_sound {a1} (h : s.Sound) (e : State.watchdogNow s a1 = some t) : t.Sound := by
  unfold State.watchdogNow at e
  grind [sound_def, soundAt_write, soundAt_writeN, soundAt_setWord, soundAt_clear, soundAt_copy, soundAt_paste, soundAt_drop, sound_foldl, State.raise_sound, getD_cases]
theorem execCommitWatchdog_sound {a0} (h : s.Sound) (e : execCommitWatchdog a0 s = .next t) : t.Sound := by
  unfold execCommitWatchdog at e
  grind [sound_def, soundAt_write, soundAt_writeN, soundAt_setWord, soundAt_clear, soundAt_copy, soundAt_paste, soundAt_drop, sound_foldl, getD_cases, → State.watchdogNow_sound]
theorem State.askParts_sound {a1 a2 a3 a4} (h : s.Sound) : (State.askParts s a1 a2 a3 a4).Sound := by
  unfold State.askParts
  grind [sound_def, soundAt_write, soundAt_writeN, soundAt_setWord, soundAt_clear, soundAt_copy, soundAt_paste, soundAt_drop, sound_foldl, State.toPeer_sound, State.bump_sound]
theorem State.await_sound {a1 a2 a3 a4} (h : s.Sound) (e : State.await s a1 a2 a3 a4 = some t) : t.Sound := by
  cases a4 with
  | held => cases e
  | frame => simp only [State.await] at e; split at e <;> cases e; exact h
  | peer f n op => grind [State.await, State.askParts_sound]
  | page d f =>
    simp only [State.await] at e
    split at e
    · cases e
    · split at e
      · cases e
      · rename_i k
        have h1 := State.leafFor_sound h k
        repeat' split at e
        all_goals cases e
        all_goals first
          | exact h1
          | exact State.startFill_sound h1 ‹_›
theorem State.atPeer_sound {a1 a2 a3} (h : s.Sound) (e : State.atPeer s a1 a2 a3 = .ok (y0, t)) : t.Sound := by
  unfold State.atPeer at e
  grind [sound_def, soundAt_write, soundAt_writeN, soundAt_setWord, soundAt_clear, soundAt_copy, soundAt_paste, soundAt_drop, sound_foldl, State.pauseFor_sound]
theorem State.checkReplace_sound (h : s.Sound) : (State.checkReplace s).Sound := by
  unfold State.checkReplace
  grind [sound_def, soundAt_write, soundAt_writeN, soundAt_setWord, soundAt_clear, soundAt_copy, soundAt_paste, soundAt_drop, sound_foldl]
theorem State.degrade_sound {a1} (h : s.Sound) : (State.degrade s a1).Sound := by
  unfold State.degrade
  grind [sound_def, soundAt_write, soundAt_writeN, soundAt_setWord, soundAt_clear, soundAt_copy, soundAt_paste, soundAt_drop, sound_foldl, State.checkReplace_sound]
theorem State.goOn_some {f : State → Option State} (e : State.goOn s f = some t) : t = s ∨ f s = some t := by
  unfold State.goOn at e
  split at e
  · exact .inl (Option.some.inj e).symm
  · exact .inr e
theorem State.whole_some {d sl late} {f : State → Option State} (e : State.whole s d sl late f = some t) (h : s.Sound) :
    ∃ u v, u.Sound ∧ f u = some v ∧ (v.Sound → t.Sound) := by
  unfold State.whole at e
  split at e
  · cases e
  · rename_i v hv
    refine ⟨{ s with doer := some d, pause := none }, v, h, hv, fun k => ?_⟩
    split at e
    · exact Option.some.inj e ▸ State.endAway_sound k
    · dsimp only at e
      rcases Option.or_eq_some_iff.1 e with e | ⟨-, e⟩
      · exact State.await_sound (s := { s with bound := v.bound, hub := { s.hub with wanted := v.hub.wanted } }) h e
      · split at e <;> cases e
        exact h
theorem State.request_sound {a1 a2 a3} (h : s.Sound) : (State.request s a1 a2 a3).Sound := by
  unfold State.request
  grind [sound_def, soundAt_write, soundAt_writeN, soundAt_setWord, soundAt_clear, soundAt_copy, soundAt_paste, soundAt_drop, sound_foldl, getD_cases, Option.map_eq_some_iff, State.bump_sound]
theorem State.serve_sound {a1} (h : s.Sound) : (State.serve s a1).Sound := by
  unfold State.serve
  grind [sound_def, soundAt_write, soundAt_writeN, soundAt_setWord, soundAt_clear, soundAt_copy, soundAt_paste, soundAt_drop, sound_foldl, State.updReq_sound, State.lateDelivery_sound]
theorem State.reqEnds_sound {a1 a2} (h : s.Sound) : (State.reqEnds s a1 a2).Sound := by
  unfold State.reqEnds
  grind [sound_def, soundAt_write, soundAt_writeN, soundAt_setWord, soundAt_clear, soundAt_copy, soundAt_paste, soundAt_drop, sound_foldl, State.raise_sound, State.dropReq_sound, State.updKept_sound]
theorem State.reqFault_sound {a1 a2 a3} (h : s.Sound) : (State.reqFault s a1 a2 a3).Sound := by
  unfold State.reqFault
  grind [sound_def, soundAt_write, soundAt_writeN, soundAt_setWord, soundAt_clear, soundAt_copy, soundAt_paste, soundAt_drop, sound_foldl, State.reqEnds_sound]
theorem State.peerFault_sound {a1 a2} (h : s.Sound) : (State.peerFault s a1 a2).Sound := by
  unfold State.peerFault
  grind [sound_def, soundAt_write, soundAt_writeN, soundAt_setWord, soundAt_clear, soundAt_copy, soundAt_paste, soundAt_drop, sound_foldl, State.reqEnds_sound]
theorem State.takeWalker_sound {a1 a2 a3} (h : s.Sound) (e : State.takeWalker s a1 a2 a3 = some t) : t.Sound := by
  unfold State.takeWalker at e
  grind [sound_def, soundAt_write, soundAt_writeN, soundAt_setWord, soundAt_clear, soundAt_copy, soundAt_paste, soundAt_drop, sound_foldl, State.updReq_sound, State.updTile_sound]
theorem State.readApertures_sound {a1} (h : s.Sound) : (State.readApertures s a1).Sound := by
  unfold State.readApertures
  grind [sound_def, soundAt_write, soundAt_writeN, soundAt_setWord, soundAt_clear, soundAt_copy, soundAt_paste, soundAt_drop, sound_foldl, State.updReq_sound]
theorem State.placePiece_sound {a1 a2} (h : s.Sound) (e : State.placePiece s a1 a2 = .ok (y0, t)) : t.Sound := by
  unfold State.placePiece at e
  grind [sound_def, soundAt_write, soundAt_writeN, soundAt_setWord, soundAt_clear, soundAt_copy, soundAt_paste, soundAt_drop, sound_foldl, → State.leafFor_sound, → State.startFill_sound]
theorem State.placePieces_sound {a1 a2} (h : s.Sound) (e : State.placePieces s a1 a2 = .ok (y0, t)) : t.Sound := by
  induction a2 generalizing s y0 with
  | nil => simp only [State.placePieces] at e; grind
  | cons p ps ih => simp only [State.placePieces] at e; grind [→ State.placePiece_sound]
theorem State.prefPeer_sound {a1 a2 a3 a4 a5} (h : s.Sound) : (State.prefPeer s a1 a2 a3 a4 a5).Sound := by
  unfold State.prefPeer
  grind [sound_def, soundAt_write, soundAt_writeN, soundAt_setWord, soundAt_clear, soundAt_copy, soundAt_paste, soundAt_drop, sound_foldl, State.dropReq_sound, State.serve_sound, getD_cases, Option.map_eq_some_iff, State.toPeer_sound, State.updReq_sound]
theorem State.prefNow_sound {a1 a2 a3 a4 a5} (h : s.Sound) (e : State.prefNow s a1 a2 a3 a4 a5 = some t) : t.Sound := by
  unfold State.prefNow at e
  dsimp only at e
  have h1 := State.serve_sound (a1 := a2) h
  repeat' split at e
  all_goals first
    | exact State.takeWalker_sound h1 e
    | exact of_some e (State.dropReq_sound h1)
    | exact of_some e (State.prefPeer_sound h)
    | (cases e; done)
    | (have h2 := State.leafFor_sound h1 ‹_›
       cases e
       first
        | refine State.dropReq_sound ?_
        | refine State.updReq_sound ?_
       grind [→ State.startFill_sound, getD_cases])
theorem State.placeMembers_sound {a1 a2 a3} (h : s.Sound) : (State.placeMembers s a1 a2 a3).2.2.Sound := by
  unfold State.placeMembers
  refine foldl_inv (P := fun (x : List Piece × Nat × State) => x.2.2.Sound) (fun x a hx => ?_) h
  grind [→ State.placePiece_sound]
theorem State.groupFault_sound {a1 a2} (h : s.Sound) : (State.groupFault s a1 a2).Sound := by
  unfold State.groupFault
  grind [sound_def, soundAt_write, soundAt_writeN, soundAt_setWord, soundAt_clear, soundAt_copy, soundAt_paste, soundAt_drop, sound_foldl, State.raise_sound, State.chargeAny_sound]
theorem State.mldredNow_sound {a1 a2 a3} (h : s.Sound) (e : State.mldredNow s a1 a2 a3 = some t) : t.Sound := by
  unfold State.mldredNow at e
  grind [sound_def, soundAt_write, soundAt_writeN, soundAt_setWord, soundAt_clear, soundAt_copy, soundAt_paste, soundAt_drop, sound_foldl, State.answer_sound, State.groupFault_sound, → State.takeWalker_sound, State.placeMembers_sound, State.updReq_sound]
theorem State.peerProbe_sound {a1 a2 a3} (h : s.Sound) : (State.peerProbe s a1 a2 a3).Sound := by
  unfold State.peerProbe
  grind [sound_def, soundAt_write, soundAt_writeN, soundAt_setWord, soundAt_clear, soundAt_copy, soundAt_paste, soundAt_drop, sound_foldl, State.toPeer_sound]
theorem State.probePeers_sound {a1 a2} (h : s.Sound) : (State.probePeers s a1 a2).Sound := by
  unfold State.probePeers
  grind [sound_def, soundAt_write, soundAt_writeN, soundAt_setWord, soundAt_clear, soundAt_copy, soundAt_paste, soundAt_drop, sound_foldl, State.peerProbe_sound]
theorem State.toHomes_sound {a1 a2} (h : s.Sound) : (State.toHomes s a1 a2).Sound := by
  unfold State.toHomes
  grind [sound_def, soundAt_write, soundAt_writeN, soundAt_setWord, soundAt_clear, soundAt_copy, soundAt_paste, soundAt_drop, sound_foldl, State.probePeers_sound, State.updReq_sound, State.answer_sound, State.lsidDone_sound]
theorem State.probeFirst_sound {a1 a2 a3 a4 a5} (h : s.Sound) : (State.probeFirst s a1 a2 a3 a4 a5).Sound := by
  unfold State.probeFirst
  grind [sound_def, soundAt_write, soundAt_writeN, soundAt_setWord, soundAt_clear, soundAt_copy, soundAt_paste, soundAt_drop, sound_foldl, State.peerFault_sound, State.reqFault_sound, State.probePeers_sound, State.updReq_sound]
theorem State.translate_sound {a1} (h : s.Sound) (e : State.translate s a1 = some t) : t.Sound := by
  unfold State.translate at e
  dsimp only at e
  have h1 := State.readApertures_sound (a1 := a1) h
  rcases ite_cases e with e | e
  · cases e
  · split at e
    · exact State.prefNow_sound h1 e
    · exact State.mldredNow_sound h1 e
    · cases e
    · rcases ite_cases e with e | e
      · exact of_some e (State.reqFault_sound h1)
      · split at e
        · exact of_some e (State.probeFirst_sound h1)
        · exact State.takeWalker_sound h1 e
        · rcases ite_cases e with e | e
          · exact of_some e (State.reqFault_sound h1)
          · rcases ite_cases e with e | e
            · exact of_some e (State.peerFault_sound h1)
            · rcases ite_cases e with e | e
              · exact of_some e (State.toHomes_sound h1)
              · split at e
                · exact of_some e (State.reqFault_sound h1)
                · have h2 := State.placePieces_sound h1 ‹_›
                  rcases ite_cases e with e | e
                  · exact of_some e (State.probeFirst_sound h2)
                  · exact of_some e (State.toHomes_sound h2)
theorem State.tileNow_sound {a1} (h : s.Sound) (e : State.tileNow s a1 = some t) : t.Sound := by
  unfold State.tileNow at e
  grind [sound_def, soundAt_write, soundAt_writeN, soundAt_setWord, soundAt_clear, soundAt_copy, soundAt_paste, soundAt_drop, sound_foldl, → State.translate_sound]
theorem State.walkDone_sound {a1 a2} (h : s.Sound) (e : State.walkDone s a1 a2 = some t) : t.Sound := by
  unfold State.walkDone at e
  grind [sound_def, soundAt_write, soundAt_writeN, soundAt_setWord, soundAt_clear, soundAt_copy, soundAt_paste, soundAt_drop, sound_foldl, State.updTile_sound, getD_cases, Option.bind_eq_some_iff, → State.translate_sound]
theorem execTableWalkComplete_sound {a0 a1 a2} (h : s.Sound) (e : execTableWalkComplete a0 a1 a2 s = .next t) : t.Sound := by
  unfold execTableWalkComplete at e
  grind [sound_def, soundAt_write, soundAt_writeN, soundAt_setWord, soundAt_clear, soundAt_copy, soundAt_paste, soundAt_drop, sound_foldl, getD_cases, → State.walkDone_sound]
theorem State.retryParked_sound (h : s.Sound) : (State.retryParked s).Sound := by
  unfold State.retryParked
  refine sound_foldl (fun u a hu => ?_) h
  obtain ⟨q, p⟩ := a
  dsimp only
  by_cases k : pteState (Memory.word u.mem p.pte) = 0
  · rw [if_pos k]
    cases u.desc? p.serial with
    | none => exact hu
    | some d => exact sound_getD hu fun t k => State.startFill_sound hu k
  · rw [if_neg k]; exact hu
theorem State.fillDone_sound {a1} (h : s.Sound) (e : State.fillDone s a1 = some t) : t.Sound := by
  unfold State.fillDone at e
  grind [sound_def, soundAt_write, soundAt_writeN, soundAt_setWord, soundAt_clear, soundAt_copy, soundAt_paste, soundAt_drop, sound_foldl, State.finishFill_sound]
theorem execPageFillComplete_sound {a0} (h : s.Sound) (e : execPageFillComplete a0 s = .next t) : t.Sound := by
  unfold execPageFillComplete at e
  grind [sound_def, soundAt_write, soundAt_writeN, soundAt_setWord, soundAt_clear, soundAt_copy, soundAt_paste, soundAt_drop, sound_foldl, → State.fillDone_sound]
theorem State.writeDone_sound {a1} (h : s.Sound) : (State.writeDone s a1).Sound := by
  unfold State.writeDone
  grind [sound_def, soundAt_write, soundAt_writeN, soundAt_setWord, soundAt_clear, soundAt_copy, soundAt_paste, soundAt_drop, sound_foldl, State.drained_sound, State.updReq_sound, State.free_sound]
theorem State.declineOne_sound {a1 a2} (h : s.Sound) : (State.declineOne s a1 a2).Sound := by
  unfold State.declineOne
  grind [sound_def, soundAt_write, soundAt_writeN, soundAt_setWord, soundAt_clear, soundAt_copy, soundAt_paste, soundAt_drop, sound_foldl, State.updReq_sound, State.writeDone_sound, State.chargeAny_sound, State.reqFault_sound]
theorem State.declineNow_sound {a1} (h : s.Sound) (e : State.declineNow s a1 = some t) : t.Sound := by
  unfold State.declineNow at e
  grind [sound_def, soundAt_write, soundAt_writeN, soundAt_setWord, soundAt_clear, soundAt_copy, soundAt_paste, soundAt_drop, sound_foldl, State.declineOne_sound]
theorem execPagerDecline_sound {a0} (h : s.Sound) (e : execPagerDecline a0 s = .next t) : t.Sound := by
  unfold execPagerDecline at e
  grind [sound_def, soundAt_write, soundAt_writeN, soundAt_setWord, soundAt_clear, soundAt_copy, soundAt_paste, soundAt_drop, sound_foldl, getD_cases, → State.declineNow_sound]
theorem State.startMove_sound {a1 a2 a3} (h : s.Sound) (e : State.startMove s a1 a2 a3 = some t) : t.Sound := by
  unfold State.startMove at e
  grind [sound_def, soundAt_write, soundAt_writeN, soundAt_setWord, soundAt_clear, soundAt_copy, soundAt_paste, soundAt_drop, sound_foldl, State.setPte_sound, State.takeFrame_sound]
theorem execPagerMigrateStart_sound {a0 a1} (h : s.Sound) (e : execPagerMigrateStart a0 a1 s = .next t) : t.Sound := by
  unfold execPagerMigrateStart at e
  grind [sound_def, soundAt_write, soundAt_writeN, soundAt_setWord, soundAt_clear, soundAt_copy, soundAt_paste, soundAt_drop, sound_foldl, getD_cases, → State.startMove_sound]
theorem execPagerEvictStart_sound {a0} (h : s.Sound) (e : execPagerEvictStart a0 s = .next t) : t.Sound := by
  unfold execPagerEvictStart at e
  grind [sound_def, soundAt_write, soundAt_writeN, soundAt_setWord, soundAt_clear, soundAt_copy, soundAt_paste, soundAt_drop, sound_foldl, getD_cases, → State.startMove_sound]
theorem State.migrateDone_sound {a1} (h : s.Sound) (e : State.migrateDone s a1 = some t) : t.Sound := by
  unfold State.migrateDone at e
  grind [sound_def, soundAt_write, soundAt_writeN, soundAt_setWord, soundAt_clear, soundAt_copy, soundAt_paste, soundAt_drop, sound_foldl, State.retryParked_sound, State.finishMigrate_sound]
theorem execMigrationComplete_sound {a0} (h : s.Sound) (e : execMigrationComplete a0 s = .next t) : t.Sound := by
  unfold execMigrationComplete at e
  grind [sound_def, soundAt_write, soundAt_writeN, soundAt_setWord, soundAt_clear, soundAt_copy, soundAt_paste, soundAt_drop, sound_foldl, getD_cases, → State.migrateDone_sound]
theorem State.evictDone_sound {a1} (h : s.Sound) (e : State.evictDone s a1 = some t) : t.Sound := by
  unfold State.evictDone at e
  grind [sound_def, soundAt_write, soundAt_writeN, soundAt_setWord, soundAt_clear, soundAt_copy, soundAt_paste, soundAt_drop, sound_foldl, State.abandonEvict_sound, State.retryParked_sound, State.giveFrame_sound, State.setPte_sound]
theorem execEvictionComplete_sound {a0} (h : s.Sound) (e : execEvictionComplete a0 s = .next t) : t.Sound := by
  unfold execEvictionComplete at e
  grind [sound_def, soundAt_write, soundAt_writeN, soundAt_setWord, soundAt_clear, soundAt_copy, soundAt_paste, soundAt_drop, sound_foldl, → State.evictDone_sound]
theorem State.startWriteback_sound {a1} (h : s.Sound) (e : State.startWriteback s a1 = some t) : t.Sound := by
  unfold State.startWriteback at e
  grind [sound_def, soundAt_write, soundAt_writeN, soundAt_setWord, soundAt_clear, soundAt_copy, soundAt_paste, soundAt_drop, sound_foldl]
theorem State.writebackDone_sound {a1} (h : s.Sound) (e : State.writebackDone s a1 = some t) : t.Sound := by
  unfold State.writebackDone at e
  grind [sound_def, soundAt_write, soundAt_writeN, soundAt_setWord, soundAt_clear, soundAt_copy, soundAt_paste, soundAt_drop, sound_foldl, State.setPte_sound]
theorem execWritebackComplete_sound {a0} (h : s.Sound) (e : execWritebackComplete a0 s = .next t) : t.Sound := by
  unfold execWritebackComplete at e
  grind [sound_def, soundAt_write, soundAt_writeN, soundAt_setWord, soundAt_clear, soundAt_copy, soundAt_paste, soundAt_drop, sound_foldl, → State.writebackDone_sound]
theorem State.foldHeat_sound {a1} (h : s.Sound) : (State.foldHeat s a1).Sound := by
  unfold State.foldHeat
  grind [sound_def, soundAt_write, soundAt_writeN, soundAt_setWord, soundAt_clear, soundAt_copy, soundAt_paste, soundAt_drop, sound_foldl]
theorem execHeatWindowEnd_sound (h : s.Sound) (e : execHeatWindowEnd s = .next t) : t.Sound := by
  unfold execHeatWindowEnd at e
  grind [sound_def, soundAt_write, soundAt_writeN, soundAt_setWord, soundAt_clear, soundAt_copy, soundAt_paste, soundAt_drop, sound_foldl, State.foldHeat_sound]
theorem State.register_sound {a1 a2 a3 a4} (h : s.Sound) (e : State.register s a1 a2 a3 a4 = some t) : t.Sound := by
  unfold State.register at e
  grind [sound_def, soundAt_write, soundAt_writeN, soundAt_setWord, soundAt_clear, soundAt_copy, soundAt_paste, soundAt_drop, sound_foldl, State.bump_sound]
theorem State.wake_sound {a1 a2 a3} (h : s.Sound) : (State.wake s a1 a2 a3).Sound := by
  unfold State.wake
  grind [sound_def, soundAt_write, soundAt_writeN, soundAt_setWord, soundAt_clear, soundAt_copy, soundAt_paste, soundAt_drop, sound_foldl, State.wakeReq_sound, State.updTask_sound, State.bump_sound, State.toPeer_sound]
theorem State.wakeAll_sound {a1 a2 a3} (h : s.Sound) : (State.wakeAll s a1 a2 a3).Sound := by
  unfold State.wakeAll
  grind [sound_def, soundAt_write, soundAt_writeN, soundAt_setWord, soundAt_clear, soundAt_copy, soundAt_paste, soundAt_drop, sound_foldl, State.wake_sound, State.bump_sound]
theorem State.updPiece_sound {a1 a2 a3} (h : s.Sound) : (State.updPiece s a1 a2 a3).Sound := by
  unfold State.updPiece
  grind [sound_def, soundAt_write, soundAt_writeN, soundAt_setWord, soundAt_clear, soundAt_copy, soundAt_paste, soundAt_drop, sound_foldl, State.updReq_sound]
theorem State.inStreams_sound {q} {f : State → State} (h : (f s).Sound) : (State.inStreams s q f).Sound := h
theorem State.loadDone_sound {a1} (h : s.Sound) : (State.loadDone s a1).Sound := by
  unfold State.loadDone
  repeat' split
  all_goals first
    | exact h
    | exact State.dropReq_sound (State.lsidDone_sound h)
    | exact State.inStreams_sound (State.dropReq_sound (State.lsidDone_sound (State.sendPacket_sound h)))
    | exact State.inStreams_sound (State.answer_sound h)
theorem State.flushReplies_sound {a1 a2} (h : s.Sound) : (State.flushReplies s a1 a2).Sound := by
  induction a2 generalizing s with
  | zero => exact h
  | succ n ih =>
    simp only [State.flushReplies]
    split
    · exact h
    · exact ih (State.loadDone_sound h)
theorem State.loadPiece_sound {a1 a2 a3 a4} (h : s.Sound) : (State.loadPiece s a1 a2 a3 a4).Sound := by
  unfold State.loadPiece
  grind [sound_def, soundAt_write, soundAt_writeN, soundAt_setWord, soundAt_clear, soundAt_copy, soundAt_paste, soundAt_drop, sound_foldl, State.loadDone_sound, State.updPiece_sound, State.serve_sound, State.flushReplies_sound]
theorem State.pieceOver_sound {a1 a2} (h : s.Sound) : (State.pieceOver s a1 a2).Sound := by
  unfold State.pieceOver
  grind [sound_def, soundAt_write, soundAt_writeN, soundAt_setWord, soundAt_clear, soundAt_copy, soundAt_paste, soundAt_drop, sound_foldl, State.updPiece_sound]
theorem State.pieceFails_sound {a1 a2 a3 a4 a5} (h : s.Sound) : (State.pieceFails s a1 a2 a3 a4 a5).Sound := by
  unfold State.pieceFails
  grind [sound_def, soundAt_write, soundAt_writeN, soundAt_setWord, soundAt_clear, soundAt_copy, soundAt_paste, soundAt_drop, sound_foldl, State.updReq_sound, State.pieceOver_sound, State.writeDone_sound, State.chargeAny_sound, State.peerFault_sound, State.reqFault_sound]
theorem State.rePlace_sound {a1 a2 a3} (h : s.Sound) : (State.rePlace s a1 a2 a3).Sound := by
  unfold State.rePlace
  grind [sound_def, soundAt_write, soundAt_writeN, soundAt_setWord, soundAt_clear, soundAt_copy, soundAt_paste, soundAt_drop, sound_foldl, → State.placePiece_sound, State.updPiece_sound, State.pieceFails_sound]
theorem State.homeLoad_sound {a1 a2 a3} (h : s.Sound) (e : State.homeLoad s a1 a2 a3 = some t) : t.Sound := by
  unfold State.homeLoad at e
  grind [sound_def, soundAt_write, soundAt_writeN, soundAt_setWord, soundAt_clear, soundAt_copy, soundAt_paste, soundAt_drop, sound_foldl, State.rePlace_sound, State.loadPiece_sound, State.countHeat_sound]
theorem State.homeWrite_sound {a1 a2 a3} (h : s.Sound) (e : State.homeWrite s a1 a2 a3 = some t) : t.Sound := by
  unfold State.homeWrite at e
  grind [sound_def, soundAt_write, soundAt_writeN, soundAt_setWord, soundAt_clear, soundAt_copy, soundAt_paste, soundAt_drop, sound_foldl, State.rePlace_sound, State.dirty_sound, State.writeDone_sound, State.updPiece_sound, State.serve_sound]
theorem State.deadAcquire_sound {a1 a2} (h : s.Sound) : (State.deadAcquire s a1 a2).Sound :=
  State.inStreams_sound (State.answer_sound (State.chargeAny_sound h))
theorem State.acquire_sound {q v a w} (h : s.Sound) (hw : ∀ u t, State.Sound u → w u = some t → t.Sound) : (State.acquire s q v a w).Sound := by
  unfold State.acquire
  dsimp only
  split
  · exact State.reqFault_sound h
  · split
    · exact State.answer_sound h
    · split
      · exact State.answer_sound h
      · split
        · rename_i k; exact hw _ _ (State.updReq_sound h) k
        · exact State.reqFault_sound h
theorem State.homeAcquire_sound {a1 a2 a3} (h : s.Sound) (e : State.homeAcquire s a1 a2 a3 = some t) : t.Sound := by
  unfold State.homeAcquire at e
  rcases ite_cases e with e | e
  · simp at e
  · split at e
    · exact of_some e (State.deadAcquire_sound h)
    · split at e
      · exact of_some e (State.rePlace_sound h)
      · exact of_some e (State.acquire_sound h fun u t hu k => State.register_sound hu k)
theorem State.nearAcquire_sound {a1 a2} (h : s.Sound) (e : State.nearAcquire s a1 a2 = some t) : t.Sound := by
  unfold State.nearAcquire at e
  rcases ite_cases e with e | e
  · simp at e
  · split at e
    · simp at e
    · exact of_some e (State.acquire_sound h fun u t hu k => by cases k; exact hu)
theorem State.nearAdd_sound {a1 a2} (h : s.Sound) (e : State.nearAdd s a1 a2 = some t) : t.Sound := by
  unfold State.nearAdd at e
  grind [sound_def, soundAt_write, soundAt_writeN, soundAt_setWord, soundAt_clear, soundAt_copy, soundAt_paste, soundAt_drop, sound_foldl, State.addK_sound, State.serve_sound, State.drained_sound, State.updReq_sound]
theorem State.writeLine_sound {a1 a2 a3} (h : s.Sound) : (State.writeLine s a1 a2 a3).Sound := by
  unfold State.writeLine
  grind [sound_def, soundAt_write, soundAt_writeN, soundAt_setWord, soundAt_clear, soundAt_copy, soundAt_paste, soundAt_drop, sound_foldl]
theorem State.persistLine_sound {a1 a2} (h : s.Sound) (e : State.persistLine s a1 a2 = some (t, y1)) : t.Sound := by
  unfold State.persistLine at e
  grind [sound_def, soundAt_write, soundAt_writeN, soundAt_setWord, soundAt_clear, soundAt_copy, soundAt_paste, soundAt_drop, sound_foldl, State.updReq_sound, State.serve_sound, State.writeLine_sound]
theorem State.persistDone_sound {a1} (h : s.Sound) (e : State.persistDone s a1 = some t) : t.Sound := by
  unfold State.persistDone at e
  grind [sound_def, soundAt_write, soundAt_writeN, soundAt_setWord, soundAt_clear, soundAt_copy, soundAt_paste, soundAt_drop, sound_foldl, State.drained_sound, State.addKAny_sound, State.dropReq_sound, State.serve_sound]
theorem execPersistComplete_sound {a0} (h : s.Sound) (e : execPersistComplete a0 s = .next t) : t.Sound := by
  unfold execPersistComplete at e
  grind [sound_def, soundAt_write, soundAt_writeN, soundAt_setWord, soundAt_clear, soundAt_copy, soundAt_paste, soundAt_drop, sound_foldl, getD_cases, → State.persistDone_sound]
theorem State.gsetNow_sound {a1} (h : s.Sound) (e : State.gsetNow s a1 = some t) : t.Sound := by
  unfold State.gsetNow at e
  grind [sound_def, soundAt_write, soundAt_writeN, soundAt_setWord, soundAt_clear, soundAt_copy, soundAt_paste, soundAt_drop, sound_foldl, State.answer_sound, State.groupFault_sound]
theorem State.reduceNow_sound {a1} (h : s.Sound) (e : State.reduceNow s a1 = some t) : t.Sound := by
  unfold State.reduceNow at e
  grind [sound_def, soundAt_write, soundAt_writeN, soundAt_setWord, soundAt_clear, soundAt_copy, soundAt_paste, soundAt_drop, sound_foldl, State.answer_sound, State.groupFault_sound, State.updOutAny_sound]
theorem execMldredReduce_sound {a0} (h : s.Sound) (e : execMldredReduce a0 s = .next t) : t.Sound := by
  unfold execMldredReduce at e
  grind [sound_def, soundAt_write, soundAt_writeN, soundAt_setWord, soundAt_clear, soundAt_copy, soundAt_paste, soundAt_drop, sound_foldl, getD_cases, → State.reduceNow_sound]
theorem State.peerSend_sound {a1 a2 a3} (h : s.Sound) (e : State.peerSend s a1 a2 a3 = some t) : t.Sound := by
  unfold State.peerSend at e
  grind [sound_def, soundAt_write, soundAt_writeN, soundAt_setWord, soundAt_clear, soundAt_copy, soundAt_paste, soundAt_drop, sound_foldl, State.pieceFails_sound, State.toPeer_sound, State.updPiece_sound, State.serve_sound]
theorem State.homeStep_sound {a1 a2} (h : s.Sound) (e : State.homeStep s a1 a2 = some (t, y1)) : t.Sound := by
  unfold State.homeStep at e
  have key : ∀ {o : Option State} {f : State → State × Option Nat}, (∀ u, (f u).1 = u) → o.map f = some (t, y1) →
      (∀ u, o = some u → u.Sound) → t.Sound := by
    intro o f hf k hs
    obtain ⟨u, hu, r⟩ := Option.map_eq_some_iff.mp k
    have := hf u
    rw [r] at this
    dsimp only at this
    exact this ▸ hs u hu
  rcases ite_cases e with e | e
  · cases e
  · split at e
    · exact key (fun _ => rfl) e fun u k => State.gsetNow_sound h k
    · split at e
      · split at e
        · exact key (fun _ => rfl) e fun u k => State.nearAcquire_sound h k
        · exact key (fun _ => rfl) e fun u k => State.nearAdd_sound h k
      · split at e
        · cases e
        · rcases ite_cases e with e | e
          · cases e
            exact State.flushReplies_sound h
          · rcases ite_cases e with e | e
            · cases e
            · rcases ite_cases e with e | e
              · exact key (fun _ => rfl) e fun u k => State.peerSend_sound h k
              · split at e
                · exact key (fun _ => rfl) e fun u k => State.homeLoad_sound h k
                · exact key (fun _ => rfl) e fun u k => State.homeAcquire_sound h k
                · exact State.persistLine_sound h e
                · split at e
                  · cases e
                  · cases e
                  · exact key (fun _ => rfl) e fun u k => State.homeWrite_sound h k
theorem State.eccError_sound {a1 a2} (h : s.Sound) : (State.eccError s a1 a2).Sound := State.updPiece_sound h
theorem State.peerAnswers_sound {a1 a2 a3 a4} (h : s.Sound) : (State.peerAnswers s a1 a2 a3 a4).Sound := by
  unfold State.peerAnswers
  grind [sound_def, soundAt_write, soundAt_writeN, soundAt_setWord, soundAt_clear, soundAt_copy, soundAt_paste, soundAt_drop, sound_foldl, State.toPeer_sound]
theorem State.peerReply_sound {a1 a2} (h : s.Sound) : (State.peerReply s a1 a2).Sound := by
  unfold State.peerReply
  grind [sound_def, soundAt_write, soundAt_writeN, soundAt_setWord, soundAt_clear, soundAt_copy, soundAt_paste, soundAt_drop, sound_foldl, State.peerAnswers_sound]
theorem State.peerFaults_sound {a1 a2} (h : s.Sound) : (State.peerFaults s a1 a2).Sound := by
  unfold State.peerFaults
  grind [sound_def, soundAt_write, soundAt_writeN, soundAt_setWord, soundAt_clear, soundAt_copy, soundAt_paste, soundAt_drop, sound_foldl, State.peerAnswers_sound]
theorem State.dropAdd_sound {a1 a2 a3} (h : s.Sound) : (State.dropAdd s a1 a2 a3).Sound := by
  unfold State.dropAdd
  grind [sound_def, soundAt_write, soundAt_writeN, soundAt_setWord, soundAt_clear, soundAt_copy, soundAt_paste, soundAt_drop, sound_foldl, State.endAway_sound, State.chargeAny_sound, State.postTo_sound, getD_cases, Option.map_eq_some_iff]
theorem State.deadAdd_sound {a1} (h : s.Sound) : (State.deadAdd s a1).Sound := by
  unfold State.deadAdd
  grind [sound_def, soundAt_write, soundAt_writeN, soundAt_setWord, soundAt_clear, soundAt_copy, soundAt_paste, soundAt_drop, sound_foldl, getD_cases, State.chargeAny_sound, State.serve_sound, State.updReq_sound, State.dropAdd_sound, State.peerFaults_sound]
theorem State.applyAdd_sound {a1 a2 a3 a4 a5} (h : s.Sound) : (State.applyAdd s a1 a2 a3 a4 a5).Sound := by
  unfold State.applyAdd
  grind [sound_def, soundAt_write, soundAt_writeN, soundAt_setWord, soundAt_clear, soundAt_copy, soundAt_paste, soundAt_drop, sound_foldl, State.updReq_sound, State.serve_sound, State.peerReply_sound]
theorem State.noteRelease_sound {a1} (h : s.Sound) : (State.noteRelease s a1).Sound := by
  unfold State.noteRelease
  grind [sound_def, soundAt_write, soundAt_writeN, soundAt_setWord, soundAt_clear, soundAt_copy, soundAt_paste, soundAt_drop, sound_foldl]
theorem State.drainAll_sound {a1} (h : s.Sound) : (State.drainAll s a1).Sound := by
  unfold State.drainAll
  grind [sound_def, soundAt_write, soundAt_writeN, soundAt_setWord, soundAt_clear, soundAt_copy, soundAt_paste, soundAt_drop, sound_foldl, State.drained_sound]
theorem State.homeNow_sound {a1 a2} (h : s.Sound) (e : State.homeNow s a1 a2 = some (t, y1)) : t.Sound := by
  unfold State.homeNow at e
  grind [sound_def, soundAt_write, soundAt_writeN, soundAt_setWord, soundAt_clear, soundAt_copy, soundAt_paste, soundAt_drop, sound_foldl, → State.homeStep_sound, State.updPiece_sound]
theorem State.applyAdds_sound {a1 a2} (h : s.Sound) : (State.applyAdds s a1 a2).Sound := by
  unfold State.applyAdds
  dsimp only
  have h1 := sound_foldl (f := State.deadAdd) (l := a2.filter fun a => s.addAt a == .dead) (fun _ _ k => State.deadAdd_sound k) h
  generalize (a2.filter fun a => s.addAt a == .dead).foldl State.deadAdd s = s1 at h1 ⊢
  split
  · exact State.drainAll_sound h1
  · rename_i a rest _
    have key : ∀ (d : Bool) (n : Nat) (l : Bool) (w : Word) (as : List Add), (as.foldl (fun (acc : State × Word) x =>
        (acc.1.applyAdd d n l acc.2 x, acc.2 + x.amount)) (s1, w)).1.Sound := fun d n l w as =>
      foldl_inv (P := fun (p : State × Word) => p.1.Sound) (fun p x k => State.applyAdd_sound k) h1
    refine State.drainAll_sound ?_
    have h2 := fun d n l w as x => soundAt_setWord (a := a1) (v := x) (key d n l w as)
    have wrap : ∀ u : State, State.Sound u → ∀ (c : Bool) (f : FullAddr) (o n : Word) (ds : List DurStep),
        (if c then { u with durable := ds } else u.wakeAll f o n).Sound := by
      intro u hu c f o n ds
      split
      · exact hu
      · exact State.wakeAll_sound hu
    refine wrap _ (sound_foldl (fun _ _ k => State.noteRelease_sound k) ?_) _ _ _ _ _
    split
    · exact State.dirty_sound (h2 _ _ _ _ _ _)
    · exact h2 _ _ _ _ _ _
theorem State.combineAdds_sound {a1 a2} (h : s.Sound) (e : State.combineAdds s a1 a2 = some t) : t.Sound := by
  unfold State.combineAdds at e
  grind [sound_def, soundAt_write, soundAt_writeN, soundAt_setWord, soundAt_clear, soundAt_copy, soundAt_paste, soundAt_drop, sound_foldl, State.applyAdds_sound]
theorem State.refillAdd_sound {a1} (h : s.Sound) (e : State.refillAdd s a1 = some t) : t.Sound := by
  unfold State.refillAdd at e
  grind [sound_def, soundAt_write, soundAt_writeN, soundAt_setWord, soundAt_clear, soundAt_copy, soundAt_paste, soundAt_drop, sound_foldl, → State.whole_some, → State.resident_sound, State.rePlace_sound, State.dropAdd_sound, State.peerFaults_sound]
theorem State.awayAdd_sound {a1} (h : s.Sound) (e : State.awayAdd s a1 = some t) : t.Sound := by
  unfold State.awayAdd at e
  grind [sound_def, soundAt_write, soundAt_writeN, soundAt_setWord, soundAt_clear, soundAt_copy, soundAt_paste, soundAt_drop, sound_foldl, → State.whole_some, → State.atPeer_sound, State.dropAdd_sound]
theorem State.counterStep_sound {a1 a2} (h : s.Sound) (e : State.counterStep s a1 a2 = some t) : t.Sound := by
  unfold State.counterStep at e
  grind [sound_def, soundAt_write, soundAt_writeN, soundAt_setWord, soundAt_clear, soundAt_copy, soundAt_paste, soundAt_drop, sound_foldl, → State.awayAdd_sound, → State.refillAdd_sound, → State.combineAdds_sound]
theorem execCounterStep_sound {a0 a1} (h : s.Sound) (e : execCounterStep a0 a1 s = .next t) : t.Sound := by
  unfold execCounterStep at e
  grind [sound_def, soundAt_write, soundAt_writeN, soundAt_setWord, soundAt_clear, soundAt_copy, soundAt_paste, soundAt_drop, sound_foldl, getD_cases, → State.counterStep_sound]
theorem State.durableDone_sound {a1} (h : s.Sound) (e : State.durableDone s a1 = some (t, y1)) : t.Sound := by
  unfold State.durableDone at e
  grind [sound_def, soundAt_write, soundAt_writeN, soundAt_setWord, soundAt_clear, soundAt_copy, soundAt_paste, soundAt_drop, sound_foldl, Option.bind_eq_some_iff, State.updReq_sound, State.peerReply_sound, getD_cases, Option.map_eq_some_iff, State.wakeAll_sound, State.drained_sound]
theorem execDurableStepComplete_sound {a0} (h : s.Sound) (e : execDurableStepComplete a0 s = .next t) : t.Sound := by
  unfold execDurableStepComplete at e
  grind [sound_def, soundAt_write, soundAt_writeN, soundAt_setWord, soundAt_clear, soundAt_copy, soundAt_paste, soundAt_drop, sound_foldl, → State.durableDone_sound]
theorem State.caddrReturns_sound {a1} (h : s.Sound) (e : State.caddrReturns s a1 = some t) : t.Sound := by
  unfold State.caddrReturns at e
  grind [sound_def, soundAt_write, soundAt_writeN, soundAt_setWord, soundAt_clear, soundAt_copy, soundAt_paste, soundAt_drop, sound_foldl, State.lateDelivery_sound, State.updCtx_sound, State.drained_sound, State.dropReq_sound]
theorem execCaddrReply_sound {a0} (h : s.Sound) (e : execCaddrReply a0 s = .next t) : t.Sound := by
  unfold execCaddrReply at e
  grind [sound_def, soundAt_write, soundAt_writeN, soundAt_setWord, soundAt_clear, soundAt_copy, soundAt_paste, soundAt_drop, sound_foldl, getD_cases, → State.caddrReturns_sound]
theorem State.unitLocate_sound {a1 a2 a3 a4 a5 a6} (h : s.Sound) (e : State.unitLocate s a1 a2 a3 a4 a5 a6 = .ok (y0, t)) : t.Sound := by
  unfold State.unitLocate at e
  grind [sound_def, soundAt_write, soundAt_writeN, soundAt_setWord, soundAt_clear, soundAt_copy, soundAt_paste, soundAt_drop, sound_foldl, → State.atPeer_sound, State.noteBound_sound]
theorem State.readBy_sound {a0 a2 a3 a4 a5} (h : s.Sound) (e : State.readBy a0 s a2 a3 a4 a5 = .ok (y0, t)) : t.Sound := by
  unfold State.readBy at e
  grind [→ State.atPeer_sound, → State.readRange_sound]
theorem State.readAt_sound {a1 a2 a3} (h : s.Sound) (e : State.readAt s a1 a2 a3 = .ok (y0, t)) : t.Sound := by
  unfold State.readAt at e
  grind [sound_def, soundAt_write, soundAt_writeN, soundAt_setWord, soundAt_clear, soundAt_copy, soundAt_paste, soundAt_drop, sound_foldl, → State.readBy_sound]
theorem State.writeAt_sound {a1 a2 a3} (h : s.Sound) (e : State.writeAt s a1 a2 a3 = .ok t) : t.Sound := by
  unfold State.writeAt at e
  grind [sound_def, soundAt_write, soundAt_writeN, soundAt_setWord, soundAt_clear, soundAt_copy, soundAt_paste, soundAt_drop, sound_foldl, → except_map_ok, → State.atPeer_sound, → State.writeRange_sound]
theorem State.unitRead_sound {a1 a2 a3 a4 a5} (h : s.Sound) (e : State.unitRead s a1 a2 a3 a4 a5 = .ok (y0, t)) : t.Sound := by
  unfold State.unitRead at e
  grind [sound_def, soundAt_write, soundAt_writeN, soundAt_setWord, soundAt_clear, soundAt_copy, soundAt_paste, soundAt_drop, sound_foldl, → State.unitLocate_sound, → State.readAt_sound]
theorem State.unitReadAs_sound {a0 a2 a3 a4 a5 a6} (h : s.Sound) (e : State.unitReadAs a0 s a2 a3 a4 a5 a6 = .ok (y0, t)) : t.Sound := by
  unfold State.unitReadAs at e
  grind [sound_def, soundAt_write, soundAt_writeN, soundAt_setWord, soundAt_clear, soundAt_copy, soundAt_paste, soundAt_drop, sound_foldl, → State.unitLocate_sound, → State.readBy_sound]
theorem State.unitWrite_sound {a1 a2 a3 a4 a5} (h : s.Sound) (e : State.unitWrite s a1 a2 a3 a4 a5 = .ok t) : t.Sound := by
  unfold State.unitWrite at e
  grind [sound_def, soundAt_write, soundAt_writeN, soundAt_setWord, soundAt_clear, soundAt_copy, soundAt_paste, soundAt_drop, sound_foldl, → State.unitLocate_sound, → State.writeAt_sound]
theorem State.unitWord_sound {a1 a2 a3} (h : s.Sound) (e : State.unitWord s a1 a2 a3 = .ok (y0, t)) : t.Sound := by
  unfold State.unitWord at e
  grind [sound_def, soundAt_write, soundAt_writeN, soundAt_setWord, soundAt_clear, soundAt_copy, soundAt_paste, soundAt_drop, sound_foldl, → State.unitRead_sound]
theorem State.unitAdd_sound {a1 a2 a3 a4 a5 a6 a7 a8} (h : s.Sound) (e : State.unitAdd s a1 a2 a3 a4 a5 a6 a7 a8 = .ok t) : t.Sound := by
  unfold State.unitAdd at e
  grind [sound_def, soundAt_write, soundAt_writeN, soundAt_setWord, soundAt_clear, soundAt_copy, soundAt_paste, soundAt_drop, sound_foldl, → State.unitLocate_sound, State.bump_sound]
theorem State.fetchAt_sound {a1 a2 a3} (h : s.Sound) (e : State.fetchAt s a1 a2 a3 = .ok (y0, t)) : t.Sound := by
  unfold State.fetchAt at e
  grind [sound_def, soundAt_write, soundAt_writeN, soundAt_setWord, soundAt_clear, soundAt_copy, soundAt_paste, soundAt_drop, sound_foldl, → State.unitLocate_sound]
theorem State.recsAt_sound {a1 a2} (h : s.Sound) (e : State.recsAt s a1 a2 = .ok (y0, t)) : t.Sound := by
  unfold State.recsAt at e
  grind [sound_def, soundAt_write, soundAt_writeN, soundAt_setWord, soundAt_clear, soundAt_copy, soundAt_paste, soundAt_drop, sound_foldl, → State.readBy_sound]
theorem State.blockAt_sound {a1 a2 a3} (h : s.Sound) (e : State.blockAt s a1 a2 a3 = .ok (y0, t)) : t.Sound := by
  unfold State.blockAt at e
  grind [sound_def, soundAt_write, soundAt_writeN, soundAt_setWord, soundAt_clear, soundAt_copy, soundAt_paste, soundAt_drop, sound_foldl, → State.fetchAt_sound, → State.recsAt_sound]
theorem State.readEntries_sound {a1 a2 a3} (h : s.Sound) : (State.readEntries s a1 a2 a3).Sound := by
  unfold State.readEntries
  grind [sound_def, soundAt_write, soundAt_writeN, soundAt_setWord, soundAt_clear, soundAt_copy, soundAt_paste, soundAt_drop, sound_foldl, → State.blockAt_sound]
theorem State.checkAt_sound {a1 a2 a3 a4} (h : s.Sound) : (State.checkAt s a1 a2 a3 a4).2.Sound := by
  unfold State.checkAt
  grind [sound_def, soundAt_write, soundAt_writeN, soundAt_setWord, soundAt_clear, soundAt_copy, soundAt_paste, soundAt_drop, sound_foldl, Option.map_eq_some_iff, → toOption_some, → State.blockAt_sound, State.readEntries_sound]
theorem State.placeBlock_sound {a1 a2 a3} (h : s.Sound) : (State.placeBlock s a1 a2 a3).Sound := by
  unfold State.placeBlock
  grind [sound_def, soundAt_write, soundAt_writeN, soundAt_setWord, soundAt_clear, soundAt_copy, soundAt_paste, soundAt_drop, sound_foldl, State.updRegion_sound]
theorem State.writeSpill_sound {a1 a2 a3 a4} (h : s.Sound) : (State.writeSpill s a1 a2 a3 a4).Sound := by
  unfold State.writeSpill
  split
  · refine State.atRest_sound (fun u hu => ?_) h
    split
    · exact State.writeRange_sound hu ‹_›
    · exact hu
  · exact h
theorem State.admitToken_sound {a1 a2 a3 a4} (h : s.Sound) : (State.admitToken s a1 a2 a3 a4).Sound := by
  unfold State.admitToken
  grind [sound_def, soundAt_write, soundAt_writeN, soundAt_setWord, soundAt_clear, soundAt_copy, soundAt_paste, soundAt_drop, sound_foldl, State.updInst_sound, State.raise_sound, State.writeSpill_sound]
theorem State.collide_sound {a1 a2 a3} (h : s.Sound) : (State.collide s a1 a2 a3).Sound := by
  unfold State.collide
  grind [sound_def, soundAt_write, soundAt_writeN, soundAt_setWord, soundAt_clear, soundAt_copy, soundAt_paste, soundAt_drop, sound_foldl, State.raise_sound]
theorem State.fillPort_sound {a1 a2 a3 a4 a5 a6 a7} (h : s.Sound) : (State.fillPort s a1 a2 a3 a4 a5 a6 a7).Sound := by
  unfold State.fillPort
  grind [sound_def, soundAt_write, soundAt_writeN, soundAt_setWord, soundAt_clear, soundAt_copy, soundAt_paste, soundAt_drop, sound_foldl, State.admitToken_sound, State.updInst_sound, State.collide_sound]
theorem State.atNode_sound {a1 a2 a3 a4 a5 a6} (h : s.Sound) : (State.atNode s a1 a2 a3 a4 a5 a6).Sound := by
  unfold State.atNode
  grind [sound_def, soundAt_write, soundAt_writeN, soundAt_setWord, soundAt_clear, soundAt_copy, soundAt_paste, soundAt_drop, sound_foldl, State.updRegion_sound, State.lateDelivery_sound, State.fillPort_sound]
theorem State.orphan_sound {a1} (h : s.Sound) : (State.orphan s a1).Sound := by
  unfold State.orphan
  grind [sound_def, soundAt_write, soundAt_writeN, soundAt_setWord, soundAt_clear, soundAt_copy, soundAt_paste, soundAt_drop, sound_foldl, State.updRegion_sound, State.post_sound]
theorem State.toHalted_sound {a1 a2} (h : s.Sound) : (State.toHalted s a1 a2).Sound := by
  unfold State.toHalted
  grind [sound_def, soundAt_write, soundAt_writeN, soundAt_setWord, soundAt_clear, soundAt_copy, soundAt_paste, soundAt_drop, sound_foldl, State.updCtx_sound]
theorem State.wordAt_sound {a1} (h : s.Sound) (e : State.wordAt s a1 = .ok (y0, t)) : t.Sound := by
  unfold State.wordAt at e
  grind [sound_def, soundAt_write, soundAt_writeN, soundAt_setWord, soundAt_clear, soundAt_copy, soundAt_paste, soundAt_drop, sound_foldl, → except_map_ok, → State.readAt_sound]
theorem State.bytesAt_sound {a1 a2} (h : s.Sound) (e : State.bytesAt s a1 a2 = .ok t) : t.Sound := by
  unfold State.bytesAt at e
  grind [sound_def, soundAt_write, soundAt_writeN, soundAt_setWord, soundAt_clear, soundAt_copy, soundAt_paste, soundAt_drop, sound_foldl, → State.writeAt_sound]
theorem State.appendSaved_sound {a1 a2} (h : s.Sound) (e : State.appendSaved s a1 a2 = .ok (some t)) : t.Sound := by
  simp only [State.appendSaved, bind, Except.bind, pure, Except.pure] at e
  repeat' split at e
  all_goals first
    | cases e; done
    | (cases e
       exact State.bytesAt_sound (State.bytesAt_sound (State.wordAt_sound h ‹_›) ‹_›) ‹_›)
theorem State.noteGroup_sound {a1 a2} (h : s.Sound) : (State.noteGroup s a1 a2).Sound := by
  unfold State.noteGroup
  grind [sound_def, soundAt_write, soundAt_writeN, soundAt_setWord, soundAt_clear, soundAt_copy, soundAt_paste, soundAt_drop, sound_foldl]
theorem State.intoRecord_sound {a1 a2 a3 a4} (h : s.Sound) : (State.intoRecord s a1 a2 a3 a4).Sound := by
  unfold State.intoRecord
  grind [sound_def, soundAt_write, soundAt_writeN, soundAt_setWord, soundAt_clear, soundAt_copy, soundAt_paste, soundAt_drop, sound_foldl, → State.appendSaved_sound, State.lateDelivery_sound, State.noteGroup_sound, State.orphan_sound]
theorem State.regSaved_sound {a1 a2 a3 a4 a5 a6 a7 a8} (h : s.Sound) : (State.regSaved s a1 a2 a3 a4 a5 a6 a7 a8).Sound := by
  unfold State.regSaved
  grind [sound_def, soundAt_write, soundAt_writeN, soundAt_setWord, soundAt_clear, soundAt_copy, soundAt_paste, soundAt_drop, sound_foldl, State.updKept_sound, State.lateDelivery_sound]
theorem State.inbox_sound {a1 a2 a3 a4 a5} (h : s.Sound) (e : State.inbox s a1 a2 a3 a4 a5 = some t) : t.Sound := by
  unfold State.inbox at e
  grind [sound_def, soundAt_write, soundAt_writeN, soundAt_setWord, soundAt_clear, soundAt_copy, soundAt_paste, soundAt_drop, sound_foldl, State.atRest_sound_eq, State.intoRecord_sound, → State.whole_some]
theorem State.updStreamer_sound {a1 a2} (h : s.Sound) : (State.updStreamer s a1 a2).Sound := by
  unfold State.updStreamer
  grind [sound_def, soundAt_write, soundAt_writeN, soundAt_setWord, soundAt_clear, soundAt_copy, soundAt_paste, soundAt_drop, sound_foldl]
theorem State.updIsland_sound {a1 a2} (h : s.Sound) : (State.updIsland s a1 a2).Sound := by
  unfold State.updIsland
  grind [sound_def, soundAt_write, soundAt_writeN, soundAt_setWord, soundAt_clear, soundAt_copy, soundAt_paste, soundAt_drop, sound_foldl]
theorem State.updLattice_sound {a1 a2} (h : s.Sound) : (State.updLattice s a1 a2).Sound := by
  unfold State.updLattice
  grind [sound_def, soundAt_write, soundAt_writeN, soundAt_setWord, soundAt_clear, soundAt_copy, soundAt_paste, soundAt_drop, sound_foldl]
theorem State.engineSent_sound {a1 a2 a3 a4 a5} (h : s.Sound) : (State.engineSent s a1 a2 a3 a4 a5).Sound := by
  unfold State.engineSent
  grind [sound_def, soundAt_write, soundAt_writeN, soundAt_setWord, soundAt_clear, soundAt_copy, soundAt_paste, soundAt_drop, sound_foldl, State.sendTo_sound]
theorem State.atPort_sound {a1 a2 a3 a4} (h : s.Sound) : (State.atPort s a1 a2 a3 a4).Sound := by
  unfold State.atPort
  grind [sound_def, soundAt_write, soundAt_writeN, soundAt_setWord, soundAt_clear, soundAt_copy, soundAt_paste, soundAt_drop, sound_foldl, State.lateDelivery_sound, State.engineSent_sound, State.updIsland_sound, State.updLattice_sound, State.updStreamer_sound]
theorem State.replyOver_sound {a1 a2} (h : s.Sound) : (State.replyOver s a1 a2).Sound := by
  unfold State.replyOver
  grind [sound_def, soundAt_write, soundAt_writeN, soundAt_setWord, soundAt_clear, soundAt_copy, soundAt_paste, soundAt_drop, sound_foldl, State.dropReq_sound]
theorem State.deliverTok_sound {a1 a2} (h : s.Sound) (e : State.deliverTok s a1 a2 = some t) : t.Sound := by
  unfold State.deliverTok at e
  grind [sound_def, soundAt_write, soundAt_writeN, soundAt_setWord, soundAt_clear, soundAt_copy, soundAt_paste, soundAt_drop, sound_foldl, State.atPort_sound, → State.inbox_sound, State.orphan_sound, State.atNode_sound, State.toHalted_sound, State.regSaved_sound, State.countReg_sound]
theorem State.arrive_sound {a1} (h : s.Sound) (e : State.arrive s a1 = some t) : t.Sound := by
  unfold State.arrive at e
  grind [sound_def, soundAt_write, soundAt_writeN, soundAt_setWord, soundAt_clear, soundAt_copy, soundAt_paste, soundAt_drop, sound_foldl, State.bump_sound, Option.map_eq_some_iff, State.replyOver_sound, → State.deliverTok_sound]
theorem State.arriveTogether_sound {a1} (h : s.Sound) : (State.arriveTogether s a1).Sound := by
  unfold State.arriveTogether
  grind [sound_def, soundAt_write, soundAt_writeN, soundAt_setWord, soundAt_clear, soundAt_copy, soundAt_paste, soundAt_drop, sound_foldl, getD_cases, → State.arrive_sound]
theorem State.arbitrate_sound {a1} (h : s.Sound) : (State.arbitrate s a1).Sound := by
  unfold State.arbitrate
  grind [sound_def, soundAt_write, soundAt_writeN, soundAt_setWord, soundAt_clear, soundAt_copy, soundAt_paste, soundAt_drop, sound_foldl, getD_cases, → State.arrive_sound]
theorem execTokenArrival_sound {a0} (h : s.Sound) (e : execTokenArrival a0 s = .next t) : t.Sound := by
  unfold execTokenArrival at e
  grind [sound_def, soundAt_write, soundAt_writeN, soundAt_setWord, soundAt_clear, soundAt_copy, soundAt_paste, soundAt_drop, sound_foldl, getD_cases, → State.arrive_sound]
theorem State.directTokens_sound {a1 a2} (h : s.Sound) : (State.directTokens s a1 a2).Sound := by
  unfold State.directTokens
  grind [sound_def, soundAt_write, soundAt_writeN, soundAt_setWord, soundAt_clear, soundAt_copy, soundAt_paste, soundAt_drop, sound_foldl]
theorem State.startInst_sound {a1 a2 a3 a4} (h : s.Sound) (e : State.startInst s a1 a2 a3 a4 = some t) : t.Sound := by
  unfold State.startInst at e
  grind [sound_def, soundAt_write, soundAt_writeN, soundAt_setWord, soundAt_clear, soundAt_copy, soundAt_paste, soundAt_drop, sound_foldl, State.updRegion_sound, State.updCtx_sound, State.bump_sound, State.directTokens_sound]
theorem State.fetchFails_sound {a1 a2 a3 a4} (h : s.Sound) : (State.fetchFails s a1 a2 a3 a4).Sound := by
  unfold State.fetchFails
  grind [sound_def, soundAt_write, soundAt_writeN, soundAt_setWord, soundAt_clear, soundAt_copy, soundAt_paste, soundAt_drop, sound_foldl, State.halt_sound, State.postAs_sound]
theorem State.fetchBlock_sound {a1 a2 a3} (h : s.Sound) (e : State.fetchBlock s a1 a2 a3 = .ok (t, y1)) : t.Sound := by
  unfold State.fetchBlock at e
  grind [sound_def, soundAt_write, soundAt_writeN, soundAt_setWord, soundAt_clear, soundAt_copy, soundAt_paste, soundAt_drop, sound_foldl, → State.fetchAt_sound, → State.recsAt_sound, State.checkAt_sound, State.updJob_sound, State.placeBlock_sound, Option.bind_eq_some_iff]
theorem State.fetchNow_sound {a1 a2} (h : s.Sound) (e : State.fetchNow s a1 a2 = some t) : t.Sound := by
  unfold State.fetchNow at e
  dsimp only at e
  split at e
  · rcases ite_cases e with e | e
    · cases e
    · split at e
      · obtain ⟨u, v, hu, k, r⟩ := State.whole_some e h
        refine r ?_
        split at k
        · split at k
          · exact of_some k (State.fetchFails_sound hu)
          · cases k
        · rename_i hf
          have h1 := State.fetchBlock_sound hu hf
          rcases ite_cases k with k | k
          · exact of_some k h1
          · split at k
            · exact State.startInst_sound h1 k
            · cases k
      · cases e
  · cases e
theorem execBlockFetch_sound {a0 a1} (h : s.Sound) (e : execBlockFetch a0 a1 s = .next t) : t.Sound := by
  unfold execBlockFetch at e
  grind [sound_def, soundAt_write, soundAt_writeN, soundAt_setWord, soundAt_clear, soundAt_copy, soundAt_paste, soundAt_drop, sound_foldl, getD_cases, → State.fetchNow_sound]
theorem State.tickHeat_sound (h : s.Sound) : (State.tickHeat s).Sound := by
  unfold State.tickHeat
  grind [sound_def, soundAt_write, soundAt_writeN, soundAt_setWord, soundAt_clear, soundAt_copy, soundAt_paste, soundAt_drop, sound_foldl, State.updTile_sound]
theorem State.tick_sound {a1} (h : s.Sound) : (State.tick s a1).Sound := by
  unfold State.tick
  grind [sound_def, soundAt_write, soundAt_writeN, soundAt_setWord, soundAt_clear, soundAt_copy, soundAt_paste, soundAt_drop, sound_foldl, State.tickHeat_sound]
theorem execTick_sound {a0} (h : s.Sound) (e : execTick a0 s = .next t) : t.Sound := by
  unfold execTick at e
  grind [sound_def, soundAt_write, soundAt_writeN, soundAt_setWord, soundAt_clear, soundAt_copy, soundAt_paste, soundAt_drop, sound_foldl, State.tick_sound]

end Sys2Proof.Machine
end

