-- ==== Sys2Proof/Laws/SoundRecords.lean ====
section
/-! SUPPORT. Soundness (`State.Sound`): the meanings of the records, and the operations under them, keep a state sound. One lemma per function that answers a state. -/

namespace Sys2Proof.Machine
open Sys2Proof
variable {s t : State}

theorem State.sendAhead_sound {a1 a2 a3 a4} (h : s.Sound) : (State.sendAhead s a1 a2 a3 a4).Sound := by
  unfold State.sendAhead
  grind [sound_def, soundAt_write, soundAt_writeN, soundAt_setWord, soundAt_clear, soundAt_copy, soundAt_paste, soundAt_drop, sound_foldl, State.sendPacket_sound]
theorem State.startChild_sound {a1 a2 a3 a4 a5} (h : s.Sound) (e : State.startChild s a1 a2 a3 a4 a5 = some t) : t.Sound := by
  unfold State.startChild at e
  grind [sound_def, soundAt_write, soundAt_writeN, soundAt_setWord, soundAt_clear, soundAt_copy, soundAt_paste, soundAt_drop, sound_foldl, → State.drawColour_sound, State.addCtx_sound, State.bump_sound, State.sendAhead_sound]
theorem State.spawn_sound {a1 a2 a3 a4} (h : s.Sound) : (State.spawn s a1 a2 a3 a4).Sound := by
  unfold State.spawn
  grind [sound_def, soundAt_write, soundAt_writeN, soundAt_setWord, soundAt_clear, soundAt_copy, soundAt_paste, soundAt_drop, sound_foldl, State.emitNull_sound, State.request_sound, → State.startChild_sound, State.updReq_sound, State.faultHere_sound]
theorem execSpawn_sound {a0 a1 a2} (h : s.Sound) (e : execSpawn a0 a1 a2 s = .next t) : t.Sound := by
  unfold execSpawn at e
  grind [sound_def, soundAt_write, soundAt_writeN, soundAt_setWord, soundAt_clear, soundAt_copy, soundAt_paste, soundAt_drop, sound_foldl, State.fire_sound, State.spawn_sound]
theorem execSpawnNowait_sound {a0 a1 a2} (h : s.Sound) (e : execSpawnNowait a0 a1 a2 s = .next t) : t.Sound := by
  unfold execSpawnNowait at e
  grind [sound_def, soundAt_write, soundAt_writeN, soundAt_setWord, soundAt_clear, soundAt_copy, soundAt_paste, soundAt_drop, sound_foldl, State.fire_sound, State.spawn_sound]
theorem State.spawnResume_sound {a1} (h : s.Sound) (e : State.spawnResume s a1 = some t) : t.Sound := by
  unfold State.spawnResume at e
  dsimp only at e
  split at e
  · simp at e
  · split at e
    · obtain ⟨u, hu, k⟩ := Option.map_eq_some_iff.mp e
      exact k ▸ State.updReq_sound (State.startChild_sound h hu)
    · simp at e
theorem execSpawnResume_sound {a0} (h : s.Sound) (e : execSpawnResume a0 s = .next t) : t.Sound := by
  unfold execSpawnResume at e
  grind [sound_def, soundAt_write, soundAt_writeN, soundAt_setWord, soundAt_clear, soundAt_copy, soundAt_paste, soundAt_drop, sound_foldl, getD_cases, → State.spawnResume_sound]
theorem execRetn_sound {a0} (h : s.Sound) (e : execRetn a0 s = .next t) : t.Sound := by
  unfold execRetn at e
  grind [sound_def, soundAt_write, soundAt_writeN, soundAt_setWord, soundAt_clear, soundAt_copy, soundAt_paste, soundAt_drop, sound_foldl, State.fire_sound, State.faultHere_sound, State.updOut_sound]
theorem State.storeFails_sound {a1 a2 a3 a4} (h : s.Sound) : (State.storeFails s a1 a2 a3 a4).Sound := by
  unfold State.storeFails
  grind [sound_def, soundAt_write, soundAt_writeN, soundAt_setWord, soundAt_clear, soundAt_copy, soundAt_paste, soundAt_drop, sound_foldl, State.chargeAny_sound]
theorem State.storeFull_sound {a1 a2 a3 a4} (h : s.Sound) : (State.storeFull s a1 a2 a3 a4).Sound := by
  unfold State.storeFull
  grind [sound_def, soundAt_write, soundAt_writeN, soundAt_setWord, soundAt_clear, soundAt_copy, soundAt_paste, soundAt_drop, sound_foldl, State.toPeer_sound, State.bump_sound, → State.atPeer_sound, State.storeFails_sound, → State.writeRange_sound]
theorem State.writeTcb_sound {a1} (h : s.Sound) : (State.writeTcb s a1).Sound := by
  unfold State.writeTcb
  grind [sound_def, soundAt_write, soundAt_writeN, soundAt_setWord, soundAt_clear, soundAt_copy, soundAt_paste, soundAt_drop, sound_foldl, State.storeFull_sound]
theorem State.moveTask_sound {a1} (h : s.Sound) : (State.moveTask s a1).Sound := by
  unfold State.moveTask
  grind [sound_def, soundAt_write, soundAt_writeN, soundAt_setWord, soundAt_clear, soundAt_copy, soundAt_paste, soundAt_drop, sound_foldl, State.writeTcb_sound, State.updTask_sound]
theorem State.endTask_sound {a1} (h : s.Sound) : (State.endTask s a1).Sound := by
  unfold State.endTask
  grind [sound_def, soundAt_write, soundAt_writeN, soundAt_setWord, soundAt_clear, soundAt_copy, soundAt_paste, soundAt_drop, sound_foldl, State.writeTcb_sound, State.toPeer_sound]
theorem State.reqInfo_sound {a1 a2 a3 a4} (h : s.Sound) : (State.reqInfo s a1 a2 a3 a4).Sound := by
  unfold State.reqInfo
  grind [sound_def, soundAt_write, soundAt_writeN, soundAt_setWord, soundAt_clear, soundAt_copy, soundAt_paste, soundAt_drop, sound_foldl, State.reqEnds_sound]
theorem State.awaitDep_sound {a1 a2 a3 a4 a5} (h : s.Sound) (e : State.awaitDep s a1 a2 a3 a4 a5 = .ok (y0, t)) : t.Sound := by
  unfold State.awaitDep at e
  grind [sound_def, soundAt_write, soundAt_writeN, soundAt_setWord, soundAt_clear, soundAt_copy, soundAt_paste, soundAt_drop, sound_foldl, → except_map_ok, State.toPeer_sound, → State.atPeer_sound, → State.readNow_sound, → State.register_sound]
theorem State.handOver_sound {a1 a2 a3} (h : s.Sound) (e : State.handOver s a1 a2 a3 = some t) : t.Sound := by
  unfold State.handOver at e
  dsimp only at e
  split at e
  · exact of_some e (State.reqFault_sound h)
  · have h1 := State.fetchAt_sound h ‹_›
    split at e
    · exact of_some e (State.reqFault_sound h1)
    · have h2 := State.unitLocate_sound h1 ‹_›
      rcases State.goOn_some e with rfl | e
      · exact h2
      · split at e
        · exact of_some e (State.reqFault_sound h2)
        · have h3 := State.awaitDep_sound h2 ‹_›
          rcases State.goOn_some e with rfl | e
          · exact State.writeTcb_sound h3
          · refine of_some e ?_
            split
            · exact State.endTask_sound (State.answer_sound (State.writeTcb_sound h3))
            · exact State.answer_sound (State.writeTcb_sound h3)
theorem State.launchNow_sound {a1} (h : s.Sound) (e : State.launchNow s a1 = some t) : t.Sound := by
  unfold State.launchNow at e
  split at e
  · cases e
  · split at e
    · rcases ite_cases e with e | e
      · cases e
      · obtain ⟨u, v, hu, k, r⟩ := State.whole_some e h
        refine r ?_
        split at k
        · exact of_some k (State.reqFault_sound hu)
        · have h1 := State.unitLocate_sound hu ‹_›
          split at k
          · exact of_some k (State.reqFault_sound h1)
          · have h2 := State.readAt_sound h1 ‹_›
            rcases State.goOn_some k with rfl | k
            · exact h2
            · dsimp only at k
              split at k
              · exact of_some k (State.reqInfo_sound h2)
              · exact State.handOver_sound h2 k
    · cases e
theorem execLaunch_sound {a0} (h : s.Sound) (e : execLaunch a0 s = .next t) : t.Sound := by
  cases e
  refine State.fire_sound h fun u hu => ?_
  have h1 := State.request_sound (a1 := .launch a0) (a2 := .queued) (a3 := 0) hu
  exact sound_getD h1 fun _ k => State.launchNow_sound h1 k
theorem State.taskReady_sound {a1} (h : s.Sound) (e : State.taskReady s a1 = some t) : t.Sound := by
  unfold State.taskReady at e
  grind [sound_def, soundAt_write, soundAt_writeN, soundAt_setWord, soundAt_clear, soundAt_copy, soundAt_paste, soundAt_drop, sound_foldl, → State.whole_some, State.moveTask_sound]
theorem execTcbReady_sound {a0} (h : s.Sound) (e : execTcbReady a0 s = .next t) : t.Sound := by
  unfold execTcbReady at e
  grind [sound_def, soundAt_write, soundAt_writeN, soundAt_setWord, soundAt_clear, soundAt_copy, soundAt_paste, soundAt_drop, sound_foldl, getD_cases, → State.taskReady_sound]
theorem State.startTask_sound {a1 a2} (h : s.Sound) (e : State.startTask s a1 a2 = some t) : t.Sound := by
  unfold State.startTask at e
  grind [sound_def, soundAt_write, soundAt_writeN, soundAt_setWord, soundAt_clear, soundAt_copy, soundAt_paste, soundAt_drop, sound_foldl, → State.drawColour_sound, State.addCtx_sound, State.bump_sound, State.sendAhead_sound, State.moveTask_sound, State.toPeer_sound]
theorem State.startIn_sound {a1 a2} (h : s.Sound) (e : State.startIn s a1 a2 = some t) : t.Sound := by
  unfold State.startIn at e
  grind [sound_def, soundAt_write, soundAt_writeN, soundAt_setWord, soundAt_clear, soundAt_copy, soundAt_paste, soundAt_drop, sound_foldl, → State.whole_some, → State.startTask_sound]
theorem State.dispatchNow_sound {a1} (h : s.Sound) (e : State.dispatchNow s a1 = some t) : t.Sound := by
  unfold State.dispatchNow at e
  grind [sound_def, soundAt_write, soundAt_writeN, soundAt_setWord, soundAt_clear, soundAt_copy, soundAt_paste, soundAt_drop, sound_foldl, Option.bind_eq_some_iff, → State.startIn_sound]
theorem execTaskDispatch_sound {a0} (h : s.Sound) (e : execTaskDispatch a0 s = .next t) : t.Sound := by
  unfold execTaskDispatch at e
  grind [sound_def, soundAt_write, soundAt_writeN, soundAt_setWord, soundAt_clear, soundAt_copy, soundAt_paste, soundAt_drop, sound_foldl, getD_cases, → State.dispatchNow_sound]
theorem State.stealNow_sound {a1} (h : s.Sound) (e : State.stealNow s a1 = some t) : t.Sound := by
  unfold State.stealNow at e
  grind [sound_def, soundAt_write, soundAt_writeN, soundAt_setWord, soundAt_clear, soundAt_copy, soundAt_paste, soundAt_drop, sound_foldl, Option.bind_eq_some_iff, → State.startIn_sound]
theorem execTaskSteal_sound {a0} (h : s.Sound) (e : execTaskSteal a0 s = .next t) : t.Sound := by
  unfold execTaskSteal at e
  grind [sound_def, soundAt_write, soundAt_writeN, soundAt_setWord, soundAt_clear, soundAt_copy, soundAt_paste, soundAt_drop, sound_foldl, getD_cases, → State.stealNow_sound]
theorem State.promoted_sound {a1} (h : s.Sound) (e : State.promoted s a1 = some t) : t.Sound := by
  unfold State.promoted at e
  grind [sound_def, soundAt_write, soundAt_writeN, soundAt_setWord, soundAt_clear, soundAt_copy, soundAt_paste, soundAt_drop, sound_foldl, State.updTask_sound]
theorem execPromoteAnswer_sound {a0} (h : s.Sound) (e : execPromoteAnswer a0 s = .next t) : t.Sound := by
  unfold execPromoteAnswer at e
  grind [sound_def, soundAt_write, soundAt_writeN, soundAt_setWord, soundAt_clear, soundAt_copy, soundAt_paste, soundAt_drop, sound_foldl, getD_cases, → State.promoted_sound]
theorem State.addSuccs_sound {a1 a2} (h : s.Sound) : (State.addSuccs s a1 a2).Sound := by
  unfold State.addSuccs
  refine sound_foldl (fun u a hu => ?_) h
  grind [→ State.unitAdd_sound, State.chargeAny_sound]
theorem State.outcome_sound {a1 a2} (h : s.Sound) : (State.outcome s a1 a2).Sound := by
  unfold State.outcome
  grind [sound_def, soundAt_write, soundAt_writeN, soundAt_setWord, soundAt_clear, soundAt_copy, soundAt_paste, soundAt_drop, sound_foldl, State.endTask_sound, State.addSuccs_sound, State.moveTask_sound]
theorem State.taskDone_sound {a1} (h : s.Sound) (e : State.taskDone s a1 = some t) : t.Sound := by
  unfold State.taskDone at e
  grind [sound_def, soundAt_write, soundAt_writeN, soundAt_setWord, soundAt_clear, soundAt_copy, soundAt_paste, soundAt_drop, sound_foldl, → State.whole_some, State.outcome_sound]
theorem execTaskFinish_sound {a0} (h : s.Sound) (e : execTaskFinish a0 s = .next t) : t.Sound := by
  unfold execTaskFinish at e
  grind [sound_def, soundAt_write, soundAt_writeN, soundAt_setWord, soundAt_clear, soundAt_copy, soundAt_paste, soundAt_drop, sound_foldl, getD_cases, → State.taskDone_sound]
theorem State.sendMark_sound {a1} (h : s.Sound) : (State.sendMark s a1).Sound := by
  unfold State.sendMark
  grind [sound_def, soundAt_write, soundAt_writeN, soundAt_setWord, soundAt_clear, soundAt_copy, soundAt_paste, soundAt_drop, sound_foldl, State.updCtx_sound]
theorem State.endSaved_sound {a1 a2} (h : s.Sound) : (State.endSaved s a1 a2).Sound := by
  unfold State.endSaved
  grind [sound_def, soundAt_write, soundAt_writeN, soundAt_setWord, soundAt_clear, soundAt_copy, soundAt_paste, soundAt_drop, sound_foldl, State.jobFlags_sound, State.updSaved_sound, State.updRegion_sound, State.returnTo_sound]
theorem State.markTask_sound {a1} (h : s.Sound) : (State.markTask s a1).Sound := by
  unfold State.markTask
  grind [sound_def, soundAt_write, soundAt_writeN, soundAt_setWord, soundAt_clear, soundAt_copy, soundAt_paste, soundAt_drop, sound_foldl, State.updTask_sound, State.endTask_sound]
theorem State.markAll_sound {a1 a2} (h : s.Sound) : (State.markAll s a1 a2).1.Sound := by
  unfold State.markAll
  grind [sound_def, soundAt_write, soundAt_writeN, soundAt_setWord, soundAt_clear, soundAt_copy, soundAt_paste, soundAt_drop, sound_foldl, State.sendMark_sound, State.markTask_sound, State.endSaved_sound]
theorem State.passMark_sound {a1} (h : s.Sound) : (State.passMark s a1).Sound := by
  unfold State.passMark
  grind [sound_def, soundAt_write, soundAt_writeN, soundAt_setWord, soundAt_clear, soundAt_copy, soundAt_paste, soundAt_drop, sound_foldl, State.markAll_sound]
theorem State.cancelTask_sound {a1} (h : s.Sound) : (State.cancelTask s a1).Sound := by
  unfold State.cancelTask
  dsimp only
  have h1 := State.markTask_sound (a1 := a1) h
  split
  · exact h1
  · split
    · exact State.sendMark_sound h1
    · exact State.passMark_sound (State.endSaved_sound h1)
    · exact State.passMark_sound h1
theorem State.cancelsDone_sound (h : s.Sound) : (State.cancelsDone s).Sound := by
  unfold State.cancelsDone
  grind [sound_def, soundAt_write, soundAt_writeN, soundAt_setWord, soundAt_clear, soundAt_copy, soundAt_paste, soundAt_drop, sound_foldl, State.answer_sound]
theorem State.cancelActed_sound {a1 a2} (h : s.Sound) : (State.cancelActed s a1 a2).Sound := by
  unfold State.cancelActed
  grind [sound_def, soundAt_write, soundAt_writeN, soundAt_setWord, soundAt_clear, soundAt_copy, soundAt_paste, soundAt_drop, sound_foldl, State.cancelsDone_sound, State.updReq_sound]
theorem State.cancelJob_sound {a1} (h : s.Sound) : (State.cancelJob s a1).1.Sound := by
  unfold State.cancelJob
  exact State.updJob_sound (sound_foldl (fun _ _ k => State.passMark_sound k) (State.markAll_sound h))
theorem State.cancelNow_sound {a1} (h : s.Sound) (e : State.cancelNow s a1 = some t) : t.Sound := by
  unfold State.cancelNow at e
  split at e
  · cases e
  · split at e
    · cases e
    · dsimp only at e
      rcases ite_cases e with e | e
      · cases e
      · obtain ⟨u, v, hu, k, r⟩ := State.whole_some e h
        refine r ?_
        split at k
        · exact of_some k (State.reqFault_sound hu)
        · have h1 := State.unitLocate_sound hu ‹_›
          rcases State.goOn_some k with rfl | k
          · exact h1
          · split at k
            · split at k
              · exact of_some k (State.cancelActed_sound h1)
              · exact of_some k (State.cancelActed_sound (State.cancelTask_sound h1))
            · exact of_some k (State.cancelActed_sound
                (foldl_inv (P := fun (p : State × Bool) => p.1.Sound) (fun p j hp => State.cancelJob_sound hp) h1))
theorem State.cancelHere_sound {a1} (h : s.Sound) : (State.cancelHere s a1).Sound := by
  unfold State.cancelHere
  grind [sound_def, soundAt_write, soundAt_writeN, soundAt_setWord, soundAt_clear, soundAt_copy, soundAt_paste, soundAt_drop, sound_foldl, State.request_sound, getD_cases, → State.cancelNow_sound]
theorem execCancel_sound {a0} (h : s.Sound) (e : execCancel a0 s = .next t) : t.Sound := by
  unfold execCancel at e
  grind [sound_def, soundAt_write, soundAt_writeN, soundAt_setWord, soundAt_clear, soundAt_copy, soundAt_paste, soundAt_drop, sound_foldl, State.fire_sound, State.cancelHere_sound]
theorem execCancelLaunch_sound {a0} (h : s.Sound) (e : execCancelLaunch a0 s = .next t) : t.Sound := by
  unfold execCancelLaunch at e
  grind [sound_def, soundAt_write, soundAt_writeN, soundAt_setWord, soundAt_clear, soundAt_copy, soundAt_paste, soundAt_drop, sound_foldl, State.fire_sound, State.cancelHere_sound]
theorem State.markSeen_sound {a1} (h : s.Sound) (e : State.markSeen s a1 = some t) : t.Sound := by
  unfold State.markSeen at e
  split at e
  · rcases ite_cases e with e | e
    · obtain ⟨u, v, hu, k, r⟩ := State.whole_some e h
      refine r (of_some k (State.cancelsDone_sound ?_))
      have h1 := State.passMark_sound (a1 := a1) (State.updCtx_sound (a1 := a1) (a2 := fun y => { y with mark := .seen }) hu)
      split
      · exact State.endCtx_sound h1
      · exact h1
    · cases e
  · dsimp only at e
    rcases ite_cases e with e | e
    · obtain ⟨u, v, hu, k, r⟩ := State.whole_some e h
      refine r (of_some k (State.cancelsDone_sound (State.passMark_sound ?_)))
      split
      · exact State.endSaved_sound hu
      · exact hu
    · rcases ite_cases e with e | e
      · exact of_some e (State.cancelsDone_sound h)
      · cases e
theorem execCancelMarkSeen_sound {a0} (h : s.Sound) (e : execCancelMarkSeen a0 s = .next t) : t.Sound := by
  unfold execCancelMarkSeen at e
  grind [sound_def, soundAt_write, soundAt_writeN, soundAt_setWord, soundAt_clear, soundAt_copy, soundAt_paste, soundAt_drop, sound_foldl, getD_cases, → State.markSeen_sound]
theorem execTrap_sound {a0 a1} (h : s.Sound) (e : execTrap a0 a1 s = .next t) : t.Sound := by
  unfold execTrap at e
  grind [sound_def, soundAt_write, soundAt_writeN, soundAt_setWord, soundAt_clear, soundAt_copy, soundAt_paste, soundAt_drop, sound_foldl, State.fire_sound, State.updOut_sound]
theorem State.sendWord_sound {a1 a2} (h : s.Sound) : (State.sendWord s a1 a2).Sound := by
  unfold State.sendWord
  grind [sound_def, soundAt_write, soundAt_writeN, soundAt_setWord, soundAt_clear, soundAt_copy, soundAt_paste, soundAt_drop, sound_foldl, State.result_sound]
theorem State.reqDone_sound {a1 a2} (h : s.Sound) : (State.reqDone s a1 a2).Sound := by
  unfold State.reqDone
  grind [sound_def, soundAt_write, soundAt_writeN, soundAt_setWord, soundAt_clear, soundAt_copy, soundAt_paste, soundAt_drop, sound_foldl, State.answer_sound]
theorem State.reqFails_sound {a1 a2} (h : s.Sound) : (State.reqFails s a1 a2).Sound := by
  unfold State.reqFails
  grind [sound_def, soundAt_write, soundAt_writeN, soundAt_setWord, soundAt_clear, soundAt_copy, soundAt_paste, soundAt_drop, sound_foldl, State.reqFault_sound]
theorem State.filterQueue_sound {a1} (h : s.Sound) (e : State.filterQueue s a1 = some t) : t.Sound := by
  unfold State.filterQueue at e
  dsimp only at e
  split at e
  · exact of_some e (State.reqFault_sound h)
  · have h1 := State.unitLocate_sound h ‹_›
    rcases State.goOn_some e with rfl | e
    · exact h1
    · split at e
      · exact of_some e (State.reqDone_sound h1)
      · split at e
        · exact of_some e (State.reqFault_sound h1)
        · have h2 := State.writeAt_sound h1 ‹_›
          rcases State.goOn_some e with rfl | e
          · exact h2
          · exact of_some e (State.reqDone_sound (soundAt_drop h2))
theorem State.enqueueMsg_sound {a1 a2 a3 a4 a5 a6} (h : s.Sound) : (State.enqueueMsg s a1 a2 a3 a4 a5 a6).Sound := by
  unfold State.enqueueMsg
  grind [sound_def, soundAt_write, soundAt_writeN, soundAt_setWord, soundAt_clear, soundAt_copy, soundAt_paste, soundAt_drop, sound_foldl, State.bump_sound]
theorem State.takeMsg_sound {a1} (h : s.Sound) : (State.takeMsg s a1).Sound := by
  unfold State.takeMsg
  grind [sound_def, soundAt_write, soundAt_writeN, soundAt_setWord, soundAt_clear, soundAt_copy, soundAt_paste, soundAt_drop, sound_foldl]
theorem State.answerMsgr_sound {a1 a2 a3} (h : s.Sound) : (State.answerMsgr s a1 a2 a3).Sound := by
  unfold State.answerMsgr
  grind [sound_def, soundAt_write, soundAt_writeN, soundAt_setWord, soundAt_clear, soundAt_copy, soundAt_paste, soundAt_drop, sound_foldl, State.answer_sound]
theorem State.sendMsg_sound {a1} (h : s.Sound) : (State.sendMsg s a1).Sound := by
  unfold State.sendMsg
  grind [sound_def, soundAt_write, soundAt_writeN, soundAt_setWord, soundAt_clear, soundAt_copy, soundAt_paste, soundAt_drop, sound_foldl, State.sendWord_sound, State.answerMsgr_sound, State.enqueueMsg_sound]
theorem execMsg_sound {a0} (h : s.Sound) (e : execMsg a0 s = .next t) : t.Sound := by
  unfold execMsg at e
  grind [sound_def, soundAt_write, soundAt_writeN, soundAt_setWord, soundAt_clear, soundAt_copy, soundAt_paste, soundAt_drop, sound_foldl, State.fire_sound, State.sendMsg_sound]
theorem execMsgReply_sound {a0} (h : s.Sound) (e : execMsgReply a0 s = .next t) : t.Sound := by
  unfold execMsgReply at e
  grind [sound_def, soundAt_write, soundAt_writeN, soundAt_setWord, soundAt_clear, soundAt_copy, soundAt_paste, soundAt_drop, sound_foldl, State.fire_sound, State.sendMsg_sound]
theorem State.requestMsg_sound {a1} (h : s.Sound) : (State.requestMsg s a1).Sound := by
  unfold State.requestMsg
  grind [sound_def, soundAt_write, soundAt_writeN, soundAt_setWord, soundAt_clear, soundAt_copy, soundAt_paste, soundAt_drop, sound_foldl, State.send2_sound, State.request_sound, State.enqueueMsg_sound]
theorem execMsgr_sound {a0} (h : s.Sound) (e : execMsgr a0 s = .next t) : t.Sound := by
  unfold execMsgr at e
  grind [sound_def, soundAt_write, soundAt_writeN, soundAt_setWord, soundAt_clear, soundAt_copy, soundAt_paste, soundAt_drop, sound_foldl, State.fire_sound, State.requestMsg_sound]
theorem State.receiveMsg_sound {a1} (h : s.Sound) (e : State.receiveMsg s a1 = some t) : t.Sound := by
  unfold State.receiveMsg at e
  grind [sound_def, soundAt_write, soundAt_writeN, soundAt_setWord, soundAt_clear, soundAt_copy, soundAt_paste, soundAt_drop, sound_foldl, State.answerMsgr_sound, State.takeMsg_sound]
theorem execMsgrReceive_sound {a0} (h : s.Sound) (e : execMsgrReceive a0 s = .next t) : t.Sound := by
  unfold execMsgrReceive at e
  grind [sound_def, soundAt_write, soundAt_writeN, soundAt_setWord, soundAt_clear, soundAt_copy, soundAt_paste, soundAt_drop, sound_foldl, getD_cases, → State.receiveMsg_sound]
theorem State.squashSpeculative_sound {a1} (h : s.Sound) : (State.squashSpeculative s a1).Sound := by
  unfold State.squashSpeculative
  grind [sound_def, soundAt_write, soundAt_writeN, soundAt_setWord, soundAt_clear, soundAt_copy, soundAt_paste, soundAt_drop, sound_foldl, State.updCtx_sound, State.squash_sound]
theorem State.drainCtx_sound {a1} (h : s.Sound) : (State.drainCtx s a1).Sound := by
  unfold State.drainCtx
  grind [sound_def, soundAt_write, soundAt_writeN, soundAt_setWord, soundAt_clear, soundAt_copy, soundAt_paste, soundAt_drop, sound_foldl, State.giveUp_sound]
theorem State.endDusk_sound {a1 a2} (h : s.Sound) : (State.endDusk s a1 a2).Sound := by
  unfold State.endDusk
  grind [sound_def, soundAt_write, soundAt_writeN, soundAt_setWord, soundAt_clear, soundAt_copy, soundAt_paste, soundAt_drop, sound_foldl, State.updJob_sound, State.drainCtx_sound, State.updRegion_sound]
theorem State.injectMarker_sound {a1 a2} (h : s.Sound) : (State.injectMarker s a1 a2).Sound := by
  unfold State.injectMarker
  grind [sound_def, soundAt_write, soundAt_writeN, soundAt_setWord, soundAt_clear, soundAt_copy, soundAt_paste, soundAt_drop, sound_foldl, State.updRegion_sound, State.endDusk_sound]
theorem State.startDusk_sound {a1 a2} (h : s.Sound) (e : State.startDusk s a1 a2 = some t) : t.Sound := by
  unfold State.startDusk at e
  grind [sound_def, soundAt_write, soundAt_writeN, soundAt_setWord, soundAt_clear, soundAt_copy, soundAt_paste, soundAt_drop, sound_foldl, → State.unitLocate_sound, State.reqFault_sound, → State.goOn_some, State.reqDone_sound, State.squashSpeculative_sound, State.injectMarker_sound]
theorem State.forwardMarker_sound {a1 a2 a3} (h : s.Sound) (e : State.forwardMarker s a1 a2 a3 = some t) : t.Sound := by
  unfold State.forwardMarker at e
  split at e
  · cases e
  · split at e
    · split at e
      · cases e
      · dsimp only at e
        rcases ite_cases e with e | e
        · cases e
        · obtain ⟨u, v, hu, k, r⟩ := State.whole_some e h
          refine r (of_some k ?_)
          have h1 := fun f => State.updRegion_sound (a1 := a1) (a2 := f) hu
          have key : ∀ (w : State), State.Sound w → ∀ (c : Bool) (g : Region) (d : Dusk), (if c then w.endDusk g d else w).Sound := by
            intro w hw c g d
            split
            · exact State.endDusk_sound hw
            · exact hw
          refine key _ ?_ _ _ _
          split
          · split
            · exact State.unitAdd_sound (h1 _) ‹_›
            · exact h1 _
          · exact h1 _
    · cases e
theorem execDuskMarkerArrival_sound {a0 a1 a2} (h : s.Sound) (e : execDuskMarkerArrival a0 a1 a2 s = .next t) : t.Sound := by
  unfold execDuskMarkerArrival at e
  grind [sound_def, soundAt_write, soundAt_writeN, soundAt_setWord, soundAt_clear, soundAt_copy, soundAt_paste, soundAt_drop, sound_foldl, getD_cases, → State.forwardMarker_sound]
theorem State.checkCopies_sound {a1 a2 a3 a4} (h : s.Sound) : (State.checkCopies s a1 a2 a3 a4).2.Sound := by
  induction a4 generalizing s with
  | nil => exact h
  | cons gp rest ih => exact ih (State.checkAt_sound h)
theorem State.rewriteLit_sound {a1 a2} (h : s.Sound) (e : State.rewriteLit s a1 a2 = some t) : t.Sound := by
  unfold State.rewriteLit at e
  grind [sound_def, soundAt_write, soundAt_writeN, soundAt_setWord, soundAt_clear, soundAt_copy, soundAt_paste, soundAt_drop, sound_foldl, → State.fetchAt_sound, State.reqFault_sound, → State.goOn_some, Option.map_eq_some_iff, State.reqFails_sound, State.checkCopies_sound, State.updRegion_sound, State.reqDone_sound]
theorem State.writeBadNode_sound {a1} (h : s.Sound) : (State.writeBadNode s a1).Sound := by
  unfold State.writeBadNode
  grind [sound_def, soundAt_write, soundAt_writeN, soundAt_setWord, soundAt_clear, soundAt_copy, soundAt_paste, soundAt_drop, sound_foldl, State.sendWord_sound, State.checkReplace_sound]
theorem execBadn_sound {a0} (h : s.Sound) (e : execBadn a0 s = .next t) : t.Sound := by
  unfold execBadn at e
  grind [sound_def, soundAt_write, soundAt_writeN, soundAt_setWord, soundAt_clear, soundAt_copy, soundAt_paste, soundAt_drop, sound_foldl, State.fire_sound, State.writeBadNode_sound]
theorem State.writeAperture_sound {a1 a2 a3 a4} (h : s.Sound) (e : State.writeAperture s a1 a2 a3 a4 = some t) : t.Sound := by
  unfold State.writeAperture at e
  grind [sound_def, soundAt_write, soundAt_writeN, soundAt_setWord, soundAt_clear, soundAt_copy, soundAt_paste, soundAt_drop, sound_foldl, → State.writeRange_sound]
theorem State.setAperture_sound {a1} (h : s.Sound) (e : State.setAperture s a1 = some t) : t.Sound := by
  unfold State.setAperture at e
  grind [sound_def, soundAt_write, soundAt_writeN, soundAt_setWord, soundAt_clear, soundAt_copy, soundAt_paste, soundAt_drop, sound_foldl, → State.unitRead_sound, State.reqFault_sound, → State.goOn_some, State.reqFails_sound, → State.writeAperture_sound, State.reqDone_sound]
theorem execTime_sound {a0} (h : s.Sound) (e : execTime a0 s = .next t) : t.Sound := by
  unfold execTime at e
  grind [sound_def, soundAt_write, soundAt_writeN, soundAt_setWord, soundAt_clear, soundAt_copy, soundAt_paste, soundAt_drop, sound_foldl, State.fire_sound, State.sendWord_sound]
theorem State.sendRetire_sound {a1 a2} (h : s.Sound) : (State.sendRetire s a1 a2).Sound := by
  unfold State.sendRetire
  grind [sound_def, soundAt_write, soundAt_writeN, soundAt_setWord, soundAt_clear, soundAt_copy, soundAt_paste, soundAt_drop, sound_foldl, State.enqueueMsg_sound, State.updReq_sound]
theorem State.retireIf_sound {a1 a2 a3 a4} (h : s.Sound) : (State.retireIf s a1 a2 a3 a4).Sound := by
  unfold State.retireIf
  grind [sound_def, soundAt_write, soundAt_writeN, soundAt_setWord, soundAt_clear, soundAt_copy, soundAt_paste, soundAt_drop, sound_foldl, State.sendRetire_sound, State.reqFault_sound]
theorem State.retireAt_sound {a1} (h : s.Sound) (e : State.retireAt s a1 = some t) : t.Sound := by
  unfold State.retireAt at e
  grind [sound_def, soundAt_write, soundAt_writeN, soundAt_setWord, soundAt_clear, soundAt_copy, soundAt_paste, soundAt_drop, sound_foldl, State.reqFault_sound, State.retireIf_sound, → State.atPeer_sound, → State.goOn_some, State.noteBound_sound]
theorem State.unitAct_sound {a1} (h : s.Sound) (e : State.unitAct s a1 = some t) : t.Sound := by
  unfold State.unitAct at e
  split at e
  · exact State.filterQueue_sound h e
  · exact State.startDusk_sound h e
  · exact State.startDusk_sound h e
  · exact State.rewriteLit_sound h e
  · exact State.setAperture_sound h e
  · exact State.retireAt_sound h e
  · cases e
theorem State.unitNow_sound {a1} (h : s.Sound) (e : State.unitNow s a1 = some t) : t.Sound := by
  unfold State.unitNow at e
  grind [sound_def, soundAt_write, soundAt_writeN, soundAt_setWord, soundAt_clear, soundAt_copy, soundAt_paste, soundAt_drop, sound_foldl, → State.whole_some, → State.unitAct_sound]
theorem State.unitHere_sound {a1} (h : s.Sound) : (State.unitHere s a1).Sound := by
  unfold State.unitHere
  grind [sound_def, soundAt_write, soundAt_writeN, soundAt_setWord, soundAt_clear, soundAt_copy, soundAt_paste, soundAt_drop, sound_foldl, State.request_sound, getD_cases, → State.unitNow_sound]
theorem execFltr_sound {a0} (h : s.Sound) (e : execFltr a0 s = .next t) : t.Sound := by
  unfold execFltr at e
  grind [sound_def, soundAt_write, soundAt_writeN, soundAt_setWord, soundAt_clear, soundAt_copy, soundAt_paste, soundAt_drop, sound_foldl, State.fire_sound, State.unitHere_sound]
theorem execDusk_sound {a0} (h : s.Sound) (e : execDusk a0 s = .next t) : t.Sound := by
  unfold execDusk at e
  grind [sound_def, soundAt_write, soundAt_writeN, soundAt_setWord, soundAt_clear, soundAt_copy, soundAt_paste, soundAt_drop, sound_foldl, State.fire_sound, State.unitHere_sound]
theorem execDuskSave_sound {a0} (h : s.Sound) (e : execDuskSave a0 s = .next t) : t.Sound := by
  unfold execDuskSave at e
  grind [sound_def, soundAt_write, soundAt_writeN, soundAt_setWord, soundAt_clear, soundAt_copy, soundAt_paste, soundAt_drop, sound_foldl, State.fire_sound, State.unitHere_sound]
theorem execLitw_sound {a0 a1} (h : s.Sound) (e : execLitw a0 a1 s = .next t) : t.Sound := by
  unfold execLitw at e
  grind [sound_def, soundAt_write, soundAt_writeN, soundAt_setWord, soundAt_clear, soundAt_copy, soundAt_paste, soundAt_drop, sound_foldl, State.fire_sound, State.unitHere_sound]
theorem execApset_sound {a0} (h : s.Sound) (e : execApset a0 s = .next t) : t.Sound := by
  unfold execApset at e
  grind [sound_def, soundAt_write, soundAt_writeN, soundAt_setWord, soundAt_clear, soundAt_copy, soundAt_paste, soundAt_drop, sound_foldl, State.fire_sound, State.unitHere_sound]
theorem execRetire_sound {a0} (h : s.Sound) (e : execRetire a0 s = .next t) : t.Sound := by
  unfold execRetire at e
  grind [sound_def, soundAt_write, soundAt_writeN, soundAt_setWord, soundAt_clear, soundAt_copy, soundAt_paste, soundAt_drop, sound_foldl, State.fire_sound, State.unitHere_sound]
theorem State.keepSaved_sound {a1 a2} (h : s.Sound) : (State.keepSaved s a1 a2).Sound := by
  unfold State.keepSaved
  grind [sound_def, soundAt_write, soundAt_writeN, soundAt_setWord, soundAt_clear, soundAt_copy, soundAt_paste, soundAt_drop, sound_foldl, State.releaseColour_sound, State.updRegion_sound, State.orphan_sound]
theorem State.saveInto_sound {a1 a2 a3} (h : s.Sound) (e : State.saveInto s a1 a2 a3 = some t) : t.Sound := by
  unfold State.saveInto at e
  dsimp only at e
  rcases ite_cases e with e | e
  · cases e
  · rcases ite_cases e with e | e
    · exact of_some e (State.reqFails_sound h)
    · split at e
      · exact of_some e (State.reqFault_sound h)
      · have h1 := State.writeAt_sound h ‹_›
        rcases State.goOn_some e with rfl | e
        · exact h1
        · exact of_some e (State.reqDone_sound (State.keepSaved_sound h1))
theorem State.saveNow_sound {a1} (h : s.Sound) (e : State.saveNow s a1 = some t) : t.Sound := by
  unfold State.saveNow at e
  split at e
  · cases e
  · split at e
    · obtain ⟨u, v, hu, k, r⟩ := State.whole_some e h
      refine r ?_
      split at k
      · exact of_some k (State.reqFails_sound hu)
      · split at k
        · exact of_some k (State.reqFault_sound hu)
        · have h1 := State.unitLocate_sound hu ‹_›
          rcases State.goOn_some k with rfl | k
          · exact h1
          · exact State.saveInto_sound h1 k
    · cases e
theorem execCtxsv_sound {a0} (h : s.Sound) (e : execCtxsv a0 s = .next t) : t.Sound := by
  cases e
  refine State.fire_sound h fun u hu => ?_
  have h1 := State.request_sound (a1 := .ctxsv a0) (a2 := .answer) (a3 := 0) hu
  exact sound_getD h1 fun _ k => State.saveNow_sound h1 k
theorem State.freeVec_sound {a1} (h : s.Sound) : (State.freeVec s a1).2.Sound := by
  induction a1 generalizing s with
  | zero => exact h
  | succ n ih => exact ih (s := s.free.2) h
theorem State.openRegs_sound {a1 a2 a3} (h : s.Sound) : (State.openRegs s a1 a2 a3).2.Sound := by
  induction a3 generalizing s with
  | nil => exact h
  | cons n ns ih =>
    unfold State.openRegs
    cases a2
    · exact ih (s := s.free.2) h
    · exact ih (State.freeVec_sound h)
theorem State.openInst_sound {a1 a2 a3} (h : s.Sound) : (State.openInst s a1 a2 a3).2.Sound := by
  unfold State.openInst
  grind [sound_def, soundAt_write, soundAt_writeN, soundAt_setWord, soundAt_clear, soundAt_copy, soundAt_paste, soundAt_drop, sound_foldl, State.openRegs_sound, State.free_sound]
theorem State.restoreInst_sound {a1 a2 a3} (h : s.Sound) (e : State.restoreInst s a1 a2 a3 = .ok (some t)) : t.Sound := by
  unfold State.restoreInst at e
  split at e
  · split at e
    · cases e
    · have h1 := State.fetchBlock_sound h ‹_›
      split at e
      · cases e; exact h1
      · cases e
    · have h1 := State.fetchBlock_sound h ‹_›
      split at e
      · cases e
      · split at e
        · cases e
        · have h2 := State.startInst_sound h1 ‹_›
          split at e
          · cases e
          · split at e
            · cases e
              exact State.updInst_sound h2
            · refine of_some (Except.ok.inj e) ?_
              exact State.updInst_sound (State.openInst_sound (a2 := by assumption) h2)
  · cases e
theorem State.restoreInsts_sound {a1 a2 a3 a4 a5} (h : s.Sound) (e : State.restoreInsts s a1 a2 a3 a4 a5 = .ok (some t)) : t.Sound := by
  induction a5 generalizing s a4 with
  | zero => simp only [State.restoreInsts] at e; cases e; exact h
  | succ n ih =>
    simp only [State.restoreInsts] at e
    split at e
    · cases e
    · cases e
    · have h1 := State.restoreInst_sound h ‹_›
      split at e
      · cases e; exact h1
      · exact ih h1 e
theorem State.restoreTok_sound {a1 a2 a3} (h : s.Sound) : (State.restoreTok s a1 a2 a3).Sound := by
  unfold State.restoreTok
  split
  · split
    · exact h
    · split
      · split
        · exact State.sendPacket_sound h
        · exact h
      · split
        · exact h
        · have h1 := fun n f => State.updRegion_sound (a1 := n) (a2 := f) (State.bump_sound h)
          dsimp only
          split
          · exact State.fillPort_sound (h1 _ _)
          · split
            · split
              · exact State.collide_sound (h1 _ _)
              · exact State.admitToken_sound (h1 _ _)
            · exact State.admitToken_sound (h1 _ _)
  · exact h
theorem State.restoreToks_sound {a1 a2 a3 a4} (h : s.Sound) : (State.restoreToks s a1 a2 a3 a4).Sound :=
  sound_foldl (fun _ _ k => State.restoreTok_sound k) h
theorem State.rename_sound {a1 a2} (h : s.Sound) : (State.rename s a1 a2).Sound := by
  unfold State.rename
  grind [sound_def, soundAt_write, soundAt_writeN, soundAt_setWord, soundAt_clear, soundAt_copy, soundAt_paste, soundAt_drop, sound_foldl]
theorem State.unsave_sound {a1 a2 a3} (h : s.Sound) : (State.unsave s a1 a2 a3).Sound := by
  unfold State.unsave
  grind [sound_def, soundAt_write, soundAt_writeN, soundAt_setWord, soundAt_clear, soundAt_copy, soundAt_paste, soundAt_drop, sound_foldl, State.rename_sound, State.updTask_sound]
theorem State.endRestore_sound {a1 a2 a3 a4 a5} (h : s.Sound) : (State.endRestore s a1 a2 a3 a4 a5).Sound := by
  unfold State.endRestore
  grind [sound_def, soundAt_write, soundAt_writeN, soundAt_setWord, soundAt_clear, soundAt_copy, soundAt_paste, soundAt_drop, sound_foldl, State.storeFull_sound, State.unsave_sound]
theorem State.restoreCtx_sound {a1 a2 a3 a4} (h : s.Sound) (e : State.restoreCtx s a1 a2 a3 a4 = some t) : t.Sound := by
  unfold State.restoreCtx at e
  dsimp only at e
  generalize hu : State.addCtx _ _ = u at e
  have h1 : u.Sound := hu ▸ h
  split at e
  · exact of_some e (State.fetchFails_sound h1)
  · cases e
  · have h2 := State.restoreInsts_sound h1 ‹_›
    rcases State.goOn_some e with rfl | e
    · exact h2
    · exact of_some e (State.restoreToks_sound h2)
theorem State.loadInto_sound {a1 a2 a3 a4} (h : s.Sound) (e : State.loadInto s a1 a2 a3 a4 = some t) : t.Sound := by
  unfold State.loadInto at e
  split at e
  · cases e
  · have h1 := State.drawColour_sound h ‹_›
    split at e
    · cases e
    · have h2 := State.restoreCtx_sound h1 ‹_›
      rcases State.goOn_some e with rfl | e
      · exact h2
      · exact of_some e (State.reqDone_sound (State.settle_sound (State.endRestore_sound h2)))
theorem State.loadNow_sound {a1} (h : s.Sound) (e : State.loadNow s a1 = some t) : t.Sound := by
  unfold State.loadNow at e
  split at e
  · cases e
  · split at e
    · obtain ⟨u, v, hu, k, r⟩ := State.whole_some e h
      refine r ?_
      dsimp only at k
      split at k
      · exact of_some k (State.reqFault_sound hu)
      · have h1 := State.unitLocate_sound hu ‹_›
        split at k
        · exact of_some k (State.reqFault_sound h1)
        · have h2 := State.readAt_sound h1 ‹_›
          rcases State.goOn_some k with rfl | k
          · exact h2
          · split at k
            · rcases ite_cases k with k | k
              · exact of_some k (State.reqFails_sound h2)
              · split at k
                · exact of_some k (State.reqFault_sound h2)
                · have h3 := State.unitLocate_sound h2 ‹_›
                  split at k
                  · exact of_some k (State.reqFault_sound h3)
                  · have h4 := State.readAt_sound h3 ‹_›
                    rcases State.goOn_some k with rfl | k
                    · exact h4
                    · exact State.loadInto_sound h4 k
            · exact of_some k (State.reqFails_sound h2)
    · cases e
theorem execCtxld_sound {a0} (h : s.Sound) (e : execCtxld a0 s = .next t) : t.Sound := by
  cases e
  refine State.fire_sound h fun u hu => ?_
  have h1 := State.request_sound (a1 := .ctxld a0) (a2 := .colour) (a3 := 0) hu
  exact sound_getD h1 fun _ k => State.loadNow_sound h1 k
theorem State.serviceNow_sound {a1} (h : s.Sound) (e : State.serviceNow s a1 = some t) : t.Sound := by
  simp only [State.serviceNow, Option.or_eq_some_iff] at e
  rcases e with ((((e | e) | e) | e) | e) | e
  · exact State.tileNow_sound h e
  · exact State.launchNow_sound h e.2
  · exact State.cancelNow_sound h e.2
  · exact State.unitNow_sound h e.2
  · exact State.saveNow_sound h e.2
  · exact State.loadNow_sound h e.2
theorem execTileAccess_sound {a0} (h : s.Sound) (e : execTileAccess a0 s = .next t) : t.Sound := by
  unfold execTileAccess at e
  grind [sound_def, soundAt_write, soundAt_writeN, soundAt_setWord, soundAt_clear, soundAt_copy, soundAt_paste, soundAt_drop, sound_foldl, getD_cases, → State.serviceNow_sound]
theorem State.access_sound {a1} (h : s.Sound) : (State.access s a1).Sound := by
  unfold State.access
  grind [sound_def, soundAt_write, soundAt_writeN, soundAt_setWord, soundAt_clear, soundAt_copy, soundAt_paste, soundAt_drop, sound_foldl, State.fire_sound, State.request_sound]
theorem execLd_sound {a0 a1 a2 a3} (h : s.Sound) (e : execLd a0 a1 a2 a3 s = .next t) : t.Sound := by
  unfold execLd at e
  grind [sound_def, soundAt_write, soundAt_writeN, soundAt_setWord, soundAt_clear, soundAt_copy, soundAt_paste, soundAt_drop, sound_foldl, State.access_sound]
theorem execSt_sound {a0 a1 a2} (h : s.Sound) (e : execSt a0 a1 a2 s = .next t) : t.Sound := by
  unfold execSt at e
  grind [sound_def, soundAt_write, soundAt_writeN, soundAt_setWord, soundAt_clear, soundAt_copy, soundAt_paste, soundAt_drop, sound_foldl, State.access_sound]
theorem execVld_sound {a0 a1 a2 a3} (h : s.Sound) (e : execVld a0 a1 a2 a3 s = .next t) : t.Sound := by
  unfold execVld at e
  grind [sound_def, soundAt_write, soundAt_writeN, soundAt_setWord, soundAt_clear, soundAt_copy, soundAt_paste, soundAt_drop, sound_foldl, State.access_sound]
theorem execVst_sound {a0 a1 a2} (h : s.Sound) (e : execVst a0 a1 a2 s = .next t) : t.Sound := by
  unfold execVst at e
  grind [sound_def, soundAt_write, soundAt_writeN, soundAt_setWord, soundAt_clear, soundAt_copy, soundAt_paste, soundAt_drop, sound_foldl, State.access_sound]
theorem execVldg_sound {a0 a1 a2 a3} (h : s.Sound) (e : execVldg a0 a1 a2 a3 s = .next t) : t.Sound := by
  unfold execVldg at e
  grind [sound_def, soundAt_write, soundAt_writeN, soundAt_setWord, soundAt_clear, soundAt_copy, soundAt_paste, soundAt_drop, sound_foldl, State.access_sound]
theorem execVsts_sound {a0 a1 a2} (h : s.Sound) (e : execVsts a0 a1 a2 s = .next t) : t.Sound := by
  unfold execVsts at e
  grind [sound_def, soundAt_write, soundAt_writeN, soundAt_setWord, soundAt_clear, soundAt_copy, soundAt_paste, soundAt_drop, sound_foldl, State.access_sound]
theorem execLdr_sound {a0 a1 a2 a3} (h : s.Sound) (e : execLdr a0 a1 a2 a3 s = .next t) : t.Sound := by
  unfold execLdr at e
  grind [sound_def, soundAt_write, soundAt_writeN, soundAt_setWord, soundAt_clear, soundAt_copy, soundAt_paste, soundAt_drop, sound_foldl, State.fire_sound, State.result_sound, State.request_sound]
theorem State.lsidOver_sound {a1} (h : s.Sound) : (State.lsidOver s a1).Sound := by
  unfold State.lsidOver
  grind [sound_def, soundAt_write, soundAt_writeN, soundAt_setWord, soundAt_clear, soundAt_copy, soundAt_paste, soundAt_drop, sound_foldl, State.updOut_sound]
theorem execPref_sound {a0 a1 a2} (h : s.Sound) (e : execPref a0 a1 a2 s = .next t) : t.Sound := by
  unfold execPref at e
  grind [sound_def, soundAt_write, soundAt_writeN, soundAt_setWord, soundAt_clear, soundAt_copy, soundAt_paste, soundAt_drop, sound_foldl, State.fire_sound, State.lsidOver_sound, State.request_sound]
theorem State.decodeRed_sound {a1} (h : s.Sound) : (State.decodeRed s a1).Sound := by
  unfold State.decodeRed
  grind [sound_def, soundAt_write, soundAt_writeN, soundAt_setWord, soundAt_clear, soundAt_copy, soundAt_paste, soundAt_drop, sound_foldl, State.holdFlags_sound]
theorem State.decodeVredm_sound {a1 a2} (h : s.Sound) : (State.decodeVredm s a1 a2).Sound := by
  unfold State.decodeVredm
  grind [sound_def, soundAt_write, soundAt_writeN, soundAt_setWord, soundAt_clear, soundAt_copy, soundAt_paste, soundAt_drop, sound_foldl, State.holdFlags_sound]
theorem execRed_sound {a0 a1 a2 a3} (h : s.Sound) (e : execRed a0 a1 a2 a3 s = .next t) : t.Sound := by
  unfold execRed at e
  grind [sound_def, soundAt_write, soundAt_writeN, soundAt_setWord, soundAt_clear, soundAt_copy, soundAt_paste, soundAt_drop, sound_foldl, State.fire_sound, State.request_sound, State.decodeRed_sound]
theorem execVredm_sound {a0 a1 a2 a3} (h : s.Sound) (e : execVredm a0 a1 a2 a3 s = .next t) : t.Sound := by
  unfold execVredm at e
  grind [sound_def, soundAt_write, soundAt_writeN, soundAt_setWord, soundAt_clear, soundAt_copy, soundAt_paste, soundAt_drop, sound_foldl, State.fire_sound, State.request_sound, State.decodeVredm_sound]
theorem execMldred_sound {a0 a1 a2} (h : s.Sound) (e : execMldred a0 a1 a2 s = .next t) : t.Sound := by
  unfold execMldred at e
  grind [sound_def, soundAt_write, soundAt_writeN, soundAt_setWord, soundAt_clear, soundAt_copy, soundAt_paste, soundAt_drop, sound_foldl, State.access_sound]
theorem execGset_sound {a0 a1} (h : s.Sound) (e : execGset a0 a1 s = .next t) : t.Sound := by
  unfold execGset at e
  grind [sound_def, soundAt_write, soundAt_writeN, soundAt_setWord, soundAt_clear, soundAt_copy, soundAt_paste, soundAt_drop, sound_foldl, State.fire_sound, State.request_sound]
theorem execPersist_sound {a0 a1 a2} (h : s.Sound) (e : execPersist a0 a1 a2 s = .next t) : t.Sound := by
  unfold execPersist at e
  grind [sound_def, soundAt_write, soundAt_writeN, soundAt_setWord, soundAt_clear, soundAt_copy, soundAt_paste, soundAt_drop, sound_foldl, State.access_sound]
theorem State.counterRequest_sound {a1} (h : s.Sound) : (State.counterRequest s a1).Sound := by
  unfold State.counterRequest
  grind [sound_def, soundAt_write, soundAt_writeN, soundAt_setWord, soundAt_clear, soundAt_copy, soundAt_paste, soundAt_drop, sound_foldl, State.request_sound, State.faultHere_sound]
theorem execCadd_sound {a0 a1 a2 a3} (h : s.Sound) (e : execCadd a0 a1 a2 a3 s = .next t) : t.Sound := by
  unfold execCadd at e
  grind [sound_def, soundAt_write, soundAt_writeN, soundAt_setWord, soundAt_clear, soundAt_copy, soundAt_paste, soundAt_drop, sound_foldl, State.fire_sound, State.counterRequest_sound]
theorem execCaddr_sound {a0 a1 a2 a3} (h : s.Sound) (e : execCaddr a0 a1 a2 a3 s = .next t) : t.Sound := by
  unfold execCaddr at e
  grind [sound_def, soundAt_write, soundAt_writeN, soundAt_setWord, soundAt_clear, soundAt_copy, soundAt_paste, soundAt_drop, sound_foldl, State.fire_sound, State.incompleteHere_sound, State.counterRequest_sound, State.updOut_sound]
theorem execCwait_sound {a0 a1 a2 a3} (h : s.Sound) (e : execCwait a0 a1 a2 a3 s = .next t) : t.Sound := by
  unfold execCwait at e
  grind [sound_def, soundAt_write, soundAt_writeN, soundAt_setWord, soundAt_clear, soundAt_copy, soundAt_paste, soundAt_drop, sound_foldl, State.fire_sound, State.counterRequest_sound]
theorem execCpoll_sound {a0 a1 a2 a3} (h : s.Sound) (e : execCpoll a0 a1 a2 a3 s = .next t) : t.Sound := by
  unfold execCpoll at e
  grind [sound_def, soundAt_write, soundAt_writeN, soundAt_setWord, soundAt_clear, soundAt_copy, soundAt_paste, soundAt_drop, sound_foldl, State.fire_sound, State.counterRequest_sound]
theorem State.toEngine_sound {a1} (h : s.Sound) : (State.toEngine s a1).Sound := by
  unfold State.toEngine
  grind [sound_def, soundAt_write, soundAt_writeN, soundAt_setWord, soundAt_clear, soundAt_copy, soundAt_paste, soundAt_drop, sound_foldl, State.bump_sound, getD_cases, Option.map_eq_some_iff]
theorem execCopy_sound {a0 a1 a2} (h : s.Sound) (e : execCopy a0 a1 a2 s = .next t) : t.Sound := by
  unfold execCopy at e
  grind [sound_def, soundAt_write, soundAt_writeN, soundAt_setWord, soundAt_clear, soundAt_copy, soundAt_paste, soundAt_drop, sound_foldl, State.fire_sound, State.lsidOver_sound, State.toEngine_sound]
theorem State.sendEngine_sound {a1} (h : s.Sound) : (State.sendEngine s a1).Sound := by
  unfold State.sendEngine
  grind [sound_def, soundAt_write, soundAt_writeN, soundAt_setWord, soundAt_clear, soundAt_copy, soundAt_paste, soundAt_drop, sound_foldl, State.toEngine_sound]
theorem State.engineServes_sound {a1} (h : s.Sound) : (State.engineServes s a1).Sound := by
  unfold State.engineServes
  grind [sound_def, soundAt_write, soundAt_writeN, soundAt_setWord, soundAt_clear, soundAt_copy, soundAt_paste, soundAt_drop, sound_foldl, State.lateDelivery_sound]
theorem State.engineFault_sound {a1 a2 a3 a4 a5 a6 a7} (h : s.Sound) : (State.engineFault s a1 a2 a3 a4 a5 a6 a7).Sound := by
  unfold State.engineFault
  grind [sound_def, soundAt_write, soundAt_writeN, soundAt_setWord, soundAt_clear, soundAt_copy, soundAt_paste, soundAt_drop, sound_foldl, State.chargeAny_sound]
theorem State.completeAdd_sound {a1 a2 a3 a4 a5 a6 a7} (h : s.Sound) : (State.completeAdd s a1 a2 a3 a4 a5 a6 a7).Sound := by
  unfold State.completeAdd
  grind [sound_def, soundAt_write, soundAt_writeN, soundAt_setWord, soundAt_clear, soundAt_copy, soundAt_paste, soundAt_drop, sound_foldl, → State.unitAdd_sound, State.engineFault_sound]
theorem State.readRow_sound {a1 a2 a3 a4 a5 a6} (h : s.Sound) (e : State.readRow s a1 a2 a3 a4 a5 a6 = .ok (y0, t)) : t.Sound := by
  unfold State.readRow at e
  grind [sound_def, soundAt_write, soundAt_writeN, soundAt_setWord, soundAt_clear, soundAt_copy, soundAt_paste, soundAt_drop, sound_foldl, → State.unitReadAs_sound]
theorem State.readRows_sound {a1 a2 a3 a4 a5 a6} (h : s.Sound) (e : State.readRows s a1 a2 a3 a4 a5 a6 = .ok (y0, t)) : t.Sound := by
  induction a6 generalizing s y0 with
  | nil => simp only [State.readRows] at e; cases e; exact h
  | cons a as ih =>
    simp only [State.readRows] at e
    split at e
    · cases e
    · have h1 := State.readRow_sound h ‹_›
      split at e
      · cases e; exact h1
      · split at e
        · cases e
        · cases e
          exact ih h1 ‹_›
theorem State.writeRows_sound {a1 a2 a3 a4} (h : s.Sound) : (State.writeRows s a1 a2 a3 a4).1.Sound := by
  induction a4 generalizing s with
  | nil => exact h
  | cons a as ih =>
    simp only [State.writeRows]
    split
    · exact h
    · have h1 := State.unitWrite_sound h ‹_›
      split
      · exact h1
      · exact ih h1
theorem State.copyBytes_sound {a1 a2 a3 a4 a5 a6} (h : s.Sound) (e : State.copyBytes s a1 a2 a3 a4 a5 a6 = .ok (y0, t)) : t.Sound := by
  unfold State.copyBytes at e
  dsimp only at e
  split at e
  · split at e
    · cases e
    · cases e; exact State.readRow_sound h ‹_›
  · split at e
    · cases e
    · cases e; exact State.readRow_sound h ‹_›
theorem State.partBytes_sound {a1 a2 a3} (h : s.Sound) (e : State.partBytes s a1 a2 a3 = .ok (y0, t)) : t.Sound := by
  unfold State.partBytes at e
  grind [sound_def, soundAt_write, soundAt_writeN, soundAt_setWord, soundAt_clear, soundAt_copy, soundAt_paste, soundAt_drop, sound_foldl, → State.copyBytes_sound]
theorem State.readParts_sound {a1 a2 a3} (h : s.Sound) (e : State.readParts s a1 a2 a3 = .ok (y0, t)) : t.Sound := by
  induction a3 generalizing s y0 t with
  | nil => simp only [State.readParts] at e; grind
  | cons p ps ih => simp only [State.readParts] at e; grind [→ State.partBytes_sound, → State.unitLocate_sound]
theorem State.writeEach_sound {a1 a2} (h : s.Sound) (e : State.writeEach s a1 a2 = .ok t) : t.Sound := by
  induction a2 generalizing s with
  | nil => simp only [State.writeEach] at e; grind
  | cons p ps ih => obtain ⟨l, bs⟩ := p; simp only [State.writeEach] at e; grind [→ State.writeAt_sound]
theorem State.writeGranule_sound {a1 a2} (h : s.Sound) (e : State.writeGranule s a1 a2 = .ok t) : t.Sound := by
  unfold State.writeGranule at e
  grind [sound_def, soundAt_write, soundAt_writeN, soundAt_setWord, soundAt_clear, soundAt_copy, soundAt_paste, soundAt_drop, sound_foldl, → except_map_ok, → State.atPeer_sound, → State.writeEach_sound]
theorem State.writeParts_sound {a1 a2 a3} (h : s.Sound) : (State.writeParts s a1 a2 a3).1.Sound := by
  unfold State.writeParts
  split
  · exact h
  · have h1 := State.readParts_sound h ‹_›
    split
    · exact h1
    · split
      · exact h1
      · exact State.writeGranule_sound h1 ‹_›
theorem State.readAhead_sound {a1 a2 a3} (h : s.Sound) (e : State.readAhead s a1 a2 a3 = .ok (y0, t)) : t.Sound := by
  unfold State.readAhead at e
  rcases ite_cases e with e | e
  · exact State.readRow_sound h e
  · exact State.readRow_sound h e
theorem State.copyStep_sound {a1 a2 a3 a4} (h : s.Sound) : (State.copyStep s a1 a2 a3 a4).1.Sound := by
  unfold State.copyStep
  grind [sound_def, soundAt_write, soundAt_writeN, soundAt_setWord, soundAt_clear, soundAt_copy, soundAt_paste, soundAt_drop, sound_foldl, → State.readAhead_sound, State.engineFault_sound, State.writeParts_sound]
theorem State.copyAll_sound {a1 a2 a3 a4} (h : s.Sound) : (State.copyAll s a1 a2 a3 a4).1.Sound := by
  induction a4 generalizing s a3 with
  | nil => exact h
  | cons n ns ih =>
    simp only [State.copyAll]
    split
    · exact ih h
    · have h1 := State.copyStep_sound (a1 := a1) (a2 := a2) (a3 := a3) (a4 := n) h
      split
      · rename_i k
        rw [k] at h1
        exact h1
      · rename_i k
        rw [k] at h1
        split
        · exact h1
        · exact ih h1
theorem State.copyRest_sound {a1 a2 a3} (h : s.Sound) : (State.copyRest s a1 a2 a3).1.Sound := by
  unfold State.copyRest
  grind [sound_def, soundAt_write, soundAt_writeN, soundAt_setWord, soundAt_clear, soundAt_copy, soundAt_paste, soundAt_drop, sound_foldl, State.copyAll_sound]
theorem State.streamerAccept_sound {a1 a2 a3} (h : s.Sound) (e : State.streamerAccept s a1 a2 a3 = some t) : t.Sound := by
  unfold State.streamerAccept at e
  grind [sound_def, soundAt_write, soundAt_writeN, soundAt_setWord, soundAt_clear, soundAt_copy, soundAt_paste, soundAt_drop, sound_foldl, State.updStreamer_sound, State.engineServes_sound, State.engineFault_sound]
theorem execStreamerAccept_sound {a0 a1 a2} (h : s.Sound) (e : execStreamerAccept a0 a1 a2 s = .next t) : t.Sound := by
  unfold execStreamerAccept at e
  grind [sound_def, soundAt_write, soundAt_writeN, soundAt_setWord, soundAt_clear, soundAt_copy, soundAt_paste, soundAt_drop, sound_foldl, getD_cases, → State.streamerAccept_sound]
theorem State.streamerComplete_sound {a1 a2 a3} (h : s.Sound) (e : State.streamerComplete s a1 a2 a3 = some t) : t.Sound := by
  unfold State.streamerComplete at e
  split at e
  · cases e
  · rcases ite_cases e with e | e
    · cases e
    · obtain ⟨u, v, hu, k, r⟩ := State.whole_some e h
      refine r ?_
      have h1 := fun q => State.copyRest_sound (a1 := a1) (a2 := a2) (a3 := q) hu
      rcases State.goOn_some k with rfl | k
      · split
        · exact State.engineFault_sound (h1 _)
        · exact h1 _
      · refine of_some k (State.completeAdd_sound (State.updStreamer_sound (State.endAway_sound ?_)))
        split
        · exact State.engineFault_sound (h1 _)
        · exact h1 _
theorem execStreamerComplete_sound {a0 a1 a2} (h : s.Sound) (e : execStreamerComplete a0 a1 a2 s = .next t) : t.Sound := by
  unfold execStreamerComplete at e
  grind [sound_def, soundAt_write, soundAt_writeN, soundAt_setWord, soundAt_clear, soundAt_copy, soundAt_paste, soundAt_drop, sound_foldl, getD_cases, → State.streamerComplete_sound]
theorem State.streamPiece_sound {a1 a2} (h : s.Sound) (e : State.streamPiece s a1 a2 = some t) : t.Sound := by
  unfold State.streamPiece at e
  split at e
  · cases e
  · rcases ite_cases e with e | e
    · cases e
    · obtain ⟨u, v, hu, k, r⟩ := State.whole_some e h
      refine r (of_some k (State.updStreamer_sound ?_))
      have h1 := fun d n q => State.copyStep_sound (a1 := d) (a2 := n) (a3 := q) (a4 := a2) hu
      split
      · exact State.engineFault_sound (h1 _ _ _)
      · exact h1 _ _ _
theorem execHomePerform_sound {a0 a1} (h : s.Sound) (e : execHomePerform a0 a1 s = .next t) : t.Sound := by
  unfold execHomePerform at e
  grind [sound_def, soundAt_write, soundAt_writeN, soundAt_setWord, soundAt_clear, soundAt_copy, soundAt_paste, soundAt_drop, sound_foldl, → State.homeNow_sound, getD_cases, → State.streamPiece_sound]
theorem execMma_sound {a0 a1 a2} (h : s.Sound) (e : execMma a0 a1 a2 s = .next t) : t.Sound := by
  unfold execMma at e
  grind [sound_def, soundAt_write, soundAt_writeN, soundAt_setWord, soundAt_clear, soundAt_copy, soundAt_paste, soundAt_drop, sound_foldl, State.fire_sound, State.sendEngine_sound]
theorem execMmaz_sound {a0 a1} (h : s.Sound) (e : execMmaz a0 a1 s = .next t) : t.Sound := by
  unfold execMmaz at e
  grind [sound_def, soundAt_write, soundAt_writeN, soundAt_setWord, soundAt_clear, soundAt_copy, soundAt_paste, soundAt_drop, sound_foldl, State.fire_sound, State.sendEngine_sound]
theorem execAccld_sound {a0 a1} (h : s.Sound) (e : execAccld a0 a1 s = .next t) : t.Sound := by
  unfold execAccld at e
  grind [sound_def, soundAt_write, soundAt_writeN, soundAt_setWord, soundAt_clear, soundAt_copy, soundAt_paste, soundAt_drop, sound_foldl, State.fire_sound, State.sendEngine_sound]
theorem execAccst_sound {a0 a1 a2} (h : s.Sound) (e : execAccst a0 a1 a2 s = .next t) : t.Sound := by
  unfold execAccst at e
  grind [sound_def, soundAt_write, soundAt_writeN, soundAt_setWord, soundAt_clear, soundAt_copy, soundAt_paste, soundAt_drop, sound_foldl, State.fire_sound, State.sendEngine_sound]
theorem State.readScales_sound {a1 a2 a3 a4 a5} (h : s.Sound) (e : State.readScales s a1 a2 a3 a4 a5 = .ok (y0, t)) : t.Sound := by
  unfold State.readScales at e
  rcases ite_cases e with e | e
  · cases e; exact h
  · exact State.readRows_sound h e
theorem State.runMma_sound {a1 a2 a3 a4} (h : s.Sound) : (State.runMma s a1 a2 a3 a4).1.Sound := by
  unfold State.runMma
  dsimp only
  have key : ∀ {u v : State} {c : Bool} {x : Except Stop (List (List Word) × State)} {y : List (List Word)},
      State.Sound u → (∀ w z, x = .ok (z, w) → State.Sound w) → (if c then x else .ok ([], u)) = .ok (y, v) → State.Sound v := by
    intro u v c x y hu hx k
    rcases ite_cases k with k | k
    · exact hx _ _ k
    · cases k; exact hu
  split
  · exact h
  · have h1 := State.readRows_sound h ‹_›
    split
    · exact h1
    · have h2 := State.readRows_sound h1 ‹_›
      split
      · exact h2
      · have h3 := key h2 (fun w z k => State.readScales_sound h2 k) ‹_›
        split
        · exact h3
        · have h4 := key h3 (fun w z k => State.readScales_sound h3 k) ‹_›
          exact State.updIsland_sound h4
theorem State.runIsland_sound {a1 a2 a3} (h : s.Sound) : (State.runIsland s a1 a2 a3).1.Sound := by
  unfold State.runIsland
  dsimp only
  split
  · exact State.runMma_sound h
  · exact State.updIsland_sound h
  · split
    · exact h
    · exact State.updIsland_sound (State.readRows_sound h ‹_›)
  · exact State.writeRows_sound h
theorem State.islandAccept_sound {a1 a2 a3} (h : s.Sound) (e : State.islandAccept s a1 a2 a3 = some t) : t.Sound := by
  unfold State.islandAccept at e
  grind [sound_def, soundAt_write, soundAt_writeN, soundAt_setWord, soundAt_clear, soundAt_copy, soundAt_paste, soundAt_drop, sound_foldl, State.updIsland_sound, State.engineServes_sound, State.engineFault_sound]
theorem execIslandAccept_sound {a0 a1 a2} (h : s.Sound) (e : execIslandAccept a0 a1 a2 s = .next t) : t.Sound := by
  unfold execIslandAccept at e
  grind [sound_def, soundAt_write, soundAt_writeN, soundAt_setWord, soundAt_clear, soundAt_copy, soundAt_paste, soundAt_drop, sound_foldl, getD_cases, → State.islandAccept_sound]
theorem State.islandComplete_sound {a1 a2} (h : s.Sound) (e : State.islandComplete s a1 a2 = some t) : t.Sound := by
  unfold State.islandComplete at e
  split at e
  · cases e
  · dsimp only at e
    rcases ite_cases e with e | e
    · cases e
    · obtain ⟨u, v, hu, k, r⟩ := State.whole_some e h
      refine r ?_
      have h1 : ∀ (q : EngReq), (if q.bad.isSome then (u, none) else u.runIsland a1 a2 q).1.Sound := by
        intro q
        split
        · exact hu
        · exact State.runIsland_sound hu
      rcases State.goOn_some k with rfl | k
      · split
        · exact State.engineFault_sound (h1 _)
        · exact h1 _
      · refine of_some k (State.completeAdd_sound (State.updIsland_sound ?_))
        split
        · exact State.engineFault_sound (h1 _)
        · exact h1 _
theorem execIslandComplete_sound {a0 a1} (h : s.Sound) (e : execIslandComplete a0 a1 s = .next t) : t.Sound := by
  unfold execIslandComplete at e
  grind [sound_def, soundAt_write, soundAt_writeN, soundAt_setWord, soundAt_clear, soundAt_copy, soundAt_paste, soundAt_drop, sound_foldl, getD_cases, → State.islandComplete_sound]
theorem execLxtab_sound {a0 a1} (h : s.Sound) (e : execLxtab a0 a1 s = .next t) : t.Sound := by
  unfold execLxtab at e
  grind [sound_def, soundAt_write, soundAt_writeN, soundAt_setWord, soundAt_clear, soundAt_copy, soundAt_paste, soundAt_drop, sound_foldl, State.fire_sound, State.sendEngine_sound]
theorem execLxctx_sound {a0 a1} (h : s.Sound) (e : execLxctx a0 a1 s = .next t) : t.Sound := by
  unfold execLxctx at e
  grind [sound_def, soundAt_write, soundAt_writeN, soundAt_setWord, soundAt_clear, soundAt_copy, soundAt_paste, soundAt_drop, sound_foldl, State.fire_sound, State.sendEngine_sound]
theorem execLxrun_sound {a0 a1} (h : s.Sound) (e : execLxrun a0 a1 s = .next t) : t.Sound := by
  unfold execLxrun at e
  grind [sound_def, soundAt_write, soundAt_writeN, soundAt_setWord, soundAt_clear, soundAt_copy, soundAt_paste, soundAt_drop, sound_foldl, State.fire_sound, State.sendEngine_sound]
theorem execLxtin_sound {a0 a1} (h : s.Sound) (e : execLxtin a0 a1 s = .next t) : t.Sound := by
  unfold execLxtin at e
  grind [sound_def, soundAt_write, soundAt_writeN, soundAt_setWord, soundAt_clear, soundAt_copy, soundAt_paste, soundAt_drop, sound_foldl, State.fire_sound, State.sendEngine_sound]
theorem execLxtout_sound {a0 a1} (h : s.Sound) (e : execLxtout a0 a1 s = .next t) : t.Sound := by
  unfold execLxtout at e
  grind [sound_def, soundAt_write, soundAt_writeN, soundAt_setWord, soundAt_clear, soundAt_copy, soundAt_paste, soundAt_drop, sound_foldl, State.fire_sound, State.sendEngine_sound]
theorem State.runLattice_sound {a1 a2} (h : s.Sound) : (State.runLattice s a1 a2).1.Sound := by
  unfold State.runLattice
  dsimp only
  split
  · split
    · exact h
    · exact State.updLattice_sound (State.readRows_sound h ‹_›)
  · split
    · exact State.updLattice_sound h
    · split
      · exact h
      · exact State.updLattice_sound (State.readRows_sound h ‹_›)
  · repeat' split
    all_goals first
      | exact h
      | exact State.updLattice_sound h
  · split
    · exact h
    · exact State.updLattice_sound (State.readRows_sound h ‹_›)
  · exact State.writeRows_sound h
theorem State.latticeAccept_sound {a1 a2} (h : s.Sound) (e : State.latticeAccept s a1 a2 = some t) : t.Sound := by
  unfold State.latticeAccept at e
  grind [sound_def, soundAt_write, soundAt_writeN, soundAt_setWord, soundAt_clear, soundAt_copy, soundAt_paste, soundAt_drop, sound_foldl, State.updLattice_sound, State.engineServes_sound, State.engineFault_sound]
theorem execLatticeAccept_sound {a0 a1} (h : s.Sound) (e : execLatticeAccept a0 a1 s = .next t) : t.Sound := by
  unfold execLatticeAccept at e
  grind [sound_def, soundAt_write, soundAt_writeN, soundAt_setWord, soundAt_clear, soundAt_copy, soundAt_paste, soundAt_drop, sound_foldl, getD_cases, → State.latticeAccept_sound]
theorem State.latticeComplete_sound {a1} (h : s.Sound) (e : State.latticeComplete s a1 = some t) : t.Sound := by
  unfold State.latticeComplete at e
  split at e
  · cases e
  · dsimp only at e
    rcases ite_cases e with e | e
    · cases e
    · obtain ⟨u, v, hu, k, r⟩ := State.whole_some e h
      refine r ?_
      have h1 : ∀ (q : EngReq), (if q.bad.isSome then (u, none, none) else u.runLattice a1 q).1.Sound := by
        intro q
        split
        · exact hu
        · exact State.runLattice_sound hu
      rcases State.goOn_some k with rfl | k
      · split
        · exact State.engineFault_sound (h1 _)
        · exact State.engineFault_sound (h1 _)
        · exact h1 _
      · refine of_some k (State.completeAdd_sound (State.updLattice_sound ?_))
        split
        · exact State.engineFault_sound (h1 _)
        · exact State.engineFault_sound (h1 _)
        · exact h1 _
theorem execLatticeComplete_sound {a0} (h : s.Sound) (e : execLatticeComplete a0 s = .next t) : t.Sound := by
  unfold execLatticeComplete at e
  grind [sound_def, soundAt_write, soundAt_writeN, soundAt_setWord, soundAt_clear, soundAt_copy, soundAt_paste, soundAt_drop, sound_foldl, getD_cases, → State.latticeComplete_sound]
theorem execRead_sound {a0 a1} (h : s.Sound) (e : execRead a0 a1 s = .next t) : t.Sound := by
  unfold execRead at e
  grind [sound_def, soundAt_write, soundAt_writeN, soundAt_setWord, soundAt_clear, soundAt_copy, soundAt_paste, soundAt_drop, sound_foldl, State.fire_sound, Option.bind_eq_some_iff, State.result_sound]
theorem execMov_sound {a0 a1 a2} (h : s.Sound) (e : execMov a0 a1 a2 s = .next t) : t.Sound := by
  unfold execMov at e
  grind [sound_def, soundAt_write, soundAt_writeN, soundAt_setWord, soundAt_clear, soundAt_copy, soundAt_paste, soundAt_drop, sound_foldl, State.fire_sound, State.forward_sound]
theorem execMovx_sound {a0 a1 a2 a3} (h : s.Sound) (e : execMovx a0 a1 a2 a3 s = .next t) : t.Sound := by
  unfold execMovx at e
  grind [sound_def, soundAt_write, soundAt_writeN, soundAt_setWord, soundAt_clear, soundAt_copy, soundAt_paste, soundAt_drop, sound_foldl, State.fire_sound, State.out_sound]
theorem execConst_sound {a0 a1 a2} (h : s.Sound) (e : execConst a0 a1 a2 s = .next t) : t.Sound := by
  unfold execConst at e
  grind [sound_def, soundAt_write, soundAt_writeN, soundAt_setWord, soundAt_clear, soundAt_copy, soundAt_paste, soundAt_drop, sound_foldl, State.fire_sound, State.result_sound]
theorem execNull_sound {a0 a1} (h : s.Sound) (e : execNull a0 a1 s = .next t) : t.Sound := by
  unfold execNull at e
  grind [sound_def, soundAt_write, soundAt_writeN, soundAt_setWord, soundAt_clear, soundAt_copy, soundAt_paste, soundAt_drop, sound_foldl, State.fire_sound, State.emitNull_sound]
theorem execSel_sound {a0 a1} (h : s.Sound) (e : execSel a0 a1 s = .next t) : t.Sound := by
  unfold execSel at e
  grind [sound_def, soundAt_write, soundAt_writeN, soundAt_setWord, soundAt_clear, soundAt_copy, soundAt_paste, soundAt_drop, sound_foldl, State.fire_sound, State.forward_sound]
theorem execGate_sound {a0 a1} (h : s.Sound) (e : execGate a0 a1 s = .next t) : t.Sound := by
  unfold execGate at e
  grind [sound_def, soundAt_write, soundAt_writeN, soundAt_setWord, soundAt_clear, soundAt_copy, soundAt_paste, soundAt_drop, sound_foldl, State.fire_sound, State.send2_sound]
theorem State.learn_sound {a1 a2 a3 a4} (h : s.Sound) : (State.learn s a1 a2 a3 a4).Sound := by
  unfold State.learn
  grind [sound_def, soundAt_write, soundAt_writeN, soundAt_setWord, soundAt_clear, soundAt_copy, soundAt_paste, soundAt_drop, sound_foldl]
theorem State.nameExit_sound {a1} (h : s.Sound) : (State.nameExit s a1).Sound := by
  unfold State.nameExit
  grind [sound_def, soundAt_write, soundAt_writeN, soundAt_setWord, soundAt_clear, soundAt_copy, soundAt_paste, soundAt_drop, sound_foldl, State.incompleteHere_sound, State.updInst_sound, State.learn_sound, State.squashYounger_sound]
theorem execExitJmp_sound {a0 a1} (h : s.Sound) (e : execExitJmp a0 a1 s = .next t) : t.Sound := by
  unfold execExitJmp at e
  grind [sound_def, soundAt_write, soundAt_writeN, soundAt_setWord, soundAt_clear, soundAt_copy, soundAt_paste, soundAt_drop, sound_foldl, State.fire_sound, State.nameExit_sound]
theorem execExitJmpi_sound {a0} (h : s.Sound) (e : execExitJmpi a0 s = .next t) : t.Sound := by
  unfold execExitJmpi at e
  grind [sound_def, soundAt_write, soundAt_writeN, soundAt_setWord, soundAt_clear, soundAt_copy, soundAt_paste, soundAt_drop, sound_foldl, State.fire_sound, State.nameExit_sound]
theorem execExitCall_sound {a0 a1} (h : s.Sound) (e : execExitCall a0 a1 s = .next t) : t.Sound := by
  unfold execExitCall at e
  grind [sound_def, soundAt_write, soundAt_writeN, soundAt_setWord, soundAt_clear, soundAt_copy, soundAt_paste, soundAt_drop, sound_foldl, State.fire_sound, State.incompleteHere_sound, State.updCtx_sound, State.result_sound, State.nameExit_sound]
theorem execExitRet_sound {a0} (h : s.Sound) (e : execExitRet a0 s = .next t) : t.Sound := by
  unfold execExitRet at e
  grind [sound_def, soundAt_write, soundAt_writeN, soundAt_setWord, soundAt_clear, soundAt_copy, soundAt_paste, soundAt_drop, sound_foldl, State.fire_sound, State.incompleteHere_sound, State.updCtx_sound, State.nameExit_sound]
theorem execExitStop_sound {a0} (h : s.Sound) (e : execExitStop a0 s = .next t) : t.Sound := by
  unfold execExitStop at e
  grind [sound_def, soundAt_write, soundAt_writeN, soundAt_setWord, soundAt_clear, soundAt_copy, soundAt_paste, soundAt_drop, sound_foldl, State.fire_sound, State.nameExit_sound]
theorem State.setCount_sound {a1} (h : s.Sound) : (State.setCount s a1).Sound := by
  unfold State.setCount
  grind [sound_def, soundAt_write, soundAt_writeN, soundAt_setWord, soundAt_clear, soundAt_copy, soundAt_paste, soundAt_drop, sound_foldl, State.updInst_sound]
theorem State.openLevel_sound (h : s.Sound) : (State.openLevel s).Sound := by
  unfold State.openLevel
  grind [sound_def, soundAt_write, soundAt_writeN, soundAt_setWord, soundAt_clear, soundAt_copy, soundAt_paste, soundAt_drop, sound_foldl, State.setCount_sound, State.sendOuts_sound]
theorem State.sendAt_sound {a1 a2 a3} (h : s.Sound) : (State.sendAt s a1 a2 a3).Sound := by
  unfold State.sendAt
  grind [sound_def, soundAt_write, soundAt_writeN, soundAt_setWord, soundAt_clear, soundAt_copy, soundAt_paste, soundAt_drop, sound_foldl, State.out_sound]
theorem execItin_sound {a0 a1} (h : s.Sound) (e : execItin a0 a1 s = .next t) : t.Sound := by
  unfold execItin at e
  grind [sound_def, soundAt_write, soundAt_writeN, soundAt_setWord, soundAt_clear, soundAt_copy, soundAt_paste, soundAt_drop, sound_foldl, State.fireWith_sound, State.openLevel_sound, State.sendAt_sound, State.faultHere_sound, Option.bind_eq_some_iff, State.incompleteHere_sound, State.setCount_sound]
theorem State.noteNx_sound {a1} (h : s.Sound) : (State.noteNx s a1).Sound := by
  unfold State.noteNx
  grind [sound_def, soundAt_write, soundAt_writeN, soundAt_setWord, soundAt_clear, soundAt_copy, soundAt_paste, soundAt_drop, sound_foldl, State.updInst_sound, State.incompleteHere_sound, State.sendOuts_sound]
theorem execItnx_sound {a0 a1} (h : s.Sound) (e : execItnx a0 a1 s = .next t) : t.Sound := by
  unfold execItnx at e
  grind [sound_def, soundAt_write, soundAt_writeN, soundAt_setWord, soundAt_clear, soundAt_copy, soundAt_paste, soundAt_drop, sound_foldl, State.fireWith_sound, Option.bind_eq_some_iff, State.noteNx_sound, State.sendAt_sound, State.faultHere_sound]
theorem State.holdOut_sound {a1 a2} (h : s.Sound) : (State.holdOut s a1 a2).Sound := by
  unfold State.holdOut
  grind [sound_def, soundAt_write, soundAt_writeN, soundAt_setWord, soundAt_clear, soundAt_copy, soundAt_paste, soundAt_drop, sound_foldl, Option.bind_eq_some_iff, State.sendAt_sound, State.updInst_sound]
theorem execItout_sound {a0 a1} (h : s.Sound) (e : execItout a0 a1 s = .next t) : t.Sound := by
  unfold execItout at e
  grind [sound_def, soundAt_write, soundAt_writeN, soundAt_setWord, soundAt_clear, soundAt_copy, soundAt_paste, soundAt_drop, sound_foldl, State.fireWith_sound, State.holdOut_sound]
theorem execTagr_sound {a0 a1 a2} (h : s.Sound) (e : execTagr a0 a1 a2 s = .next t) : t.Sound := by
  unfold execTagr at e
  grind [sound_def, soundAt_write, soundAt_writeN, soundAt_setWord, soundAt_clear, soundAt_copy, soundAt_paste, soundAt_drop, sound_foldl, State.fire_sound, State.result_sound]
theorem execWfld_sound {a0 a1} (h : s.Sound) (e : execWfld a0 a1 s = .next t) : t.Sound := by
  unfold execWfld at e
  grind [sound_def, soundAt_write, soundAt_writeN, soundAt_setWord, soundAt_clear, soundAt_copy, soundAt_paste, soundAt_drop, sound_foldl, State.fire_sound, State.result_sound]
theorem execSlks_sound {a0 a1} (h : s.Sound) (e : execSlks a0 a1 s = .next t) : t.Sound := by
  unfold execSlks at e
  grind [sound_def, soundAt_write, soundAt_writeN, soundAt_setWord, soundAt_clear, soundAt_copy, soundAt_paste, soundAt_drop, sound_foldl, State.fire_sound, State.send2_sound]
theorem execSlkr_sound {a0 a1} (h : s.Sound) (e : execSlkr a0 a1 s = .next t) : t.Sound := by
  unfold execSlkr at e
  grind [sound_def, soundAt_write, soundAt_writeN, soundAt_setWord, soundAt_clear, soundAt_copy, soundAt_paste, soundAt_drop, sound_foldl, State.fire_sound, State.result_sound]
theorem State.intRec_sound {a1 a2 a3 a4} (h : s.Sound) : (State.intRec s a1 a2 a3 a4).Sound := by
  unfold State.intRec
  grind [sound_def, soundAt_write, soundAt_writeN, soundAt_setWord, soundAt_clear, soundAt_copy, soundAt_paste, soundAt_drop, sound_foldl, State.fireRes_sound]
theorem State.wordRec_sound {a1 a2 a3} (h : s.Sound) : (State.wordRec s a1 a2 a3).Sound := by
  unfold State.wordRec
  grind [sound_def, soundAt_write, soundAt_writeN, soundAt_setWord, soundAt_clear, soundAt_copy, soundAt_paste, soundAt_drop, sound_foldl, State.fireRes_sound]
theorem State.unaryRec_sound {a1 a2} (h : s.Sound) : (State.unaryRec s a1 a2).Sound := by
  unfold State.unaryRec
  grind [sound_def, soundAt_write, soundAt_writeN, soundAt_setWord, soundAt_clear, soundAt_copy, soundAt_paste, soundAt_drop, sound_foldl, State.fireRes_sound]
theorem execAdd_sound {a0 a1 a2} (h : s.Sound) (e : execAdd a0 a1 a2 s = .next t) : t.Sound := by
  unfold execAdd at e
  grind [sound_def, soundAt_write, soundAt_writeN, soundAt_setWord, soundAt_clear, soundAt_copy, soundAt_paste, soundAt_drop, sound_foldl, State.intRec_sound]
theorem execSub_sound {a0 a1 a2} (h : s.Sound) (e : execSub a0 a1 a2 s = .next t) : t.Sound := by
  unfold execSub at e
  grind [sound_def, soundAt_write, soundAt_writeN, soundAt_setWord, soundAt_clear, soundAt_copy, soundAt_paste, soundAt_drop, sound_foldl, State.intRec_sound]
theorem execMul_sound {a0 a1 a2} (h : s.Sound) (e : execMul a0 a1 a2 s = .next t) : t.Sound := by
  unfold execMul at e
  grind [sound_def, soundAt_write, soundAt_writeN, soundAt_setWord, soundAt_clear, soundAt_copy, soundAt_paste, soundAt_drop, sound_foldl, State.intRec_sound]
theorem execMulh_sound {a0 a1 a2} (h : s.Sound) (e : execMulh a0 a1 a2 s = .next t) : t.Sound := by
  unfold execMulh at e
  grind [sound_def, soundAt_write, soundAt_writeN, soundAt_setWord, soundAt_clear, soundAt_copy, soundAt_paste, soundAt_drop, sound_foldl, State.intRec_sound]
theorem execMulw_sound {a0 a1 a2} (h : s.Sound) (e : execMulw a0 a1 a2 s = .next t) : t.Sound := by
  unfold execMulw at e
  grind [sound_def, soundAt_write, soundAt_writeN, soundAt_setWord, soundAt_clear, soundAt_copy, soundAt_paste, soundAt_drop, sound_foldl, State.intRec_sound]
theorem execDiv_sound {a0 a1 a2} (h : s.Sound) (e : execDiv a0 a1 a2 s = .next t) : t.Sound := by
  unfold execDiv at e
  grind [sound_def, soundAt_write, soundAt_writeN, soundAt_setWord, soundAt_clear, soundAt_copy, soundAt_paste, soundAt_drop, sound_foldl, State.intRec_sound]
theorem execRem_sound {a0 a1 a2} (h : s.Sound) (e : execRem a0 a1 a2 s = .next t) : t.Sound := by
  unfold execRem at e
  grind [sound_def, soundAt_write, soundAt_writeN, soundAt_setWord, soundAt_clear, soundAt_copy, soundAt_paste, soundAt_drop, sound_foldl, State.intRec_sound]
theorem execMin_sound {a0 a1 a2} (h : s.Sound) (e : execMin a0 a1 a2 s = .next t) : t.Sound := by
  unfold execMin at e
  grind [sound_def, soundAt_write, soundAt_writeN, soundAt_setWord, soundAt_clear, soundAt_copy, soundAt_paste, soundAt_drop, sound_foldl, State.intRec_sound]
theorem execMax_sound {a0 a1 a2} (h : s.Sound) (e : execMax a0 a1 a2 s = .next t) : t.Sound := by
  unfold execMax at e
  grind [sound_def, soundAt_write, soundAt_writeN, soundAt_setWord, soundAt_clear, soundAt_copy, soundAt_paste, soundAt_drop, sound_foldl, State.intRec_sound]
theorem execAdds_sound {a0 a1 a2} (h : s.Sound) (e : execAdds a0 a1 a2 s = .next t) : t.Sound := by
  unfold execAdds at e
  grind [sound_def, soundAt_write, soundAt_writeN, soundAt_setWord, soundAt_clear, soundAt_copy, soundAt_paste, soundAt_drop, sound_foldl, State.intRec_sound]
theorem execSubs_sound {a0 a1 a2} (h : s.Sound) (e : execSubs a0 a1 a2 s = .next t) : t.Sound := by
  unfold execSubs at e
  grind [sound_def, soundAt_write, soundAt_writeN, soundAt_setWord, soundAt_clear, soundAt_copy, soundAt_paste, soundAt_drop, sound_foldl, State.intRec_sound]
theorem execAnd_sound {a0 a1} (h : s.Sound) (e : execAnd a0 a1 s = .next t) : t.Sound := by
  unfold execAnd at e
  grind [sound_def, soundAt_write, soundAt_writeN, soundAt_setWord, soundAt_clear, soundAt_copy, soundAt_paste, soundAt_drop, sound_foldl, State.wordRec_sound]
theorem execOr_sound {a0 a1} (h : s.Sound) (e : execOr a0 a1 s = .next t) : t.Sound := by
  unfold execOr at e
  grind [sound_def, soundAt_write, soundAt_writeN, soundAt_setWord, soundAt_clear, soundAt_copy, soundAt_paste, soundAt_drop, sound_foldl, State.wordRec_sound]
theorem execXor_sound {a0 a1} (h : s.Sound) (e : execXor a0 a1 s = .next t) : t.Sound := by
  unfold execXor at e
  grind [sound_def, soundAt_write, soundAt_writeN, soundAt_setWord, soundAt_clear, soundAt_copy, soundAt_paste, soundAt_drop, sound_foldl, State.wordRec_sound]
theorem execAndn_sound {a0 a1} (h : s.Sound) (e : execAndn a0 a1 s = .next t) : t.Sound := by
  unfold execAndn at e
  grind [sound_def, soundAt_write, soundAt_writeN, soundAt_setWord, soundAt_clear, soundAt_copy, soundAt_paste, soundAt_drop, sound_foldl, State.wordRec_sound]
theorem execNot_sound {a0} (h : s.Sound) (e : execNot a0 s = .next t) : t.Sound := by
  unfold execNot at e
  grind [sound_def, soundAt_write, soundAt_writeN, soundAt_setWord, soundAt_clear, soundAt_copy, soundAt_paste, soundAt_drop, sound_foldl, State.unaryRec_sound]
theorem execNeg_sound {a0 a1} (h : s.Sound) (e : execNeg a0 a1 s = .next t) : t.Sound := by
  unfold execNeg at e
  grind [sound_def, soundAt_write, soundAt_writeN, soundAt_setWord, soundAt_clear, soundAt_copy, soundAt_paste, soundAt_drop, sound_foldl, State.unaryRec_sound]
theorem execAbs_sound {a0 a1} (h : s.Sound) (e : execAbs a0 a1 s = .next t) : t.Sound := by
  unfold execAbs at e
  grind [sound_def, soundAt_write, soundAt_writeN, soundAt_setWord, soundAt_clear, soundAt_copy, soundAt_paste, soundAt_drop, sound_foldl, State.unaryRec_sound]
theorem execShl_sound {a0 a1 a2} (h : s.Sound) (e : execShl a0 a1 a2 s = .next t) : t.Sound := by
  unfold execShl at e
  grind [sound_def, soundAt_write, soundAt_writeN, soundAt_setWord, soundAt_clear, soundAt_copy, soundAt_paste, soundAt_drop, sound_foldl, State.intRec_sound]
theorem execShr_sound {a0 a1 a2} (h : s.Sound) (e : execShr a0 a1 a2 s = .next t) : t.Sound := by
  unfold execShr at e
  grind [sound_def, soundAt_write, soundAt_writeN, soundAt_setWord, soundAt_clear, soundAt_copy, soundAt_paste, soundAt_drop, sound_foldl, State.intRec_sound]
theorem execSar_sound {a0 a1 a2} (h : s.Sound) (e : execSar a0 a1 a2 s = .next t) : t.Sound := by
  unfold execSar at e
  grind [sound_def, soundAt_write, soundAt_writeN, soundAt_setWord, soundAt_clear, soundAt_copy, soundAt_paste, soundAt_drop, sound_foldl, State.intRec_sound]
theorem execRol_sound {a0 a1 a2} (h : s.Sound) (e : execRol a0 a1 a2 s = .next t) : t.Sound := by
  unfold execRol at e
  grind [sound_def, soundAt_write, soundAt_writeN, soundAt_setWord, soundAt_clear, soundAt_copy, soundAt_paste, soundAt_drop, sound_foldl, State.intRec_sound]
theorem execRor_sound {a0 a1 a2} (h : s.Sound) (e : execRor a0 a1 a2 s = .next t) : t.Sound := by
  unfold execRor at e
  grind [sound_def, soundAt_write, soundAt_writeN, soundAt_setWord, soundAt_clear, soundAt_copy, soundAt_paste, soundAt_drop, sound_foldl, State.intRec_sound]
theorem execClz_sound {a0 a1} (h : s.Sound) (e : execClz a0 a1 s = .next t) : t.Sound := by
  unfold execClz at e
  grind [sound_def, soundAt_write, soundAt_writeN, soundAt_setWord, soundAt_clear, soundAt_copy, soundAt_paste, soundAt_drop, sound_foldl, State.unaryRec_sound]
theorem execCtz_sound {a0 a1} (h : s.Sound) (e : execCtz a0 a1 s = .next t) : t.Sound := by
  unfold execCtz at e
  grind [sound_def, soundAt_write, soundAt_writeN, soundAt_setWord, soundAt_clear, soundAt_copy, soundAt_paste, soundAt_drop, sound_foldl, State.unaryRec_sound]
theorem execPopc_sound {a0 a1} (h : s.Sound) (e : execPopc a0 a1 s = .next t) : t.Sound := by
  unfold execPopc at e
  grind [sound_def, soundAt_write, soundAt_writeN, soundAt_setWord, soundAt_clear, soundAt_copy, soundAt_paste, soundAt_drop, sound_foldl, State.unaryRec_sound]
theorem execBfx_sound {a0 a1 a2 a3} (h : s.Sound) (e : execBfx a0 a1 a2 a3 s = .next t) : t.Sound := by
  unfold execBfx at e
  grind [sound_def, soundAt_write, soundAt_writeN, soundAt_setWord, soundAt_clear, soundAt_copy, soundAt_paste, soundAt_drop, sound_foldl, State.unaryRec_sound]
theorem execBfi_sound {a0 a1 a2} (h : s.Sound) (e : execBfi a0 a1 a2 s = .next t) : t.Sound := by
  unfold execBfi at e
  grind [sound_def, soundAt_write, soundAt_writeN, soundAt_setWord, soundAt_clear, soundAt_copy, soundAt_paste, soundAt_drop, sound_foldl, State.fireRes_sound]
theorem execSext_sound {a0 a1} (h : s.Sound) (e : execSext a0 a1 s = .next t) : t.Sound := by
  unfold execSext at e
  grind [sound_def, soundAt_write, soundAt_writeN, soundAt_setWord, soundAt_clear, soundAt_copy, soundAt_paste, soundAt_drop, sound_foldl, State.unaryRec_sound]
theorem execZext_sound {a0 a1} (h : s.Sound) (e : execZext a0 a1 s = .next t) : t.Sound := by
  unfold execZext at e
  grind [sound_def, soundAt_write, soundAt_writeN, soundAt_setWord, soundAt_clear, soundAt_copy, soundAt_paste, soundAt_drop, sound_foldl, State.unaryRec_sound]
theorem execTst_sound {a0 a1 a2} (h : s.Sound) (e : execTst a0 a1 a2 s = .next t) : t.Sound := by
  unfold execTst at e
  grind [sound_def, soundAt_write, soundAt_writeN, soundAt_setWord, soundAt_clear, soundAt_copy, soundAt_paste, soundAt_drop, sound_foldl, State.wordRec_sound]
theorem execLea_sound {a0 a1} (h : s.Sound) (e : execLea a0 a1 s = .next t) : t.Sound := by
  unfold execLea at e
  grind [sound_def, soundAt_write, soundAt_writeN, soundAt_setWord, soundAt_clear, soundAt_copy, soundAt_paste, soundAt_drop, sound_foldl, State.fireRes_sound]
theorem execApx_sound {a0 a1} (h : s.Sound) (e : execApx a0 a1 s = .next t) : t.Sound := by
  unfold execApx at e
  grind [sound_def, soundAt_write, soundAt_writeN, soundAt_setWord, soundAt_clear, soundAt_copy, soundAt_paste, soundAt_drop, sound_foldl, State.wordRec_sound]
theorem State.fpRec_sound {a1 a2 a3 a4} (h : s.Sound) : (State.fpRec s a1 a2 a3 a4).Sound := by
  unfold State.fpRec
  grind [sound_def, soundAt_write, soundAt_writeN, soundAt_setWord, soundAt_clear, soundAt_copy, soundAt_paste, soundAt_drop, sound_foldl, State.fireRes_sound]
theorem State.fpUnary_sound {a1 a2 a3} (h : s.Sound) : (State.fpUnary s a1 a2 a3).Sound := by
  unfold State.fpUnary
  grind [sound_def, soundAt_write, soundAt_writeN, soundAt_setWord, soundAt_clear, soundAt_copy, soundAt_paste, soundAt_drop, sound_foldl, State.fireRes_sound]
theorem State.fpPair_sound {a1 a2 a3 a4} (h : s.Sound) : (State.fpPair s a1 a2 a3 a4).Sound := by
  unfold State.fpPair
  grind [sound_def, soundAt_write, soundAt_writeN, soundAt_setWord, soundAt_clear, soundAt_copy, soundAt_paste, soundAt_drop, sound_foldl, State.fireRes_sound]
theorem State.fpOne_sound {a1 a2 a3} (h : s.Sound) : (State.fpOne s a1 a2 a3).Sound := by
  unfold State.fpOne
  grind [sound_def, soundAt_write, soundAt_writeN, soundAt_setWord, soundAt_clear, soundAt_copy, soundAt_paste, soundAt_drop, sound_foldl, State.fireRes_sound]
theorem execFadd_sound {a0 a1 a2} (h : s.Sound) (e : execFadd a0 a1 a2 s = .next t) : t.Sound := by
  unfold execFadd at e
  grind [sound_def, soundAt_write, soundAt_writeN, soundAt_setWord, soundAt_clear, soundAt_copy, soundAt_paste, soundAt_drop, sound_foldl, State.fpRec_sound]
theorem execFsub_sound {a0 a1 a2} (h : s.Sound) (e : execFsub a0 a1 a2 s = .next t) : t.Sound := by
  unfold execFsub at e
  grind [sound_def, soundAt_write, soundAt_writeN, soundAt_setWord, soundAt_clear, soundAt_copy, soundAt_paste, soundAt_drop, sound_foldl, State.fpRec_sound]
theorem execFmul_sound {a0 a1 a2} (h : s.Sound) (e : execFmul a0 a1 a2 s = .next t) : t.Sound := by
  unfold execFmul at e
  grind [sound_def, soundAt_write, soundAt_writeN, soundAt_setWord, soundAt_clear, soundAt_copy, soundAt_paste, soundAt_drop, sound_foldl, State.fpRec_sound]
theorem execFdiv_sound {a0 a1 a2} (h : s.Sound) (e : execFdiv a0 a1 a2 s = .next t) : t.Sound := by
  unfold execFdiv at e
  grind [sound_def, soundAt_write, soundAt_writeN, soundAt_setWord, soundAt_clear, soundAt_copy, soundAt_paste, soundAt_drop, sound_foldl, State.fpRec_sound]
theorem execFsqrt_sound {a0 a1 a2} (h : s.Sound) (e : execFsqrt a0 a1 a2 s = .next t) : t.Sound := by
  unfold execFsqrt at e
  grind [sound_def, soundAt_write, soundAt_writeN, soundAt_setWord, soundAt_clear, soundAt_copy, soundAt_paste, soundAt_drop, sound_foldl, State.fpUnary_sound]
theorem execFma_sound {a0 a1 a2} (h : s.Sound) (e : execFma a0 a1 a2 s = .next t) : t.Sound := by
  unfold execFma at e
  grind [sound_def, soundAt_write, soundAt_writeN, soundAt_setWord, soundAt_clear, soundAt_copy, soundAt_paste, soundAt_drop, sound_foldl, State.fireRes_sound]
theorem execFmin_sound {a0 a1 a2} (h : s.Sound) (e : execFmin a0 a1 a2 s = .next t) : t.Sound := by
  unfold execFmin at e
  grind [sound_def, soundAt_write, soundAt_writeN, soundAt_setWord, soundAt_clear, soundAt_copy, soundAt_paste, soundAt_drop, sound_foldl, State.fpPair_sound]
theorem execFmax_sound {a0 a1 a2} (h : s.Sound) (e : execFmax a0 a1 a2 s = .next t) : t.Sound := by
  unfold execFmax at e
  grind [sound_def, soundAt_write, soundAt_writeN, soundAt_setWord, soundAt_clear, soundAt_copy, soundAt_paste, soundAt_drop, sound_foldl, State.fpPair_sound]
theorem execFabs_sound {a0 a1} (h : s.Sound) (e : execFabs a0 a1 s = .next t) : t.Sound := by
  unfold execFabs at e
  grind [sound_def, soundAt_write, soundAt_writeN, soundAt_setWord, soundAt_clear, soundAt_copy, soundAt_paste, soundAt_drop, sound_foldl, State.fpOne_sound]
theorem execFneg_sound {a0 a1} (h : s.Sound) (e : execFneg a0 a1 s = .next t) : t.Sound := by
  unfold execFneg at e
  grind [sound_def, soundAt_write, soundAt_writeN, soundAt_setWord, soundAt_clear, soundAt_copy, soundAt_paste, soundAt_drop, sound_foldl, State.fpOne_sound]
theorem execFcpys_sound {a0 a1} (h : s.Sound) (e : execFcpys a0 a1 s = .next t) : t.Sound := by
  unfold execFcpys at e
  grind [sound_def, soundAt_write, soundAt_writeN, soundAt_setWord, soundAt_clear, soundAt_copy, soundAt_paste, soundAt_drop, sound_foldl, State.fpPair_sound]
theorem execFtst_sound {a0 a1 a2 a3} (h : s.Sound) (e : execFtst a0 a1 a2 a3 s = .next t) : t.Sound := by
  unfold execFtst at e
  grind [sound_def, soundAt_write, soundAt_writeN, soundAt_setWord, soundAt_clear, soundAt_copy, soundAt_paste, soundAt_drop, sound_foldl, State.fpPair_sound]
theorem execFcvt_sound {a0 a1 a2 a3} (h : s.Sound) (e : execFcvt a0 a1 a2 a3 s = .next t) : t.Sound := by
  unfold execFcvt at e
  grind [sound_def, soundAt_write, soundAt_writeN, soundAt_setWord, soundAt_clear, soundAt_copy, soundAt_paste, soundAt_drop, sound_foldl, State.fireRes_sound]
theorem execFrnd_sound {a0 a1 a2} (h : s.Sound) (e : execFrnd a0 a1 a2 s = .next t) : t.Sound := by
  unfold execFrnd at e
  grind [sound_def, soundAt_write, soundAt_writeN, soundAt_setWord, soundAt_clear, soundAt_copy, soundAt_paste, soundAt_drop, sound_foldl, State.fpOne_sound]
theorem execFcls_sound {a0 a1} (h : s.Sound) (e : execFcls a0 a1 s = .next t) : t.Sound := by
  unfold execFcls at e
  grind [sound_def, soundAt_write, soundAt_writeN, soundAt_setWord, soundAt_clear, soundAt_copy, soundAt_paste, soundAt_drop, sound_foldl, State.fpOne_sound]
theorem execExp2_sound {a0 a1 a2} (h : s.Sound) (e : execExp2 a0 a1 a2 s = .next t) : t.Sound := by
  unfold execExp2 at e
  grind [sound_def, soundAt_write, soundAt_writeN, soundAt_setWord, soundAt_clear, soundAt_copy, soundAt_paste, soundAt_drop, sound_foldl, State.fpUnary_sound]
theorem execLog2_sound {a0 a1 a2} (h : s.Sound) (e : execLog2 a0 a1 a2 s = .next t) : t.Sound := by
  unfold execLog2 at e
  grind [sound_def, soundAt_write, soundAt_writeN, soundAt_setWord, soundAt_clear, soundAt_copy, soundAt_paste, soundAt_drop, sound_foldl, State.fpUnary_sound]
theorem execRsq_sound {a0 a1 a2} (h : s.Sound) (e : execRsq a0 a1 a2 s = .next t) : t.Sound := by
  unfold execRsq at e
  grind [sound_def, soundAt_write, soundAt_writeN, soundAt_setWord, soundAt_clear, soundAt_copy, soundAt_paste, soundAt_drop, sound_foldl, State.fpUnary_sound]
theorem State.vecArith_sound {a1 a2 a3 a4 a5} (h : s.Sound) : (State.vecArith s a1 a2 a3 a4 a5).Sound := by
  unfold State.vecArith
  grind [sound_def, soundAt_write, soundAt_writeN, soundAt_setWord, soundAt_clear, soundAt_copy, soundAt_paste, soundAt_drop, sound_foldl, State.fireVec_sound]
theorem State.vecPair_sound {a1 a2 a3 a4} (h : s.Sound) : (State.vecPair s a1 a2 a3 a4).Sound := by
  unfold State.vecPair
  grind [sound_def, soundAt_write, soundAt_writeN, soundAt_setWord, soundAt_clear, soundAt_copy, soundAt_paste, soundAt_drop, sound_foldl, State.fireVec_sound]
theorem State.vecOne_sound {a1 a2 a3} (h : s.Sound) : (State.vecOne s a1 a2 a3).Sound := by
  unfold State.vecOne
  grind [sound_def, soundAt_write, soundAt_writeN, soundAt_setWord, soundAt_clear, soundAt_copy, soundAt_paste, soundAt_drop, sound_foldl, State.fireVec_sound]
theorem execVadd_sound {a0 a1 a2} (h : s.Sound) (e : execVadd a0 a1 a2 s = .next t) : t.Sound := by
  unfold execVadd at e
  grind [sound_def, soundAt_write, soundAt_writeN, soundAt_setWord, soundAt_clear, soundAt_copy, soundAt_paste, soundAt_drop, sound_foldl, State.vecArith_sound]
theorem execVsub_sound {a0 a1 a2} (h : s.Sound) (e : execVsub a0 a1 a2 s = .next t) : t.Sound := by
  unfold execVsub at e
  grind [sound_def, soundAt_write, soundAt_writeN, soundAt_setWord, soundAt_clear, soundAt_copy, soundAt_paste, soundAt_drop, sound_foldl, State.vecArith_sound]
theorem execVmul_sound {a0 a1 a2} (h : s.Sound) (e : execVmul a0 a1 a2 s = .next t) : t.Sound := by
  unfold execVmul at e
  grind [sound_def, soundAt_write, soundAt_writeN, soundAt_setWord, soundAt_clear, soundAt_copy, soundAt_paste, soundAt_drop, sound_foldl, State.vecArith_sound]
theorem execVdiv_sound {a0 a1 a2} (h : s.Sound) (e : execVdiv a0 a1 a2 s = .next t) : t.Sound := by
  unfold execVdiv at e
  grind [sound_def, soundAt_write, soundAt_writeN, soundAt_setWord, soundAt_clear, soundAt_copy, soundAt_paste, soundAt_drop, sound_foldl, State.vecArith_sound]
theorem execVfma_sound {a0 a1 a2} (h : s.Sound) (e : execVfma a0 a1 a2 s = .next t) : t.Sound := by
  unfold execVfma at e
  grind [sound_def, soundAt_write, soundAt_writeN, soundAt_setWord, soundAt_clear, soundAt_copy, soundAt_paste, soundAt_drop, sound_foldl, State.fireVec_sound]
theorem execVmin_sound {a0 a1 a2} (h : s.Sound) (e : execVmin a0 a1 a2 s = .next t) : t.Sound := by
  unfold execVmin at e
  grind [sound_def, soundAt_write, soundAt_writeN, soundAt_setWord, soundAt_clear, soundAt_copy, soundAt_paste, soundAt_drop, sound_foldl, State.vecPair_sound]
theorem execVmax_sound {a0 a1 a2} (h : s.Sound) (e : execVmax a0 a1 a2 s = .next t) : t.Sound := by
  unfold execVmax at e
  grind [sound_def, soundAt_write, soundAt_writeN, soundAt_setWord, soundAt_clear, soundAt_copy, soundAt_paste, soundAt_drop, sound_foldl, State.vecPair_sound]
theorem execVabs_sound {a0 a1} (h : s.Sound) (e : execVabs a0 a1 s = .next t) : t.Sound := by
  unfold execVabs at e
  grind [sound_def, soundAt_write, soundAt_writeN, soundAt_setWord, soundAt_clear, soundAt_copy, soundAt_paste, soundAt_drop, sound_foldl, State.vecOne_sound]
theorem execVneg_sound {a0 a1} (h : s.Sound) (e : execVneg a0 a1 s = .next t) : t.Sound := by
  unfold execVneg at e
  grind [sound_def, soundAt_write, soundAt_writeN, soundAt_setWord, soundAt_clear, soundAt_copy, soundAt_paste, soundAt_drop, sound_foldl, State.vecOne_sound]
theorem execVand_sound {a0 a1 a2} (h : s.Sound) (e : execVand a0 a1 a2 s = .next t) : t.Sound := by
  unfold execVand at e
  grind [sound_def, soundAt_write, soundAt_writeN, soundAt_setWord, soundAt_clear, soundAt_copy, soundAt_paste, soundAt_drop, sound_foldl, State.vecPair_sound]
theorem execVor_sound {a0 a1 a2} (h : s.Sound) (e : execVor a0 a1 a2 s = .next t) : t.Sound := by
  unfold execVor at e
  grind [sound_def, soundAt_write, soundAt_writeN, soundAt_setWord, soundAt_clear, soundAt_copy, soundAt_paste, soundAt_drop, sound_foldl, State.vecPair_sound]
theorem execVxor_sound {a0 a1 a2} (h : s.Sound) (e : execVxor a0 a1 a2 s = .next t) : t.Sound := by
  unfold execVxor at e
  grind [sound_def, soundAt_write, soundAt_writeN, soundAt_setWord, soundAt_clear, soundAt_copy, soundAt_paste, soundAt_drop, sound_foldl, State.vecPair_sound]
theorem execVshl_sound {a0 a1 a2} (h : s.Sound) (e : execVshl a0 a1 a2 s = .next t) : t.Sound := by
  unfold execVshl at e
  grind [sound_def, soundAt_write, soundAt_writeN, soundAt_setWord, soundAt_clear, soundAt_copy, soundAt_paste, soundAt_drop, sound_foldl, State.vecPair_sound]
theorem execVshr_sound {a0 a1 a2} (h : s.Sound) (e : execVshr a0 a1 a2 s = .next t) : t.Sound := by
  unfold execVshr at e
  grind [sound_def, soundAt_write, soundAt_writeN, soundAt_setWord, soundAt_clear, soundAt_copy, soundAt_paste, soundAt_drop, sound_foldl, State.vecPair_sound]
theorem execVsar_sound {a0 a1 a2} (h : s.Sound) (e : execVsar a0 a1 a2 s = .next t) : t.Sound := by
  unfold execVsar at e
  grind [sound_def, soundAt_write, soundAt_writeN, soundAt_setWord, soundAt_clear, soundAt_copy, soundAt_paste, soundAt_drop, sound_foldl, State.vecPair_sound]
theorem execVtst_sound {a0 a1 a2} (h : s.Sound) (e : execVtst a0 a1 a2 s = .next t) : t.Sound := by
  unfold execVtst at e
  grind [sound_def, soundAt_write, soundAt_writeN, soundAt_setWord, soundAt_clear, soundAt_copy, soundAt_paste, soundAt_drop, sound_foldl, State.fire_sound, State.result_sound, State.holdFlags_sound]
theorem execVsel_sound {a0 a1} (h : s.Sound) (e : execVsel a0 a1 s = .next t) : t.Sound := by
  unfold execVsel at e
  grind [sound_def, soundAt_write, soundAt_writeN, soundAt_setWord, soundAt_clear, soundAt_copy, soundAt_paste, soundAt_drop, sound_foldl, State.fireVec_sound]
theorem execVcvt_sound {a0 a1 a2 a3 a4} (h : s.Sound) (e : execVcvt a0 a1 a2 a3 a4 s = .next t) : t.Sound := by
  unfold execVcvt at e
  grind [sound_def, soundAt_write, soundAt_writeN, soundAt_setWord, soundAt_clear, soundAt_copy, soundAt_paste, soundAt_drop, sound_foldl, State.fireVec_sound]
theorem execVexp2_sound {a0 a1 a2} (h : s.Sound) (e : execVexp2 a0 a1 a2 s = .next t) : t.Sound := by
  unfold execVexp2 at e
  grind [sound_def, soundAt_write, soundAt_writeN, soundAt_setWord, soundAt_clear, soundAt_copy, soundAt_paste, soundAt_drop, sound_foldl, State.vecOne_sound]
theorem execVlog2_sound {a0 a1 a2} (h : s.Sound) (e : execVlog2 a0 a1 a2 s = .next t) : t.Sound := by
  unfold execVlog2 at e
  grind [sound_def, soundAt_write, soundAt_writeN, soundAt_setWord, soundAt_clear, soundAt_copy, soundAt_paste, soundAt_drop, sound_foldl, State.vecOne_sound]
theorem execVrsq_sound {a0 a1 a2} (h : s.Sound) (e : execVrsq a0 a1 a2 s = .next t) : t.Sound := by
  unfold execVrsq at e
  grind [sound_def, soundAt_write, soundAt_writeN, soundAt_setWord, soundAt_clear, soundAt_copy, soundAt_paste, soundAt_drop, sound_foldl, State.vecOne_sound]
theorem execVbcast_sound {a0 a1} (h : s.Sound) (e : execVbcast a0 a1 s = .next t) : t.Sound := by
  unfold execVbcast at e
  grind [sound_def, soundAt_write, soundAt_writeN, soundAt_setWord, soundAt_clear, soundAt_copy, soundAt_paste, soundAt_drop, sound_foldl, State.fireVec_sound]
theorem execVextr_sound {a0 a1 a2} (h : s.Sound) (e : execVextr a0 a1 a2 s = .next t) : t.Sound := by
  unfold execVextr at e
  grind [sound_def, soundAt_write, soundAt_writeN, soundAt_setWord, soundAt_clear, soundAt_copy, soundAt_paste, soundAt_drop, sound_foldl, State.fireRes_sound]
theorem execVins_sound {a0 a1 a2} (h : s.Sound) (e : execVins a0 a1 a2 s = .next t) : t.Sound := by
  unfold execVins at e
  grind [sound_def, soundAt_write, soundAt_writeN, soundAt_setWord, soundAt_clear, soundAt_copy, soundAt_paste, soundAt_drop, sound_foldl, State.fireVec_sound]
theorem execVperm_sound {a0 a1} (h : s.Sound) (e : execVperm a0 a1 s = .next t) : t.Sound := by
  unfold execVperm at e
  grind [sound_def, soundAt_write, soundAt_writeN, soundAt_setWord, soundAt_clear, soundAt_copy, soundAt_paste, soundAt_drop, sound_foldl, State.fireVec_sound]
theorem execViota_sound {a0 a1} (h : s.Sound) (e : execViota a0 a1 s = .next t) : t.Sound := by
  unfold execViota at e
  grind [sound_def, soundAt_write, soundAt_writeN, soundAt_setWord, soundAt_clear, soundAt_copy, soundAt_paste, soundAt_drop, sound_foldl, State.fireVec_sound]
theorem execVred_sound {a0 a1 a2 a3 a4} (h : s.Sound) (e : execVred a0 a1 a2 a3 a4 s = .next t) : t.Sound := by
  unfold execVred at e
  grind [sound_def, soundAt_write, soundAt_writeN, soundAt_setWord, soundAt_clear, soundAt_copy, soundAt_paste, soundAt_drop, sound_foldl, State.fireRes_sound]
theorem execVscan_sound {a0 a1 a2 a3} (h : s.Sound) (e : execVscan a0 a1 a2 a3 s = .next t) : t.Sound := by
  unfold execVscan at e
  grind [sound_def, soundAt_write, soundAt_writeN, soundAt_setWord, soundAt_clear, soundAt_copy, soundAt_paste, soundAt_drop, sound_foldl, State.fireVec_sound]
theorem execVdot_sound {a0 a1 a2 a3} (h : s.Sound) (e : execVdot a0 a1 a2 a3 s = .next t) : t.Sound := by
  unfold execVdot at e
  grind [sound_def, soundAt_write, soundAt_writeN, soundAt_setWord, soundAt_clear, soundAt_copy, soundAt_paste, soundAt_drop, sound_foldl, State.fireRes_sound]
theorem execVmaxi_sound {a0 a1 a2} (h : s.Sound) (e : execVmaxi a0 a1 a2 s = .next t) : t.Sound := by
  unfold execVmaxi at e
  grind [sound_def, soundAt_write, soundAt_writeN, soundAt_setWord, soundAt_clear, soundAt_copy, soundAt_paste, soundAt_drop, sound_foldl, State.fireRes_sound]
theorem execVmini_sound {a0 a1 a2} (h : s.Sound) (e : execVmini a0 a1 a2 s = .next t) : t.Sound := by
  unfold execVmini at e
  grind [sound_def, soundAt_write, soundAt_writeN, soundAt_setWord, soundAt_clear, soundAt_copy, soundAt_paste, soundAt_drop, sound_foldl, State.fireRes_sound]
theorem execAmax_sound {a0 a1} (h : s.Sound) (e : execAmax a0 a1 s = .next t) : t.Sound := by
  unfold execAmax at e
  grind [sound_def, soundAt_write, soundAt_writeN, soundAt_setWord, soundAt_clear, soundAt_copy, soundAt_paste, soundAt_drop, sound_foldl, State.fireRes_sound]
theorem execCvq_sound {a0 a1 a2} (h : s.Sound) (e : execCvq a0 a1 a2 s = .next t) : t.Sound := by
  unfold execCvq at e
  grind [sound_def, soundAt_write, soundAt_writeN, soundAt_setWord, soundAt_clear, soundAt_copy, soundAt_paste, soundAt_drop, sound_foldl, State.fire_sound, State.send2_sound, State.holdFlags_sound]
theorem execCvdq_sound {a0 a1 a2} (h : s.Sound) (e : execCvdq a0 a1 a2 s = .next t) : t.Sound := by
  unfold execCvdq at e
  grind [sound_def, soundAt_write, soundAt_writeN, soundAt_setWord, soundAt_clear, soundAt_copy, soundAt_paste, soundAt_drop, sound_foldl, State.fireVec_sound]
theorem State.holdChan_sound {a1} (h : s.Sound) : (State.holdChan s a1).Sound := by
  unfold State.holdChan
  grind [sound_def, soundAt_write, soundAt_writeN, soundAt_setWord, soundAt_clear, soundAt_copy, soundAt_paste, soundAt_drop, sound_foldl, State.updOut_sound]
theorem execChset_sound {a0} (h : s.Sound) (e : execChset a0 s = .next t) : t.Sound := by
  unfold execChset at e
  grind [sound_def, soundAt_write, soundAt_writeN, soundAt_setWord, soundAt_clear, soundAt_copy, soundAt_paste, soundAt_drop, sound_foldl, State.fire_sound, State.result_sound, State.holdChan_sound]
theorem execChtab_sound {a0} (h : s.Sound) (e : execChtab a0 s = .next t) : t.Sound := by
  unfold execChtab at e
  grind [sound_def, soundAt_write, soundAt_writeN, soundAt_setWord, soundAt_clear, soundAt_copy, soundAt_paste, soundAt_drop, sound_foldl, State.fire_sound, State.result_sound, State.holdChan_sound]
theorem execSclw_sound {a0 a1 a2} (h : s.Sound) (e : execSclw a0 a1 a2 s = .next t) : t.Sound := by
  unfold execSclw at e
  grind [sound_def, soundAt_write, soundAt_writeN, soundAt_setWord, soundAt_clear, soundAt_copy, soundAt_paste, soundAt_drop, sound_foldl, State.fire_sound, State.result_sound, State.holdChan_sound]
theorem execVpk_sound {a0} (h : s.Sound) (e : execVpk a0 s = .next t) : t.Sound := by
  unfold execVpk at e
  grind [sound_def, soundAt_write, soundAt_writeN, soundAt_setWord, soundAt_clear, soundAt_copy, soundAt_paste, soundAt_drop, sound_foldl, State.fire_sound, State.result_sound]
theorem execVupk_sound {a0} (h : s.Sound) (e : execVupk a0 s = .next t) : t.Sound := by
  unfold execVupk at e
  grind [sound_def, soundAt_write, soundAt_writeN, soundAt_setWord, soundAt_clear, soundAt_copy, soundAt_paste, soundAt_drop, sound_foldl, State.fire_sound, State.result_sound]
theorem State.holdRng_sound {a1} (h : s.Sound) : (State.holdRng s a1).Sound := by
  unfold State.holdRng
  grind [sound_def, soundAt_write, soundAt_writeN, soundAt_setWord, soundAt_clear, soundAt_copy, soundAt_paste, soundAt_drop, sound_foldl, State.updOut_sound]
theorem execRngs_sound {a0} (h : s.Sound) (e : execRngs a0 s = .next t) : t.Sound := by
  unfold execRngs at e
  grind [sound_def, soundAt_write, soundAt_writeN, soundAt_setWord, soundAt_clear, soundAt_copy, soundAt_paste, soundAt_drop, sound_foldl, State.fire_sound, State.result_sound, State.holdRng_sound]
theorem execRngn_sound {a0 a1} (h : s.Sound) (e : execRngn a0 a1 s = .next t) : t.Sound := by
  unfold execRngn at e
  grind [sound_def, soundAt_write, soundAt_writeN, soundAt_setWord, soundAt_clear, soundAt_copy, soundAt_paste, soundAt_drop, sound_foldl, State.fire_sound, State.result_sound]
theorem execRngf_sound {a0 a1} (h : s.Sound) (e : execRngf a0 a1 s = .next t) : t.Sound := by
  unfold execRngf at e
  grind [sound_def, soundAt_write, soundAt_writeN, soundAt_setWord, soundAt_clear, soundAt_copy, soundAt_paste, soundAt_drop, sound_foldl, State.fire_sound, State.result_sound]
theorem State.result2_sound {a1 a2 a3} (h : s.Sound) : (State.result2 s a1 a2 a3).Sound := by
  unfold State.result2
  grind [sound_def, soundAt_write, soundAt_writeN, soundAt_setWord, soundAt_clear, soundAt_copy, soundAt_paste, soundAt_drop, sound_foldl, State.send2_sound]
theorem execSample_sound {a0 a1} (h : s.Sound) (e : execSample a0 a1 s = .next t) : t.Sound := by
  unfold execSample at e
  grind [sound_def, soundAt_write, soundAt_writeN, soundAt_setWord, soundAt_clear, soundAt_copy, soundAt_paste, soundAt_drop, sound_foldl, State.fire_sound, State.result2_sound, State.holdFlags_sound, State.free_sound]
theorem execTopk_sound {a0 a1} (h : s.Sound) (e : execTopk a0 a1 s = .next t) : t.Sound := by
  unfold execTopk at e
  grind [sound_def, soundAt_write, soundAt_writeN, soundAt_setWord, soundAt_clear, soundAt_copy, soundAt_paste, soundAt_drop, sound_foldl, State.fire_sound, State.result2_sound]
theorem execAccept_sound {a0 a1 a2} (h : s.Sound) (e : execAccept a0 a1 a2 s = .next t) : t.Sound := by
  unfold execAccept at e
  grind [sound_def, soundAt_write, soundAt_writeN, soundAt_setWord, soundAt_clear, soundAt_copy, soundAt_paste, soundAt_drop, sound_foldl, State.fire_sound, State.holdRng_sound, State.updOut_sound, State.result2_sound]

end Sys2Proof.Machine
end

