-- ==== Sys2Proof/Laws/SoundEvents.lean ====
section
/-! SUPPORT. Soundness (`State.Sound`): the meanings of the events, and the operations under them, keep a state sound. One lemma per function that answers a state. -/

namespace Sys2Proof.Machine
open Sys2Proof
variable {s t : State}

theorem State.reply_sound {a1 a2} (h : s.Sound) : (State.reply s a1 a2).Sound := by
  unfold State.reply
  grind [sound_def, soundAt_write, soundAt_writeN, soundAt_setWord, soundAt_clear, soundAt_copy, soundAt_paste, soundAt_drop, sound_foldl, State.takeMsg_sound, Option.bind_eq_some_iff, State.answer_sound, State.answerMsgr_sound]
theorem State.refuse_sound {a1} (h : s.Sound) : (State.refuse s a1).Sound := by
  unfold State.refuse
  grind [sound_def, soundAt_write, soundAt_writeN, soundAt_setWord, soundAt_clear, soundAt_copy, soundAt_paste, soundAt_drop, sound_foldl, State.reply_sound]
theorem State.newLevel_sound (h : s.Sound) (e : State.newLevel s = some (y0, t)) : t.Sound := by
  unfold State.newLevel at e
  grind [sound_def, soundAt_write, soundAt_writeN, soundAt_setWord, soundAt_clear, soundAt_copy, soundAt_paste, soundAt_drop, sound_foldl]
theorem State.makeLevels_sound {a1 a2} (h : s.Sound) (e : State.makeLevels s a1 a2 = some (y0, t)) : t.Sound := by
  induction a2 generalizing s a1 with
  | nil => simp only [State.makeLevels, Option.some.injEq, Prod.mk.injEq] at e; exact e.2 ▸ h
  | cons i is ih =>
    simp only [State.makeLevels] at e
    split at e
    · exact ih h e
    · split at e
      · simp at e
      · rename_i k
        refine ih ?_ e
        exact soundAt_setWord (State.newLevel_sound h k)
theorem State.newSide_sound {a1} (h : s.Sound) (e : State.newSide s a1 = some (y0, t)) : t.Sound := by
  unfold State.newSide at e
  grind [sound_def, soundAt_write, soundAt_writeN, soundAt_setWord, soundAt_clear, soundAt_copy, soundAt_paste, soundAt_drop, sound_foldl]
theorem State.markScratch_sound {a1 a2 a3} (h : s.Sound) : (State.markScratch s a1 a2 a3).Sound := by
  unfold State.markScratch
  grind [sound_def, soundAt_write, soundAt_writeN, soundAt_setWord, soundAt_clear, soundAt_copy, soundAt_paste, soundAt_drop, sound_foldl]
theorem State.scratchPage_sound {a1 a2 a3 a4 a5} (h : s.Sound) (e : State.scratchPage s a1 a2 a3 a4 a5 = some t) : t.Sound := by
  unfold State.scratchPage at e
  grind [sound_def, soundAt_write, soundAt_writeN, soundAt_setWord, soundAt_clear, soundAt_copy, soundAt_paste, soundAt_drop, sound_foldl, Option.map_eq_some_iff, State.setPte_sound, State.markScratch_sound, → State.makeLeaf_sound, Option.bind_eq_some_iff, Option.map_eq_some_iff]
theorem State.tierPage_sound {a1 a2 a3 a4} (h : s.Sound) (e : State.tierPage s a1 a2 a3 a4 = some t) : t.Sound := by
  unfold State.tierPage at e
  dsimp only at e
  split at e
  · simp at e
  · obtain ⟨r, k, e⟩ := Option.map_eq_some_iff.mp e
    rw [← e]
    refine soundAt_clear (State.setPte_sound (State.makeLeaf_sound ?_ (y0 := r.1) k))
    exact h
theorem State.forPages_sound {f : State → Nat → Option State} {l} (hf : ∀ u t p, State.Sound u → f u p = some t → t.Sound) (h : s.Sound) (e : State.forPages f s l = some t) : t.Sound := by
  induction l generalizing s with
  | nil => exact of_some e h
  | cons p ps ih =>
    simp only [State.forPages, Option.bind_eq_some_iff] at e
    obtain ⟨u, hu, e⟩ := e
    exact ih (hf _ _ _ h hu) e
theorem State.newPages_sound {a1 a2 a3 a4 a5 a6} (h : s.Sound) (e : State.newPages s a1 a2 a3 a4 a5 a6 = some t) : t.Sound := by
  unfold State.newPages at e
  rcases ite_cases e with e | e
  · rcases ite_cases e with e | e
    · simp at e
    · exact State.forPages_sound (fun _ _ _ hu k => State.scratchPage_sound hu k) h e
  · rcases ite_cases e with e | e
    · exact State.forPages_sound (fun _ _ _ hu k => State.tierPage_sound hu k) h e
    · exact of_some e h
theorem soundAt_putWords {a ws} (h : SoundAt m qs) : SoundAt (putWords m a ws) qs := by
  induction ws generalizing m a with
  | nil => exact h
  | cons w ws ih => exact ih (soundAt_setWord h)
theorem State.createObject_sound {a1} (h : s.Sound) (e : State.createObject s a1 = some (t, y1)) : t.Sound := by
  unfold State.createObject at e
  dsimp only at e
  rcases ite_cases e with e | e
  · simp at e
  · obtain ⟨r1, k1, e⟩ := Option.bind_eq_some_iff.mp e
    obtain ⟨r2, k2, e⟩ := Option.bind_eq_some_iff.mp e
    obtain ⟨r3, k3, e⟩ := Option.bind_eq_some_iff.mp e
    obtain ⟨r4, k4, e⟩ := Option.bind_eq_some_iff.mp e
    obtain ⟨r5, k5, e⟩ := Option.map_eq_some_iff.mp e
    have h4 := State.newSide_sound (y0 := r4.1) (State.newNode_sound (y0 := r3.1) (State.newNode_sound (y0 := r2.1) (State.makeLevels_sound h (y0 := r1.1) k1) k2) k3) k4
    have h5 := State.newPages_sound h4 k5
    rw [← (Prod.mk.inj e).1]
    exact soundAt_setWord (soundAt_putWords h5)
theorem State.tierFill_sound {a1 a2} (h : s.Sound) : (State.tierFill s a1 a2).Sound := by
  unfold State.tierFill
  grind [sound_def, soundAt_write, soundAt_writeN, soundAt_setWord, soundAt_clear, soundAt_copy, soundAt_paste, soundAt_drop, sound_foldl]
theorem State.fillImage_sound {a1 a2} (h : s.Sound) (e : State.fillImage s a1 a2 = some t) : t.Sound := by
  unfold State.fillImage at e
  split at e
  · cases e
  · rcases ite_cases e with e | e
    · refine of_some e (sound_foldl (fun u b hu => ?_) h)
      split
      · exact soundAt_write hu
      · exact hu
    · obtain ⟨u, k, rfl⟩ := Option.map_eq_some_iff.mp e
      have h1 : State.Sound { s with doer := none } := h
      exact (State.writeRange_sound h1 (toOption_some k) : u.Sound)
theorem State.createImage_sound {a1 a2} (h : s.Sound) (e : State.createImage s a1 a2 = some (t, y1)) : t.Sound := by
  unfold State.createImage at e
  grind [sound_def, soundAt_write, soundAt_writeN, soundAt_setWord, soundAt_clear, soundAt_copy, soundAt_paste, soundAt_drop, sound_foldl, Option.map_eq_some_iff, → State.fillImage_sound, State.pauseFor_sound, → State.createObject_sound]
theorem State.dataImage_sound {a1 a2} (h : s.Sound) : (State.dataImage s a1 a2).Sound := by
  unfold State.dataImage
  grind [sound_def, soundAt_write, soundAt_writeN, soundAt_setWord, soundAt_clear, soundAt_copy, soundAt_paste, soundAt_drop, sound_foldl, State.tierFill_sound]
theorem State.create_sound {a1} (h : s.Sound) (e : State.create s a1 = some (t, y1)) : t.Sound := by
  unfold State.create at e
  grind [sound_def, soundAt_write, soundAt_writeN, soundAt_setWord, soundAt_clear, soundAt_copy, soundAt_paste, soundAt_drop, sound_foldl, → State.createObject_sound, → State.unitRead_sound, → State.createImage_sound, Option.bind_eq_some_iff, Option.map_eq_some_iff]
theorem State.createNow_sound {a1} (h : s.Sound) (e : State.createNow s a1 = some t) : t.Sound := by
  unfold State.createNow at e
  grind [sound_def, soundAt_write, soundAt_writeN, soundAt_setWord, soundAt_clear, soundAt_copy, soundAt_paste, soundAt_drop, sound_foldl, Option.bind_eq_some_iff, State.refuse_sound, → State.whole_some, → State.create_sound, → State.goOn_some, State.reply_sound, Option.bind_eq_some_iff, Option.map_eq_some_iff]
theorem execObjectCreate_sound {a0} (h : s.Sound) (e : execObjectCreate a0 s = .next t) : t.Sound := by
  unfold execObjectCreate at e
  grind [sound_def, soundAt_write, soundAt_writeN, soundAt_setWord, soundAt_clear, soundAt_copy, soundAt_paste, soundAt_drop, sound_foldl, getD_cases, → State.createNow_sound]
theorem State.entryDurable_sound {a1 a2} (h : s.Sound) : (State.entryDurable s a1 a2).Sound := by
  unfold State.entryDurable
  grind [sound_def, soundAt_write, soundAt_writeN, soundAt_setWord, soundAt_clear, soundAt_copy, soundAt_paste, soundAt_drop, sound_foldl, State.writeLine_sound]
theorem State.setEntry_sound {a1 a2} (h : s.Sound) (e : State.setEntry s a1 a2 = some t) : t.Sound := by
  unfold State.setEntry at e
  grind [sound_def, soundAt_write, soundAt_writeN, soundAt_setWord, soundAt_clear, soundAt_copy, soundAt_paste, soundAt_drop, sound_foldl, Option.map_eq_some_iff, State.entryDurable_sound, → State.writeAperture_sound, Option.bind_eq_some_iff, Option.map_eq_some_iff]
theorem State.bindNow_sound {a1} (h : s.Sound) (e : State.bindNow s a1 = some t) : t.Sound := by
  unfold State.bindNow at e
  grind [sound_def, soundAt_write, soundAt_writeN, soundAt_setWord, soundAt_clear, soundAt_copy, soundAt_paste, soundAt_drop, sound_foldl, Option.bind_eq_some_iff, State.refuse_sound, → State.whole_some, → State.setEntry_sound, → State.goOn_some, State.reply_sound, Option.bind_eq_some_iff, Option.map_eq_some_iff]
theorem execApertureBind_sound {a0} (h : s.Sound) (e : execApertureBind a0 s = .next t) : t.Sound := by
  unfold execApertureBind at e
  grind [sound_def, soundAt_write, soundAt_writeN, soundAt_setWord, soundAt_clear, soundAt_copy, soundAt_paste, soundAt_drop, sound_foldl, getD_cases, → State.bindNow_sound]
theorem State.unbindNow_sound {a1} (h : s.Sound) (e : State.unbindNow s a1 = some t) : t.Sound := by
  unfold State.unbindNow at e
  grind [sound_def, soundAt_write, soundAt_writeN, soundAt_setWord, soundAt_clear, soundAt_copy, soundAt_paste, soundAt_drop, sound_foldl, Option.bind_eq_some_iff, State.refuse_sound, → State.whole_some, → State.setEntry_sound, → State.goOn_some, State.reply_sound, Option.bind_eq_some_iff, Option.map_eq_some_iff]
theorem execApertureUnbind_sound {a0} (h : s.Sound) (e : execApertureUnbind a0 s = .next t) : t.Sound := by
  unfold execApertureUnbind at e
  grind [sound_def, soundAt_write, soundAt_writeN, soundAt_setWord, soundAt_clear, soundAt_copy, soundAt_paste, soundAt_drop, sound_foldl, getD_cases, → State.unbindNow_sound]
theorem State.deadTask_sound {a1 a2} (h : s.Sound) : (State.deadTask s a1 a2).Sound := by
  unfold State.deadTask
  grind [sound_def, soundAt_write, soundAt_writeN, soundAt_setWord, soundAt_clear, soundAt_copy, soundAt_paste, soundAt_drop, sound_foldl, State.postTo_sound, State.outcome_sound, getD_cases]
theorem State.releaseWaiter_sound {a1} (h : s.Sound) : (State.releaseWaiter s a1).Sound := by
  unfold State.releaseWaiter
  grind [sound_def, soundAt_write, soundAt_writeN, soundAt_setWord, soundAt_clear, soundAt_copy, soundAt_paste, soundAt_drop, sound_foldl, State.deadAcquire_sound, State.deadTask_sound, State.peerAnswers_sound]
theorem State.markDying_sound {a1} (h : s.Sound) : (State.markDying s a1).Sound := by
  unfold State.markDying
  grind [sound_def, soundAt_write, soundAt_writeN, soundAt_setWord, soundAt_clear, soundAt_copy, soundAt_paste, soundAt_drop, sound_foldl, State.toPeer_sound, State.releaseWaiter_sound]
theorem State.retireNow_sound {a1} (h : s.Sound) (e : State.retireNow s a1 = some t) : t.Sound := by
  unfold State.retireNow at e
  grind [sound_def, soundAt_write, soundAt_writeN, soundAt_setWord, soundAt_clear, soundAt_copy, soundAt_paste, soundAt_drop, sound_foldl, Option.bind_eq_some_iff, State.refuse_sound, → State.whole_some, → State.atPeer_sound, → State.goOn_some, State.reply_sound, State.reqFault_sound, State.takeMsg_sound, State.markDying_sound, Option.bind_eq_some_iff, Option.map_eq_some_iff]
theorem execObjectRetire_sound {a0} (h : s.Sound) (e : execObjectRetire a0 s = .next t) : t.Sound := by
  unfold execObjectRetire at e
  grind [sound_def, soundAt_write, soundAt_writeN, soundAt_setWord, soundAt_clear, soundAt_copy, soundAt_paste, soundAt_drop, sound_foldl, getD_cases, → State.retireNow_sound]
theorem State.freePage_sound {a1 a2} (h : s.Sound) : (State.freePage s a1 a2).Sound := by
  unfold State.freePage
  grind [sound_def, soundAt_write, soundAt_writeN, soundAt_setWord, soundAt_clear, soundAt_copy, soundAt_paste, soundAt_drop, sound_foldl, State.markScratch_sound, State.giveFrame_sound]
theorem State.freeObject_sound {a1} (h : s.Sound) : (State.freeObject s a1).Sound := by
  unfold State.freeObject
  grind [sound_def, soundAt_write, soundAt_writeN, soundAt_setWord, soundAt_clear, soundAt_copy, soundAt_paste, soundAt_drop, sound_foldl, State.freePage_sound]
theorem State.reclaimNow_sound {a1} (h : s.Sound) (e : State.reclaimNow s a1 = some t) : t.Sound := by
  unfold State.reclaimNow at e
  grind [sound_def, soundAt_write, soundAt_writeN, soundAt_setWord, soundAt_clear, soundAt_copy, soundAt_paste, soundAt_drop, sound_foldl, Option.map_eq_some_iff, State.freeObject_sound, Option.bind_eq_some_iff, Option.map_eq_some_iff]
theorem execObjectReclaim_sound {a0} (h : s.Sound) (e : execObjectReclaim a0 s = .next t) : t.Sound := by
  unfold execObjectReclaim at e
  grind [sound_def, soundAt_write, soundAt_writeN, soundAt_setWord, soundAt_clear, soundAt_copy, soundAt_paste, soundAt_drop, sound_foldl, getD_cases, → State.reclaimNow_sound]
theorem State.readHeader_sound {a0 a1 a3 a4} (h : s.Sound) (e : State.readHeader a0 a1 s a3 a4 = .ok (y0, t)) : t.Sound := by
  induction a3 generalizing s a4 y0 with
  | zero => simp only [State.readHeader] at e; grind
  | succ n ih => simp only [State.readHeader] at e; grind [→ State.unitWord_sound]
theorem State.headerPlaces_sound {a1 a2} (h : s.Sound) (e : State.headerPlaces s a1 a2 = .ok (y0, t)) : t.Sound := by
  unfold State.headerPlaces at e
  grind [sound_def, soundAt_write, soundAt_writeN, soundAt_setWord, soundAt_clear, soundAt_copy, soundAt_paste, soundAt_drop, sound_foldl, → State.fetchAt_sound, → State.unitLocate_sound]
theorem State.addJob_sound {a1} (h : s.Sound) : (State.addJob s a1).Sound := by
  unfold State.addJob
  grind [sound_def, soundAt_write, soundAt_writeN, soundAt_setWord, soundAt_clear, soundAt_copy, soundAt_paste, soundAt_drop, sound_foldl, State.bump_sound]
theorem State.refuseJob_sound {a1 a2} (h : s.Sound) : (State.refuseJob s a1 a2).Sound := by
  unfold State.refuseJob
  grind [sound_def, soundAt_write, soundAt_writeN, soundAt_setWord, soundAt_clear, soundAt_copy, soundAt_paste, soundAt_drop, sound_foldl, State.postTo_sound, State.addJob_sound]
theorem State.reach_sound {a1 a2 a3 a4} (h : s.Sound) : (State.reach s a1 a2 a3 a4).2.Sound := by
  induction a2 generalizing s a3 a4 with
  | zero => exact h
  | succ n ih =>
    cases a3 with
    | nil => exact h
    | cons a todo =>
      simp only [State.reach]
      split
      · exact ih h
      · split
        · exact ih h
        · have h1 := State.blockAt_sound h ‹_›
          split
          · exact h1
          · exact ih h1
theorem State.graphFor_sound {a1 a2 a3} (h : s.Sound) : (State.graphFor s a1 a2 a3).2.Sound := by
  unfold State.graphFor
  grind [sound_def, soundAt_write, soundAt_writeN, soundAt_setWord, soundAt_clear, soundAt_copy, soundAt_paste, soundAt_drop, sound_foldl, State.reach_sound]
theorem State.checkGraph_sound {a1 a2} (h : s.Sound) : (State.checkGraph s a1 a2).2.2.Sound := by
  refine foldl_inv (P := fun (p : Option (BitVec 8 × BitVec 8 × Word) × List Word × State) => p.2.2.Sound) (fun p b hp => ?_) h
  dsimp only
  split
  · exact hp
  · split
    · exact hp
    · exact State.checkAt_sound (a3 := a2.ports) (State.blockAt_sound hp ‹_›)
theorem State.submitGraph_sound {a1 a2} (h : s.Sound) : (State.submitGraph s a1 a2).Sound := by
  unfold State.submitGraph
  have h1 := State.checkGraph_sound (a1 := a1.atp) (a2 := a2) h
  split
  · rename_i k
    rw [k] at h1
    exact State.refuseJob_sound h1
  · rename_i k
    rw [k] at h1
    dsimp only at h1 ⊢
    split
    · exact State.refuseJob_sound h1
    · exact State.addJob_sound h1
theorem State.submit_sound {a1 a2 a3} (h : s.Sound) : (State.submit s a1 a2 a3).1.Sound := by
  unfold State.submit
  grind [sound_def, soundAt_write, soundAt_writeN, soundAt_setWord, soundAt_clear, soundAt_copy, soundAt_paste, soundAt_drop, sound_foldl, → State.readHeader_sound, State.refuseJob_sound, → State.headerPlaces_sound, State.graphFor_sound, State.submitGraph_sound, Option.bind_eq_some_iff, Option.map_eq_some_iff]
theorem State.submitNow_sound {a1} (h : s.Sound) (e : State.submitNow s a1 = some t) : t.Sound := by
  unfold State.submitNow at e
  grind [sound_def, soundAt_write, soundAt_writeN, soundAt_setWord, soundAt_clear, soundAt_copy, soundAt_paste, soundAt_drop, sound_foldl, Option.bind_eq_some_iff, State.refuse_sound, → State.whole_some, State.submit_sound, → State.goOn_some, State.reply_sound, Option.bind_eq_some_iff, Option.map_eq_some_iff]
theorem execLaunchSubmit_sound {a0} (h : s.Sound) (e : execLaunchSubmit a0 s = .next t) : t.Sound := by
  unfold execLaunchSubmit at e
  grind [sound_def, soundAt_write, soundAt_writeN, soundAt_setWord, soundAt_clear, soundAt_copy, soundAt_paste, soundAt_drop, sound_foldl, getD_cases, → State.submitNow_sound]
theorem State.spillObject_sound {a1} (h : s.Sound) (e : State.spillObject s a1 = some (t, y1)) : t.Sound := by
  unfold State.spillObject at e
  dsimp only at e
  rcases ite_cases e with e | e
  · exact State.createObject_sound h e
  · obtain ⟨r1, k1, e⟩ := Option.bind_eq_some_iff.mp e
    obtain ⟨d, _, e⟩ := Option.bind_eq_some_iff.mp e
    obtain ⟨r3, k3, e⟩ := Option.map_eq_some_iff.mp e
    rw [← (Prod.mk.inj e).1]
    refine State.forPages_sound (fun u v p hu k => ?_) (State.createObject_sound h (y1 := r1.2) k1) k3
    split at k
    · rename_i r kr
      exact of_some k (State.residentNow_sound hu (y0 := r.1) kr)
    · simp at k
theorem State.bindEngine_sound {a1 a2 a3} (h : s.Sound) : (State.bindEngine s a1 a2 a3).Sound := by
  unfold State.bindEngine
  grind [sound_def, soundAt_write, soundAt_writeN, soundAt_setWord, soundAt_clear, soundAt_copy, soundAt_paste, soundAt_drop, sound_foldl, State.updIsland_sound, State.updLattice_sound]
theorem State.graphBlocks_sound {a1 a2} (h : s.Sound) : (State.graphBlocks s a1 a2).2.Sound := by
  refine foldl_inv (P := fun (p : List (Word × List RecordWord) × State) => p.2.Sound) (fun p b hp => ?_) h
  split
  · exact hp
  · split
    · exact State.blockAt_sound hp ‹_›
    · exact hp
theorem State.placeRegion_sound {a1 a2 a3 a4 a5 a6} (h : s.Sound) (e : State.placeRegion s a1 a2 a3 a4 a5 a6 = some t) : t.Sound := by
  unfold State.placeRegion at e
  grind [sound_def, soundAt_write, soundAt_writeN, soundAt_setWord, soundAt_clear, soundAt_copy, soundAt_paste, soundAt_drop, sound_foldl, getD_cases, Option.map_eq_some_iff, State.bindEngine_sound, State.updJob_sound, State.placeBlock_sound, → State.spillObject_sound]
theorem State.placeNow_sound {a1} (h : s.Sound) (e : State.placeNow s a1 = some t) : t.Sound := by
  unfold State.placeNow at e
  obtain ⟨j, _, e⟩ := Option.bind_eq_some_iff.mp e
  obtain ⟨g, _, e⟩ := Option.bind_eq_some_iff.mp e
  rcases ite_cases e with e | e
  · cases e
  · obtain ⟨u, v, hu, k, r⟩ := State.whole_some e h
    have h1 := State.graphBlocks_sound (a1 := j.atp) (a2 := g.blocks) hu
    refine r ?_
    rcases State.goOn_some k with rfl | k
    · exact h1
    · split at k
      · rcases Option.or_eq_some_iff.1 k with k | ⟨-, k⟩
        · exact State.placeRegion_sound h1 k
        · exact of_some k (State.pauseFor_sound h1)
      · cases k
theorem execRegionPlace_sound {a0} (h : s.Sound) (e : execRegionPlace a0 s = .next t) : t.Sound := by
  unfold execRegionPlace at e
  grind [sound_def, soundAt_write, soundAt_writeN, soundAt_setWord, soundAt_clear, soundAt_copy, soundAt_paste, soundAt_drop, sound_foldl, getD_cases, → State.placeNow_sound]
theorem State.loadArgs_sound {a1 a2 a3 a4} (h : s.Sound) : (State.loadArgs s a1 a2 a3 a4).1.Sound := by
  induction a3 generalizing s a4 with
  | nil => exact h
  | cons n ns ih =>
    unfold State.loadArgs
    split
    · exact h
    · dsimp only
      refine ih ?_
      split
      · rename_i r k
        exact State.unitWord_sound h (y0 := r.1) k
      · exact State.free_sound h
theorem State.startAs_sound {a1 a2 a3 a4} (h : s.Sound) : (State.startAs s a1 a2 a3 a4).Sound := by
  unfold State.startAs
  grind [sound_def, soundAt_write, soundAt_writeN, soundAt_setWord, soundAt_clear, soundAt_copy, soundAt_paste, soundAt_drop, sound_foldl, State.loadArgs_sound, State.updJob_sound, State.updRegion_sound, State.addCtx_sound, State.bump_sound]
theorem State.startItem_sound {a1 a2} (h : s.Sound) (e : State.startItem s a1 a2 = some t) : t.Sound := by
  unfold State.startItem at e
  grind [sound_def, soundAt_write, soundAt_writeN, soundAt_setWord, soundAt_clear, soundAt_copy, soundAt_paste, soundAt_drop, sound_foldl, Option.bind_eq_some_iff, → State.whole_some, Option.map_eq_some_iff, State.startAs_sound, → State.drawColour_sound, Option.bind_eq_some_iff, Option.map_eq_some_iff]
theorem execItemStart_sound {a0 a1} (h : s.Sound) (e : execItemStart a0 a1 s = .next t) : t.Sound := by
  unfold execItemStart at e
  grind [sound_def, soundAt_write, soundAt_writeN, soundAt_setWord, soundAt_clear, soundAt_copy, soundAt_paste, soundAt_drop, sound_foldl, getD_cases, → State.startItem_sound]
theorem State.finishItem_sound {a1 a2} (h : s.Sound) (e : State.finishItem s a1 a2 = some t) : t.Sound := by
  unfold State.finishItem at e
  grind [sound_def, soundAt_write, soundAt_writeN, soundAt_setWord, soundAt_clear, soundAt_copy, soundAt_paste, soundAt_drop, sound_foldl, Option.bind_eq_some_iff, → State.whole_some, → State.unitAdd_sound, State.chargeJob_sound, State.updJob_sound, Option.bind_eq_some_iff, Option.map_eq_some_iff]
theorem execItemFinish_sound {a0 a1} (h : s.Sound) (e : execItemFinish a0 a1 s = .next t) : t.Sound := by
  unfold execItemFinish at e
  grind [sound_def, soundAt_write, soundAt_writeN, soundAt_setWord, soundAt_clear, soundAt_copy, soundAt_paste, soundAt_drop, sound_foldl, getD_cases, → State.finishItem_sound]
theorem State.freeRegion_sound {a1} (h : s.Sound) : (State.freeRegion s a1).Sound := by
  unfold State.freeRegion
  grind [sound_def, soundAt_write, soundAt_writeN, soundAt_setWord, soundAt_clear, soundAt_copy, soundAt_paste, soundAt_drop, sound_foldl, State.markDying_sound, State.injectMarker_sound]
theorem State.freeRegions_sound {a1} (h : s.Sound) (e : State.freeRegions s a1 = some t) : t.Sound := by
  unfold State.freeRegions at e
  grind [sound_def, soundAt_write, soundAt_writeN, soundAt_setWord, soundAt_clear, soundAt_copy, soundAt_paste, soundAt_drop, sound_foldl, Option.bind_eq_some_iff, State.freeRegion_sound, Option.bind_eq_some_iff, Option.map_eq_some_iff]
theorem execRegionFree_sound {a0} (h : s.Sound) (e : execRegionFree a0 s = .next t) : t.Sound := by
  unfold execRegionFree at e
  grind [sound_def, soundAt_write, soundAt_writeN, soundAt_setWord, soundAt_clear, soundAt_copy, soundAt_paste, soundAt_drop, sound_foldl, getD_cases, → State.freeRegions_sound]
theorem State.recordRead_sound {a1} (h : s.Sound) : (State.recordRead s a1).Sound := by
  unfold State.recordRead
  grind [sound_def, soundAt_write, soundAt_writeN, soundAt_setWord, soundAt_clear, soundAt_copy, soundAt_paste, soundAt_drop, sound_foldl, State.updJob_sound]
theorem State.recordNow_sound {a1} (h : s.Sound) (e : State.recordNow s a1 = some t) : t.Sound := by
  unfold State.recordNow at e
  grind [sound_def, soundAt_write, soundAt_writeN, soundAt_setWord, soundAt_clear, soundAt_copy, soundAt_paste, soundAt_drop, sound_foldl, Option.bind_eq_some_iff, State.refuse_sound, State.recordRead_sound, State.reply_sound, Option.bind_eq_some_iff, Option.map_eq_some_iff]
theorem execJobRecordRead_sound {a0} (h : s.Sound) (e : execJobRecordRead a0 s = .next t) : t.Sound := by
  unfold execJobRecordRead at e
  grind [sound_def, soundAt_write, soundAt_writeN, soundAt_setWord, soundAt_clear, soundAt_copy, soundAt_paste, soundAt_drop, sound_foldl, getD_cases, → State.recordNow_sound]
theorem State.listNow_sound {a1} (h : s.Sound) (e : State.listNow s a1 = some t) : t.Sound := by
  unfold State.listNow at e
  grind [sound_def, soundAt_write, soundAt_writeN, soundAt_setWord, soundAt_clear, soundAt_copy, soundAt_paste, soundAt_drop, sound_foldl, Option.bind_eq_some_iff, State.refuse_sound, State.reply_sound, Option.bind_eq_some_iff, Option.map_eq_some_iff]
theorem execRegionList_sound {a0} (h : s.Sound) (e : execRegionList a0 s = .next t) : t.Sound := by
  unfold execRegionList at e
  grind [sound_def, soundAt_write, soundAt_writeN, soundAt_setWord, soundAt_clear, soundAt_copy, soundAt_paste, soundAt_drop, sound_foldl, getD_cases, → State.listNow_sound]
theorem State.placeServers_sound (h : s.Sound) : (State.placeServers s).Sound := by
  unfold State.placeServers
  grind [sound_def, soundAt_write, soundAt_writeN, soundAt_setWord, soundAt_clear, soundAt_copy, soundAt_paste, soundAt_drop, sound_foldl]
theorem State.hubStart_sound {a1 a2 a3 a4 a5} (h : s.Sound) (e : State.hubStart s a1 a2 a3 a4 a5 = some t) : t.Sound := by
  unfold State.hubStart at e
  dsimp only at e
  rcases ite_cases e with e | e
  · cases e
  · obtain ⟨⟨s1, num⟩, k, e⟩ := Option.bind_eq_some_iff.mp e
    obtain ⟨⟨s2, c⟩, k2, rfl⟩ := Option.map_eq_some_iff.mp e
    have h1 : s1.Sound := by
      split at k
      · rcases ite_cases k with k | k
        · cases k
        · rcases ite_cases k with k | k
          · cases k; exact h
          · obtain ⟨⟨u, sp⟩, k3, k⟩ := Option.map_eq_some_iff.mp k
            cases k
            exact State.updRegion_sound (State.spillObject_sound h k3 : u.Sound)
      · obtain ⟨n, _, k⟩ := Option.bind_eq_some_iff.mp k
        obtain ⟨⟨u, sp⟩, k3, k⟩ := Option.map_eq_some_iff.mp k
        cases k
        exact (State.spillObject_sound h k3 : u.Sound)
    exact (State.drawColour_sound h1 k2 : s2.Sound)
theorem State.readFault_sound {a1} (h : s.Sound) (e : State.readFault s a1 = some t) : t.Sound := by
  unfold State.readFault at e
  split at e
  · dsimp only at e
    have h1 : ∀ ns j c, State.Sound (({ s with faults := { s.faults with
        queues := updAt s.faults.queues a1 (fun l => l.drop 1), notes := ns } } : State).chargeJob j c) :=
      fun ns j c => State.chargeJob_sound (soundAt_drop h)
    split at e
    · exact of_some e (h1 _ _ _)
    · split at e
      · exact of_some e (h1 _ _ _)
      · rcases ite_cases e with e | e
        · exact of_some e (State.endCtx_sound (h1 _ _ _))
        · exact of_some e (State.enqueueMsg_sound (h1 _ _ _))
  · cases e
theorem State.readUntil_sound {a1 a2 a3} (h : s.Sound) (e : State.readUntil s a1 a2 a3 = some t) : t.Sound := by
  induction a3 generalizing s with
  | zero => cases e
  | succ n ih =>
    simp only [State.readUntil] at e
    split at e
    · cases e
    · split at e
      · obtain ⟨u, k, e⟩ := Option.bind_eq_some_iff.mp e
        exact ih (State.readFault_sound h k) e
      · rcases ite_cases e with e | e
        · exact State.readFault_sound h e
        · cases e
theorem State.reportHalt_sound {a1} (h : s.Sound) (e : State.reportHalt s a1 = some t) : t.Sound := by
  unfold State.reportHalt at e
  grind [sound_def, soundAt_write, soundAt_writeN, soundAt_setWord, soundAt_clear, soundAt_copy, soundAt_paste, soundAt_drop, sound_foldl, State.endCtx_sound, → State.readUntil_sound, Option.bind_eq_some_iff, Option.map_eq_some_iff]
theorem execHaltReport_sound {a0} (h : s.Sound) (e : execHaltReport a0 s = .next t) : t.Sound := by
  unfold execHaltReport at e
  grind [sound_def, soundAt_write, soundAt_writeN, soundAt_setWord, soundAt_clear, soundAt_copy, soundAt_paste, soundAt_drop, sound_foldl, getD_cases, → State.reportHalt_sound]
theorem State.resumeHalted_sound {a1} (h : s.Sound) (e : State.resumeHalted s a1 = some t) : t.Sound := by
  unfold State.resumeHalted at e
  grind [sound_def, soundAt_write, soundAt_writeN, soundAt_setWord, soundAt_clear, soundAt_copy, soundAt_paste, soundAt_drop, sound_foldl, State.keepSaved_sound, Option.bind_eq_some_iff, → State.drawColour_sound, → State.restoreCtx_sound, → State.goOn_some, State.unsave_sound, Option.bind_eq_some_iff, Option.map_eq_some_iff]
theorem State.actNow_sound {a1} (h : s.Sound) (e : State.actNow s a1 = some t) : t.Sound := by
  unfold State.actNow at e
  obtain ⟨m, _, e⟩ := Option.bind_eq_some_iff.mp e
  rcases ite_cases e with e | e
  · cases e
  · dsimp only at e
    split at e
    · exact of_some e (State.refuse_sound h)
    · rcases ite_cases e with e | e
      · exact of_some e (State.refuse_sound h)
      · rcases ite_cases e with e | e
        · exact of_some e (State.reply_sound (State.endCtx_sound h))
        · rcases ite_cases e with e | e
          · split at e
            · rcases ite_cases e with e | e
              · cases e
              · rcases ite_cases e with e | e
                · exact of_some e (State.refuse_sound h)
                · obtain ⟨u, v, hu, k, r⟩ := State.whole_some e h
                  refine r ?_
                  obtain ⟨w, k1, k⟩ := Option.bind_eq_some_iff.mp k
                  have h1 := State.resumeHalted_sound hu k1
                  rcases State.goOn_some k with rfl | k
                  · exact h1
                  · exact of_some k (State.reply_sound h1)
            · exact of_some e (State.refuse_sound h)
          · exact of_some e (State.refuse_sound h)
theorem execHaltAction_sound {a0} (h : s.Sound) (e : execHaltAction a0 s = .next t) : t.Sound := by
  unfold execHaltAction at e
  grind [sound_def, soundAt_write, soundAt_writeN, soundAt_setWord, soundAt_clear, soundAt_copy, soundAt_paste, soundAt_drop, sound_foldl, getD_cases, → State.actNow_sound]
theorem State.updLink_sound {a1 a2} (h : s.Sound) : (State.updLink s a1 a2).Sound := by
  unfold State.updLink
  grind [sound_def, soundAt_write, soundAt_writeN, soundAt_setWord, soundAt_clear, soundAt_copy, soundAt_paste, soundAt_drop, sound_foldl]
theorem State.hostRefused_sound {a1} (h : s.Sound) : (State.hostRefused s a1).Sound := by
  unfold State.hostRefused
  grind [sound_def, soundAt_write, soundAt_writeN, soundAt_setWord, soundAt_clear, soundAt_copy, soundAt_paste, soundAt_drop, sound_foldl, State.updLink_sound]
theorem State.hostAnswer_sound {a1 a2} (h : s.Sound) : (State.hostAnswer s a1 a2).Sound := by
  unfold State.hostAnswer
  grind [sound_def, soundAt_write, soundAt_writeN, soundAt_setWord, soundAt_clear, soundAt_copy, soundAt_paste, soundAt_drop, sound_foldl, State.updLink_sound]
theorem State.hostReadFails_sound {a1 a2} (h : s.Sound) : (State.hostReadFails s a1 a2).Sound := by
  unfold State.hostReadFails
  grind [sound_def, soundAt_write, soundAt_writeN, soundAt_setWord, soundAt_clear, soundAt_copy, soundAt_paste, soundAt_drop, sound_foldl, State.hostAnswer_sound, State.hostRefused_sound]
theorem State.setOwner_sound {a1} (h : s.Sound) : (State.setOwner s a1).Sound := by
  unfold State.setOwner
  grind [sound_def, soundAt_write, soundAt_writeN, soundAt_setWord, soundAt_clear, soundAt_copy, soundAt_paste, soundAt_drop, sound_foldl]
theorem State.takeRegion_sound {a1 a2} (h : s.Sound) (e : State.takeRegion s a1 a2 = some t) : t.Sound := by
  unfold State.takeRegion at e
  grind [sound_def, soundAt_write, soundAt_writeN, soundAt_setWord, soundAt_clear, soundAt_copy, soundAt_paste, soundAt_drop, sound_foldl, State.setOwner_sound]
theorem State.takeRegions_sound {a1 a2 a3} (h : s.Sound) (e : State.takeRegions s a1 a2 a3 = some t) : t.Sound := by
  unfold State.takeRegions at e
  have := foldl_inv (P := fun (o : Option State) => ∀ u, o = some u → u.Sound) (l := regionsAt a2 a3)
    (f := fun t wr => t.bind fun u => u.takeRegion a1 wr) (b := some s)
    (fun o wr ho u k => by
      obtain ⟨v, k1, k2⟩ := Option.bind_eq_some_iff.mp k
      exact State.takeRegion_sound (ho v k1) k2)
    (fun u k => of_some k h)
  exact this t e
theorem State.inRegions_sound {a1 a2 a3} {f : State → State} (hf : ∀ u : State, u.Sound → (f u).Sound) (h : s.Sound) :
    (State.inRegions s a1 a2 a3 f).Sound := by
  unfold State.inRegions
  split
  · exact h
  · refine sound_getD (State.pauseFor_sound h) fun u k => ?_
    obtain ⟨v, k1, rfl⟩ := Option.map_eq_some_iff.mp k
    exact hf v (State.takeRegions_sound h k1)
theorem State.counterRead_sound {a1 a2 a3 a4} (h : s.Sound) : (State.counterRead s a1 a2 a3 a4).Sound := by
  unfold State.counterRead
  split
  · exact State.hostReadFails_sound h
  · split
    · exact State.hostReadFails_sound h
    · refine State.inRegions_sound (fun u hu => ?_) (State.unitLocate_sound h ‹_›)
      split
      · exact State.hostAnswer_sound (State.readBy_sound hu ‹_›)
      · exact State.hostReadFails_sound hu
theorem State.counterWrite_sound {a1 a2 a3 a4 a5} (h : s.Sound) : (State.counterWrite s a1 a2 a3 a4 a5).Sound := by
  unfold State.counterWrite
  split
  · exact State.hostRefused_sound h
  · split
    · exact State.hostRefused_sound h
    · exact State.inRegions_sound (fun u hu => hu) (State.unitAdd_sound h ‹_›)
theorem State.dataRead_sound {a1 a2 a3 a4} (h : s.Sound) : (State.dataRead s a1 a2 a3 a4).Sound := by
  unfold State.dataRead
  split
  · exact State.hostReadFails_sound h
  · refine State.inRegions_sound (fun u hu => ?_) (State.unitLocate_sound h ‹_›)
    split
    · exact State.hostAnswer_sound (State.readAt_sound hu ‹_›)
    · exact State.hostReadFails_sound hu
theorem State.dataWrite_sound {a1 a2 a3 a4 a5} (h : s.Sound) : (State.dataWrite s a1 a2 a3 a4 a5).Sound := by
  unfold State.dataWrite
  split
  · exact State.hostRefused_sound h
  · refine State.inRegions_sound (fun u hu => ?_) (State.unitLocate_sound h ‹_›)
    split
    · exact State.writeAt_sound hu ‹_›
    · exact State.hostRefused_sound hu
theorem State.hostPerform_sound {a1 a2 a3} (h : s.Sound) : (State.hostPerform s a1 a2 a3).Sound := by
  unfold State.hostPerform
  repeat' split
  · exact State.counterRead_sound h
  · exact State.counterWrite_sound h
  · exact State.dataRead_sound h
  · exact State.dataWrite_sound h
theorem State.hostNext_sound {a1} (h : s.Sound) (e : State.hostNext s a1 = some t) : t.Sound := by
  unfold State.hostNext at e
  split at e
  · cases e
  · split at e
    · cases e
    · simp only [State.onLink] at e
      obtain ⟨u, v, hu, k, r⟩ := State.whole_some e h
      exact r (of_some k (State.updLink_sound (State.hostPerform_sound hu)))
theorem State.windowAccess_sound {a1 a2 a3 a4} (h : s.Sound) (e : State.windowAccess s a1 a2 a3 a4 = some t) : t.Sound := by
  unfold State.windowAccess at e
  grind [sound_def, soundAt_write, soundAt_writeN, soundAt_setWord, soundAt_clear, soundAt_copy, soundAt_paste, soundAt_drop, sound_foldl, getD_cases, Option.map_eq_some_iff, State.updLink_sound, → State.hostNext_sound]
theorem execHostWindowAccess_sound {a0 a1 a2 a3} (h : s.Sound) (e : execHostWindowAccess a0 a1 a2 a3 s = .next t) : t.Sound := by
  unfold execHostWindowAccess at e
  grind [sound_def, soundAt_write, soundAt_writeN, soundAt_setWord, soundAt_clear, soundAt_copy, soundAt_paste, soundAt_drop, sound_foldl, getD_cases, → State.windowAccess_sound]
theorem State.counterAccess_sound {a1 a2 a3 a4} (h : s.Sound) (e : State.counterAccess s a1 a2 a3 a4 = some t) : t.Sound := by
  unfold State.counterAccess at e
  grind [sound_def, soundAt_write, soundAt_writeN, soundAt_setWord, soundAt_clear, soundAt_copy, soundAt_paste, soundAt_drop, sound_foldl, → State.windowAccess_sound]
theorem execHostCounterRead_sound {a0 a1 a2} (h : s.Sound) (e : execHostCounterRead a0 a1 a2 s = .next t) : t.Sound := by
  unfold execHostCounterRead at e
  grind [sound_def, soundAt_write, soundAt_writeN, soundAt_setWord, soundAt_clear, soundAt_copy, soundAt_paste, soundAt_drop, sound_foldl, getD_cases, → State.counterAccess_sound]
theorem execHostCounterWrite_sound {a0 a1 a2 a3} (h : s.Sound) (e : execHostCounterWrite a0 a1 a2 a3 s = .next t) : t.Sound := by
  unfold execHostCounterWrite at e
  grind [sound_def, soundAt_write, soundAt_writeN, soundAt_setWord, soundAt_clear, soundAt_copy, soundAt_paste, soundAt_drop, sound_foldl, getD_cases, → State.counterAccess_sound]
theorem State.snoop_sound {a1 a2 a3} (h : s.Sound) (e : State.snoop s a1 a2 a3 = some t) : t.Sound := by
  unfold State.snoop at e
  grind [sound_def, soundAt_write, soundAt_writeN, soundAt_setWord, soundAt_clear, soundAt_copy, soundAt_paste, soundAt_drop, sound_foldl, State.setOwner_sound]
theorem execBackInvalidate_sound {a0 a1 a2} (h : s.Sound) (e : execBackInvalidate a0 a1 a2 s = .next t) : t.Sound := by
  unfold execBackInvalidate at e
  grind [sound_def, soundAt_write, soundAt_writeN, soundAt_setWord, soundAt_clear, soundAt_copy, soundAt_paste, soundAt_drop, sound_foldl, getD_cases, → State.snoop_sound]
theorem State.writeBackByte_sound {a0 a1 a2 a4} (h : s.Sound) : (State.writeBackByte a0 a1 a2 s a4).Sound := by
  unfold State.writeBackByte
  split
  · exact h
  · split
    · exact h
    · split
      · rename_i k; exact State.unitWrite_sound h k
      · exact State.hostRefused_sound h
theorem State.snoopDone_sound {a1 a2 a3 a4} (h : s.Sound) (e : State.snoopDone s a1 a2 a3 a4 = some t) : t.Sound := by
  unfold State.snoopDone at e
  dsimp only at e
  rcases ite_cases e with e | e
  · obtain ⟨u, v, hu, k, r⟩ := State.whole_some e h
    exact r (of_some k (sound_foldl (fun _ _ k => State.writeBackByte_sound k) (State.setOwner_sound hu)))
  · cases e
theorem execBackInvalidateComplete_sound {a0 a1 a2 a3} (h : s.Sound) (e : execBackInvalidateComplete a0 a1 a2 a3 s = .next t) : t.Sound := by
  unfold execBackInvalidateComplete at e
  grind [sound_def, soundAt_write, soundAt_writeN, soundAt_setWord, soundAt_clear, soundAt_copy, soundAt_paste, soundAt_drop, sound_foldl, getD_cases, → State.snoopDone_sound]
theorem State.holdOver_sound {a1 a2 a3} (h : s.Sound) (e : State.holdOver s a1 a2 a3 = some t) : t.Sound := by
  unfold State.holdOver at e
  grind [sound_def, soundAt_write, soundAt_writeN, soundAt_setWord, soundAt_clear, soundAt_copy, soundAt_paste, soundAt_drop, sound_foldl, State.setOwner_sound]
theorem execOwnerHoldExpire_sound {a0 a1 a2} (h : s.Sound) (e : execOwnerHoldExpire a0 a1 a2 s = .next t) : t.Sound := by
  unfold execOwnerHoldExpire at e
  grind [sound_def, soundAt_write, soundAt_writeN, soundAt_setWord, soundAt_clear, soundAt_copy, soundAt_paste, soundAt_drop, sound_foldl, getD_cases, → State.holdOver_sound]
theorem State.hostSubmit_sound {a1 a2} (h : s.Sound) : (State.hostSubmit s a1 a2).Sound := by
  unfold State.hostSubmit
  grind [sound_def, soundAt_write, soundAt_writeN, soundAt_setWord, soundAt_clear, soundAt_copy, soundAt_paste, soundAt_drop, sound_foldl, State.submit_sound, State.updLink_sound]
theorem State.makeCode_sound {a1 a2} (h : s.Sound) (e : State.makeCode s a1 a2 = some (t, y1)) : t.Sound := by
  unfold State.makeCode at e
  grind [sound_def, soundAt_write, soundAt_writeN, soundAt_setWord, soundAt_clear, soundAt_copy, soundAt_paste, soundAt_drop, sound_foldl, → State.unitRead_sound, → State.createImage_sound, Option.bind_eq_some_iff, Option.map_eq_some_iff]
theorem State.bindCode_sound {a1 a2} (h : s.Sound) (e : State.bindCode s a1 a2 = some t) : t.Sound := by
  unfold State.bindCode at e
  obtain ⟨d, _, e⟩ := Option.bind_eq_some_iff.mp e
  rcases ite_cases e with e | e
  · simp at e
  · obtain ⟨u, k, e⟩ := Option.map_eq_some_iff.mp e
    have h1 := State.writeAperture_sound h k
    rw [← e]
    split
    · exact State.markDying_sound h1
    · exact h1
theorem State.imageRead_sound {a1 a2 a3} (h : s.Sound) : (State.imageRead s a1 a2 a3).Sound := by
  unfold State.imageRead
  grind [sound_def, soundAt_write, soundAt_writeN, soundAt_setWord, soundAt_clear, soundAt_copy, soundAt_paste, soundAt_drop, sound_foldl, → State.makeCode_sound, State.updLink_sound]
theorem State.bindDone_sound {a1 a2 a3} (h : s.Sound) : (State.bindDone s a1 a2 a3).Sound := by
  unfold State.bindDone
  refine State.updLink_sound ?_
  split
  · rename_i k
    obtain ⟨x, _, k⟩ := Option.bind_eq_some_iff.mp k
    exact State.updLink_sound (State.bindCode_sound h k)
  · refine State.updLink_sound ?_
    split
    · exact State.markDying_sound h
    · exact h
theorem State.linkWork_sound {a1} (h : s.Sound) (e : State.linkWork s a1 = some t) : t.Sound := by
  have key : ∀ {f : State → State}, (∀ u : State, u.Sound → (f u).Sound) →
      (s.whole (.server a1) 507904 false fun t => some (f t)) = some t → t.Sound := by
    intro f hf e
    obtain ⟨u, v, hu, k, r⟩ := State.whole_some e h
    exact r (of_some k (hf u hu))
  unfold State.linkWork at e
  split at e
  · cases e
  · dsimp only at e
    split at e
    · exact key (fun u hu => State.imageRead_sound hu) e
    · exact key (fun u hu => State.bindDone_sound hu) e
    · exact key (fun u hu => State.updLink_sound (State.hostSubmit_sound hu)) e
    · cases e
theorem execCodeBindComplete_sound {a0} (h : s.Sound) (e : execCodeBindComplete a0 s = .next t) : t.Sound := by
  unfold execCodeBindComplete at e
  grind [sound_def, soundAt_write, soundAt_writeN, soundAt_setWord, soundAt_clear, soundAt_copy, soundAt_paste, soundAt_drop, sound_foldl, getD_cases, → State.linkWork_sound]
theorem State.launchWrite_sound {a1 a2} (h : s.Sound) (e : State.launchWrite s a1 a2 = some t) : t.Sound := by
  unfold State.launchWrite at e
  obtain ⟨l, _, rfl⟩ := Option.map_eq_some_iff.mp e
  have h1 := fun f => State.updLink_sound (a1 := a1) (a2 := f) h
  dsimp only
  split
  · exact h1 _
  · exact sound_getD (h1 _) fun u k => State.linkWork_sound (h1 _) k
theorem execHostLaunchWrite_sound {a0 a1} (h : s.Sound) (e : execHostLaunchWrite a0 a1 s = .next t) : t.Sound := by
  unfold execHostLaunchWrite at e
  grind [sound_def, soundAt_write, soundAt_writeN, soundAt_setWord, soundAt_clear, soundAt_copy, soundAt_paste, soundAt_drop, sound_foldl, getD_cases, → State.launchWrite_sound]
theorem State.codeWrite_sound {a1 a2} (h : s.Sound) (e : State.codeWrite s a1 a2 = some t) : t.Sound := by
  unfold State.codeWrite at e
  obtain ⟨l, _, e⟩ := Option.bind_eq_some_iff.mp e
  rcases ite_cases e with e | e
  · cases e
  · have h1 := fun f => State.updLink_sound (a1 := a1) (a2 := f) h
    exact of_some e (sound_getD (h1 _) fun u k => State.linkWork_sound (h1 _) k)
theorem execHostCodeWrite_sound {a0 a1} (h : s.Sound) (e : execHostCodeWrite a0 a1 s = .next t) : t.Sound := by
  unfold execHostCodeWrite at e
  grind [sound_def, soundAt_write, soundAt_writeN, soundAt_setWord, soundAt_clear, soundAt_copy, soundAt_paste, soundAt_drop, sound_foldl, getD_cases, → State.codeWrite_sound]
theorem State.regWrite_sound {a1 a2 a3} (h : s.Sound) (e : State.regWrite s a1 a2 a3 = some t) : t.Sound := by
  unfold State.regWrite at e
  grind [sound_def, soundAt_write, soundAt_writeN, soundAt_setWord, soundAt_clear, soundAt_copy, soundAt_paste, soundAt_drop, sound_foldl, → State.launchWrite_sound, → State.codeWrite_sound, State.updLink_sound]
theorem execHostRegWrite_sound {a0 a1 a2} (h : s.Sound) (e : execHostRegWrite a0 a1 a2 s = .next t) : t.Sound := by
  unfold execHostRegWrite at e
  grind [sound_def, soundAt_write, soundAt_writeN, soundAt_setWord, soundAt_clear, soundAt_copy, soundAt_paste, soundAt_drop, sound_foldl, getD_cases, → State.regWrite_sound]
theorem State.peerWord_sound {a d} {f : Word → State → State} (hf : ∀ v (u : State), u.Sound → (f v u).Sound) (h : s.Sound) : (State.peerWord s a d f).Sound := by
  unfold State.peerWord
  split
  · exact State.peerFaults_sound h
  · rename_i k; exact hf _ _ (State.readNow_sound h k)
theorem State.persistLines_sound {a1 a2 a3} (h : s.Sound) : (State.persistLines s a1 a2 a3).Sound := by
  induction a2 generalizing s a3 with
  | zero => exact h
  | succ n ih =>
    simp only [State.persistLines]
    refine ih ?_
    split
    · split
      · exact State.writeLine_sound h
      · exact h
    · exact h
theorem State.peerPasses_sound {a1 a2} (h : s.Sound) : (State.peerPasses s a1 a2).Sound := by
  unfold State.peerPasses
  grind [sound_def, soundAt_write, soundAt_writeN, soundAt_setWord, soundAt_clear, soundAt_copy, soundAt_paste, soundAt_drop, sound_foldl, State.toPeer_sound]
theorem State.storeParts_sound {a1 a2 a3} (h : s.Sound) (e : State.storeParts s a1 a2 a3 = .ok t) : t.Sound := by
  induction a3 generalizing s with
  | nil => simp only [State.storeParts] at e; grind
  | cons p ps ih => obtain ⟨o, bs⟩ := p; simp only [State.storeParts] at e; grind [→ State.writeNow_sound]
theorem State.warmPages_sound {a1 a2 a3 a4 a5} (h : s.Sound) : (State.warmPages s a1 a2 a3 a4 a5).Sound := by
  induction a5 generalizing s a4 with
  | zero => exact h
  | succ n ih =>
    simp only [State.warmPages]
    split
    · exact h
    · split
      · exact h
      · have h1 := State.leafFor_sound h ‹_›
        split
        · exact h
        · refine ih ?_
          split
          · exact sound_getD h1 fun u k => State.startFill_sound h1 k
          · exact h1
theorem State.peerPerform_sound {a1 a2} (h : s.Sound) : (State.peerPerform s a1 a2).Sound := by
  unfold State.peerPerform
  grind [sound_def, soundAt_write, soundAt_writeN, soundAt_setWord, soundAt_clear, soundAt_copy, soundAt_paste, soundAt_drop, sound_foldl, State.peerFaults_sound, State.peerPasses_sound, → State.readNow_sound, State.peerReply_sound, → State.writeNow_sound, State.peerWord_sound, → State.register_sound, → State.storeParts_sound, State.warmPages_sound, State.persistLines_sound, State.markDying_sound]
theorem State.noteServed_sound {a1} (h : s.Sound) : (State.noteServed s a1).Sound := by
  unfold State.noteServed
  grind [sound_def, soundAt_write, soundAt_writeN, soundAt_setWord, soundAt_clear, soundAt_copy, soundAt_paste, soundAt_drop, sound_foldl]
theorem State.peerAct_sound {a1 a2} (h : s.Sound) (e : State.peerAct s a1 a2 = some (t, y1)) : t.Sound := by
  have key : ∀ {o : Option State}, (∀ u, o = some u → u.Sound) → o.map (fun t => (t, (none : Option Nat))) = some (t, y1) → t.Sound := by
    intro o hs k
    obtain ⟨u, hu, r⟩ := Option.map_eq_some_iff.mp k
    have := (Prod.mk.inj r).1
    exact this ▸ hs u hu
  have own : ∀ {n : Option Nat}, some (s.peerPerform a1 a2, n) = some (t, y1) → t.Sound := by
    intro n k
    have := (Prod.mk.inj (Option.some.inj k)).1
    exact this ▸ State.peerPerform_sound h
  have waits : ∀ {b : Bool}, (if b then none
      else (s.whole (.acc a1.id) a1.slack a1.late fun t => some (t.peerPerform a1 a2)).map fun t => (t, (none : Option Nat))) =
      some (t, y1) → t.Sound := by
    intro b e
    rcases ite_cases e with e | e
    · cases e
    · refine key (fun u k => ?_) e
      obtain ⟨v, w, hv, k, r⟩ := State.whole_some k h
      exact r (of_some k (State.peerPerform_sound hv))
  cases hop : a1.op
  all_goals simp only [State.peerAct, hop] at e
  case add => exact key (fun u k => State.counterStep_sound h k) e
  case persist =>
    rcases ite_cases e with e | e
    · cases e
    · exact own e
  case promote =>
    rcases ite_cases e with e | e
    · exact own e
    · cases e
  all_goals first
    | exact own e
    | exact waits e
theorem State.passName_sound {a1} (h : s.Sound) : (State.passName s a1).Sound := by
  unfold State.passName
  grind [sound_def, soundAt_write, soundAt_writeN, soundAt_setWord, soundAt_clear, soundAt_copy, soundAt_paste, soundAt_drop, sound_foldl, State.noteServed_sound]
theorem State.peerServe_sound {a1} (h : s.Sound) (e : State.peerServe s a1 = some (t, y1)) : t.Sound := by
  unfold State.peerServe at e
  rcases ite_cases e with e | e
  · cases e
  · split at e
    · have h1 := State.passName_sound (a1 := a1) h
      rcases Option.or_eq_some_iff.1 e with e | ⟨-, e⟩
      · exact State.peerAct_sound h1 e
      · rcases ite_cases e with e | e
        · cases e
        · cases e; exact h1
    · split at e
      · exact State.peerAct_sound h e
      · have := (Prod.mk.inj (Option.some.inj e)).1
        subst this
        split
        · exact State.peerReply_sound h
        · split
          · exact State.peerAnswers_sound h
          · exact State.peerFaults_sound h
theorem execPeerAccess_sound {a0 a1} (h : s.Sound) (e : execPeerAccess a0 a1 s = .next t) : t.Sound := by
  unfold execPeerAccess at e
  split at e
  · cases e; exact h
  · cases e
  · rename_i k
    obtain ⟨a, _, k⟩ := List.exists_of_findSome?_eq_some k
    cases e
    exact State.peerServe_sound h k
theorem State.lanesSettle_sound {a1} (h : s.Sound) : (State.lanesSettle s a1).Sound := by
  unfold State.lanesSettle
  grind [sound_def, soundAt_write, soundAt_writeN, soundAt_setWord, soundAt_clear, soundAt_copy, soundAt_paste, soundAt_drop, sound_foldl, State.reqFault_sound, State.giveUp_sound]
theorem State.laneFails_sound {a1 a2 a3 a4} (h : s.Sound) : (State.laneFails s a1 a2 a3 a4).Sound := by
  unfold State.laneFails
  grind [sound_def, soundAt_write, soundAt_writeN, soundAt_setWord, soundAt_clear, soundAt_copy, soundAt_paste, soundAt_drop, sound_foldl, State.updReq_sound, State.updPiece_sound, State.lanesSettle_sound, State.peerProbe_sound]
theorem State.pieceAnswered_sound {a1 a2 a3 a4} (h : s.Sound) : (State.pieceAnswered s a1 a2 a3 a4).Sound := by
  unfold State.pieceAnswered
  grind [sound_def, soundAt_write, soundAt_writeN, soundAt_setWord, soundAt_clear, soundAt_copy, soundAt_paste, soundAt_drop, sound_foldl, State.serve_sound, State.updPiece_sound, State.lsidDone_sound, State.lanesSettle_sound, State.dropReq_sound, State.updReq_sound, State.drained_sound, State.answer_sound, State.loadPiece_sound, State.writeDone_sound]
theorem State.awayAnswered_sound {a1 a2} (h : s.Sound) : (State.awayAnswered s a1 a2).Sound := by
  unfold State.awayAnswered
  grind [sound_def, soundAt_write, soundAt_writeN, soundAt_setWord, soundAt_clear, soundAt_copy, soundAt_paste, soundAt_drop, sound_foldl]
theorem State.wakeTask_sound {a1 a2} (h : s.Sound) : (State.wakeTask s a1 a2).Sound := by
  unfold State.wakeTask
  grind [sound_def, soundAt_write, soundAt_writeN, soundAt_setWord, soundAt_clear, soundAt_copy, soundAt_paste, soundAt_drop, sound_foldl, State.updTask_sound, State.bump_sound, getD_cases, Option.map_eq_some_iff]
theorem State.peerReplied_sound {a1 a2 a3 a4 a5} (h : s.Sound) : (State.peerReplied s a1 a2 a3 a4 a5).Sound := by
  unfold State.peerReplied
  grind [sound_def, soundAt_write, soundAt_writeN, soundAt_setWord, soundAt_clear, soundAt_copy, soundAt_paste, soundAt_drop, sound_foldl, State.awayAnswered_sound, State.updTask_sound, State.wakeTask_sound, State.pieceAnswered_sound, State.updReq_sound]
theorem State.pieceFaulted_sound {a1 a2 a3 a4} (h : s.Sound) : (State.pieceFaulted s a1 a2 a3 a4).Sound := by
  unfold State.pieceFaulted
  grind [sound_def, soundAt_write, soundAt_writeN, soundAt_setWord, soundAt_clear, soundAt_copy, soundAt_paste, soundAt_drop, sound_foldl, State.updPiece_sound, State.updReq_sound, State.dropReq_sound, State.serve_sound, State.chargeAny_sound, State.drained_sound, State.writeDone_sound, State.laneFails_sound]
theorem State.peerFaulted_sound {a1 a2 a3} (h : s.Sound) : (State.peerFaulted s a1 a2 a3).Sound := by
  unfold State.peerFaulted
  grind [sound_def, soundAt_write, soundAt_writeN, soundAt_setWord, soundAt_clear, soundAt_copy, soundAt_paste, soundAt_drop, sound_foldl, State.chargeAny_sound, State.awayAnswered_sound, State.updTask_sound, State.deadTask_sound, State.pieceFaulted_sound]
theorem State.nameGone_sound {a1 a2 a3} (h : s.Sound) : (State.nameGone s a1 a2 a3).Sound := by
  unfold State.nameGone
  grind [sound_def, soundAt_write, soundAt_writeN, soundAt_setWord, soundAt_clear, soundAt_copy, soundAt_paste, soundAt_drop, sound_foldl, State.awayAnswered_sound, State.deadTask_sound, State.deadAcquire_sound]
theorem State.deliver_sound {a1 a2} (h : s.Sound) : (State.deliver s a1 a2).Sound := by
  unfold State.deliver
  grind [sound_def, soundAt_write, soundAt_writeN, soundAt_setWord, soundAt_clear, soundAt_copy, soundAt_paste, soundAt_drop, sound_foldl, State.bump_sound, State.peerReplied_sound, State.peerFaulted_sound, State.nameGone_sound]
theorem State.deliverEarly_sound {a1 a2} (h : s.Sound) : (State.deliverEarly s a1 a2).Sound := by
  induction a2 generalizing s with
  | zero => exact h
  | succ n ih =>
    simp only [State.deliverEarly]
    split
    · exact h
    · refine ih (State.deliver_sound ?_)
      exact h
theorem State.receive_sound {a1 a2 a3} (h : s.Sound) : (State.receive s a1 a2 a3).Sound := by
  unfold State.receive
  grind [sound_def, soundAt_write, soundAt_writeN, soundAt_setWord, soundAt_clear, soundAt_copy, soundAt_paste, soundAt_drop, sound_foldl, State.deliverEarly_sound]
theorem execPeerPacketReceive_sound {a0 a1 a2} (h : s.Sound) (e : execPeerPacketReceive a0 a1 a2 s = .next t) : t.Sound := by
  unfold execPeerPacketReceive at e
  grind [sound_def, soundAt_write, soundAt_writeN, soundAt_setWord, soundAt_clear, soundAt_copy, soundAt_paste, soundAt_drop, sound_foldl, State.receive_sound]
theorem State.loseRequest_sound {a0 a2} (h : s.Sound) : (State.loseRequest a0 s a2).Sound := by
  unfold State.loseRequest
  grind [sound_def, soundAt_write, soundAt_writeN, soundAt_setWord, soundAt_clear, soundAt_copy, soundAt_paste, soundAt_drop, sound_foldl, State.pieceFaulted_sound, State.peerFault_sound]
theorem State.losePeer_sound {a1} (h : s.Sound) : (State.losePeer s a1).Sound := by
  unfold State.losePeer
  grind [sound_def, soundAt_write, soundAt_writeN, soundAt_setWord, soundAt_clear, soundAt_copy, soundAt_paste, soundAt_drop, sound_foldl, State.degrade_sound, State.loseRequest_sound, State.chargeAny_sound, State.deadTask_sound]
theorem State.resend_sound {a1 a2} (h : s.Sound) : (State.resend s a1 a2).Sound := by
  unfold State.resend
  grind [sound_def, soundAt_write, soundAt_writeN, soundAt_setWord, soundAt_clear, soundAt_copy, soundAt_paste, soundAt_drop, sound_foldl, State.losePeer_sound]
theorem State.sack_sound {a1 a2 a3} (h : s.Sound) : (State.sack s a1 a2 a3).Sound := by
  unfold State.sack
  grind [sound_def, soundAt_write, soundAt_writeN, soundAt_setWord, soundAt_clear, soundAt_copy, soundAt_paste, soundAt_drop, sound_foldl, State.resend_sound]
theorem execSack_sound {a0 a1 a2} (h : s.Sound) (e : execSack a0 a1 a2 s = .next t) : t.Sound := by
  unfold execSack at e
  grind [sound_def, soundAt_write, soundAt_writeN, soundAt_setWord, soundAt_clear, soundAt_copy, soundAt_paste, soundAt_drop, sound_foldl, State.sack_sound]
theorem execRetransmitTimeout_sound {a0 a1} (h : s.Sound) (e : execRetransmitTimeout a0 a1 s = .next t) : t.Sound := by
  unfold execRetransmitTimeout at e
  grind [sound_def, soundAt_write, soundAt_writeN, soundAt_setWord, soundAt_clear, soundAt_copy, soundAt_paste, soundAt_drop, sound_foldl, State.resend_sound]
theorem State.cutRequest_sound {a1} (h : s.Sound) : (State.cutRequest s a1).Sound := by
  unfold State.cutRequest
  grind [sound_def, soundAt_write, soundAt_writeN, soundAt_setWord, soundAt_clear, soundAt_copy, soundAt_paste, soundAt_drop, sound_foldl, State.pieceFails_sound, State.writeDone_sound, State.chargeAny_sound, State.updReq_sound, State.reqFault_sound]
theorem State.linkFails_sound {a1} (h : s.Sound) : (State.linkFails s a1).Sound := by
  unfold State.linkFails
  grind [sound_def, soundAt_write, soundAt_writeN, soundAt_setWord, soundAt_clear, soundAt_copy, soundAt_paste, soundAt_drop, sound_foldl, State.degrade_sound, State.cutRequest_sound]
theorem execBoundaryFail_sound {a0} (h : s.Sound) (e : execBoundaryFail a0 s = .next t) : t.Sound := by
  unfold execBoundaryFail at e
  grind [sound_def, soundAt_write, soundAt_writeN, soundAt_setWord, soundAt_clear, soundAt_copy, soundAt_paste, soundAt_drop, sound_foldl, State.linkFails_sound]
theorem State.flitPasses_sound {a1} (h : s.Sound) : (State.flitPasses s a1).Sound := by
  unfold State.flitPasses
  grind [sound_def, soundAt_write, soundAt_writeN, soundAt_setWord, soundAt_clear, soundAt_copy, soundAt_paste, soundAt_drop, sound_foldl]
theorem State.flitFails_sound {a1} (h : s.Sound) : (State.flitFails s a1).Sound := by
  unfold State.flitFails
  grind [sound_def, soundAt_write, soundAt_writeN, soundAt_setWord, soundAt_clear, soundAt_copy, soundAt_paste, soundAt_drop, sound_foldl, State.linkFails_sound]
theorem execFlitCrcFail_sound {a0} (h : s.Sound) (e : execFlitCrcFail a0 s = .next t) : t.Sound := by
  unfold execFlitCrcFail at e
  grind [sound_def, soundAt_write, soundAt_writeN, soundAt_setWord, soundAt_clear, soundAt_copy, soundAt_paste, soundAt_drop, sound_foldl, State.flitFails_sound]
theorem State.parity_sound {a1 a2 a3 a4 a5 a6} (h : s.Sound) (e : State.parity s a1 a2 a3 a4 a5 a6 = some t) : t.Sound := by
  unfold State.parity at e
  grind [sound_def, soundAt_write, soundAt_writeN, soundAt_setWord, soundAt_clear, soundAt_copy, soundAt_paste, soundAt_drop, sound_foldl, State.post_sound, Option.bind_eq_some_iff, Option.map_eq_some_iff]
theorem execParityError_sound {a0 a1 a2 a3 a4 a5} (h : s.Sound) (e : execParityError a0 a1 a2 a3 a4 a5 s = .next t) : t.Sound := by
  unfold execParityError at e
  grind [sound_def, soundAt_write, soundAt_writeN, soundAt_setWord, soundAt_clear, soundAt_copy, soundAt_paste, soundAt_drop, sound_foldl, getD_cases, → State.parity_sound]
theorem State.respond_sound {a1} (h : s.Sound) : (State.respond s a1).Sound := by
  unfold State.respond
  grind [sound_def, soundAt_write, soundAt_writeN, soundAt_setWord, soundAt_clear, soundAt_copy, soundAt_paste, soundAt_drop, sound_foldl]
theorem execResync_sound (h : s.Sound) (e : execResync s = .next t) : t.Sound := by
  unfold execResync at e
  grind [sound_def, soundAt_write, soundAt_writeN, soundAt_setWord, soundAt_clear, soundAt_copy, soundAt_paste, soundAt_drop, sound_foldl, State.respond_sound]
theorem execMgmtRefresh_sound (h : s.Sound) (e : execMgmtRefresh s = .next t) : t.Sound := by
  unfold execMgmtRefresh at e
  grind [sound_def, soundAt_write, soundAt_writeN, soundAt_setWord, soundAt_clear, soundAt_copy, soundAt_paste, soundAt_drop, sound_foldl]
theorem State.loadImage_sound {a1 a2 a3} (h : s.Sound) (e : State.loadImage s a1 a2 a3 = some t) : t.Sound := by
  unfold State.loadImage at e
  grind [sound_def, soundAt_write, soundAt_writeN, soundAt_setWord, soundAt_clear, soundAt_copy, soundAt_paste, soundAt_drop, sound_foldl]
theorem execPldmFirmwareUpdate_sound {a0 a1 a2} (h : s.Sound) (e : execPldmFirmwareUpdate a0 a1 a2 s = .next t) : t.Sound := by
  unfold execPldmFirmwareUpdate at e
  grind [sound_def, soundAt_write, soundAt_writeN, soundAt_setWord, soundAt_clear, soundAt_copy, soundAt_paste, soundAt_drop, sound_foldl, → State.loadImage_sound, State.respond_sound]
theorem State.signed_sound {a1 a2 a3 a4} (h : s.Sound) : (State.signed s a1 a2 a3 a4).Sound := by
  unfold State.signed
  grind [sound_def, soundAt_write, soundAt_writeN, soundAt_setWord, soundAt_clear, soundAt_copy, soundAt_paste, soundAt_drop, sound_foldl, State.respond_sound]
theorem State.spdmAt_sound {a1} (h : s.Sound) : (State.spdmAt s a1).Sound := by
  unfold State.spdmAt
  grind [sound_def, soundAt_write, soundAt_writeN, soundAt_setWord, soundAt_clear, soundAt_copy, soundAt_paste, soundAt_drop, sound_foldl]
theorem execGetVersion_sound (h : s.Sound) (e : execGetVersion s = .next t) : t.Sound := by
  unfold execGetVersion at e
  grind [sound_def, soundAt_write, soundAt_writeN, soundAt_setWord, soundAt_clear, soundAt_copy, soundAt_paste, soundAt_drop, sound_foldl, State.respond_sound, State.spdmAt_sound]
theorem execGetCapabilities_sound (h : s.Sound) (e : execGetCapabilities s = .next t) : t.Sound := by
  unfold execGetCapabilities at e
  grind [sound_def, soundAt_write, soundAt_writeN, soundAt_setWord, soundAt_clear, soundAt_copy, soundAt_paste, soundAt_drop, sound_foldl, State.respond_sound, State.spdmAt_sound]
theorem execNegotiateAlgorithms_sound (h : s.Sound) (e : execNegotiateAlgorithms s = .next t) : t.Sound := by
  unfold execNegotiateAlgorithms at e
  grind [sound_def, soundAt_write, soundAt_writeN, soundAt_setWord, soundAt_clear, soundAt_copy, soundAt_paste, soundAt_drop, sound_foldl, State.respond_sound, State.spdmAt_sound]
theorem execGetDigests_sound (h : s.Sound) (e : execGetDigests s = .next t) : t.Sound := by
  unfold execGetDigests at e
  grind [sound_def, soundAt_write, soundAt_writeN, soundAt_setWord, soundAt_clear, soundAt_copy, soundAt_paste, soundAt_drop, sound_foldl, State.respond_sound]
theorem execGetCertificate_sound {a0 a1} (h : s.Sound) (e : execGetCertificate a0 a1 s = .next t) : t.Sound := by
  unfold execGetCertificate at e
  grind [sound_def, soundAt_write, soundAt_writeN, soundAt_setWord, soundAt_clear, soundAt_copy, soundAt_paste, soundAt_drop, sound_foldl, State.respond_sound]
theorem execChallenge_sound {a0} (h : s.Sound) (e : execChallenge a0 s = .next t) : t.Sound := by
  unfold execChallenge at e
  grind [sound_def, soundAt_write, soundAt_writeN, soundAt_setWord, soundAt_clear, soundAt_copy, soundAt_paste, soundAt_drop, sound_foldl, State.signed_sound]
theorem execGetMeasurements_sound {a0} (h : s.Sound) (e : execGetMeasurements a0 s = .next t) : t.Sound := by
  unfold execGetMeasurements at e
  grind [sound_def, soundAt_write, soundAt_writeN, soundAt_setWord, soundAt_clear, soundAt_copy, soundAt_paste, soundAt_drop, sound_foldl, State.signed_sound, State.respond_sound]
theorem State.keepGranule_sound {a1} (h : s.Sound) : (State.keepGranule s a1).Sound := by
  unfold State.keepGranule
  grind [sound_def, soundAt_write, soundAt_writeN, soundAt_setWord, soundAt_clear, soundAt_copy, soundAt_paste, soundAt_drop, sound_foldl]
theorem State.dropPower_sound (h : s.Sound) : (State.dropPower s).Sound := by
  refine ⟨Sparse.filter_wfFrom _ h.1, fun q hq => ?_⟩
  have : q = [] := by
    simp only [State.dropPower, State.reset] at hq
    exact List.eq_of_mem_replicate hq
  simp [this]
theorem State.losePower_sound {a1} (h : s.Sound) : (State.losePower s a1).Sound := by
  unfold State.losePower
  grind [sound_def, soundAt_write, soundAt_writeN, soundAt_setWord, soundAt_clear, soundAt_copy, soundAt_paste, soundAt_drop, sound_foldl, State.dropPower_sound, State.keepGranule_sound]
theorem execPowerLoss_sound {a0} (h : s.Sound) (e : execPowerLoss a0 s = .next t) : t.Sound := by
  unfold execPowerLoss at e
  grind [sound_def, soundAt_write, soundAt_writeN, soundAt_setWord, soundAt_clear, soundAt_copy, soundAt_paste, soundAt_drop, sound_foldl, State.losePower_sound]
theorem State.heated_sound {a1 a2} (h : s.Sound) : (State.heated s a1 a2).Sound := by
  unfold State.heated
  grind [sound_def, soundAt_write, soundAt_writeN, soundAt_setWord, soundAt_clear, soundAt_copy, soundAt_paste, soundAt_drop, sound_foldl]
theorem execThermalWarning_sound {a0 a1} (h : s.Sound) (e : execThermalWarning a0 a1 s = .next t) : t.Sound := by
  unfold execThermalWarning at e
  grind [sound_def, soundAt_write, soundAt_writeN, soundAt_setWord, soundAt_clear, soundAt_copy, soundAt_paste, soundAt_drop, sound_foldl, State.respond_sound, State.heated_sound]
theorem execThermalTrip_sound {a0 a1} (h : s.Sound) (e : execThermalTrip a0 a1 s = .next t) : t.Sound := by
  unfold execThermalTrip at e
  grind [sound_def, soundAt_write, soundAt_writeN, soundAt_setWord, soundAt_clear, soundAt_copy, soundAt_paste, soundAt_drop, sound_foldl, State.losePower_sound, State.respond_sound, State.heated_sound]
theorem execDieSupplyFault_sound {a0} (h : s.Sound) (e : execDieSupplyFault a0 s = .next t) : t.Sound := by
  unfold execDieSupplyFault at e
  grind [sound_def, soundAt_write, soundAt_writeN, soundAt_setWord, soundAt_clear, soundAt_copy, soundAt_paste, soundAt_drop, sound_foldl, State.degrade_sound]
theorem State.resetPte_sound {a1} (h : s.Sound) : (State.resetPte s a1).Sound := by
  unfold State.resetPte
  grind [sound_def, soundAt_write, soundAt_writeN, soundAt_setWord, soundAt_clear, soundAt_copy, soundAt_paste, soundAt_drop, sound_foldl, State.setPte_sound]
theorem State.resetPages_sound {a1} (h : s.Sound) : (State.resetPages s a1).Sound := by
  unfold State.resetPages
  grind [sound_def, soundAt_write, soundAt_writeN, soundAt_setWord, soundAt_clear, soundAt_copy, soundAt_paste, soundAt_drop, sound_foldl, State.resetPte_sound]
theorem State.restoreNames_sound (h : s.Sound) : (State.restoreNames s).Sound := by
  unfold State.restoreNames
  grind [sound_def, soundAt_write, soundAt_writeN, soundAt_setWord, soundAt_clear, soundAt_copy, soundAt_paste, soundAt_drop, sound_foldl, State.resetPages_sound, State.freeObject_sound]
theorem State.serverObject_sound {a1} (h : s.Sound) : (State.serverObject s a1).1.Sound := by
  unfold State.serverObject
  grind [sound_def, soundAt_write, soundAt_writeN, soundAt_setWord, soundAt_clear, soundAt_copy, soundAt_paste, soundAt_drop, sound_foldl, → State.createObject_sound]
theorem State.nameSignal_sound (h : s.Sound) : (State.nameSignal s).Sound := by
  unfold State.nameSignal
  grind [sound_def, soundAt_write, soundAt_writeN, soundAt_setWord, soundAt_clear, soundAt_copy, soundAt_paste, soundAt_drop, sound_foldl, State.enqueueMsg_sound]
theorem State.makeClient_sound {a1} (h : s.Sound) : (State.makeClient s a1).Sound := by
  unfold State.makeClient
  grind [sound_def, soundAt_write, soundAt_writeN, soundAt_setWord, soundAt_clear, soundAt_copy, soundAt_paste, soundAt_drop, sound_foldl, State.serverObject_sound, State.updLink_sound]
theorem State.bringUp_sound {a1 a2 a3 a4} (h : s.Sound) (e : State.bringUp s a1 a2 a3 a4 = some t) : t.Sound := by
  unfold State.bringUp at e
  grind [sound_def, soundAt_write, soundAt_writeN, soundAt_setWord, soundAt_clear, soundAt_copy, soundAt_paste, soundAt_drop, sound_foldl, → State.loadImage_sound, State.respond_sound, State.dropPower_sound, State.degrade_sound, State.checkReplace_sound, State.placeServers_sound, State.restoreNames_sound, State.serverObject_sound, State.makeClient_sound, State.nameSignal_sound]
theorem execBringUp_sound {a0 a1 a2 a3} (h : s.Sound) (e : execBringUp a0 a1 a2 a3 s = .next t) : t.Sound := by
  unfold execBringUp at e
  grind [sound_def, soundAt_write, soundAt_writeN, soundAt_setWord, soundAt_clear, soundAt_copy, soundAt_paste, soundAt_drop, sound_foldl, getD_cases, → State.bringUp_sound]
theorem State.setCxl_sound {a1 a2} (h : s.Sound) : (State.setCxl s a1 a2).Sound := by
  unfold State.setCxl
  grind [sound_def, soundAt_write, soundAt_writeN, soundAt_setWord, soundAt_clear, soundAt_copy, soundAt_paste, soundAt_drop, sound_foldl, State.updLink_sound]
theorem State.setFirmware_sound {a1} (h : s.Sound) : (State.setFirmware s a1).Sound := by
  unfold State.setFirmware
  grind [sound_def, soundAt_write, soundAt_writeN, soundAt_setWord, soundAt_clear, soundAt_copy, soundAt_paste, soundAt_drop, sound_foldl]
theorem State.raiseHorizon_sound {a1} (h : s.Sound) : (State.raiseHorizon s a1).Sound := by
  unfold State.raiseHorizon
  grind [sound_def, soundAt_write, soundAt_writeN, soundAt_setWord, soundAt_clear, soundAt_copy, soundAt_paste, soundAt_drop, sound_foldl]
theorem State.setLowWater_sound {a1} (h : s.Sound) : (State.setLowWater s a1).Sound := by
  unfold State.setLowWater
  grind [sound_def, soundAt_write, soundAt_writeN, soundAt_setWord, soundAt_clear, soundAt_copy, soundAt_paste, soundAt_drop, sound_foldl]
theorem State.softMessage_sound {a1 a2 a3} (h : s.Sound) : (State.softMessage s a1 a2 a3).Sound := by
  unfold State.softMessage
  grind [sound_def, soundAt_write, soundAt_writeN, soundAt_setWord, soundAt_clear, soundAt_copy, soundAt_paste, soundAt_drop, sound_foldl, State.enqueueMsg_sound]
/-- What an instruction leaves is sound if what it found was. -/
theorem exec_sound {i : Instr} (h : s.Sound) (e : exec i s = .next t) : t.Sound := by
  cases i
  · exact execRead_sound h e
  · exact execMov_sound h e
  · exact execMovx_sound h e
  · exact execConst_sound h e
  · exact execNull_sound h e
  · exact execSel_sound h e
  · exact execGate_sound h e
  · exact execExitJmp_sound h e
  · exact execExitJmpi_sound h e
  · exact execExitCall_sound h e
  · exact execExitRet_sound h e
  · exact execExitStop_sound h e
  · exact execItin_sound h e
  · exact execItnx_sound h e
  · exact execItout_sound h e
  · exact execTagr_sound h e
  · exact execWfld_sound h e
  · exact execSlks_sound h e
  · exact execSlkr_sound h e
  · exact execAdd_sound h e
  · exact execSub_sound h e
  · exact execMul_sound h e
  · exact execMulh_sound h e
  · exact execMulw_sound h e
  · exact execDiv_sound h e
  · exact execRem_sound h e
  · exact execMin_sound h e
  · exact execMax_sound h e
  · exact execAdds_sound h e
  · exact execSubs_sound h e
  · exact execAnd_sound h e
  · exact execOr_sound h e
  · exact execXor_sound h e
  · exact execAndn_sound h e
  · exact execNot_sound h e
  · exact execNeg_sound h e
  · exact execAbs_sound h e
  · exact execShl_sound h e
  · exact execShr_sound h e
  · exact execSar_sound h e
  · exact execRol_sound h e
  · exact execRor_sound h e
  · exact execClz_sound h e
  · exact execCtz_sound h e
  · exact execPopc_sound h e
  · exact execBfx_sound h e
  · exact execBfi_sound h e
  · exact execSext_sound h e
  · exact execZext_sound h e
  · exact execTst_sound h e
  · exact execLea_sound h e
  · exact execApx_sound h e
  · exact execFadd_sound h e
  · exact execFsub_sound h e
  · exact execFmul_sound h e
  · exact execFdiv_sound h e
  · exact execFsqrt_sound h e
  · exact execFma_sound h e
  · exact execFmin_sound h e
  · exact execFmax_sound h e
  · exact execFabs_sound h e
  · exact execFneg_sound h e
  · exact execFcpys_sound h e
  · exact execFtst_sound h e
  · exact execFcvt_sound h e
  · exact execFrnd_sound h e
  · exact execFcls_sound h e
  · exact execExp2_sound h e
  · exact execLog2_sound h e
  · exact execRsq_sound h e
  · exact execVadd_sound h e
  · exact execVsub_sound h e
  · exact execVmul_sound h e
  · exact execVdiv_sound h e
  · exact execVfma_sound h e
  · exact execVmin_sound h e
  · exact execVmax_sound h e
  · exact execVabs_sound h e
  · exact execVneg_sound h e
  · exact execVand_sound h e
  · exact execVor_sound h e
  · exact execVxor_sound h e
  · exact execVshl_sound h e
  · exact execVshr_sound h e
  · exact execVsar_sound h e
  · exact execVtst_sound h e
  · exact execVsel_sound h e
  · exact execVcvt_sound h e
  · exact execVexp2_sound h e
  · exact execVlog2_sound h e
  · exact execVrsq_sound h e
  · exact execVbcast_sound h e
  · exact execVextr_sound h e
  · exact execVins_sound h e
  · exact execVperm_sound h e
  · exact execViota_sound h e
  · exact execVred_sound h e
  · exact execVscan_sound h e
  · exact execVdot_sound h e
  · exact execVmaxi_sound h e
  · exact execVmini_sound h e
  · exact execAmax_sound h e
  · exact execCvq_sound h e
  · exact execCvdq_sound h e
  · exact execChset_sound h e
  · exact execChtab_sound h e
  · exact execSclw_sound h e
  · exact execVpk_sound h e
  · exact execVupk_sound h e
  · exact execRngs_sound h e
  · exact execRngn_sound h e
  · exact execRngf_sound h e
  · exact execSample_sound h e
  · exact execTopk_sound h e
  · exact execAccept_sound h e
  · exact execLd_sound h e
  · exact execSt_sound h e
  · exact execVld_sound h e
  · exact execVst_sound h e
  · exact execVldg_sound h e
  · exact execVsts_sound h e
  · exact execLdr_sound h e
  · exact execPref_sound h e
  · exact execRed_sound h e
  · exact execVredm_sound h e
  · exact execMldred_sound h e
  · exact execMldredReduce_sound h e
  · exact execGset_sound h e
  · exact execCopy_sound h e
  · exact execPersist_sound h e
  · exact execPersistComplete_sound h e
  · exact execCadd_sound h e
  · exact execCaddr_sound h e
  · exact execCaddrReply_sound h e
  · exact execCwait_sound h e
  · exact execCpoll_sound h e
  · exact execCounterStep_sound h e
  · exact execDurableStepComplete_sound h e
  · exact execPromoteAnswer_sound h e
  · exact execMma_sound h e
  · exact execMmaz_sound h e
  · exact execAccld_sound h e
  · exact execAccst_sound h e
  · exact execLxtab_sound h e
  · exact execLxctx_sound h e
  · exact execLxrun_sound h e
  · exact execLxtin_sound h e
  · exact execLxtout_sound h e
  · exact execSpawn_sound h e
  · exact execSpawnNowait_sound h e
  · exact execSpawnResume_sound h e
  · exact execRetn_sound h e
  · exact execLaunch_sound h e
  · exact execCancel_sound h e
  · exact execCancelLaunch_sound h e
  · exact execCancelMarkSeen_sound h e
  · exact execTrap_sound h e
  · exact execFltr_sound h e
  · exact execMsg_sound h e
  · exact execMsgReply_sound h e
  · exact execMsgr_sound h e
  · exact execMsgrReceive_sound h e
  · exact execDusk_sound h e
  · exact execDuskSave_sound h e
  · exact execDuskMarkerArrival_sound h e
  · exact execCtxsv_sound h e
  · exact execCtxld_sound h e
  · exact execLitw_sound h e
  · exact execBadn_sound h e
  · exact execApset_sound h e
  · exact execTime_sound h e
  · exact execRetire_sound h e
  · exact execTokenArrival_sound h e
  · exact execBlockFetch_sound h e
  · exact execCommit_sound h e
  · exact execCommitWatchdog_sound h e
  · exact execTick_sound h e
  · exact execTileAccess_sound h e
  · exact execPageFillComplete_sound h e
  · exact execPagerDecline_sound h e
  · exact execPagerMigrateStart_sound h e
  · exact execPagerEvictStart_sound h e
  · exact execMigrationComplete_sound h e
  · exact execEvictionComplete_sound h e
  · exact execWritebackComplete_sound h e
  · exact execHeatWindowEnd_sound h e
  · exact execHomePerform_sound h e
  · exact execPeerAccess_sound h e
  · exact execStreamerAccept_sound h e
  · exact execStreamerComplete_sound h e
  · exact execIslandAccept_sound h e
  · exact execIslandComplete_sound h e
  · exact execLatticeAccept_sound h e
  · exact execLatticeComplete_sound h e
  · exact execTcbReady_sound h e
  · exact execTaskDispatch_sound h e
  · exact execTaskSteal_sound h e
  · exact execTaskFinish_sound h e
  · exact execRegionPlace_sound h e
  · exact execItemStart_sound h e
  · exact execItemFinish_sound h e
  · exact execRegionFree_sound h e
  · exact execLaunchSubmit_sound h e
  · exact execJobRecordRead_sound h e
  · exact execHaltReport_sound h e
  · exact execHaltAction_sound h e
  · exact execRegionList_sound h e
  · exact execObjectCreate_sound h e
  · exact execApertureBind_sound h e
  · exact execApertureUnbind_sound h e
  · exact execObjectRetire_sound h e
  · exact execObjectReclaim_sound h e
  · exact execParityError_sound h e
  · exact execPeerPacketReceive_sound h e
  · exact execSack_sound h e
  · exact execRetransmitTimeout_sound h e
  · exact execFlitCrcFail_sound h e
  · exact execBoundaryFail_sound h e
  · exact execHostWindowAccess_sound h e
  · exact execBackInvalidate_sound h e
  · exact execBackInvalidateComplete_sound h e
  · exact execOwnerHoldExpire_sound h e
  · exact execHostCounterRead_sound h e
  · exact execHostCounterWrite_sound h e
  · exact execHostLaunchWrite_sound h e
  · exact execHostCodeWrite_sound h e
  · exact execCodeBindComplete_sound h e
  · exact execHostRegWrite_sound h e
  · exact execResync_sound h e
  · exact execMgmtRefresh_sound h e
  · exact execPldmFirmwareUpdate_sound h e
  · exact execGetVersion_sound h e
  · exact execGetCapabilities_sound h e
  · exact execNegotiateAlgorithms_sound h e
  · exact execGetDigests_sound h e
  · exact execGetCertificate_sound h e
  · exact execChallenge_sound h e
  · exact execGetMeasurements_sound h e
  · exact execThermalWarning_sound h e
  · exact execThermalTrip_sound h e
  · exact execPowerLoss_sound h e
  · exact execBringUp_sound h e
  · exact execDieSupplyFault_sound h e
  · exact execTableWalkComplete_sound h e

end Sys2Proof.Machine
end

