-- ==== Sys2Proof/Tests/Slice0.lean ====
section
/-! SUPPORT. Tests: ill-formed records refused, records decoded from words written out from the spec's encoding tables, results of the
spec's worked examples, and for each statement with hypotheses a state that meets them. -/

namespace Sys2Proof.Tests
set_option Elab.async false
open Sys2Proof Sys2Proof.Machine

/-! ### Well-formedness -/

/-- A header with one node target. -/
def hN : Hdr := ⟨.always, .node 1 .l, .none, 0⟩
/-- A header with one register target. -/
def hG (n : BitVec 6) : Hdr := ⟨.always, .reg n, .none, 0⟩
/-- A header without targets. -/
def h0 : Hdr := ⟨.always, .none, .none, 0⟩
/-- A header whose target is a port-table entry. -/
def hQ (q : BitVec 10) : Hdr := ⟨.always, .port q, .none, 0⟩
/-- A memory literal with LSID 0. -/
def m0 : MemLit := ⟨0, false, false, 0⟩
/-- An engine literal at die scope. -/
def e0 : EngLit := ⟨.die, false, false⟩

theorem test_slack_code_refused : (Instr.mov ⟨.always, .node 1 .l, .none, 0x20#8⟩ false false).wf = false := by decide
theorem test_dense_targets : (Instr.mov ⟨.always, .none, .node 1 .l, 0⟩ false false).wf = false := by decide
theorem test_register_zero_refused : (Instr.add (hG 0) .i32 .port).wf = false := by decide
theorem test_vector_register_refused : (Instr.vpk (hG 16)).wf = false ∧ (Instr.vpk (hG 15)).wf = true := by decide

/-- One record refused for each check of the entries (R257), beside the record that the check lets pass. -/
theorem test_ill_formed_core :
    ([.mov hN false true, .movx hN false .none (.node 2 .l), .movx h0 false (.node 1 .l) .none, .movx ⟨.always, .reg 4, .reg 5, 0⟩ false (.reg 0) .none,
      .const hN (.fp .f16) 0x10000, .const hN (.fp .f32) 0x100000000, .const hN (.tap .t8) 0x100, .const hN (.tap .t6) 0x40,
      .exitJmp hN 0, .exitJmpi hN, .exitRet hN, .exitStop hN, .exitCall h0 0, .exitCall (hG 62) 0,
      .slks ⟨.always, .node 1 .l, .none, 1⟩ (.port false), .slks ⟨.always, .node 1 .l, .none, 1⟩ (.imm 0), .mulw hN .i64 .port,
      .bfx hN 1 63 false, .bfi hN 63 1, .fadd hN .f16 (.imm 0x10000), .fsub hN .f16 (.imm 0x10000), .fmul hN .b16 (.imm 0x10000),
      .fdiv hN .f16 (.imm 0x10000), .fmin hN .f16 (.imm 0x10000), .fmax hN .f16 (.imm 0x10000), .ftst hN .lt .b16 (.imm 0x10000),
      .fcvt hN (.tap .t8) (.fp .f32) .rz] : List Instr).all (fun i => !i.wf) = true ∧
    ([.mov hN true true, .movx ⟨.always, .reg 4, .reg 5, 0⟩ false (.node 1 .l) .none, .const hN (.fp .f16) 0xFFFF, .const hN (.tap .t6) 0x3F,
      .exitJmp h0 0, .exitCall (hG 63) 0, .slks hN (.port true), .mulw hN .i32 .port, .bfx hN 0 63 false, .bfi hN 63 0,
      .fadd hN .f16 (.imm 0xFFFF), .ftst hN .lt .b16 (.imm 0xFFFF), .fcvt hN (.fp .f32) (.tap .t8) .rz] : List Instr).all Instr.wf = true := by decide

theorem test_ill_formed_vector :
    ([.vadd hN (.int .i64) (.port .rne), .vsub hN (.tap .t8) (.port .rne), .vmul hN (.int .i32) (.port .rz), .vdiv hN (.fp .f16) (.imm 0x10000),
      .vmin hN (.fp .f64) .port, .vmax hN (.tap .t6) .port, .vfma hN .f64 .rne, .vexp2 hN .f64 .rne, .vlog2 hN .f64 .rne, .vrsq hN .f64 .rne,
      .vabs hN (.int .n8), .vneg hN (.int .n32), .vand hN .i64 .port, .vor hN .n64 .port, .vxor hN .i64 .port, .vshl hN .i64 .port,
      .vshr hN .n64 .port, .vsar hN .i64 .port, .viota hN .n64, .vtst hN (.int .i8) .lt, .vtst hN (.fp .f32) .ltn, .vsel hN (.int .i8),
      .vcvt hN (.fp .f64) (.fp .f32) .rne 0, .vcvt hN (.tap .t8) (.fp .f32) .rz 0, .vcvt hN (.int .i16) (.int .i32) .rz 0,
      .vcvt hN (.fp .b16) (.fp .f16) .rne 1, .vcvt hN (.fp .b16) (.fp .f32) .rne 2, .vbcast hN (.int .i64), .vperm hN (.fp .f64),
      .vextr hN (.int .i32) 32, .vins hN (.int .i16) 64, .vred hN (.int .i32) .add .rz false, .vred hN (.fp .f32) .min .rz false,
      .vred hN (.int .i8) .add .rne true, .vscan hN (.int .i8) .rne false, .vscan hN (.int .i32) .rz false, .vscan hN (.fp .f16) .rne false,
      .vdot hN (.int .i8) .rne true, .vdot hN (.int .i32) .rz false, .vmaxi hN (.int .i8) true, .vmini hN (.tap .t8) false,
      .cvq hN .t8 0, .sclw hN 0 0, .accept hN 0 none] : List Instr).all (fun i => !i.wf) = true ∧
    ([.vadd hN (.fp .f32) (.port .rz), .vabs hN (.int .i8), .vtst hN (.fp .f32) .ge, .vcvt hN (.fp .b16) (.fp .f32) .rz 1,
      .vextr hN (.int .i32) 31, .vred hN (.fp .f32) .add .rz true, .vscan hN (.fp .f32) .rz true, .cvq hN .t8 31, .sclw hN 0 1,
      .accept hN 31 (some 3)] : List Instr).all Instr.wf = true := by decide

theorem test_ill_formed_memory :
    ([.ld hN (.tap .t6) m0 0, .st h0 (.tap .t6) m0, .st hN (.int .n64) m0, .vld hN (.int .i64) m0 0, .vst h0 (.fp .f64) m0, .vst hN (.int .i8) m0,
      .vldg hN (.int .i8) m0 0, .vsts h0 (.int .n8) m0, .vsts hN (.int .i32) m0, .ldr hN (.tap .t6) m0 0, .ldr (hQ 1) (.int .n64) m0 0,
      .ldr ⟨.always, .node 1 .l, .port 1, 0⟩ (.int .n64) m0 0, .pref hN m0 0, .persist hN m0 0, .retn hN, .trap hN 0,
      .red hN (.int .i32) m0 .add, .red h0 (.fp .f32) m0 .xor, .red h0 (.fp .f16) m0 .add, .red h0 (.tap .t8) m0 .add,
      .vredm hN (.int .i32) m0 .add, .vredm h0 (.int .i8) m0 .add, .vredm h0 (.fp .f32) m0 .or, .cadd hN m0 .die none,
      .cadd h0 m0 .durable (some 1), .cadd h0 ⟨0, false, false, 8⟩ .die (some 1), .caddr hN m0 .die none,
      .caddr ⟨.always, .reg 4, .node 1 .l, 0⟩ m0 .die none, .caddr (hG 4) m0 .durable (some 0), .cwait hN m0 .durable none,
      .cpoll hN m0 .durable none, .cwait hN ⟨0, false, false, 8⟩ .die (some 2), .cpoll hN ⟨0, false, false, 8⟩ .die (some 2),
      .mma (hQ 0) (.int .i8) e0, .accst (hQ 0) (.int .n32) e0] : List Instr).all (fun i => !i.wf) = true ∧
    ([.ld hN (.tap .t8) m0 31, .st h0 (.int .n64) m0, .vldg hN (.fp .f16) m0 0, .ldr hN (.int .n64) m0 0, .pref h0 m0 15, .persist h0 m0 15,
      .red h0 (.fp .f64) m0 .max, .vredm h0 (.int .n16) m0 .xor, .cadd h0 m0 .durable none, .caddr (hG 4) m0 .die (some 15),
      .cwait hN m0 .domain none, .mma (hQ 0) (.tap .t6) e0] : List Instr).all Instr.wf = true := by decide

/-! ### Decoding: words written out from R52 and the encoding tables of the entries -/

/-- A record word from its fields, most significant first (R52). -/
def word (op : BitVec 8) (m : BitVec 1) (fn : BitVec 5) (t0 t1 : BitVec 12) (lit : BitVec 48) : RecordWord :=
  op ++ m ++ fn ++ 0b00#2 ++ t0 ++ t1 ++ 0#8 ++ lit

/-- Every word decodes to the record beside it. -/
def decodes (l : List (RecordWord × Instr)) : Bool := l.all fun p => (decode p.1).toOption == some p.2

/-- The predicate and slack fields (R52, R55, R60). -/
theorem test_decode_header :
    decodes [(0x02#8 ++ 0b0#1 ++ 0b00000#5 ++ 0b10#2 ++ 0x004#12 ++ 0x406#12 ++ 0x41#8 ++ 0#48, .mov ⟨.onTrue, .node 1 .l, .reg 6, 0x41⟩ false false),
      (0x02#8 ++ 0b0#1 ++ 0b00000#5 ++ 0b11#2 ++ 0x1FF#12 ++ 0xBFF#12 ++ 0xFF#8 ++ 0#48,
        .mov ⟨.onFalse, .node 127 .x, .port 1023, 0xFF⟩ false false)] = true := by decide

/-- R261, R269. -/
theorem test_decode_dataflow :
    decodes [(word 0x01 0 0x00 0x004 0xC00 0x05, .read hN (.g 5)), (word 0x01 0 0x00 0x004 0xC00 0x43, .read hN (.v 3)),
      (word 0x02 0 0x00 0x004 0xC00 0x8000000020, .mov hN true true), (word 0x03 0 0x00 0x004 0x005 0x00C00D, .movx ⟨.always, .node 1 .l, .node 1 .r, 0⟩ false (.node 3 .l) (.node 3 .r)),
      (word 0x04 1 0x02 0x004 0xC00 0xFFFFFFFFFFFF, .const hN (.int .i32) (-1)), (word 0x05 0 0x00 0x004 0xC00 0x8000000000, .null hN true),
      (word 0x06 0 0x00 0x004 0xC00 0, .sel hN false), (word 0x07 0 0x00 0x004 0xC00 0, .gate hN false),
      (word 0x08 0 0x00 0xC00 0xC00 0x1FFFFFFFF, .exitJmp h0 0x1FFFFFFFF), (word 0x08 0 0x01 0xC00 0xC00 0, .exitJmpi h0),
      (word 0x08 0 0x02 0x43F 0xC00 2, .exitCall (hG 63) 2), (word 0x08 0 0x03 0xC00 0xC00 0, .exitRet h0), (word 0x08 0 0x04 0xC00 0xC00 0, .exitStop h0),
      (word 0x09 0 0x00 0x004 0xC00 0, .itin hN false), (word 0x0A 0 0x00 0x004 0xC00 0, .itnx hN false), (word 0x0B 0 0x00 0x004 0xC00 0, .itout hN false),
      (word 0x0C 0 0x01 0x004 0xC00 0, .tagr hN .colour false), (word 0x0D 0 0x05 0x004 0xC00 0, .wfld hN 5),
      (word 0x0E 0 0x00 0x004 0xC00 0x8000000000, .slks hN (.port true)), (word 0x0E 1 0x00 0x004 0xC00 9, .slks hN (.imm 9)),
      (word 0x0F 0 0x00 0x004 0xC00 0, .slkr hN false)] = true := by decide

/-- R279. -/
theorem test_decode_integer :
    decodes [(word 0x10 1 0x03 0x004 0xC00 7, .add hN .i64 (.imm 7)), (word 0x11 0 0x00 0x004 0xC00 0, .sub hN .i8 .port),
      (word 0x12 0 0x01 0x004 0xC00 0, .mul hN .i16 .port), (word 0x13 0 0x07 0x004 0xC00 0, .mulh hN .n64 .port),
      (word 0x14 0 0x06 0x004 0xC00 0, .mulw hN .n32 .port), (word 0x15 0 0x04 0x004 0xC00 0, .div hN .n8 .port), (word 0x16 0 0x05 0x004 0xC00 0, .rem hN .n16 .port),
      (word 0x17 0 0x02 0x004 0xC00 0, .min hN .i32 .port), (word 0x18 0 0x06 0x004 0xC00 0, .max hN .n32 .port),
      (word 0x19 0 0x04 0x004 0xC00 0, .adds hN .n8 .port), (word 0x1A 0 0x04 0x004 0xC00 0, .subs hN .n8 .port),
      (word 0x1B 0 0x00 0x004 0xC00 0, .and hN .port), (word 0x1B 1 0x01 0x004 0xC00 3, .or hN (.imm 3)), (word 0x1B 0 0x02 0x004 0xC00 0, .xor hN .port),
      (word 0x1B 0 0x03 0x004 0xC00 0, .andn hN .port), (word 0x1B 0 0x04 0x004 0xC00 0, .not hN), (word 0x1C 0 0x03 0x004 0xC00 0, .neg hN .w64),
      (word 0x1D 0 0x01 0x004 0xC00 0, .abs hN .w16), (word 0x1E 1 0x03 0x004 0xC00 3, .shl hN .i64 (.imm 3)), (word 0x1F 0 0x03 0x004 0xC00 0, .shr hN .i64 .port),
      (word 0x20 0 0x03 0x004 0xC00 0, .sar hN .i64 .port), (word 0x21 0 0x03 0x004 0xC00 0, .rol hN .i64 .port), (word 0x22 0 0x03 0x004 0xC00 0, .ror hN .i64 .port),
      (word 0x23 0 0b00010 0x004 0xC00 0, .clz hN .w32), (word 0x23 0 0b01000 0x004 0xC00 0, .ctz hN .w8), (word 0x23 0 0b10011 0x004 0xC00 0, .popc hN .w64),
      (word 0x24 0 0x00 0x004 0xC00 0x10704, .bfx hN 4 7 true), (word 0x25 0 0x00 0x004 0xC00 0x704, .bfi hN 4 7),
      (word 0x26 0 0b00001 0x004 0xC00 0, .sext hN .w16), (word 0x26 0 0b10010 0x004 0xC00 0, .zext hN .w32),
      (word 0x27 1 0x02 0x004 0xC00 0, .tst hN .lt (.imm 0)), (word 0x28 0 0x00 0x004 0xC00 4, .lea hN (.port 4)), (word 0x29 1 0x00 0x004 0xC00 0x1F40, .apx hN (.imm 0x1F40))] = true := by decide

/-- R291. -/
theorem test_decode_fp :
    decodes [(word 0x30 0 0x0A 0x004 0xC00 0x200000000000, .fadd hN .f32 (.port .rz)), (word 0x31 0 0x08 0x004 0xC00 0, .fsub hN .f16 (.port .rne)),
      (word 0x32 1 0x0B 0x004 0xC00 0x3F000000, .fmul hN .f64 (.imm 0x3F000000)), (word 0x33 0 0x09 0x004 0xC00 0x800000000000, .fdiv hN .b16 (.port .rna)),
      (word 0x34 0 0x0A 0x004 0xC00 0x400000000000, .fsqrt hN .f32 .ru), (word 0x35 0 0x0A 0x004 0xC00 0x600000000000, .fma hN .f32 .rd),
      (word 0x36 0 0x0A 0x004 0xC00 0, .fmin hN .f32 .port), (word 0x37 0 0x0A 0x004 0xC00 0, .fmax hN .f32 .port),
      (word 0x38 0 0b00000 0x004 0xC00 0, .fabs hN .f16), (word 0x38 0 0b00110 0x004 0xC00 0, .fneg hN .f32), (word 0x38 0 0b01011 0x004 0xC00 0, .fcpys hN .f64),
      (word 0x39 0 0b11010 0x004 0xC00 0, .ftst hN .un .f32 .port), (word 0x3A 0 0x0A 0x004 0xC00 0x30000000000, .fcvt hN (.fp .f32) (.int .i64) .rne),
      (word 0x3B 0 0x0B 0x004 0xC00 0, .frnd hN .f64 .rne), (word 0x3C 0 0x08 0x004 0xC00 0, .fcls hN .f16),
      (word 0x3D 0 0b00001 0x004 0xC00 0x400000000000, .exp2 hN .b16 .ru), (word 0x3D 0 0b00110 0x004 0xC00 0, .log2 hN .f32 .rne),
      (word 0x3D 0 0b01011 0x004 0xC00 0, .rsq hN .f64 .rne)] = true := by decide

/-- R304, R315, R324. -/
theorem test_decode_vector :
    decodes [(word 0x40 0 0x0A 0x004 0xC00 0x200000000000, .vadd hN (.fp .f32) (.port .rz)), (word 0x41 0 0x00 0x004 0xC00 0, .vsub hN (.int .i8) (.port .rne)),
      (word 0x42 1 0x01 0x004 0xC00 3, .vmul hN (.int .i16) (.imm 3)), (word 0x43 0 0x06 0x004 0xC00 0, .vdiv hN (.int .n32) (.port .rne)),
      (word 0x44 0 0x09 0x004 0xC00 0, .vfma hN .b16 .rne), (word 0x45 0 0x02 0x004 0xC00 0, .vmin hN (.int .i32) .port), (word 0x46 0 0x08 0x004 0xC00 0, .vmax hN (.fp .f16) .port),
      (word 0x47 0 0x02 0x004 0xC00 0, .vabs hN (.int .i32)), (word 0x48 0 0x0A 0x004 0xC00 0, .vneg hN (.fp .f32)), (word 0x49 0 0x04 0x004 0xC00 0, .vand hN .n8 .port),
      (word 0x4A 0 0x04 0x004 0xC00 0, .vor hN .n8 .port), (word 0x4B 0 0x04 0x004 0xC00 0, .vxor hN .n8 .port), (word 0x4C 0 0x05 0x004 0xC00 0, .vshl hN .n16 .port),
      (word 0x4D 0 0x05 0x004 0xC00 0, .vshr hN .n16 .port), (word 0x4E 0 0x05 0x004 0xC00 0, .vsar hN .n16 .port), (word 0x4F 0 0x02 0x004 0xC00 0x20000000000, .vtst hN (.int .i32) .lt),
      (word 0x50 0 0x06 0x004 0xC00 0, .vsel hN (.int .n32)), (word 0x51 0 0x09 0x004 0xC00 0xA0000000001, .vcvt hN (.fp .b16) (.fp .f32) .rne 1),
      (word 0x52 0 0x0A 0x004 0xC00 0, .vexp2 hN .f32 .rne), (word 0x53 0 0x0A 0x004 0xC00 0, .vlog2 hN .f32 .rne), (word 0x54 0 0x0A 0x004 0xC00 0, .vrsq hN .f32 .rne),
      (word 0x55 0 0x0C 0x004 0xC00 0, .vbcast hN (.tap .t8)), (word 0x56 0 0x04 0x004 0xC00 127, .vextr hN (.int .n8) 127), (word 0x57 0 0x06 0x004 0xC00 5, .vins hN (.int .n32) 5),
      (word 0x58 0 0x06 0x004 0xC00 0, .vperm hN (.int .n32)), (word 0x59 0 0x05 0x004 0xC00 0, .viota hN .n16),
      (word 0x5A 0 0x0A 0x004 0xC00 0x28000000000, .vred hN (.fp .f32) .max .rne true), (word 0x5B 0 0x0A 0x004 0xC00 0x208000000000, .vscan hN (.fp .f32) .rz true),
      (word 0x5C 0 0x00 0x004 0xC00 0, .vdot hN (.int .i8) .rne false), (word 0x5D 0 0x0A 0x004 0xC00 0, .vmaxi hN (.fp .f32) false), (word 0x5E 0 0x0A 0x004 0xC00 0x8000000000, .vmini hN (.fp .f32) true),
      (word 0x60 0 0x0C 0x004 0xC00 0, .amax hN .t8), (word 0x61 0 0x0D 0x004 0xC00 0x300000000, .cvq hN .t6 3), (word 0x62 0 0x0C 0x004 0xC00 2, .cvdq hN .t8 2),
      (word 0x63 0 0x00 0x004 0xC00 0, .chset hN), (word 0x64 0 0x00 0x004 0xC00 0, .chtab hN), (word 0x65 0 0x00 0x004 0xC00 0x1F, .sclw hN 15 1),
      (word 0x66 0 0x0D 0x004 0xC00 0, .vpk hN), (word 0x67 0 0x0D 0x004 0xC00 0, .vupk hN), (word 0x68 0 0x00 0x004 0xC00 0, .rngs hN),
      (word 0x69 0 0x00 0x004 0xC00 2, .rngn hN 2), (word 0x6A 0 0x0A 0x004 0xC00 3, .rngf hN 3), (word 0x6B 0 0x00 0x004 0xC00 0, .sample hN 0),
      (word 0x6C 1 0x00 0x004 0xC00 8, .topk hN (.imm 8)), (word 0x6D 0 0x00 0x004 0xC00 0x2300000002, .accept hN 2 (some 3))] = true := by decide

/-- R333, R342, R223. -/
theorem test_decode_memory :
    decodes [(word 0x70 0 0x02 0x004 0xC00 0x181F00000008, .ld hN (.int .i32) ⟨3, false, false, 8⟩ 31), (word 0x71 0 0x07 0xC00 0xC00 0x080000000000, .st h0 (.int .n64) ⟨1, false, false, 0⟩),
      (word 0x72 0 0x0A 0x401 0xC00 0x000100000000, .vld (hG 1) (.fp .f32) m0 1), (word 0x73 0 0x09 0xC00 0xC00 0x1000FFFFFF80, .vst h0 (.fp .b16) ⟨2, false, false, -128⟩),
      (word 0x74 0 0x06 0x004 0xC00 0x088000000000, .vldg hN (.int .n32) ⟨1, true, false, 0⟩ 0), (word 0x75 0 0x0A 0xC00 0xC00 0x184000000000, .vsts h0 (.fp .f32) ⟨3, false, true, 0⟩),
      (word 0x76 0 0x07 0x004 0xC00 0, .ldr hN (.int .n64) m0 0), (word 0x77 0 0x00 0xC00 0xC00 0x100300000000, .pref h0 ⟨2, false, false, 0⟩ 3),
      (word 0x78 0 0x03 0xC00 0xC00 0x180000000000, .red h0 (.int .i64) ⟨3, false, false, 0⟩ .add), (word 0x79 0 0x0A 0xC00 0xC00 0x200200000000, .vredm h0 (.fp .f32) ⟨4, false, false, 0⟩ .max),
      (word 0x7A 0 0x09 0x004 0xC00 0x080000000040, .mldred hN 1 0x40), (word 0x7B 0 0x00 0x004 0xC00 0x080000000000, .gset hN 1),
      (word 0x7C 0 0x00 0x803 0xC00 0x0A0000000000, .copy (hQ 3) 1 e0), (word 0x7D 0 0x00 0xC00 0xC00 0x150100000008, .persist h0 ⟨2, false, false, 8⟩ 1),
      (word 0x80 0 0x00 0xC00 0xC00 0x002300000000, .cadd h0 m0 .constellation (some 3)), (word 0x81 0 0x00 0x404 0xC00 0x030000000000, .caddr (hG 4) m0 .module none),
      (word 0x82 0 0x00 0x004 0xC00 0x040000000010, .cwait hN ⟨0, false, false, 16⟩ .domain none), (word 0x83 0 0x00 0x004 0xC00 0x010000000000, .cpoll hN m0 .region none)] = true := by decide

/-- R207, R344, R346, R351. -/
theorem test_decode_system :
    decodes [(word 0x88 0 0x0C 0x804 0xC00 0x020000000000, .mma (hQ 4) (.tap .t8) e0), (word 0x89 0 0x00 0x804 0xC00 0x020000000000, .mmaz (hQ 4) e0),
      (word 0x8A 0 0x00 0x804 0xC00 0x028000000000, .accld (hQ 4) ⟨.die, true, false⟩), (word 0x8B 0 0x0A 0x804 0xC00 0x024000000000, .accst (hQ 4) (.fp .f32) ⟨.die, false, true⟩),
      (word 0x90 0 0x00 0x805 0xC00 0x020000000000, .lxtab (hQ 5) e0), (word 0x91 0 0x00 0x805 0xC00 0x020000000000, .lxctx (hQ 5) e0), (word 0x92 0 0x00 0x805 0x004 0x020000000000, .lxrun ⟨.always, .port 5, .node 1 .l, 0⟩ e0),
      (word 0x93 0 0x00 0x805 0xC00 0x020000000000, .lxtin (hQ 5) e0), (word 0x94 0 0x00 0x805 0xC00 0x020000000000, .lxtout (hQ 5) e0),
      (word 0x98 0 0x00 0x004 0xC00 0x400000001, .spawn hN 2 1), (word 0x98 0 0x01 0x004 0xC00 0x000000001, .spawnNowait hN 0 1),
      (word 0x99 0 0x00 0xC00 0xC00 0, .retn h0), (word 0x9A 0 0x00 0x004 0xC00 0, .launch hN), (word 0x9B 0 0x00 0x004 0xC00 0, .cancel hN), (word 0x9B 0 0x00 0x004 0xC00 1, .cancelLaunch hN),
      (word 0xA0 0 0x00 0xC00 0xC00 0xBEEF, .trap h0 0xBEEF), (word 0xA1 0 0x00 0x004 0xC00 0, .fltr hN), (word 0xA2 0 0x00 0x004 0xC00 0, .msg hN), (word 0xA3 0 0x00 0x404 0xC00 0, .msgr (hG 4)),
      (word 0xA4 0 0x00 0x004 0xC00 0, .dusk hN), (word 0xA4 0 0x00 0x004 0xC00 1, .duskSave hN), (word 0xA5 0 0x00 0x004 0xC00 0, .ctxsv hN), (word 0xA6 0 0x00 0x004 0xC00 0, .ctxld hN),
      (word 0xA7 0 0x00 0x004 0xC00 0x7F, .litw hN 127), (word 0xA8 0 0x00 0x004 0xC00 0, .badn hN), (word 0xA9 0 0x00 0x004 0xC00 0, .apset hN), (word 0xAA 0 0x00 0x004 0xC00 0, .time hN),
      (word 0xAB 0 0x00 0x004 0xC00 0, .retire hN)] = true := by decide

/-- Words that are no instruction: OP 0x00, an unlisted OP, PR 0b01, a reserved rounding code, a set reserved bit, a refused target (R52, R56, R65, R71). -/
theorem test_refused_words :
    [word 0x00 0 0 0x004 0xC00 0, word 0x2A 0 0 0x004 0xC00 0, 0x02#8 ++ 0#6 ++ 0b01#2 ++ 0x004#12 ++ 0xC00#12 ++ 0#8 ++ 0#48,
      word 0x30 0 0x0A 0x004 0xC00 0xA00000000000, word 0x02 0 0 0x004 0xC00 0x10000, word 0x02 0 0 0x204 0xC00 0, word 0x02 0 0 0xC01 0xC00 0, word 0x02 1 0 0x004 0xC00 0,
      word 0x98 0 0 0x004 0xC00 0x600000000].all (fun w => (decode w).toOption.isNone) = true := by decide


/-! ### A small machine about to fire a record -/

/-- A scalar token of full slack. -/
def sc (w : Word) : Tok := newTok (.scalar w) 0 none 507904
/-- A vector token of full slack. -/
def ve (v : Vec) : Tok := newTok (.vector v) 0 none 507904
/-- The context of the small machine, and the place of its instance. -/
def c0 : CtxId := ⟨0, 0, 0⟩
def blk0 : Word := 0x100000000000
def r0 : Route := aloneRoute blk0
/-- An instance with empty ports. -/
def i0 : Inst := aloneInst none blk0
/-- A context that runs that instance. -/
def x0 : Ctx := { Ctx.fresh c0 aloneEnv [] blk0 with next := none, insts := [i0] }
/-- The firing of node 0 with the operands given. -/
def fires (l r x : Option Tok) : Latch := ⟨c0, r0, ⟨0, 0, false⟩, l, r, x, none, 507904, false⟩
/-- A region with one block of one record, its first eight ports bound to streamers 0 and 1, islands and the lattice. -/
def g0 : Region := { aloneRegion 0 blk0 with ports := [(3, .streamer 0), (4, .island 0), (5, .lattice)] }
/-- The small machine. -/
def lab (l r x : Option Tok) : State :=
  { State.reset with latch := fires l r x, nextId := 1, ctxs := [x0], loader := { State.reset.loader with regions := [g0] } }

/-- In the small machine every unpredicated record whose operands are clean fires real. -/
theorem lab_fires (i : Instr) (l r x : Option Tok) (hi : i.isEvent = false) (hp : (hdrOf i).pr = .always)
    (hc : (fires l r x).poisoned = false) (hn : (fires l r x).firesNull .always = false) : FiresReal i (lab l r x) := by
  refine ⟨hi, rfl, fun _ => rfl, hc, hp ▸ hn, ?_, fun _ => rfl⟩
  have h : (lab l r x).myInst = some i0 := rfl
  have ht : ∀ v n m, i0.regTaken v n m = false := fun _ _ _ => rfl
  simp only [State.outTaken, h, ht]
  have hl : i0.out.lsids = [] := rfl
  cases i.lsid <;> simp [hl]

/-- A record whose three operands are zeros fires real. -/
theorem lab_real (i : Instr) (hi : i.isEvent = false) (hp : (hdrOf i).pr = .always) :
    FiresReal i (lab (some (sc 0)) (some (sc 0)) (some (sc 0))) := lab_fires i _ _ _ hi hp rfl rfl

/-- A record with a null operand fires null. -/
theorem lab_null (i : Instr) (hi : i.isEvent = false) (hp : (hdrOf i).pr = .always) :
    FiresNull i (lab (some (nullTok 0)) none none) := ⟨hi, rfl, rfl, by rw [hp]; rfl⟩


/-! ### Results of the spec's worked examples -/

/-- The value that a record sends to its first target, and the flags that it holds, when it fires in the small machine. -/
def result (i : Instr) (l r x : TokVal) : Option (TokVal × Word) :=
  let tok := fun v => some (newTok v 0 none 507904)
  match exec i (lab (tok l) (tok r) (tok x)) with
  | .next t => t.packets.head?.map fun p => (p.tok.val, (t.myInst.map fun j => j.out.flags).getD 0)
  | _ => none

/-- The same, of scalar operands and results. -/
def gives (i : Instr) (l r x v f : Word) : Bool := result i (.scalar l) (.scalar r) (.scalar x) == some (.scalar v, f)

/-- A vector whose first lanes of `w` bits are those given, the rest 0. -/
def lanesOf (w : Nat) (l : List Nat) : Vec := BitVec.ofNat 1024 ((l.zipIdx.map fun v => v.1 * 2 ^ (w * v.2)).sum)

/-- A vector whose `n` lanes of `w` bits all hold the number given. -/
def splat (w n v : Nat) : Vec := lanesOf w (List.replicate n v)

/-- The worked integer results of R290's table. -/
theorem test_integer_results :
    (gives (.div hN .i32 .port) 7 0 0 0 flagDZ && gives (.rem hN .i32 .port) (-7) 0 0 0xFFFFFFFFFFFFFFF9 flagDZ &&
    gives (.div hN .i32 .port) (-7) 2 0 (-3) 0 && gives (.rem hN .i32 .port) (-7) 2 0 (-1) 0 &&
    gives (.div hN .i8 .port) (-128) (-1) 0 0xFFFFFFFFFFFFFF80 0 && gives (.rem hN .i8 .port) (-128) (-1) 0 0 0 &&
    gives (.mulh hN .n64 .port) (-1) (-1) 0 0xFFFFFFFFFFFFFFFE 0 && gives (.mulh hN .i64 .port) (-1) (-1) 0 0 0 &&
    gives (.mulw hN .i32 .port) 0x80000000 2 0 0xFFFFFFFF00000000 0 && gives (.add hN .n8 .port) 200 100 0 44 0 &&
    gives (.adds hN .n8 .port) 200 100 0 255 flagSAT && gives (.subs hN .n8 .port) 5 10 0 0 flagSAT &&
    gives (.sar hN .i16 .port) 0x8000 17 0 0xFFFFFFFFFFFFC000 0 && gives (.sar hN .n16 .port) 0x8000 1 0 0xC000 0 &&
    gives (.rol hN .n8 .port) 0x81 1 0 0x03 0 && gives (.clz hN .w32) 0 0 0 32 0 && gives (.popc hN .w64) 0xFF 0 0 8 0 &&
    gives (.bfx hN 4 7 true) 0x0F80 0 0 0xFFFFFFFFFFFFFFF8 0 && gives (.tst hN .lt .port) (-1) 0 0 1 0 && gives (.tst hN .ltn .port) (-1) 0 0 0 0 &&
    gives (.min hN .i32 .port) 0xFFFFFFFF 1 0 (-1) 0 && gives (.min hN .n32 .port) 0xFFFFFFFF 1 0 1 0 &&
    gives (.lea hN (.port 4)) 0x00005FFFFFFFFFF8 1 0 0x0000500000000008 0 && gives (.add hN .i64 .port) 0x00005FFFFFFFFFF8 16 0 0x0000600000000008 0 &&
    gives (.apx hN (.imm 0x1F40)) 5 0 0 0x0000500000001F40 0) = true := by decide +kernel

/-- The worked FP results of R299's table, FMA's of R292, and 1/√4. -/
theorem test_fp_results :
    (gives (.fadd hN .f32 (.port .rne)) 0x4B800000 0x3F800000 0 0x4B800000 flagNX && gives (.fadd hN .f32 (.port .ru)) 0x4B800000 0x3F800000 0 0x4B800001 flagNX &&
    gives (.fdiv hN .f32 (.port .rne)) 0x3F800000 0 0 0x7F800000 flagDZ && gives (.fdiv hN .f32 (.port .rne)) 0 0 0 0x7FC00000 flagNV &&
    gives (.fmin hN .f32 .port) 0x7FC00000 0x40000000 0 0x40000000 0 && gives (.fmin hN .f32 .port) 0x80000000 0 0 0x80000000 0 &&
    gives (.fcvt hN (.int .i32) (.fp .f32) .rne) 0x40600000 0 0 4 flagNX && gives (.fcvt hN (.int .i32) (.fp .f32) .rz) 0x40600000 0 0 3 flagNX &&
    gives (.fcvt hN (.int .i32) (.fp .f32) .rne) 0x4F32D05E 0 0 2147483647 flagNV &&
    gives (.fcvt hN (.tap .t8) (.fp .f32) .rne) 0x459C4000 0 0 0x7F (flagSAT ||| flagNX) && gives (.fcvt hN (.tap .t8) (.fp .f32) .rne) 0x40400000 0 0 0x58 0 &&
    gives (.fcvt hN (.fp .f16) (.fp .f32) .rne) 0x477FF000 0 0 0x7C00 (flagOF ||| flagNX) && gives (.exp2 hN .f32 .rne) 0xC3160000 0 0 0 (flagUF ||| flagNX) &&
    gives (.log2 hN .f32 .rne) 0 0 0 0xFF800000 flagDZ && gives (.log2 hN .f32 .rne) 0xBF800000 0 0 0x7FC00000 flagNV &&
    gives (.frnd hN .f32 .rne) 0xBF000000 0 0 0x80000000 flagNX && gives (.frnd hN .f32 .rne) 0x40200000 0 0 0x40000000 flagNX &&
    gives (.frnd hN .f32 .rna) 0x40200000 0 0 0x40400000 flagNX && gives (.fcls hN .f32) 1 0 0 0x20 0 &&
    gives (.ftst hN .lt .f32 .port) 0x7FC00000 0x3F800000 0 0 flagNV && gives (.ftst hN .un .f32 .port) 0x7FC00000 0x3F800000 0 1 0 &&
    gives (.fma hN .f32 .rne) 0x3F800001 0x3F7FFFFE 0xBF800000 0xA8800000 0 && gives (.rsq hN .f32 .rne) 0x40800000 0 0 0x3F000000 0) = true := by decide +kernel

/-- The worked vector results of R314's table, and VSCAN and VRED of R173's. -/
theorem test_vector_results :
    result (.vtst hN (.int .i32) .lt) (.vector (lanesOf 32 [0xFFFFFFFF, 0, 5, 7])) (.vector (splat 32 32 3)) (.scalar 0) = some (.scalar 0xFFFFFFF3, 0) ∧
    result (.vmaxi hN (.fp .f32) false) (.vector (lanesOf 32 [0x3F800000, 0x40400000, 0x40400000, 0x7FC00000])) (.scalar 0) (.scalar 0) = some (.scalar 1, 0) ∧
    result (.vmini hN (.fp .f32) false) (.vector (lanesOf 32 [0x3F800000, 0x40400000, 0x40400000, 0x7FC00000])) (.scalar 0) (.scalar 0) = some (.scalar 4, 0) ∧
    result (.vred hN (.int .i8) .add .rne false) (.vector (splat 8 128 0x80)) (.scalar 0) (.scalar 0) = some (.scalar 0xFFFFFFFFFFFFC000, 0) ∧
    result (.vcvt hN (.fp .b16) (.fp .f32) .rne 1) (.vector (lanesOf 32 [0x3F808000])) (.scalar 0) (.scalar 0) =
      some (.vector (BitVec.ofNat 1024 (0x3F80 * 2 ^ 512)), flagNX) ∧
    (result (.viota hN .n16) (.scalar 65534) (.scalar 0) (.scalar 0)).map (fun p => p.1) =
      some (.vector (lanesOf 16 ((List.range 64).map fun i => (65534 + i) % 65536))) ∧
    result (.vperm hN (.int .n32)) (.vector (lanesOf 32 (List.range 32))) (.vector (lanesOf 32 (33 :: List.replicate 31 31))) (.scalar 0) =
      some (.vector (lanesOf 32 (1 :: List.replicate 31 31)), 0) ∧
    result (.vred hN (.fp .f32) .add .rne false) (.vector (lanesOf 32 [0x4B800000, 0x3F800000, 0x3F800000, 0xCB800000])) (.scalar 0) (.scalar 0) =
      some (.scalar 0x3F800000, flagNX) := by decide +kernel

/-- The generator's worked value (R323), and a drawn lane: with weights 1, 1 and a draw of 0.725 the second lane is chosen (R326). -/
theorem test_generator : rngMix 0 1 = 0xB9C15219B3D192BE ∧ rngUnit 0xB9C15219B3D192BE = 0x3F39C152 ∧
    (match exec (.sample hN 0) { lab (some (ve (lanesOf 32 [0x3F800000, 0x3F800000]))) (some (sc 3)) none with
        ctxs := [{ x0 with regs := { x0.regs with rngk := 1 } }] } with
      | .next t => t.packets.head?.map fun p => p.tok.val
      | _ => none) = some (.scalar 1) := by decide +kernel

/-- ACCEPT's worked rows (R328): a and the token. -/
theorem test_accept :
    (result (.accept ⟨.always, .node 1 .l, .node 2 .l, 0⟩ 2 none) (.vector (lanesOf 32 [5, 6])) (.vector (lanesOf 32 [5, 9, 2])) (.scalar 10)) = some (.scalar 2, 0) ∧
    (result (.accept ⟨.always, .node 1 .l, .node 2 .l, 0⟩ 2 none) (.vector (lanesOf 32 [5, 6])) (.vector (lanesOf 32 [5, 6, 4])) (.scalar 10)) = some (.scalar 3, 0) ∧
    (result (.accept ⟨.always, .none, .node 2 .l, 0⟩ 2 none) (.vector (lanesOf 32 [7, 6])) (.vector (lanesOf 32 [5, 6, 4])) (.scalar 10)) = some (.scalar 5, 0) := by decide +kernel

/-- GATE steers by R (R268), SEL chooses by X (R267), and CONST extends its immediate (R265). -/
theorem test_dataflow_results :
    gives (.sel hN false) 7 8 0 8 0 = true ∧ gives (.sel hN false) 7 8 9 7 0 = true ∧ gives (.const hN (.int .i32) 0xFFFFFFFF) 0 0 0 (-1) 0 = true ∧
    result (.gate hN false) (.scalar 7) (.scalar 0) (.scalar 0) = some (.null, 0) ∧ gives (.gate hN false) 7 1 0 7 0 = true := by decide +kernel


/-! ### States that meet the hypotheses of the statements: firing -/

/-- The small machine with scalar operands. -/
def labS (l r x : Word) : State := lab (some (sc l)) (some (sc r)) (some (sc x))
/-- The small machine with a vector on port L. -/
def labV (l : Vec) (r x : Tok) : State := lab (some (ve l)) (some r) (some x)

theorem labS_real (i : Instr) (l r x : Word) (hi : i.isEvent = false) (hp : (hdrOf i).pr = .always) : FiresReal i (labS l r x) :=
  lab_fires i _ _ _ hi hp rfl rfl

theorem labV_real (i : Instr) (l : Vec) (hi : i.isEvent = false) (hp : (hdrOf i).pr = .always) :
    FiresReal i (labV l (sc 0) (sc 0)) ∧ FiresReal i (labV l (ve 0) (ve 0)) :=
  ⟨lab_fires i _ _ _ hi hp rfl rfl, lab_fires i _ _ _ hi hp rfl rfl⟩

/-- A word whose decoding answers a record decodes to it. -/
theorem decode_of {w : RecordWord} {i : Instr} (h : (decode w).toOption = some i) : decode w = .ok i := by
  cases e : decode w with
  | ok j => rw [e] at h; cases h; rfl
  | error d => rw [e] at h; cases h

theorem witness_StepKeepsSound : State.reset.Sound ∧ ∃ t, step State.reset = .next t := ⟨⟨by decide, by decide⟩, _, rfl⟩

theorem witness_DecodeEncode : (Instr.add hN .i32 .port).isEvent = false ∧ (∀ h, Instr.add hN .i32 .port ≠ .msgReply h) ∧
    (Instr.add hN .i32 .port).wf = true := ⟨rfl, fun _ => nofun, rfl⟩

theorem witness_EncodeDecode : decode 0x100C40400C00000000000000 = .ok (.add ⟨.always, .reg 4, .node 3 .l, 0⟩ .i64 .port) :=
  decode_of (by decide)

/-- The machine in which the word given stands alone, about to fire. -/
def alone (w : RecordWord) : State := { State.reset.placeAlone w with agenda := [] }
/-- The key that it fires. -/
def key0 : FireKey := ⟨c0, r0, ⟨0, 0, false⟩⟩
/-- Its context, its instance and its placed block. -/
def aloneCtx (w : RecordWord) : Ctx := ((alone w).ctx? c0).getD x0
def aloneI (w : RecordWord) : Inst := ((aloneCtx w).inst? r0).getD i0
def aloneP (w : RecordWord) : Placed := ((alone w).blockOf c0 (aloneI w)).getD ⟨0, 0, []⟩

theorem witness_StepRunsDecoded :
    let w := word 0x10 1 0x03 0x004 0xC00 7
    (alone w).ctx? c0 = some (aloneCtx w) ∧ (aloneCtx w).inst? r0 = some (aloneI w) ∧ (alone w).blockOf c0 (aloneI w) = some (aloneP w) ∧
      0 < (aloneP w).size ∧ (aloneCtx w).halt = none ∧ decode ((aloneP w).word 0) = .ok (.add hN .i64 (.imm 7)) ∧
      (alone w).isReady (aloneCtx w) (aloneI w) (aloneP w) key0.key (.add hN .i64 (.imm 7)) = true ∧ (alone w).peChoice key0 = some key0 :=
  ⟨by decide +kernel, by decide +kernel, by decide +kernel, by decide +kernel, by decide +kernel, decode_of (by decide +kernel),
    by decide +kernel, by decide +kernel⟩

theorem witness_StepRunsEvents :
    Instr.resync.isEvent = true ∧ State.reset.endpointFor false 3 = true ∧ State.reset.endpointFor false 1 = false ∧
    (alone 0).ctx? c0 = some (aloneCtx 0) ∧ (aloneCtx 0).inst? r0 = some (aloneI 0) ∧ (alone 0).blockOf c0 (aloneI 0) = some (aloneP 0) ∧
      0 < (aloneP 0).size ∧ (aloneCtx 0).halt = none ∧ (decode ((aloneP 0).word 0)).toOption = none :=
  ⟨rfl, by decide, by decide, by decide +kernel⟩

theorem witness_NullFiring : FiresNull (.add hN .i32 .port) (lab (some (nullTok 0)) none none) := lab_null _ rfl rfl

/-- The small machine without supervisor privilege. -/
def labUser : State := { labS 0 0 0 with ctxs := [{ x0 with env := { aloneEnv with super := false } }] }

theorem witness_PrivilegeFault : (Instr.fltr hN).privileged = true ∧ labUser.latch.released = false ∧ labUser.super = false ∧
    labUser.latch.firesNull .always = false := by decide

/-- The small machine with a poisoned operand. -/
def labPoison : State := lab (some { sc 0 with poison := true }) none none

theorem witness_ParityFault : labPoison.latch.released = false ∧ labPoison.super = true ∧ labPoison.latch.poisoned = true := by decide

/-- The small machine whose instance has the outputs given. -/
def labOut (o : Outputs) : State := { labS 0 0 0 with ctxs := [{ x0 with insts := [{ i0 with out := o }] }] }

theorem witness_SecondLsid :
    (let s := labOut { i0.out with lsids := [⟨0, 0, 5, false⟩] }
     s.outTaken (.ld hN (.int .n64) m0 0) = true ∧ s.latch.released = false ∧ s.latch.poisoned = false ∧ s.latch.firesNull .always = false) ∧
    (labOut { i0.out with claims := [⟨false, 4, 5⟩] }).outTaken (.time (hG 4)) = true ∧
    (labOut { i0.out with regs := [⟨false, 4, 9, .scalar 1⟩] }).outTaken (.caddr (hG 4) m0 .die none) = true := by decide

/-- An instance older than the one that fires, whose exit is not known. -/
def older : Inst := { i0 with route := { r0 with slot := 1 } }
/-- The small machine in which the instance that fires is speculative. -/
def labSpec : State := { labS 0 0 0 with ctxs := [{ x0 with insts := [older, i0] }] }

theorem witness_HeldRecords : (Instr.trap h0 1).held = true ∧ labSpec.latch.released = false ∧ labSpec.super = true ∧
    labSpec.latch.poisoned = false ∧ labSpec.latch.firesNull .always = false ∧ labSpec.outTaken (.trap h0 1) = false ∧
    labSpec.nonSpec labSpec.latch.ctx labSpec.latch.route = false ∧ FiresReal (.trap h0 1) (labS 0 0 0) :=
  ⟨rfl, rfl, rfl, rfl, rfl, rfl, rfl, labS_real _ 0 0 0 rfl rfl⟩

/-- An ending fault of node 0. -/
def fault0 : FaultRec := ⟨codeLooptag, 0, 0#8, 0, 0, 0, 0, 0, blk0, 0, 0, true⟩

theorem witness_TakeEndingFault : let s := labS 0 0 0
    s.ctx? c0 = some x0 ∧ x0.insts = [i0] ∧ i0.faults = [] ∧ fault0.ending = true ∧ fault0.code ≠ codeGroup ∧ x0.mark ≠ .seen ∧
      (∀ t, x0.env.origin ≠ .task t) ∧ s.dieOf c0 < s.faults.queues.length ∧ s.faults.loss.length = s.faults.queues.length ∧
      (s.faults.queues.getD (s.dieOf c0) []).length < 4096 :=
  ⟨rfl, rfl, rfl, rfl, by decide, by decide, fun _ => nofun, by decide, rfl, by decide⟩

theorem witness_YoungerFaultIsHeld : ∃ x, labSpec.ctx? c0 = some x ∧ x.insts = [older, i0] ∧ older.faults = [] ∧ older.route ≠ i0.route ∧
    x.inst? i0.route = some i0 := ⟨_, rfl, rfl, rfl, by decide, by decide⟩

/-- The machine after reset with fault queue 0 full. -/
def fullQueue : State := { State.reset with faults := { State.reset.faults with queues := List.replicate 4096 0 :: List.replicate 8 [] } }

theorem witness_FullQueueDiscards : (4096 ≤ (fullQueue.faults.queues.getD 0 []).length ∧ 0 < fullQueue.faults.queues.length ∧
      0 < fullQueue.faults.loss.length ∧ 0 < fullQueue.faults.accepted.length) ∧ (State.reset.faults.queues.getD 8 []).length < 4096 :=
  ⟨⟨Nat.le_of_eq List.length_replicate.symm, Nat.zero_lt_succ _, by decide, by decide⟩, by decide⟩

/-! ### States that meet the hypotheses of the statements: computation -/

theorem witness_IntegerArithmetic : FiresReal (.div hN .i32 .port) (labS 0x80000000 (-1) 0) ∧ FiresReal (.div hN .n64 .port) (labS 7 0 0) ∧
    valueOf true ((labS 0x80000000 (-1) 0).left 32) = IntTy.i32.lo ∧ valueOf true ((labS 0x80000000 (-1) 0).right 32 .port) = -1 :=
  ⟨labS_real _ _ _ _ rfl rfl, labS_real _ _ _ _ rfl rfl, by decide, by decide⟩

theorem witness_IntegerLogic : FiresReal (.andn hN .port) (labS 7 1 0) ∧ FiresReal (.abs hN .w8) (labS 0x80 0 0) :=
  ⟨labS_real _ _ _ _ rfl rfl, labS_real _ _ _ _ rfl rfl⟩

theorem witness_IntegerShifts : FiresReal (.rol hN .n8 .port) (labS 0x81 9 0) := labS_real _ _ _ _ rfl rfl

theorem witness_IntegerFields : FiresReal (.mulw hN .i32 .port) (labS 0x80000000 2 0) ∧ IntTy.i32.width ≤ 32 ∧
    FiresReal (.bfx hN 0 63 true) (labS 0x0F80 0 0) ∧ FiresReal (.bfi hN 63 0) (labS 0 1 0) ∧ (63#6).toNat + (0#6).toNat + 1 ≤ 64 :=
  ⟨labS_real _ _ _ _ rfl rfl, by decide, labS_real _ _ _ _ rfl rfl, labS_real _ _ _ _ rfl rfl, by decide⟩

/-- Each class of operand that the FP statements name occurs. -/
theorem witness_fp_operands : let f := fmtOf .f32
    f.decode 0x7FC00000 = .nan false ∧ f.decode 0x7F800000 = .inf false ∧ f.decode 0xFF800000 = .inf true ∧ f.decode 0 = .fin false 0 (-149) ∧
      f.decode 0x3F800000 = .fin false 0x800000 (-23) ∧ f.decode 0xBF800000 = .fin true 0x800000 (-23) := by decide

theorem witness_FpAddMul : FiresReal (.fadd hN .f32 (.port .rd)) (labS 0x3F800000 0xBF800000 0) ∧
    FiresReal (.fmul hN .f32 (.port .rne)) (labS 0 0x7F800000 0) := ⟨labS_real _ _ _ _ rfl rfl, labS_real _ _ _ _ rfl rfl⟩

theorem witness_FpDivRoot : FiresReal (.fdiv hN .f32 (.port .rne)) (labS 0x3F800000 0 0) ∧ FiresReal (.fsqrt hN .f32 .rne) (labS 0x40000000 0 0) ∧
    FiresReal (.rsq hN .f32 .rne) (labS 0 0 0) ∧ FiresReal (.fma hN .f32 .rne) (labS 0x7F800000 0 0) :=
  ⟨labS_real _ _ _ _ rfl rfl, labS_real _ _ _ _ rfl rfl, labS_real _ _ _ _ rfl rfl, labS_real _ _ _ _ rfl rfl⟩

theorem witness_FpSelect : FiresReal (.fmin hN .f32 .port) (labS 0x80000000 0 0) ∧ FiresReal (.fcls hN .f32) (labS 1 0 0) :=
  ⟨labS_real _ _ _ _ rfl rfl, labS_real _ _ _ _ rfl rfl⟩

theorem witness_FpConvert : FiresReal (.fcvt hN (.int .i32) (.fp .f32) .rz) (labS 0x40600000 0 0) ∧
    FiresReal (.fcvt hN (.tap .t8) (.fp .f32) .rne) (labS 0x459C4000 0 0) ∧ FiresReal (.frnd hN .f32 .rna) (labS 0x40200000 0 0) :=
  ⟨labS_real _ _ _ _ rfl rfl, labS_real _ _ _ _ rfl rfl, labS_real _ _ _ _ rfl rfl⟩

theorem witness_FpTranscendental : FiresReal (.exp2 hN .f32 .rne) (labS 0x3F800000 0 0) ∧ dyadicCmp 1 0 0x800000 (-23) = .eq ∧
    FiresReal (.log2 hN .f32 .rne) (labS 0x40000000 0 0) ∧ dyadicCmp 1 1 0x800000 (-22) = .eq :=
  ⟨labS_real _ _ _ _ rfl rfl, by decide, labS_real _ _ _ _ rfl rfl, by decide⟩

/-- The scalar firing of a lane's operands. -/
theorem witness_VectorLanes : FiresReal (.vadd hN (.fp .f32) (.port .rz)) (labV 0 (ve 0) (ve 0)) ∧ FiresReal (.fadd hN .f32 (.port .rz)) (labS 0 0 0) ∧
    (labS 0 0 0).latch.opL = laneTok (.fp .f32) (labV 0 (ve 0) (ve 0)).latch.opL 31 :=
  ⟨(labV_real _ _ rfl rfl).2, labS_real _ _ _ _ rfl rfl, by decide +kernel⟩

theorem witness_VectorMoves : FiresReal (.vextr hN (.int .i32) 31) (labV 0 (sc 0) (sc 0)) ∧ (31#7).toNat < (Ty.int .i32).lanes ∧
    FiresReal (.vperm hN (.int .n8)) (labV 0 (ve 0) (ve 0)) := ⟨(labV_real _ _ rfl rfl).1, by decide, (labV_real _ _ rfl rfl).2⟩

theorem witness_VectorTests : FiresReal (.vtst hN (.int .i16) .lt) (labV 0 (ve 0) (ve 0)) ∧ IntTy.i16.isLane = true ∧ IntTy.i16.width ≠ 8 ∧
    FiresReal (.vtst hN (.fp .b16) .ge) (labV 0 (ve 0) (ve 0)) ∧ FiresReal (.vcvt hN (.fp .b16) (.fp .f32) .rne 1) (labV 0 (ve 0) (ve 0)) ∧
    (Instr.vcvt hN (.fp .b16) (.fp .f32) .rne 1).wf = true :=
  ⟨(labV_real _ _ rfl rfl).2, rfl, by decide, (labV_real _ _ rfl rfl).2, (labV_real _ _ rfl rfl).2, rfl⟩

theorem witness_VectorIntReductions : IntTy.i8.isLane = true ∧ FiresReal (.vred hN (.int .i8) .min .rne false) (labV 0 (sc 0) (sc 0)) ∧
    FiresReal (.vdot hN (.int .i32) .rne true) (labV 0 (ve 0) (sc 0)) :=
  ⟨rfl, (labV_real _ _ rfl rfl).1, lab_fires _ _ _ _ rfl rfl rfl rfl⟩

theorem witness_VectorFpReductions : FpTy.b16.isLane = true ∧ FiresReal (.vred hN (.fp .f32) .max .rne true) (labV 0 (sc 1) (sc 0)) ∧
    FiresReal (.vscan hN (.fp .f32) .rz true) (labV 0 (sc 0) (sc 0)) ∧ (Ty.fp .b16).isIntOrVfp = true ∧ (Ty.fp .b16).isWide = true ∧
    FiresReal (.vmaxi hN (.fp .b16) true) (labV 0 (sc 1) (sc 0)) :=
  ⟨rfl, lab_fires _ _ _ _ rfl rfl rfl rfl, (labV_real _ _ rfl rfl).1, rfl, rfl, lab_fires _ _ _ _ rfl rfl rfl rfl⟩

theorem witness_FormatRecords : FiresReal (.amax hN .t8) (labV (splat 32 32 0x3F800000) (sc 0) (sc 0)) ∧
    FiresReal (.cvq hN .t6 3) (labV 0 (sc 0x7F000) (sc 0)) ∧ FiresReal (.cvdq hN .t8 3) (labV 0 (sc 0x7F000) (sc 0)) :=
  ⟨(labV_real _ _ rfl rfl).1, lab_fires _ _ _ _ rfl rfl rfl rfl, lab_fires _ _ _ _ rfl rfl rfl rfl⟩

theorem witness_ChannelWrites : FiresReal (.chset hN) (labS 31 0x0140 0) ∧ FiresReal (.chtab hN) (labV (splat 16 64 0x0140) (sc 0) (sc 0)) ∧
    FiresReal (.sclw hN 15 8) (labV 0 (sc 0) (sc 0)) := ⟨labS_real _ _ _ _ rfl rfl, (labV_real _ _ rfl rfl).1, (labV_real _ _ rfl rfl).1⟩

theorem witness_GenerationRecords : let s := labV (splat 32 32 0x3F800000) (sc 3) (sc 0)
    FiresReal (.sample hN 15) s ∧ ((s.begun (.sample hN 15)).me.bind fun x => (s.begun (.sample hN 15)).readRng x s.latch.route) = some (0, 0) :=
  ⟨lab_fires _ _ _ _ rfl rfl rfl rfl, by decide +kernel⟩

theorem witness_TopkAccept : FiresReal (.topk hN (.imm 8)) (labV 0 (ve 0) (sc 0)) ∧ FiresReal (.accept hN 31 (some 15)) (labV 0 (ve 0) (sc 0)) :=
  ⟨lab_fires _ _ _ _ rfl rfl rfl rfl, lab_fires _ _ _ _ rfl rfl rfl rfl⟩


/-! ### A machine with objects -/

/-- Memory in which the object server has created four objects of 64 KiB, each with its page resident in a frame of D0: the aperture table
(serial 1, class V), data (2, class V), code (3, class X on V) and data of class P (4). Entries 1, 2 and 3 of the table bind the code, the data
and the data of class P, each with the rights its class may hold (R32, R33, R38, R44). -/
def mem0 : List Host.Cell :=
   [(2, 8), (524290, 16), (1048578, 24), (1572873, 16), (1572874, 32), (1572881, 64), (1572882, 32), (1572889, 112), (1572890, 32), (1572897, 160), (1572898, 32)] ++
   [(2097154, 4), (2097159, 64), (2101248, 1), (2101258, 1), (2101262, 70), (2101263, 64), (2101274, 32), (2101281, 32), (2101282, 32), (2109440, 1), (2109442, 4)] ++
   [(2109447, 64), (2113536, 2), (2113546, 1), (2113550, 86), (2113551, 64), (2113561, 48), (2113562, 32), (2113569, 80), (2113570, 32), (2121728, 2), (2121730, 4)] ++
   [(2121735, 64), (2125824, 3), (2125834, 1), (2125838, 74), (2125839, 96), (2125849, 96), (2125850, 32), (2125857, 128), (2125858, 32), (2134016, 3), (2134018, 4)] ++
   [(2134019, 128), (2134023, 64), (2138112, 4), (2138122, 1), (2138126, 118), (2138127, 72), (2138137, 144), (2138138, 32), (2138145, 176), (2138146, 32), (17179869216, 3)] ++
   [(17179869234, 1), (17179869240, 5), (17179869247, 128), (17179869248, 2), (17179869266, 1), (17179869272, 11), (17179869279, 128), (17179869280, 4), (17179869298, 1), (17179869304, 27), (17179869311, 128)]

/-- The near-root words of the objects' pages, by serial. -/
def pteOf (n : Nat) : Nat := 0x200000 + 0x3000 * (n - 1)
/-- The address of a byte of object `n`. -/
def objByte (n ofs : Nat) : Nat := 2 ^ 34 + 65536 * (n - 1) + ofs

/-- The machine after reset with those objects. -/
def storage : State := { State.reset with
  mem := mem0
  names := { State.reset.names with
    horizon := 5#64, mirrors := List.replicate 8 5#64, tables := ⟨524, 4194304, []⟩, blocks := ⟨2, 805306368, []⟩, frames := ⟨262148, 786432, []⟩ :: State.reset.names.frames.tail
    owners := [⟨pteOf 1, 1, 0⟩, ⟨pteOf 2, 2, 0⟩, ⟨pteOf 3, 3, 0⟩, ⟨pteOf 4, 4, 0⟩] } }

theorem storage_sound : storage.Sound := ⟨by decide +kernel, by decide⟩

/-- The aperture-table pointer of the table, object 1, with 16 entries (R37). -/
def atp1 : BitVec 128 := 16#64 ++ 1#64

/-- An aperture entry over the first 64 KiB of object `n` (R38). -/
def entry (n rights : Nat) : List Word := [BitVec.ofNat 64 n, 0, 65536, BitVec.ofNat 64 (2 ^ 63 + rights)]

/-- Near address of a byte behind aperture entry `n`. -/
def near (n ofs : Nat) : Word := BitVec.ofNat 64 (n * 2 ^ 44 + ofs)

/-- The surroundings of a context with that table. -/
def env1 : Env := { aloneEnv with atp := atp1 }
/-- The context of the machine with objects. -/
def x1 : Ctx := { x0 with env := env1 }
/-- The machine with objects, about to fire a record with the operands given. -/
def world (l r x : Option Tok) : State :=
  { storage with latch := fires l r x, nextId := 1, ctxs := [x1], loader := { storage.loader with regions := [g0] } }
/-- The same with scalar operands. -/
def worldS (l r x : Word) : State := world (some (sc l)) (some (sc r)) (some (sc x))

/-- In the machine with objects, too, every unpredicated record whose operands are clean fires real. -/
theorem world_fires (i : Instr) (l r x : Option Tok) (hi : i.isEvent = false) (hp : (hdrOf i).pr = .always)
    (hc : (fires l r x).poisoned = false) (hn : (fires l r x).firesNull .always = false) : FiresReal i (world l r x) := by
  refine ⟨hi, rfl, fun _ => rfl, hc, hp ▸ hn, ?_, fun _ => rfl⟩
  have h : (world l r x).myInst = some i0 := rfl
  have ht : ∀ v n m, i0.regTaken v n m = false := fun _ _ _ => rfl
  simp only [State.outTaken, h, ht]
  have hl : i0.out.lsids = [] := rfl
  cases i.lsid <;> simp [hl]


/-! ### States that meet the hypotheses of the statements: dataflow, memory, counters, engines -/

/-- An answer that is a value which meets a condition. -/
def okAnd {ε α : Type} (e : Except ε α) (p : α → Bool) : Bool := match e with | .ok a => p a | .error _ => false
/-- A value that is there and meets a condition. -/
def someAnd {α : Type} (o : Option α) (p : α → Bool) : Bool := match o with | some a => p a | none => false

theorem witness_DataflowMoves : FiresReal (.mov hN false false) (labS 7 0 0) ∧ FiresReal (.movx hN false (.node 2 .l) (.reg 4)) (labS 7 0 0) ∧
    FiresReal (.sel hN true) (labV 0 (ve 0) (sc 0)) ∧ FiresReal (.gate hN false) (labS 7 0 0) ∧ FiresReal (.null hN false) (labS 7 0 0) ∧
    FiresReal (.const hN (.fp .f64) 0x3F800000) (lab none none none) :=
  ⟨labS_real _ _ _ _ rfl rfl, labS_real _ _ _ _ rfl rfl, lab_fires _ _ _ _ rfl rfl rfl rfl, labS_real _ _ _ _ rfl rfl, labS_real _ _ _ _ rfl rfl,
    lab_fires _ _ _ _ rfl rfl rfl rfl⟩

/-- An older instance that has produced 9 for G4 and a vector for V3, in a block whose masks name both. -/
def olderOut : Inst := { older with out := { i0.out with regs := [⟨false, 4, 5, .scalar 9⟩, ⟨true, 3, 6, .vector 1⟩] } }
def wrBlock : Placed := ⟨blk0, 0, [BitVec.ofNat 96 0x10, BitVec.ofNat 96 (8 * 2 ^ 64), 0]⟩
/-- The small machine with that instance before the one that fires. -/
def labOlder : State := { labS 0 0 0 with
  ctxs := [{ x0 with insts := [olderOut, i0] }], loader := { State.reset.loader with regions := [{ g0 with placed := [wrBlock] }] } }

theorem witness_DataflowReads : (labS 0 0 0).me = some x0 ∧ x0.olderThan r0 = [] ∧ x0.pending = [] ∧
    FiresReal (.read hN (.g 63)) (labS 0 0 0) ∧ FiresReal (.read (hG 3) (.v 15)) (labS 0 0 0) ∧ FiresReal (.tagr hN .gen false) (labS 0 0 0) ∧
    FiresReal (.wfld hN 5) (labS 0 0 0) ∧ FiresReal (.slks hN (.imm 9)) (labS 0 0 0) ∧ FiresReal (.slkr hN false) (labS 0 0 0) :=
  ⟨rfl, rfl, rfl, labS_real _ _ _ _ rfl rfl, labS_real _ _ _ _ rfl rfl, labS_real _ _ _ _ rfl rfl, labS_real _ _ _ _ rfl rfl, labS_real _ _ _ _ rfl rfl,
    labS_real _ _ _ _ rfl rfl⟩

theorem witness_DataflowReads_older : someAnd labOlder.me (fun x => x.olderThan r0 == [olderOut]) = true ∧ labOlder.blockOf c0 olderOut = some wrBlock ∧
    wrBlock.wmask.getLsbD 4 = true ∧ wrBlock.vmask.getLsbD 3 = true ∧ wrBlock.node 5 = none ∧ wrBlock.node 6 = none ∧
    labOlder.outTaken (.read hN (.g 4)) = false := by decide +kernel

/-- A job record, for WFLD's widths. -/
def job0 : Job := ⟨0, List.replicate 16 0, near 1 0, ⟨0, 3, 0⟩, atp1, 1, none, 0, [], 0, 0, [], 0, false, false, false, false, List.replicate 4 0, []⟩
/-- The small machine with that job. -/
def labJob : State := { labS 0 0 0 with loader := { (labS 0 0 0).loader with jobs := [job0] } }

theorem witness_DataflowReads_job : labJob.job? x0.env.job = some job0 ∧ labJob.me = some x0 ∧ labJob.outTaken (.wfld hN 5) = false ∧
    labJob.latch.firesNull .always = false := by decide

theorem witness_ExitRecords : (labS blk0 0 0).myInst = some i0 ∧ i0.exit = none ∧ FiresReal (.exitJmp h0 1) (labS blk0 0 0) ∧
    FiresReal (.exitCall (hG 63) 1) (labS blk0 0 0) ∧ (labS blk0 0 0).me = some x0 ∧ x0.inst? r0 = some i0 ∧ (x0.insts.map Inst.route).Nodup :=
  ⟨rfl, rfl, labS_real _ _ _ _ rfl rfl, labS_real _ _ _ _ rfl rfl, rfl, by decide, by decide⟩

/-- The small machine whose instance is the one given. -/
def labInst (j : Inst) : State := { labS 3 4 5 with ctxs := [{ x0 with insts := [j] }] }

theorem witness_ExitRecords_second : (labInst { i0 with exit := some .stop }).myInst = some { i0 with exit := some .stop } ∧
    (labInst { i0 with exit := some .stop }).outTaken (.exitStop h0) = false ∧ (labInst i0).latch.firesNull .always = false := by decide

/-- Instances whose level has the trip count given. -/
def level (c : Option Nat) : Inst := { i0 with level := { i0.level with count := c } }

theorem witness_LoopRecords : [none, some 0, some 1, some 4, some 5].all (fun c => (labInst (level c)).myInst == some (level c) &&
      [Instr.itin hN false, .itnx hN false, .itout hN false].all fun i => (labInst (level c)).outTaken i == false) = true ∧
    (labInst (level none)).latch.firesNull .always = false ∧ (labInst (level none)).latch.opR.word.toNat = 4 ∧
    FiresReal (.itin hN false) (labS 0 (2 ^ 24) 0) ∧ FiresReal (.itin hN false) (labS 0 (2 ^ 24 + 1) 0) ∧
    FiresNull (.itin hN false) (lab (some (nullTok 0)) none none) ∧ FiresNull (.itnx hN false) (lab (some (nullTok 0)) none none) :=
  ⟨by decide, rfl, rfl, labS_real _ _ _ _ rfl rfl, labS_real _ _ _ _ rfl rfl, lab_null _ rfl rfl, lab_null _ rfl rfl⟩

/-- The last iteration that a loop may have. -/
theorem witness_LoopRecords_last : let s := { labInst (level none) with latch := { (fires (some (sc 0)) none none) with key := ⟨0, 2 ^ 24 - 1, true⟩ } }
    s.latch.key.iter + 1 = 2 ^ 24 ∧ s.outTaken (.itnx hN false) = false := by decide

/-- A scalar token on channel 3, bound to T8 elements. -/
def onChan : Tok := { sc 0x58 with chan := 3, bind := some ⟨0x0100, 0⟩ }

theorem witness_MemoryRequests : FiresReal (.ld hN (.int .n64) m0 0) (labS 0 0 0) ∧ FiresReal (.vsts h0 (.fp .f32) m0) (lab (some (sc 0)) (some (ve 0)) (some (ve 0))) ∧
    FiresReal (.gset hN 0) (labV 0 (sc 0) (sc 0)) ∧ FiresReal (.ldr hN (.int .n64) m0 0) (labS 0 0 0) ∧ FiresReal (.pref h0 m0 15) (labS 0 0 0) ∧
    FiresReal (.red h0 (.fp .f32) m0 .add) (lab (some (sc 0)) (some onChan) none) ∧ onChan.chan ≠ 0 ∧ onChan.bind.isSome = true ∧
    FiresReal (.vredm h0 (.fp .f32) m0 .add) (lab (some (sc 0)) (some (ve 0)) (some { ve 0 with chan := 3, bind := onChan.bind })) :=
  ⟨labS_real _ _ _ _ rfl rfl, lab_fires _ _ _ _ rfl rfl rfl rfl, (labV_real _ _ rfl rfl).1, labS_real _ _ _ _ rfl rfl, labS_real _ _ _ _ rfl rfl,
    lab_fires _ _ _ _ rfl rfl rfl rfl, by decide, rfl, lab_fires _ _ _ _ rfl rfl rfl rfl⟩

theorem witness_CounterRecords : FiresReal (.cadd h0 m0 .die none) (labS 0 1 0) ∧ FiresReal (.cadd h0 m0 .die (some 15)) (labS 0 (2 ^ 48) 0) ∧
    FiresReal (.cadd h0 m0 .die (some 0)) (labS 0 (2 ^ 48 - 1) 0) ∧ FiresReal (.cwait hN m0 .die none) (labS 0 0 0) ∧
    FiresReal (.caddr (hG 4) m0 .die none) (labS 0 (2 ^ 48) 0) ∧ (hG 4).t0 = .reg 4 ∧ FiresReal (.caddr (hG 4) m0 .die (some 15)) (labS 0 (2 ^ 48) 0) :=
  ⟨labS_real _ _ _ _ rfl rfl, labS_real _ _ _ _ rfl rfl, labS_real _ _ _ _ rfl rfl, labS_real _ _ _ _ rfl rfl, labS_real _ _ _ _ rfl rfl, rfl,
    labS_real _ _ _ _ rfl rfl⟩

theorem witness_EngineRecords : FiresReal (.copy (hQ 3) 0 e0) (labV 0 (sc 0) (sc 0)) ∧ (labV 0 (sc 0) (sc 0)).portAt c0 3 = some (.streamer 0) ∧
    FiresReal (.mma (hQ 4) (.fp .f32) e0) (labV 0 (sc 0) (sc 0)) ∧ (labV 0 (sc 0) (sc 0)).portAt c0 4 = some (.island 0) ∧
    FiresReal (.lxrun (hQ 5) e0) (labV 0 (sc 0) (sc 0)) ∧ (labV 0 (sc 0) (sc 0)).portAt c0 5 = some .lattice :=
  ⟨(labV_real _ _ rfl rfl).1, rfl, (labV_real _ _ rfl rfl).1, rfl, (labV_real _ _ rfl rfl).1, rfl⟩


/-! ### States that meet the hypotheses of the statements: tasks, system records, saving -/

/-- The data object's words from an offset. -/
def withData (s : State) (ofs : Nat) (ws : List Word) : State := { s with mem := putWords s.mem (objByte 2 ofs) ws }

/-- A TCB of the block at code offset 0, whose counter stands at data offset 4,096 and whose threshold it has reached. -/
def tcb0 : List Word := [near 1 0, 0, near 2 4096, 0, 0xFFFF0000, 0, 0, 0, 0, 0, 0, 0, 0, 0, 0, 0]

/-- The machine with objects about to LAUNCH the TCB at data offset 0. -/
def labLaunch : State := withData (worldS (near 2 0) 0 0) 0 tcb0

theorem real_of {i : Instr} {s : State} (h1 : i.isEvent = false) (h2 : s.latch.released = false) (h3 : s.super = true)
    (h4 : s.latch.poisoned = false) (h5 : s.latch.firesNull (hdrOf i).pr = false) (h6 : s.outTaken i = false)
    (h7 : s.nonSpec s.latch.ctx s.latch.route = true) : FiresReal i s := ⟨h1, h2, fun _ => h3, h4, h5, h6, fun _ => h7⟩

/-- The same as one check. -/
def firesB (i : Instr) (s : State) : Bool :=
  !i.isEvent && !s.latch.released && s.super && !s.latch.poisoned && !s.latch.firesNull (hdrOf i).pr && !s.outTaken i &&
    s.nonSpec s.latch.ctx s.latch.route

theorem real_of_check {i : Instr} {s : State} (h : firesB i s = true) : FiresReal i s := by
  simp only [firesB, Bool.and_eq_true, Bool.not_eq_true'] at h
  obtain ⟨⟨⟨⟨⟨⟨h1, h2⟩, h3⟩, h4⟩, h5⟩, h6⟩, h7⟩ := h
  exact real_of h1 h2 h3 h4 h5 h6 h7

/-- Every hypothesis of the statement about LAUNCH, in the order of R109. -/
theorem witness_TaskRecords_launch : let s := labLaunch
    let i := Instr.launch hN
    let b := s.unitOf i .queued
    (firesB i s && s.reqs.isEmpty && ((s.begun i).request i .queued 0).olderReleased c0 r0 (s.asked i .queued).born &&
    okAnd (b.unitLocate (b.dieOf c0) (b.atpOf c0) (near 2 0) 128 [.r] 128) fun (l, s0) => okAnd (s0.readAt (s0.dieOf c0) l 128) fun (bs, s1) =>
      let ws := (List.range 16).map fun k => leWord ((bs.drop (8 * k)).take 8)
      s1.pause.isNone && (badTcb ws ((s1.loader.regions.filter fun g => g.job == s1.jobIn c0).map fun g => g.index)).isNone &&
      okAnd (s1.fetchAt (s1.dieOf c0) (s1.atpOf c0) (ws.getD 0 0)) fun (_, s2) =>
      okAnd (s2.unitLocate (s1.dieOf c0) (s2.atpOf c0) (ws.getD 2 0) 8 [.c] 8) fun (dl, s3) =>
      let k := s3.newTask c0 (near 2 0) l.full dl.full ws
      s3.pause.isNone && okAnd (s3.awaitDep k.die dl (ws.getD 3 0) (slkValue (s3.taskCode k)) k.id) fun (w, s4) =>
      let t4 := ({ s4.bump with tasks := (s4.tasks.filter fun u => u.at_ != l.full) ++ [{ k with woken := w }] } : State).writeTcb k
      w.isSome && t4.pause.isNone && !t4.taskMarked c0) = true := by decide +kernel

/-- That task, WAITING, and RUNNING as the context of the machine. -/
def k1 : Task := ⟨2, near 2 0, ⟨0, 2, 0⟩, ⟨0, 2, 4096⟩, c0, 0, 0, atp1, [c0], 0, tcb0, 1#4, 0, 0, 2, 2, none, 0#8, some 0, false, false⟩
def k3 : Task := { k1 with status := 3#4, ctx := some c0 }
/-- A context that a task with FPOL STOP runs. -/
theorem witness_TakeEndingFault_task : k1.fpol = 0 ∧ ({ labS 0 0 0 with tasks := [k3] } : State).task? 2 = some k3 := by decide
/-- The machine with objects about to CANCEL a task, and the launch whose header stands at data offset 0. -/
def labCancel (k : Task) : State := { worldS (near 2 0) 0 0 with tasks := [k] }
def job1 : Job := { job0 with at_ := ⟨0, 2, 0⟩ }
def labCancelLaunch (js : List Job) : State := { worldS (near 2 0) 0 0 with loader := { (worldS 0 0 0).loader with jobs := js } }

theorem witness_TaskRecords_spawn : (labS 7 0 0).me = some x0 ∧ (labS 7 0 0).regionOf c0 = some g0 ∧ FiresReal (.spawn hN 2 1) (labS 7 0 0) ∧
    x0.mark ≠ .seen ∧ g0.nextColour = some 1 ∧ ({ g0 with pool := [] } : Region).nextColour = none :=
  ⟨rfl, rfl, labS_real _ _ _ _ rfl rfl, by decide, by decide +kernel, by decide +kernel⟩

/-- The small machine whose context has the mark, or the origin, given. -/
def labCtx (x : Ctx) : State := { labS 7 8 9 with ctxs := [x] }
def childX : Ctx := { x0 with env := { aloneEnv with origin := .child ⟨0, 5, 1⟩ 9 } }

theorem witness_TaskRecords_marked : (labCtx { x0 with mark := .seen }).me = some { x0 with mark := .seen } ∧
    firesB (.spawnNowait hN 0 1) (labCtx { x0 with mark := .seen }) = true := by decide

theorem witness_TaskRecords_retn : (labCtx childX).me = some childX ∧ (labCtx childX).myInst = some i0 ∧ i0.out.retn = none ∧
    firesB (.retn h0) (labCtx childX) = true ∧ FiresReal (.retn h0) (labS 7 0 0) ∧ (∀ p q, x0.env.origin ≠ .child p q) :=
  ⟨by decide, by decide, rfl, by decide, labS_real _ _ _ _ rfl rfl, fun _ _ => nofun⟩

/-- CANCEL of a task that waits, of one that runs, and of none. -/
theorem witness_TaskRecords_cancel : [labCancel k1, labCancel k3].all (fun s =>
    let i := Instr.cancel hN
    let b := s.unitOf i .queued
    firesB i s && s.reqs.isEmpty && okAnd (b.unitLocate (b.dieOf c0) (b.atpOf c0) (near 2 0) 128 [.r, .w] 128) fun (l, u) =>
      u.pause.isNone && decide (l.full = k1.at_ ∧ u.tasks = s.tasks) && (u.ctx? c0).isSome &&
        (u.endTask { k1 with status := 5#4, lastf := codeCancelled }).pause.isNone) = true := by decide +kernel

theorem witness_TaskRecords_cancelLaunch : let s := labCancelLaunch [job1]
    let i := Instr.cancelLaunch hN
    let b := s.unitOf i .queued
    (firesB i s && s.reqs.isEmpty && okAnd (b.unitLocate (b.dieOf c0) (b.atpOf c0) (near 2 0) 64 [.r] 8) fun (l, u) =>
      u.pause.isNone && u.loader.jobs.filter (fun j => j.at_ == l.full && !j.refused && !j.complete) == [job1] &&
        (u.cancelJob job1).1.pause.isNone) = true := by decide +kernel

/-- The machine about to send a message: to endpoint 3, to itself, as an answer, to none that exists. -/
def labMsg (r : Word) : State := lab (some (ve 77)) (some (sc r)) none
/-- The same with an MSGR that waits for its answer. -/
def labWait : State := { labMsg (2 ^ 32) with reqs := [{ (labMsg 0).asked (.msgr hN) .answer with id := 55 }] }

theorem witness_SystemRecords : FiresReal (.trap h0 1) (labS 7 0 0) ∧ FiresReal (.time hN) (labS 7 0 0) ∧
    firesB (.msg hN) (labMsg 3) = true ∧ (labMsg 3).endpointFor true 3 = true ∧ (labMsg 999).endpointFor true 999 = false ∧
    firesB (.msgr hN) (labMsg 0) = true ∧ (labWait.waitingMsgr 64).isSome = true ∧ firesB (.badn hN) (labS 0x8005 0xF 0) = true :=
  ⟨labS_real _ _ _ _ rfl rfl, labS_real _ _ _ _ rfl rfl, by decide +kernel, by decide +kernel, by decide +kernel, by decide +kernel, by decide +kernel,
    by decide +kernel⟩

/-- The machine with objects whose fault queue 0 holds one record. -/
def labFltr : State := { worldS (near 2 32) 0 0 with
  faults := { State.reset.faults with queues := [0x1234] :: State.reset.faults.queues.tail, notes := [⟨0, none⟩] :: State.reset.faults.notes.tail } }

theorem witness_SystemRecords_fltr : let s := labFltr
    let i := Instr.fltr hN
    let b := s.unitOf i .queued
    (firesB i s && s.reqs.isEmpty && okAnd (b.unitLocate (b.dieOf c0) (b.atpOf c0) (near 2 32) 32 [.w] 32) fun (l, u) =>
      u.pause.isNone && u.faults.queues.getD 0 [] == [0x1234] && okAnd (u.writeAt (u.dieOf c0) l (toBytesLE 32 0x1234)) fun t =>
        t.pause.isNone) = true := by decide +kernel

/-- The machine with a second block placed, of two records, that no instance runs. -/
def blk1 : Word := near 1 2048
def labLitw : State := { worldS blk1 9 0 with loader := { State.reset.loader with regions := [{ g0 with
  placed := g0.placed ++ [⟨blk1, 0, [BitVec.ofNat 96 (0xF0 * 2 ^ 88 + 2 ^ 81 + 2 ^ 78), BitVec.ofNat 96 (0xF1 * 2 ^ 88), word 0x04 1 0x02 0x004 0xC00 7, word 0x08 0 0x04 0xC00 0xC00 0]⟩] }] } }

theorem witness_SystemRecords_litw : let s := labLitw
    let i := Instr.litw hN 0
    let b := s.unitOf i .queued
    (firesB i s && s.reqs.isEmpty && okAnd (b.fetchAt (b.dieOf c0) (b.atpOf c0) blk1) fun (_, u) =>
      let copies := (u.regionsOf (u.jobIn c0)).filterMap fun g => (g.block? blk1).map fun p => (g, p)
      let r := u.checkCopies (u.atpOf c0) 0 9 copies
      u.pause.isNone && copies.length == 1 && copies.all (fun gp => decide (0 < gp.2.size) && !u.liveBlock gp.1 blk1) &&
        !r.1 && r.2.pause.isNone) = true := by decide +kernel

/-- The machine about to write the entry image at data offset 64 into entry 5 of the table. -/
def labApset : State := { withData (worldS 0 0 0) 64 (entry 2 1) with
  latch := fires (some (sc (near 2 64))) (some (sc 1)) (some (sc (5 + 16 * 2 ^ 20))) }

theorem witness_SystemRecords_apset : let s := labApset
    let i := Instr.apset hN
    let b := s.unitOf i .queued
    (firesB i s && s.reqs.isEmpty && okAnd (b.unitRead (b.dieOf c0) (b.atpOf c0) (near 2 64) 32 32) fun (bs, t) =>
      let img := BitVec.ofNat 256 (ofBytesLE bs)
      t.pause.isNone && !t.badAperture img 5 16 && someAnd (t.writeAperture (t.dieOf c0) 1 5 img) fun u => u.pause.isNone) = true := by
  decide +kernel

theorem witness_SaveRecords_dusk : let s := worldS 0 (near 2 4096) 0
    let b := s.unitOf (.duskSave hN) .queued
    (firesB (.duskSave hN) s && firesB (.dusk hN) s && s.reqs.isEmpty &&
      okAnd (b.unitLocate (b.dieOf c0) (b.atpOf c0) (near 2 4096) 8 [.c] 8) fun (_, u) =>
        u.pause.isNone && u.region? 0 == some g0 && g0.dusk.isNone && (u.region? 7).isNone) = true := by decide +kernel

theorem witness_SaveRecords_retire : [near 2 0, near 1 0].all (fun a =>
    let s := worldS a 0 0
    let b := s.unitOf (.retire hN) .queued
    firesB (.retire hN) s && s.reqs.isEmpty && okAnd (b.locate (b.dieOf c0) (b.atpOf c0) a 1 [] 1) fun l => match l with
      | .here _ d => grants d.maxr [.w] == decide (a = near 2 0)
      | .peer _ => false) = true := by decide +kernel


/-! A save area on a peer device, every part of whose accesses has been answered, so that the unit need not wait (R28; log entry 13). -/

theorem fold_answered (s : State) (b : List Byte) (ps : List (FullAddr × Nat × PeerOp)) (hp : ∀ p ∈ ps, s.awayAns p = some (.bytes b))
    (acc : List Byte) : ps.foldl (fun acc p => match acc, s.awayAns p with
      | .error e, _ => .error e
      | .ok _, some (.fault c) => .error c
      | .ok (some bs), some (.bytes b) => .ok (some (bs ++ b))
      | .ok _, _ => .ok none) (.ok (some acc) : Except (BitVec 8) (Option (List Byte))) = .ok (some (acc ++ (ps.map fun _ => b).flatten)) := by
  induction ps generalizing acc with
  | nil => simp
  | cons p l ih =>
    have h := hp p (List.mem_cons_self ..)
    rw [List.foldl_cons, h]
    simp only []
    rw [ih fun q hq => hp q (List.mem_cons_of_mem _ hq)]
    simp

/-- The parts of a unit's accesses at a peer, each answered with the bytes given. -/
def answers (d : Doer) (b : List Byte) (ps : List (FullAddr × Nat × PeerOp)) : List Away :=
  ps.map fun p => ⟨0, d, p.1, p.2.1, p.2.2, .bytes b⟩

theorem awayAns_answers (s : State) (d : Doer) (b : List Byte) (qs : List (FullAddr × Nat × PeerOp)) (hd : s.doer = some d)
    (ha : s.away = answers d b qs) (p : FullAddr × Nat × PeerOp) (hp : p ∈ qs) : s.awayAns p = some (.bytes b) := by
  unfold State.awayAns
  rw [ha]
  cases hf : (answers d b qs).find? (fun e => s.doer == some e.who && e.at_ == p.1 && e.size == p.2.1 && e.op == p.2.2) with
  | none =>
    have := List.find?_eq_none.mp hf ⟨0, d, p.1, p.2.1, p.2.2, .bytes b⟩ (List.mem_map.mpr ⟨p, hp, rfl⟩)
    simp [hd] at this
  | some e =>
    obtain ⟨q, -, rfl⟩ := List.mem_map.mp (List.mem_of_find?_eq_some hf)
    rfl

theorem askPeer_answers (s : State) (d : Doer) (b : List Byte) (qs : List (FullAddr × Nat × PeerOp)) (hd : s.doer = some d)
    (ha : s.away = answers d b qs) (f : FullAddr) (n : Nat) (op : PeerOp) (hp : ∀ p ∈ peerParts f n op, p ∈ qs) :
    s.askPeer f n op = .ok (some ((peerParts f n op).map fun _ => b).flatten) :=
  fold_answered s b _ (fun p hm => awayAns_answers s d b qs hd ha p (hp p hm)) []

/-- Where the save area lies: object 9 of device 1, behind aperture entry 4. -/
def area : FullAddr := ⟨1, 9, 0⟩
/-- The machine with objects, that aperture entry, and the answers of the peer device. -/
def peered (l r : Word) : State := { worldS l r 0 with
  mem := mem0 ++ [(2 ^ 34 + 128, 9), (2 ^ 34 + 142, 1), (2 ^ 34 + 146, 4), (2 ^ 34 + 152, 3), (2 ^ 34 + 159, 128)]
  names := { (worldS 0 0 0).names with peers := [1] } }
/-- That entry, as a unit has read it. -/
def readBefore (d : Doer) : Bound := ⟨d, ats atp1, near 4 0, (peered 0 0).entryOf atp1 (near 4 0)⟩
def labPeer (l r : Word) (b : List Byte) (ps : List (FullAddr × Nat × PeerOp)) : State := { peered l r with
  away := answers (.req 1) b ps, bound := [readBefore (.req 1)] }

/-- A halted context that CTXSV may save. -/
def x3 : Ctx := { Ctx.fresh ⟨0, 3, 1⟩ env1 [(4, 77)] blk0 with halt := some blk0, next := none }
/-- What CTXSV writes of it. -/
def saved3 : List Byte := saveBytes storage x3
/-- The parts of CTXSV's accesses. -/
def svParts : List (FullAddr × Nat × PeerOp) := (area, 262144, .check (rightsBits [.w])) :: peerParts area saved3.length (.store saved3)
/-- The machine about to save that context into the peer's object. -/
def labSv : State := { labPeer (3 + 1024) (near 4 0) [] svParts with ctxs := [x1, x3] }

/-- The place that an access's checks give, where it is a peer's. -/
def peerAt (e : Except (BitVec 8) Located) : Option FullAddr := match e with | .ok (.peer f) => some f | _ => none

theorem locate_peer {e : Except (BitVec 8) Located} {f : FullAddr} (h : peerAt e = some f) : e = .ok (.peer f) := by
  match e, h with
  | .ok (.peer _), h => exact congrArg (fun f => Except.ok (Located.peer f)) (Option.some.inj h)

/-- A check at the peer, answered, gives the place. -/
theorem unitLocate_answers (s : State) (d : Doer) (b : List Byte) (qs : List (FullAddr × Nat × PeerOp)) (hd : s.doer = some d)
    (ha : s.away = answers d b qs) (die : Nat) (atp : BitVec 128) (a : Word) (f : FullAddr) (n : Nat) (ks : List Right) (al : Nat)
    (hb : (s.boundAt atp a).isSome = true) (hl : peerAt (s.locate die atp a n ks al) = some f) (hp : (f, n, PeerOp.check (rightsBits ks)) ∈ qs) :
    s.unitLocate die atp a n ks al = .ok (.peer f, s) := by
  have h := askPeer_answers s d b qs hd ha f n (.check (rightsBits ks)) fun p hm => by rw [List.mem_singleton.mp hm]; exact hp
  simp only [State.unitLocate, locate_peer hl, State.atPeer, h, State.noteBound, hd, hb, if_true]

/-- A read at the peer, answered. -/
theorem readAt_answers (s : State) (d : Doer) (b : List Byte) (qs : List (FullAddr × Nat × PeerOp)) (hd : s.doer = some d)
    (ha : s.away = answers d b qs) (hp : s.pause = none) (die : Nat) (f : FullAddr) (n : Nat) (hq : ∀ p ∈ peerParts f n .load, p ∈ qs) :
    s.readAt die (.peer f) n = .ok (((peerParts f n .load).map fun _ => b).flatten, s) := by
  simp only [State.readAt, State.readBy, hp, State.atPeer, askPeer_answers s d b qs hd ha f n .load hq, Option.isSome_none, Bool.false_eq_true, if_false]

/-- A write at the peer, answered. -/
theorem writeAt_answers (s : State) (d : Doer) (b : List Byte) (qs : List (FullAddr × Nat × PeerOp)) (hd : s.doer = some d)
    (ha : s.away = answers d b qs) (hp : s.pause = none) (die : Nat) (f : FullAddr) (bs : List Byte)
    (hq : ∀ p ∈ peerParts f bs.length (.store bs), p ∈ qs) : s.writeAt die (.peer f) bs = .ok s := by
  simp only [State.writeAt, hp, State.atPeer, askPeer_answers s d b qs hd ha f bs.length (.store bs) hq, Option.isSome_none, Bool.false_eq_true, if_false]
  rfl

/-- What CTXSV does just before its accesses. -/
def unitSv : State := labSv.unitOf (.ctxsv hN) .answer

theorem witness_SaveRecords_ctxsv : FiresReal (.ctxsv hN) labSv ∧ (labSv.latch.opL.word.extractLsb' 32 32 = 0#32) ∧
    unitSv.ctx? ⟨0, 3, 1⟩ = some x3 ∧
    unitSv.unitLocate (unitSv.dieOf c0) (unitSv.atpOf c0) (near 4 0) 262144 [.w] 4096 = .ok (.peer area, unitSv) ∧ unitSv.pause = none ∧
    x3.saveable = true ∧ unitSv.regionOf x3.id = some g0 ∧ g0.saved.length < 1024 ∧
    unitSv.writeAt (unitSv.dieOf c0) (.peer area) (saveBytes unitSv x3) = .ok unitSv :=
  ⟨real_of rfl rfl rfl rfl rfl rfl rfl, rfl, by decide +kernel,
    unitLocate_answers unitSv (.req 1) [] svParts rfl rfl _ _ _ _ _ _ _ (by decide +kernel) (by decide +kernel) (List.mem_cons_self ..), rfl, rfl, rfl, by decide,
    writeAt_answers unitSv (.req 1) [] svParts rfl rfl rfl _ _ _ fun p hp => List.mem_cons_of_mem _ hp⟩

/-- The table of saved contexts full. -/
def full0 : Region := { g0 with saved := List.replicate 1024 ⟨0, 0, ⟨0, 2, 0⟩, env1, [], 0⟩ }
def labSvFull : State := { labSv with loader := { labSv.loader with regions := [full0] } }
theorem witness_SaveRecords_spill : let u := labSvFull.unitOf (.ctxsv hN) .answer
    u.ctx? ⟨0, 3, 1⟩ = some x3 ∧ u.unitLocate (u.dieOf c0) (u.atpOf c0) (near 4 0) 262144 [.w] 4096 = .ok (.peer area, u) ∧
      u.regionOf x3.id = some full0 ∧ 1024 ≤ full0.saved.length :=
  ⟨by decide +kernel, unitLocate_answers _ (.req 1) [] svParts rfl rfl _ _ _ _ _ _ _ (by decide +kernel) (by decide +kernel) (List.mem_cons_self ..),
    rfl, Nat.le_of_eq List.length_replicate.symm⟩

/-- What the peer answers to CTXLD: of every word, four bytes whose last is 0x80, so that the record's first word says it is resumable. -/
def ldBytes : List Byte := [0, 0, 0, 0x80]
def ldParts : List (FullAddr × Nat × PeerOp) :=
  (area, 8192, .check (rightsBits [.r])) :: (peerParts area 16 .load ++ peerParts area 8192 .load)
def labLd : State := labPeer (near 4 0) 0 ldBytes ldParts
def unitLd : State := labLd.unitOf (.ctxld hN) .colour
def ldRead (n : Nat) : List Byte := ((peerParts area n .load).map fun _ => ldBytes).flatten

theorem witness_SaveRecords_ctxld : FiresReal (.ctxld hN) labLd ∧
    unitLd.unitLocate (unitLd.dieOf c0) (unitLd.atpOf c0) (near 4 0) 8192 [.r] 4096 = .ok (.peer area, unitLd) ∧
    unitLd.readAt (unitLd.dieOf c0) (.peer area) 16 = .ok (ldRead 16, unitLd) ∧ unitLd.pause = none ∧ unitLd.region? 0 = some g0 ∧
    (recWord (ldRead 16) 0).getLsbD 63 = true ∧ unitLd.mayStand g0 ((recWord (ldRead 16) 0).getLsbD 62) = true ∧ unitLd.mayStand g0 true = false ∧ max 8192 (recWord (ldRead 16) 8).toNat = 8192 ∧
    unitLd.readAt (unitLd.dieOf c0) (.peer area) 8192 = .ok (ldRead 8192, unitLd) ∧
    (someAnd (unitLd.drawColour 0) fun (s4, d) => someAnd (s4.restoreCtx d g0 area (ldRead 8192)) fun s5 => s5.pause.isNone &&
      ((s5.endRestore (s5.dieOf c0) area d (recWord (ldRead 8192) 0) ((s5.ctx? d).bind fun x => x.env.task)).settle d).pause.isNone) = true :=
  ⟨real_of rfl rfl rfl rfl rfl rfl rfl,
    unitLocate_answers unitLd (.req 1) ldBytes ldParts rfl rfl _ _ _ _ _ _ _ (by decide +kernel) (by decide +kernel) (List.mem_cons_self ..),
    readAt_answers unitLd (.req 1) ldBytes ldParts rfl rfl rfl _ _ _ fun p hp => List.mem_cons_of_mem _ (List.mem_append_left _ hp), rfl, rfl,
    by decide +kernel, by decide +kernel, by decide +kernel, by decide +kernel,
    readAt_answers unitLd (.req 1) ldBytes ldParts rfl rfl rfl _ _ _ fun p hp => List.mem_cons_of_mem _ (List.mem_append_right _ hp),
    by decide +kernel⟩

/-! ### States that meet the hypotheses of the statements: firings in general, homes, tokens, commit -/

theorem witness_FiringKeepsMemory : (Instr.mov hN false false).isEvent = false ∧
    (∃ t, exec (.mov hN false false) (labS 7 0 0) = .next t) ∧ (∃ t, exec (.ld hN (.int .n64) m0 0) (labS 0 0 0) = .next t) ∧
    ∀ h, Instr.mov hN false false ≠ .launch h ∧ Instr.mov hN false false ≠ .ctxld h :=
  ⟨rfl, ⟨_, rfl⟩, ⟨_, rfl⟩, fun _ => ⟨nofun, nofun⟩⟩

/-- A piece of an access at an offset of object `n`. -/
def pieceOf (n ofs : Nat) (st : PStage) : Piece :=
  ⟨near n ofs, 8, 0, 0, BitVec.ofNat 64 n, ofs, pteOf n, st, [], 9, false, false⟩
/-- A request of the machine with objects, let go, in the stage given. -/
def reqOf (i : Instr) (st : Stage) (ps : List Piece) : Req :=
  ⟨1, 0, i, fires (some (sc (near 2 16))) (some (sc 0x1122334455667788)) (some (sc 0)), 9, 9, false, st, false, true, ps, [], [], false, 0, [], 0⟩
/-- The machine with objects and those requests. -/
def labReq (qs : List Req) : State := { worldS (near 2 16) 0x1122334455667788 0 with reqs := qs, nextId := 9 }

/-- A store, a combine and a load at the home of data offset 16. -/
theorem witness_MemoryEffects : let p := pieceOf 2 16 .ready
    [Instr.st h0 (.int .n64) m0, .red h0 (.int .n64) m0 .add, .ld hN (.int .n64) m0 3].all (fun i =>
      let q := reqOf i .homes [p]
      let s := labReq [q]
      s.req? 1 == some q && q.pieces[0]? == some p && p.dev == s.names.devNum && s.orderOk q [p.foot] && someAnd (s.atHome p) fun (w, a) =>
        pteState w == 2 && a == objByte 2 16 && decide (a + p.size ≤ p.pte ∨ p.pte + 8 ≤ a) && Memory.wf s.mem && !s.stalled p && s.drainOk q 0 &&
          !s.outranked q 0 && (s.ctx? q.latch.ctx).isSome && (s.desc? p.serial).isSome && decide (p.ofs % 8 + p.size ≤ 8) && !s.locked p &&
          (s.heldWrites q).isEmpty) = true := by decide +kernel

/-- The machine about to perform piece `k` of a load at its home, its last or not; an LDR's operand names port 6. -/
def labLoad (i : Instr) (ps : List Piece) (void : Bool) : State :=
  let q := { reqOf i .homes ps with void := void, latch := fires (some (sc (near 2 16))) (some (sc 6)) (some (sc 0)) }
  { labReq [q] with loader := { storage.loader with regions := [{ g0 with ports := [(6, .stage 1 false)] }] } }
/-- Pieces of which all but the one given have been read. -/
def donePieces (n k : Nat) : List Piece := (List.range n).map fun j =>
  { pieceOf 2 (8 * j) (if j = k then .ready else .done) with lane := j, data := if j = k then [] else List.replicate 8 1 }
theorem witness_MemoryEffects_loads : ([(.ld hN (.int .n64) m0 0, [pieceOf 2 16 .ready], 0, false), (.ld hN (.int .n64) m0 0,
      [pieceOf 2 16 .ready, pieceOf 2 24 .ready], 0, false), (.vld hN (.int .i8) m0 0, donePieces 16 15, 15, false),
      (.vldg hN (.int .n32) m0 0, donePieces 2 1, 1, false), (.ldr hN (.int .n64) m0 0, [pieceOf 2 16 .ready], 0, false),
      (.ldr hN (.int .n64) m0 0, [pieceOf 2 16 .ready], 0, true)] : List (Instr × List Piece × Nat × Bool)).all (fun e =>
    let s := labLoad e.1 e.2.1 e.2.2.2
    someAnd (s.req? 1) fun q => someAnd (q.pieces[e.2.2.1]?) fun p => q.stage == .homes && p.stage == .ready && p.dev == s.names.devNum &&
      q.fails.isEmpty && s.orderOk q [p.foot] && someAnd (s.atHome p) (fun (_, a) => a == objByte 2 p.ofs) && inStream e.1 &&
      (s.desc? p.serial).isSome && decide (p.ofs % 8 + p.size ≤ 8) && !s.locked p && (s.heldWrites q).isEmpty && !s.outranked q e.2.2.1 &&
      s.reqs == [q] && (s.ldrPort c0 q.latch.opR.word).isSome && q.void == e.2.2.2) = true := by decide +kernel

/-- A block of one record, an EXIT. -/
def exitBlk : Placed := ⟨blk0, 0, [BitVec.ofNat 96 (0xF0 * 2 ^ 88 + 2 ^ 81 + 2 ^ 78), BitVec.ofNat 96 (0xF1 * 2 ^ 88), word 0x08 0 0x04 0xC00 0xC00 0, 0]⟩
/-- A block of one ANDN, of two operands. -/
def andnBlk : Placed := ⟨blk0, 0, [BitVec.ofNat 96 (0xF0 * 2 ^ 88 + 2 ^ 81 + 2 ^ 78), BitVec.ofNat 96 (0xF1 * 2 ^ 88), word 0x1B 0 0x03 0x004 0xC00 0, 0]⟩
/-- The small machine with a block placed, a context and packets. -/
def labPk (p : Placed) (x : Ctx) (ks : List Packet) : State :=
  { labS 0 0 0 with ctxs := [x], packets := ks, nextId := 5, loader := { State.reset.loader with regions := [{ g0 with placed := [p] }] } }
/-- A token on its way. -/
def pkTo (d : Dest) (t : Tok) (i : Option Instr) : Packet := ⟨4, c0, d, t, false, none, i, 9, [], 0⟩

theorem witness_TokenEvents_node : let k : Key := ⟨0, 0, false⟩
    let pk := pkTo (.node r0 k .l 3) (sc 5) none
    let s := labPk andnBlk x0 [pk]
    (s.packets.find? fun p => p.id == 4) = some pk ∧ s.replyAhead pk = false ∧ s.ctx? c0 = some x0 ∧ x0.inst? r0 = some i0 ∧ i0.draining = false ∧
      (s.regionOf c0).bind (fun g => g.block? i0.block) = some andnBlk ∧ s.nodeLoaded c0 r0.con 0 = true ∧ i0.entry? k .l = none ∧
      pk.tok.isNull = false ∧ s.noRoom x0 r0.con (s.peOf c0 r0.con 0) (andnBlk.vecPort ⟨k, .l, none, [], false, none, 0⟩) = false := by
  decide +kernel

theorem witness_TokenEvents_reg : let pk := pkTo (.reg r0 7 false 5) (sc 5) none
    (labPk andnBlk x0 [pk]).replyAhead pk = false ∧ i0.draining = false ∧ i0.regTaken false 5 7 = false ∧ pk.tok.late = false ∧ pk.req = none := by
  decide +kernel

theorem witness_TokenEvents_again : let j : Inst := { i0 with out := { i0.out with regs := [⟨false, 5, 7, .scalar 1⟩] } }
    j.regTaken false 5 7 = false ∧ j.regHas false 5 7 = true ∧ i0.regHas false 5 7 = false := by decide

theorem witness_TokenEvents_port : let k : Key := ⟨0, 0, false⟩
    let pk := pkTo (.port (.streamer 0) r0 k) (ve 5) (some (.copy (hQ 3) 0 e0))
    let s := labPk andnBlk x0 [pk]
    s.replyAhead pk = false ∧ pk.tok.isNull = false ∧ ({ s with packets := [], nextId := 6 } : State).portOpen pk r0 k = true := by decide +kernel

/-- The machine with objects, its context about to fetch a block that is placed. -/
def fetchP : Placed := ⟨near 1 2048, 0, [0, 0, 0]⟩
def fetchX : Ctx := { x1 with insts := [], next := some (.block (near 1 2048)) }
def labFetch : State := { world none none none with ctxs := [fetchX], loader := { storage.loader with regions := [{ g0 with placed := [fetchP] }] } }

theorem witness_TokenEvents_fetch : let s := labFetch
    let x := fetchX
    (s.ctx? c0 == some x && x.halt.isNone && !x.drained && !s.outOfWork c0 && !s.duskStops x { g0 with placed := [fetchP] } && x.insts.isEmpty &&
      x.fetches == some (.block (near 1 2048), true) && x.env.origin == .item 0 && s.slotsTaken 0 0 == [] &&
      okAnd ((s.acting (.fetch c0)).fetchAt 0 x.env.atp (near 1 2048)) fun (_, v) => v.pause.isNone) = true := by decide +kernel

/-- An instance whose outputs are complete, in a block that writes G5. -/
def doneI : Inst := { i0 with exit := some (.block 77), out := { i0.out with regs := [⟨false, 5, 7, .scalar 3⟩], flags := 2 } }
def doneX : Ctx := { x0 with insts := [doneI] }
def g5Blk : Placed := { exitBlk with recs := exitBlk.recs.set 0 (BitVec.ofNat 96 (0xF0 * 2 ^ 88 + 2 ^ 81 + 2 ^ 78 + 32)) }

theorem witness_CommitEvents_commit : let s := labPk g5Blk doneX []
    s.ctx? c0 = some doneX ∧ s.blockOf c0 doneI = some g5Blk ∧ s.mayCommit doneX doneI g5Blk = true ∧ s.reqsOf c0 doneI.route = [] ∧
      doneX.mark ≠ .seen ∧ g5Blk.node 7 = none := by decide +kernel

theorem witness_CommitEvents_retn : let j : Inst := { doneI with out := { doneI.out with retn := some (⟨2, 0, false⟩, sc 1) } }
    let x : Ctx := { doneX with insts := [j] }
    (labPk g5Blk x []).mayCommit x j g5Blk = true ∧ j.exit ≠ some .stop := by decide +kernel

theorem witness_CommitEvents_watchdog : let x : Ctx := { x0 with watch := 4096 }
    let s := labPk exitBlk x []
    s.blockOf c0 i0 = some exitBlk ∧ s.stuck x = true ∧ i0.blamed exitBlk = [0] := by decide +kernel

/-! ### States that meet the hypotheses of the statements: translation, counters -/

def ldI : Instr := .ld hN (.int .n64) m0 0
/-- A machine whose first tile is the one given. -/
def withTile (s : State) (t : Tile) : State := { s with names := { s.names with tiles := [(0, t)] } }
/-- What a tile remembers of object 2: its name, and its first page. -/
def key2 : CacheKey := ⟨2, none⟩
def key2p : CacheKey := ⟨2, some 0⟩
def labCached : State := withTile (labReq [reqOf ldI .queued []]) { Tile.idle with cache := [key2, key2p] }

theorem witness_TranslationEvents_access : let s := labCached
    let q := reqOf ldI .queued []
    let tile := s.walkTile c0 0
    let u := s.readApertures q
    (s.req? 1 == some q && (s.atTile tile .queued).all (fun e => !e.urgent q) && u.walkTile c0 0 == tile &&
      match u.checkSpans tile ldI q.named (s.entriesFor c0 ldI q.latch q.aps) with
      | .ok ps => !ps.isEmpty && ps.all (fun p => p.dev == u.names.devNum) && okAnd (u.placePieces (u.dieOf c0) ps) fun (ps1, _) =>
          !ps1.isEmpty && ps1.all fun p => p.stage != .probing
      | _ => false) = true := by decide +kernel

/-- A walk of the page, with the access that waits for it, and with another that no walker has taken up. -/
def labWalk (more : List Req) : State := withTile (labReq (reqOf ldI .walking [] :: more))
  { Tile.idle with cache := [key2], walkers := [some key2p, none, none, none] }
def other : Req := { reqOf ldI .queued [] with id := 2, latch := fires (some (sc (near 3 16))) none none }

theorem witness_TranslationEvents_walk : [[], [other]].all (fun more => let s := labWalk more
    let s1 := s.updTile (0, 0) fun t => { t.remember key2p with walkers := updAt t.walkers 0 fun _ => none }
    let ids := (s1.atTile (0, 0) .walking).map fun q => q.id
    let s2 := { s1 with reqs := updWhere (fun q => ids.contains q.id) (fun q => { q with stage := .queued }) s1.reqs }
    let s3 := (ids.filterMap s2.req?).foldl (fun t q => ((t.req? q.id).bind t.translate).getD t) s2
    (s.tile (0, 0)).walkers[0]? == some (some key2p) && (s3.atTile (0, 0) .queued).isEmpty == more.isEmpty) = true := by decide +kernel

/-- The machine with objects and a page of object `n` moving, of the state and tier block given. -/
def labMove (n : Nat) (k : MoveKind) (st blk : Nat) : State := { storage with
  mem := Memory.setWord storage.mem (pteOf n) (mkPte st blk 0x50001)
  names := { storage.names with moves := [⟨pteOf n, k, 0x50001, 65536, true⟩] } }

theorem witness_TranslationEvents_moves : ([(.fill, 1), (.migrate 0x60000, 4), (.evict, 4)] : List (MoveKind × Nat)).all (fun e =>
    let s := labMove 2 e.1 e.2 3
    (s.move? (pteOf 2)).isSome && Memory.wf s.mem && (s.badMove (pteOf 2)).isNone && !s.heldAt (pteOf 2) &&
      (labMove 4 e.1 e.2 tierBlocks).badMove (pteOf 4) == some tierBlocks) = true := by decide +kernel

theorem witness_TranslationEvents_held : ({ labMove 2 .evict 4 3 with
    reqs := [reqOf (.st h0 (.int .n64) m0) .homes [pieceOf 2 16 .ready]], ctxs := [x1] } : State).heldAt (pteOf 2) = true := by decide +kernel

theorem witness_TranslationEvents_writeback : [3, tierBlocks].all (fun blk =>
    let s : State := { labMove 4 .fill 3 blk with names := { storage.names with writebacks := [⟨pteOf 4, 65536, false⟩] } }
    (s.names.writebacks.find? fun b => b.pte == pteOf 4).isSome && (s.badMove (pteOf 4)).isSome == (blk == tierBlocks)) = true := by decide +kernel

theorem witness_TranslationEvents_pager : someAnd (storage.owner? (pteOf 4)) (fun (d, _) => pteState (Memory.word storage.mem (pteOf 4)) == 2 &&
    d.cls != 2 && durableClass d.cls && storage.names.writebacks.isEmpty && storage.durable.isEmpty && someAnd (storage.takeFrame 3 d.pgsz).1 fun _ => true) = true := by
  decide +kernel

/-- The machine with an access parked on a page that is absent. -/
def labAbsent : State := { labReq [reqOf ldI .homes [pieceOf 2 16 .parked]] with mem := Memory.setWord storage.mem (pteOf 2) 0 }
/-- The machine whose first tile has counted heat of object 2. -/
def labHot : State := withTile storage { Tile.idle with heat := [⟨2, 0, 5, 7⟩] }

theorem witness_TranslationEvents_heat : pteState (Memory.word labAbsent.mem (pteOf 2)) = 0 ∧
    (labAbsent.reqs.filter fun q => q.pieces.any fun p => p.pte == pteOf 2 && p.stage == .parked) ≠ [] ∧
    Sparse.wf Tile.idle labHot.names.tiles = true ∧ (labHot.desc? 2).isSome = true := by decide +kernel

/-- A pending add of `n` to the counter at an offset of object `k`. -/
def pend (id k ofs n : Nat) : PendAdd := ⟨id, ⟨0, BitVec.ofNat 64 k, ofs⟩, BitVec.ofNat 64 n, .die, 9, false, .host id⟩
def labAdds (as : List PendAdd) : State := { storage with adds := as, ctxs := [x1], nextId := 50 }

/-- Two adds to the counter at data offset 16, and one to a counter that is gone. -/
theorem witness_CounterEvents_step : ([([pend 3 2 16 5, pend 4 2 16 6], objByte 2 16), ([pend 3 9 16 5], 0)] : List (List PendAdd × Nat)).all (fun e =>
    let s := labAdds e.1
    let ids := e.1.map fun a => a.id
    let as := ids.filterMap s.add?
    ids.map s.add? == as.map some && as.all (fun b => s.addAt b == .home e.2 || s.addAt b == .dead) && inOrder as && s.addsReleased 0 as &&
      s.releases.isEmpty && !s.passedOver e.2 as && !s.stepOutranked e.2 as) = true := by decide +kernel

theorem witness_CounterEvents_word : someAnd (storage.live? 2) (fun d => someAnd (storage.leaf? d 0) fun e =>
    e == pteOf 2 && decide (objByte 2 16 + 8 ≤ e ∨ e + 8 ≤ objByte 2 16) && Memory.wf storage.mem) = true := by decide +kernel

/-- A durable step under way at the counter at offset 16 of object 4, its page's tier block given. -/
def labDur (blk : Nat) : State := { storage with
  durable := [⟨⟨0, 4, 16⟩, 0, 9, false, []⟩], mem := Memory.setWord storage.mem (pteOf 4) (mkPte 3 blk 0x40003) }

theorem witness_CounterEvents_durable : [4, tierBlocks].all (fun blk => let s := labDur blk
    (s.durable.find? fun d => ((s.desc? d.at_.serial).bind fun e => s.frameByte e d.at_.ofs) == some (objByte 4 16)).isSome &&
      someAnd (s.desc? 4) (fun e => s.leaf? e (16 / pageBytes e.pgsz) == some (pteOf 4)) && Memory.wf s.mem &&
      ptePblk (Memory.word s.mem (pteOf 4)) == blk) = true := by decide +kernel

def oldQ : Req := { reqOf (.caddr (hG 4) m0 .die none) .answer [] with value := 12 }
def oldX : Ctx := { x1 with pending := [(4, 1)] }

theorem witness_CounterEvents_caddr : let s : State := { labReq [oldQ] with ctxs := [oldX] }
    s.req? 1 = some oldQ ∧ s.streamAhead oldQ = false ∧ oldQ.lateNow = false ∧ oldQ.replySlack ≠ 0 ∧ s.ctx? c0 = some oldX ∧
      (oldX.pending.find? fun e => e.2 == 1) = some (4, 1) ∧ (s.ctxs.filter fun y => y.id == oldX.id) = [oldX] := by decide

def promoted : Task := { k1 with promote := true }
theorem witness_CounterEvents_promote : let s : State := { storage with tasks := [promoted], releases := [⟨promoted.dep, 0, 0, .die, c0, (0, 0, 0), none⟩] }
    promoted.dep.dev = s.names.devNum ∧ s.task? 2 = some promoted ∧ s.releases.all (fun r => !r.at_.same promoted.dep || s.answered r) = true := by decide

/-- An MLDRED of two members, all of whose pieces have come, with its bitmap of failed members. -/
def memQ (v : Word) : Req :=
  { reqOf (.mldred hN 0 0) .homes [pieceOf 2 0 .done, { pieceOf 2 64 .done with lane := 8 }] with value := v }
def persistQ : Req := { reqOf (.persist h0 m0 3) .homes [pieceOf 4 0 .done] with value := 1 }

theorem witness_CounterEvents_mldred : (labReq [memQ 2]).req? 1 = some (memQ 2) ∧ (∀ p ∈ (memQ 2).pieces, p.stage = .done) ∧
    (memQ 2).value.getLsbD 1 = true ∧ (memQ 2).value.getLsbD 0 = false ∧ ((labReq [memQ 0]).reqInst (memQ 0)).isSome = true := by decide

theorem witness_CounterEvents_persist : (labReq [persistQ]).req? 1 = some persistQ ∧
    persistQ.pieces.all (fun p => p.lines ≤ persistQ.value.toNat) = true ∧ (labReq [persistQ]).persistsBefore persistQ = false := by decide +kernel

/-! ### States that meet the hypotheses of the statements: engines, tasks, launches -/

/-- An engine request whose vector is the words given, lowest first. -/
def engQ (i : Instr) (ws : List Word) : EngReq :=
  ⟨4, some i, BitVec.ofNat 1024 (ofBytesLE (ws.flatMap fun w => toBytesLE 8 w.toNat)), c0, r0, ⟨0, 0, false⟩, atp1, 9, 9, false, none, false, [], 0, []⟩
/-- A copy of eight bytes inside the data object, its counter at offset 64; and one whose reserved bits are set. -/
def copQ (bad : Bool) : EngReq :=
  engQ (.copy (hQ 3) 0 e0) [near 2 0, near 2 4096, BitVec.ofNat 64 (8 + 7 * 2 ^ 32), if bad then BitVec.ofNat 64 (2 ^ 62) else 0]
/-- An MMAZ of one cell, and a selection of asterism slot 0, likewise. -/
def mmQ (bad : Bool) : EngReq := engQ (.mmaz (hQ 4) e0) [0, 0, near 2 64, 0, 0, 0, if bad then BitVec.ofNat 64 (2 ^ 63) else 0, 0]
def laQ (bad : Bool) : EngReq := engQ (.lxctx (hQ 5) e0) [0, near 2 64, 0, if bad then BitVec.ofNat 64 (2 ^ 63) else 0]
/-- The machine with objects and the requests queued and served at streamer 0, island 0 and the lattice of D0. -/
def labEng (queued served : Option (EngReq × EngReq × EngReq)) : State :=
  let at_ := fun (f : EngReq × EngReq × EngReq → EngReq) (o : Option (EngReq × EngReq × EngReq)) => (o.map f).toList
  { world none none none with nextId := 9, engines := { State.reset.engines with
      streamers := [(0, ⟨at_ (fun e => e.1) queued, at_ (fun e => e.1) served⟩)]
      islands := [(0, { Island.zero with queue := at_ (fun e => e.2.1) queued, serving := at_ (fun e => e.2.1) served })]
      lattices := [(0, { Lattice.zero with queue := at_ (fun e => e.2.2) queued, serving := at_ (fun e => e.2.2) served })] } }

theorem witness_EngineEvents_accept : [false, true].all (fun bad =>
    let s := labEng (some (copQ bad, mmQ bad, laQ bad)) none
    s.dieWorks 0 && nextQueued (s.streamer 0 0).queue == some (copQ bad) && nextQueued (s.island 0 0).queue == some (mmQ bad) &&
      nextQueued (s.lattice 0).queue == some (laQ bad) && (copyCheck (copQ bad)).isSome == bad && (islandCheck (mmQ bad)).isSome == bad &&
      (latCheck (laQ bad)).isSome == bad) = true := by decide +kernel

theorem witness_EngineEvents_piece : let s := labEng none (some (copQ false, mmQ false, laQ false))
    let q := copQ false
    let r := (s.acting (.piece q.id 0)).copyStep 0 0 q 0
    (s.req? q.id == none && (s.copies.find? fun e => e.2.id == q.id) == some (0, q) && decide (0 < q.pieces) && s.hasStreamer 0 0 && !s.copyOutranked q 0 &&
      r.2.2.isNone && r.1.pause.isNone) = true := by decide +kernel

/-- A request served ends: its work is done, and its completion add is made. -/
def ends? (v : State) (q : EngReq) (cnt : Word) (kind : Nat) : Bool :=
  v.pause.isNone && okAnd (v.unitAdd 0 q.atp cnt 1 q.scope (q.ownSlack 0) q.late (.engine q.ctx q.route 0 (enginePort kind 0))) fun w =>
    w.pause.isNone

theorem witness_EngineEvents_complete : let c : EngReq := { copQ false with did := [0] }
    let s := labEng none (some (c, mmQ false, laQ false))
    let u := s.acting (.engine 4)
    let r1 := u.copyRest 0 0 c
    let r2 := u.runIsland 0 0 (mmQ false)
    let r3 := u.runLattice 0 (laQ false)
    (!s.piecesOut c && r1.2.isNone && ends? r1.1 c (copyCounter c) 1 && !s.addOut 0 (.island 0) && r2.2.isNone &&
      ends? r2.1 (mmQ false) (islandReq (mmQ false)).cnt 2 && !s.addOut 0 .lattice && r3.2.1.isNone && r3.2.2.isNone &&
      ends? r3.1 (laQ false) (latReq (laQ false)).counter 3) = true := by decide +kernel

/-- A SPAWN that waits for a colour. -/
def spawnQ : Req := reqOf (.spawn hN 0 1) .colour []
theorem witness_TaskEvents_spawn : let s := labReq [spawnQ]
    spawnQ ∈ s.reqs ∧ s.mayResume spawnQ = true ∧ spawnQ.latch.ctx.region = 0 ∧ (s.startChild spawnQ.latch 1 0 1 9).isSome = true := by decide +kernel

/-- The machine with objects whose context, halted or not, has had the mark sent. -/
def labMark (h : Option Word) : State := { world none none none with ctxs := [{ x1 with mark := .sent, halt := h }] }
theorem witness_TaskEvents_mark : [none, some blk0].all (fun h => let s := labMark h
    let u := ((s.acting (.ctx c0)).updCtx c0 fun y => { y with mark := .seen }).passMark c0
    (s.ctx? c0).isSome && (if h.isSome then u.endCtx c0 .null none else u).cancelsDone.pause.isNone) = true := by decide +kernel

theorem witness_TaskEvents_cancelled : let s : State := { storage with reqs := [reqOf (.cancel hN) .answer []] }
    s.ctx? c0 = none ∧ s.ctxs = [] ∧ s.marks = [] := by decide

/-- A mark on its way to a context that has been saved, and to one that has ended. -/
theorem witness_TaskEvents_markLeft : [[], [⟨0, 0, ⟨0, 2, 0⟩, env1, [], 0⟩]].all (fun (l : List SavedCtx) =>
    let s : State := { storage with marks := [c0], loader := { storage.loader with regions := [{ g0 with saved := l }] } }
    let u : State := { s.acting (.ctx c0) with marks := [] }
    let v := match u.savedCtxs.find? fun e => e.1 == c0 with | some e => u.endSaved c0 e.2 | none => u
    (s.ctx? c0).isNone && (u.savedCtxs.find? fun e => e.1 == c0).isSome == !l.isEmpty && ((v.passMark c0).cancelsDone).pause.isNone) = true := by
  decide +kernel

/-- The machine with objects, a region and a task. -/
def labTask (t : Task) : State := { storage with tasks := [t], loader := { storage.loader with regions := [g0], jobs := [job0] } }
/-- The task woken, ready here, and ready on another die. -/
def kWoken : Task := { k1 with woken := some 0 }
def kReady : Task := { k1 with status := 2#4 }
def kAway : Task := { kReady with die := 1 }

theorem witness_TaskEvents_ready : let s := labTask kWoken
    s.task? 2 = some kWoken ∧ kWoken.dueOn 0 = true ∧ kWoken ∈ s.dueWith kWoken ∧
      ((s.dueWith kWoken).foldl (fun v k => v.moveTask { k with status := 2#4, slack := slkValue ((s.acting (.task 2)).taskCode k) })
        (s.acting (.task 2))).pause = none := by decide +kernel

theorem witness_TaskEvents_start : kReady.rhint = 0xFFFF ∧ [kReady, kAway].all (fun t => let s := labTask t
    s.dieWorks 0 && s.regionFor t.die t == (if t.die = 0 then some g0 else none) && lowestRegion ((s.regionsOf 0).filter fun k => k.die == 0 && k.holding) == some g0 &&
      g0.nextColour.isSome && someAnd ((s.acting (.task 2)).startTask t g0) fun v => v.pause.isNone) = true := by decide +kernel

/-- A task whose context has ended: cancelled or not, its last fault and its fault policy as given, three tries allowed. -/
def kEnded (cancelled : Bool) (f : BitVec 8) (fpol : Nat) : Task := { k3 with
  ctx := some ⟨0, 9, 0⟩, cancelled := cancelled, lastf := f, words := tcb0.set 4 (BitVec.ofNat 64 (0xFFFF0000 + fpol * 2 ^ 11 + 3 * 2 ^ 38)) }

theorem witness_TaskEvents_finish : (kEnded false 1 1).fpol = 1 ∧ (kEnded false 1 2).fpol = 2 ∧ wordField (kEnded false 1 1).words 4 38 4 = 3 ∧
    ([(kEnded true 0 0, 0), (kEnded false 0 0, 1), (kEnded false 1 1, 2)] : List (Task × Nat)).all (fun (t, n) => let s := labTask t
      let u := s.acting (.task 2)
      !s.taskBusy 2 && (match n with
        | 0 => u.endTask { t with status := 5#4 }
        | 1 => (u.endTask { t with status := 4#4 }).addSuccs t ⟨0, 9, 0⟩
        | _ => u.moveTask { t with status := 7#4, tries := 1, ctx := none, woken := none }).pause.isNone) = true := by decide +kernel

/-- A launch of two items, its graph of no blocks on one constellation, DONE at data offset 8192. -/
def graph0 : Graph := ⟨3, 0, [], 1, [], []⟩
def jobW : Job := { job0 with graph := some graph0, words := ((List.replicate 16 (0 : Word)).set 3 2).set 4 (near 2 8192) }
def labJobs (j : Job) (rs : List Region) : State := { storage with loader := { storage.loader with regions := rs, jobs := [j] } }

theorem witness_LaunchEvents_place : let s := labJobs jobW []
    let b := (s.acting (.job 0)).graphBlocks jobW.atp graph0.blocks
    (jobW.waiting && !jobW.begun && b.2.pause.isNone && b.2.roomFor graph0 b.1 == some (0, [0]) && b.2.freeNumber == some 0 &&
      someAnd (b.2.placeRegion jobW graph0 0 0 [0] b.1) fun v => v.pause.isNone) = true := by decide +kernel

/-- A launch of which a region is placed goes before one with less PRIO. -/
theorem witness_LaunchEvents_begun : let j : Job := { jobW with id := 1, nextRegion := 1, words := jobW.words.set 1 (BitVec.ofNat 64 (7 * 2 ^ 39)) }
    (j.begun && !jobW.begun && !j.before jobW) = true := by decide +kernel

theorem witness_LaunchEvents_item : let s := labJobs jobW [g0]
    (!jobW.cancelled && s.dieWorks 0 && g0.holding && jobW.itemAt 0 0 == some 0 && someAnd ((s.acting (.region 0)).drawColour 0) fun (s1, c) =>
      (s1.startAs jobW g0 0 c).pause.isNone) = true := by decide +kernel

/-- The launch with its first item running, DONE at the address given. -/
def jobR (done : Word) : Job := { jobW with running := [0], nextRegion := 1, words := jobW.words.set 4 done }
theorem witness_LaunchEvents_finish : [near 2 8192, near 2 8193].all (fun done =>
    let s := labJobs (jobR done) []
    let u := s.acting (.job 0)
    s.itemDone (jobR done) 0 && match u.unitAdd 8 atp1 done 1 (jobR done).dscope (slkValue (jobR done).dslk) false (.item 0 0) with
      | .ok v => v.pause.isNone && decide (done = near 2 8192)
      | .error e => (u.chargeJob 0 e).pause.isNone && decide (done = near 2 8193)) = true := by decide +kernel

theorem witness_LaunchEvents_free : g0.dusk = none ∧ (labJobs { jobW with complete := true } [g0]).regionBusy 0 = false ∧
    ({ labJobs jobW [g0] with faults := { State.reset.faults with cmask := 1 :: State.reset.faults.cmask.tail } } : State).affected g0 = true := by
  decide +kernel

/-- A region in dusk, of a MOV and an EXIT. -/
def duskBlk : Placed := { exitBlk with recs := [exitBlk.recs.getD 0 0, exitBlk.recs.getD 1 0, word 0x04 1 0x02 0x004 0xC00 7, word 0x08 0 0x04 0xC00 0xC00 0] }
def dusk0 (free : Bool) (marks : List (Word × Nat)) : Dusk := ⟨true, free, near 2 4096, atp1, marks, 0, 0, 9, false⟩
def duskG (d : Dusk) : Region := { g0 with dusk := some d, placed := [duskBlk] }

theorem witness_LaunchEvents_marker : ([(false, [], 0), (false, [(blk0, 1)], 0), (true, [], 0), (true, [(blk0, 1)], 0)] : List (Bool × List (Word × Nat) × Nat)).all
    (fun e => let d := dusk0 e.1 e.2.1
      let g := duskG d
      let s := labJobs jobW [g]
      let plain : Dusk := { d with marks := d.marks ++ [(blk0, e.2.2)] }
      someAnd (duskBlk.node e.2.2) fun i => !isSink i && s.mayForward g d duskBlk e.2.2 i && !s.regionBusy 0 &&
        g.allMarked plain == !e.2.1.isEmpty &&
        (((s.acting (.region 0)).updRegion 0 fun h => { h with dusk := some plain }).endDusk g plain).pause.isNone) = true := by decide +kernel

/-- The same block with a second EXIT, which the marker has not reached. -/
def duskMore : Placed := { duskBlk with recs := duskBlk.recs.set 0 (BitVec.ofNat 96 (0xF0 * 2 ^ 88 + 2 * 2 ^ 81 + 2 ^ 78)) ++ [word 0x08 0 0x04 0xC00 0xC00 0] }
theorem witness_LaunchEvents_sink : [duskBlk, duskMore].all (fun p => let d := dusk0 false [(blk0, 0)]
      let g := { duskG d with placed := [p] }
      let s := labJobs jobW [g]
      let sunk : Dusk := { d with marks := [(blk0, 0), (blk0, 1)], drained := 1 }
      someAnd (p.node 1) fun i => isSink i && s.mayForward g d p 1 i && g.allMarked sunk == decide (p = duskBlk) && okAnd (((s.acting (.region 0)).updRegion 0 fun h =>
        { h with dusk := some sunk }).unitAdd 0 atp1 d.counter 1 .module d.slack d.late (.sink 0)) fun u => u.pause.isNone &&
          (u.endDusk g sunk).pause.isNone) = true := by decide +kernel

/-- An MSGR that waits, and the message that it is to receive. -/
def waitQ : Req := reqOf (.msgr hN) .waiter []
def labInbox : State := { labReq [waitQ] with hub := { storage.hub with msgs := [⟨6, x1.env.endpoint, 5, atp1, none, false, 0⟩] } }
theorem witness_LaunchEvents_msgr : labInbox.ctx? c0 = some x1 ∧ (labInbox.hub.msgs.find? fun m => m.ep == x1.env.endpoint).isSome = true ∧
    labInbox.reqs = [waitQ] := by decide

/-! ### States that meet the hypotheses of the statements: servers, links, hosts -/

/-- A message to an endpoint, its lanes given; and the machine with objects that has it. -/
def msgOf (ep : Nat) (retire : Bool) (lanes : List Nat) : Msg := ⟨6, ep, 5, atp1, none, retire, lanesMsg lanes⟩
def labAsk (m : Msg) : State := { storage with hub := { storage.hub with msgs := [m] } }
/-- The lanes of a 64-bit word. -/
def two32 (w : Word) : List Nat := [bits w 0 32, bits w 32 32]

theorem witness_ServerEvents_submit : (labAsk (msgOf 4 false [9])).msg? 6 = some (msgOf 4 false [9]) ∧ (msgOf 4 false [9]).lane 0 = 9 ∧
    (msgOf 4 false (1 :: two32 (near 9 0))).lane 0 = 1 ∧
    (((labAsk (msgOf 4 false (1 :: two32 (near 9 0)))).acting (.msg 6)).submit atp1 5 (near 9 0)).1.pause = none := by decide +kernel

/-- A job that the message's submitter launched, complete. -/
def jobN : Job := { job0 with near := near 2 0, submitter := 5, complete := true }
theorem witness_ServerEvents_jobs : [2, 4].all (fun n => let m := msgOf 4 false (n :: two32 (near 2 0))
    m.lane 0 == n && ({ labAsk m with loader := { storage.loader with jobs := [jobN], regions := [g0] } } : State).namedJob m == some jobN &&
      ((labAsk m).namedJob m).isNone) = true := by decide +kernel

/-- The halted context of that job. -/
def haltX : Ctx := { x1 with halt := some blk0, insts := [] }
theorem witness_ServerEvents_act : let m := msgOf 4 false [3, 0, 0, 1]
    let s : State := { labAsk m with ctxs := [haltX], loader := { storage.loader with jobs := [jobN], regions := [g0] } }
    (m.lane 0 == 3 && m.lane 3 == 1 && (msgOf 4 false [3, 0, 0, 2]).lane 3 == 2 && bits m.body 64 16 == 0 && bits m.body 32 10 == 0 && bits m.body 42 6 == 0 &&
      s.ctx? c0 == some haltX && (s.job? 0).map (fun j => j.submitter) == some m.sender && s.regionOf c0 == some g0 &&
      ((labAsk m).ctx? c0).isNone && { haltX with pending := [(4, 1)] }.pending != []) = true := by decide +kernel

/-- A request to create an object, with its class and home, rights and LENGTH: one that is met, and one that is not. -/
theorem witness_ServerEvents_create : ([([1, 0, 3, 0x10000, 0], true), ([1, 0, 3, 0, 0], false)] : List (List Nat × Bool)).all (fun e =>
    let m := msgOf 3 false e.1
    let u := (labAsk m).acting (.msg 6)
    m.lane 0 == 1 && match u.create m with | some (v, _) => e.2 && v.pause.isNone | none => !e.2 && (u.reply m [0]).pause.isNone) = true := by
  decide +kernel

/-- Bindings that are met, and that are not; an entry unbound, and entries that no table has. -/
theorem witness_ServerEvents_bind : let m := msgOf 3 false [2, 5, 2, 0, 0, 0, 0, 0x10000, 0, 3]
    let s := labAsk m
    ((m.word 5).toNat == 0 && (m.word 7).toNat == 0x10000 && m.lane 4 == 0 && m.lane 9 == 3 && !s.badAperture m.aperture 5 16 &&
      (msgOf 3 false [2, 5, 2, 0, 0, 0, 0, 0x10000, 0, 32]).lane 9 == 32 && someAnd ((s.acting (.msg 6)).setEntry m m.aperture) fun v => v.pause.isNone) = true := by
  decide +kernel
theorem witness_ServerEvents_unbind : let m := msgOf 3 false [3, 2]
    (m.lane 0 == 3 && m.lane 1 == 2 && (msgOf 3 false [3, 16]).lane 1 == atc atp1 &&
      someAnd (((labAsk m).acting (.msg 6)).setEntry m 0) fun v => v.pause.isNone) = true := by decide +kernel

theorem witness_ServerEvents_retire : [2, 99].all (fun n => let m := msgOf 3 true [4, n, 0, 0]
    let s := labAsk m
    m.lane 0 == 4 && BitVec.ofNat 16 (m.lane 3) == s.names.devNum && (s.live? (m.word 1)).isSome == decide (n = 2)) = true := by decide +kernel

/-- The machine with a halted context whose record the loader has not read. -/
def labHalted : State := { labReq [] with
  ctxs := [haltX], loader := { storage.loader with regions := [g0], jobs := [job0] }
  faults := { State.reset.faults with queues := [5] :: State.reset.faults.queues.tail, notes := [⟨0, some c0⟩] :: State.reset.faults.notes.tail } }
/-- The same, its record read, and its submitter gone. -/
def labForsaken : State := { labHalted with faults := State.reset.faults, loader := { labHalted.loader with jobs := [{ job0 with submitter := 999 }] } }
theorem witness_ServerEvents_halt : labForsaken.forsaken c0 = true ∧ labHalted.forsaken c0 = false ∧ (labHalted.readUntil (labHalted.dieOf c0) c0 (labHalted.faults.notes.getD (labHalted.dieOf c0) []).length).isSome = true ∧
    (let s : State := { storage with names := { storage.names with dying := [2] } }
    (2#64 ∈ s.names.dying) ∧ s.inFlight 2 = false ∧ (s.desc? 2).isSome = true) := by decide +kernel

/-- A packet of a peer, the next it is to send, and one that came before its turn. -/
def payload0 : PeerPayload := .reply 5 0 [1] 9 false
def labRecv (early : List (BitVec 16 × BitVec 32 × PeerPayload)) : State := { storage with hub := { storage.hub with recvSeq := [(1, 4)], early := early } }
def labSent (tries : Nat) : State := { storage with hub := { storage.hub with unacked := [⟨1, 64, 0, payload0, tries, 9, false⟩] } }

theorem witness_LinkEvents_receive : Sparse.get 0#32 (labRecv []).hub.recvSeq 1 = 4 ∧ 2 ^ 31 ≤ (3#32 - 4#32).toNat ∧
    (∃ e ∈ (labRecv [(1, 5, payload0)]).hub.early, e.1 = 1 ∧ e.2.1 = 5) ∧ (∀ e ∈ (labRecv [(1, 5, payload0)]).hub.early, e.1 = 1 → e.2.1 ≠ 4) ∧
    (6 - 4 : BitVec 32).toNat < 2 ^ 31 := by decide

theorem witness_LinkEvents_sent : (64#32).toNat % 64 = 0 ∧ (128#32).toNat % 64 = 0 ∧ (∀ u ∈ (labSent 0).hub.unacked, u.dev = 1 ∧ 2 ^ 31 ≤ (u.seq - 128).toNat ∧ u.tries < 15) ∧
    (∃ u ∈ (labSent 15).hub.unacked, u.dev = 1 ∧ u.seq = 64 ∧ 15 ≤ u.tries) := by decide

/-- A boundary that works, with the flit failures given. -/
def labCrc (n : Nat) : State := { storage with hub := { storage.hub with crcFails := [(.boundary 2, n)] } }
theorem witness_LinkEvents_boundary : goodLink (.boundary 2) = true ∧ (labCrc 0).mgmt.degraded.getLsbD (Link_bit (.boundary 2)) = false ∧
    ((labCrc 63).hub.crcFails.find? fun e => e.1 == .boundary 2) = some (.boundary 2, 63) := by decide

theorem witness_LinkEvents_parity : let p := pkTo (.node r0 ⟨0, 0, false⟩ .l 0) (sc 5) none
    (labPk andnBlk x0 [p]).hopOn p 0 0 0 0 0 = true := by decide +kernel

/-- A peer's access to the data object, or object 4, at offset 16. -/
def accOf (n : Nat) (op : PeerOp) : PeerAcc := ⟨3, 1, 7, 0, BitVec.ofNat 64 n, 16, 8, op, 9, false, false, none, false⟩
def labAcc (a : PeerAcc) : State := { storage with
  nextId := 9, names := { storage.names with peers := [1] }, hub := { storage.hub with peerAccs := [a], routes := [(1, 1)] } }

theorem witness_LinkEvents_access : [accOf 2 (.check 1), accOf 2 .retire, accOf 2 (.add 3 false), accOf 2 .load, accOf 4 .persist, accOf 2 (.warm 1 0 65536), accOf 2 .promote,
    accOf 2 .peek].all (fun a =>
    let s := labAcc a
    s.hub.peerAccs.filter (fun e => e.dev == 1 && e.req == 7) == [a] && !a.held && !s.peerWaits a && okAnd (s.peerName a) fun d =>
      let t := s.passName a
      let a : PeerAcc := { a with named := true }
      !t.peerHeld a && !t.accOutranked a && (t.live? a.serial).isSome && match a.op with
        | .add _ _ => (t.counterStep ((t.addHome (.acc a)).getD 0) [3]).isSome
        | .persist => d.cls == 1 && (t.persistBad d a.lines.1 a.lines.2).isNone
        | _ => true) = true := by decide +kernel

theorem witness_LinkEvents_fault : (match (labAcc (accOf 99 .load)).peerName (accOf 99 .load) with
    | .error e => e != codeNameDead
    | .ok _ => false) = true ∧ [PeerOp.load, .retire].all (fun op => let s : State := { labAcc (accOf 99 op) with
        names := { storage.names with horizon := 200#64, mirrors := List.replicate 8 200#64 } }
      !s.passedHere (accOf 99 op) && match s.peerName (accOf 99 op) with
        | .error e => e == codeNameDead
        | .ok _ => false) = true := by decide +kernel

/-- A peer's store, combine, CWAIT and CPOLL of the counter there, which holds 0. -/
theorem witness_LinkEvents_perform : [PeerOp.store [1, 0, 0, 0, 0, 0, 0, 0], .combine (.int .n64) .add 3, .wait 0, .wait 6, .poll 6, .peek,
    .stores [(0, [1]), (4, [2])]].all (fun op =>
    let a := accOf 2 op
    let s := labAcc a
    let u := (s.passName a).acting (.acc 3)
    let a : PeerAcc := { a with named := true }
    let f : FullAddr := ⟨0, 2, 16⟩
    okAnd (s.peerName a) fun d => okAnd (u.readNow 0 f d 8) fun (bs, v) => v.pause.isNone && decide (leWord bs = 0) && match op with
      | .store b => okAnd (u.writeNow 0 f d b) fun w => w.pause.isNone
      | .stores ps => okAnd (u.storeParts f d ps) fun w => w.pause.isNone
      | .combine ty fn x => okAnd (v.writeNow 0 f d (toBytesLE 8 (combine ty fn (leWord bs) x).toNat)) fun w => w.pause.isNone
      | .wait thr => satisfied 0 thr || someAnd (v.register f thr 9 (.peer 3)) fun w => w.pause.isNone
      | _ => true) = true := by decide +kernel

/-- A host-client link whose client's table is the table of the machine with objects, and window 3 a counter window. -/
def link0 : HostLink := ⟨true, atp1, 0, 0, 0, false, false, [(3, 1#2), (0, 0#2)], none, none, [], [], []⟩
def labHost (l : HostLink) : State := { storage with nextId := 9, hub := { storage.hub with links := [l] } }
/-- The same with window 0 a counter window. -/
def linkC : HostLink := { link0 with wkind := [(0, 1#2), (3, 1#2)] }

/-- A link's access arrives, behind those given. -/
def arrives (l : HostLink) (a : HostAcc) : State := ((labHost l).updLink 0 fun k => { k with accesses := k.accesses ++ [a] }).acting (.link 0)

theorem witness_HostEvents_window : link0.kind (windowOf 16) = 0#2 ∧ ([(.r, none), (.w, some [1, 2, 3, 4, 5, 6, 7, 8])] : List (Right × Option (List Byte))).all
    (fun (k, w) => let u := arrives link0 ⟨16, 8, w⟩
      okAnd (u.unitLocate 8 atp1 (hostNear 16) 8 [k] 8) (fun (l, v) => v.pause.isNone && someAnd (v.takeRegions 0 16 8) fun t => match w with
        | none => okAnd (t.readAt 8 l 8) fun (_, x) => x.pause.isNone
        | some bs => okAnd (t.writeAt 8 l bs) fun x => x.pause.isNone) &&
      !okAnd (u.unitLocate 8 atp1 (hostNear (63 * 2 ^ 40)) 8 [k] 8) fun _ => true) = true := by decide +kernel

/-- An access that stands behind another of its link, which is performed. -/
theorem witness_HostEvents_order : let l : HostLink := { link0 with accesses := [⟨32, 8, none⟩] }
    ((arrives l ⟨16, 8, none⟩).hostPerform 0 l ⟨32, 8, none⟩).pause = none := by decide +kernel

theorem witness_HostEvents_counter : linkC.kind (windowOf 16) = 1#2 ∧ linkC.kind (windowOf (3 * 2 ^ 40)) = 1#2 ∧
    (let u := arrives linkC ⟨16, 8, none⟩
     okAnd (u.unitLocate 8 atp1 (hostNear 16) 8 [.c] 8) (fun (l, v) => v.pause.isNone && someAnd (v.takeRegions 0 16 8) fun w =>
        okAnd (State.readBy 64 w 8 .peek l 8) fun (_, x) => x.pause.isNone) &&
      !okAnd (u.unitLocate 8 atp1 (hostNear (3 * 2 ^ 40)) 8 [.c] 8) fun _ => true) = true ∧
    (let u := arrives linkC ⟨16, 8, some (toBytesLE 8 3)⟩
     okAnd (u.unitAdd 8 atp1 (hostNear 16) 3 .domain 507904 false (.host 0)) (fun v => v.pause.isNone && someAnd (v.takeRegions 0 16 8) fun w =>
        w.pause.isNone) &&
      !okAnd (u.unitAdd 8 atp1 (hostNear (3 * 2 ^ 40)) 3 .domain 507904 false (.host 0)) fun _ => true) = true := by decide +kernel

/-- Owner states of region 0 of that window: the host's, held, and the host's being asked for. -/
def labOwner (o : Owner) : State := { labHost link0 with hub := { (labHost link0).hub with owners := [o], wanted := [(0, 0, 0)] } }
theorem witness_HostEvents_owner : let o : Owner := ⟨0, 0, 0, true, false, false⟩
    let p : Owner := { o with snooping := true }
    (labOwner o).owner 0 0 0 = o ∧ (labOwner o).deviceWaits o = true ∧ ((labOwner { o with held := true }).owner 0 0 0).held = true ∧
      (labOwner p).owner 0 0 0 = p ∧ ([(16, 7#8)].foldl (State.writeBackByte 0 0 0) (((labOwner p).acting (.link 0)).setOwner
        { o with host := false, held := true })).pause = none := by decide +kernel

/-- Links busy with a binding: one that was refused, and one of object 3; and one with a launch that waits. -/
def linkB (serial : Option (BitVec 64)) : HostLink := { link0 with busy := true, binding := some ⟨none, serial⟩ }
def linkL : HostLink := { link0 with launches := [near 9 0] }
theorem witness_HostEvents_bind : let at_ := fun (l : HostLink) => (labHost l).acting (.server 0)
    let clear := fun (t : State) => t.updLink 0 fun k => { k with busy := false, binding := none }
    (clear ((at_ (linkB none)).updLink 0 fun k => { k with refusedCode := true })).pause = none ∧
      someAnd ((at_ (linkB (some 3))).bindCode (linkB (some 3)) 3) (fun t =>
        (clear (t.updLink 0 fun k => { k with code := some 3, refusedCode := false })).pause.isNone) = true ∧
      (at_ (linkB (some 9))).bindCode (linkB (some 9)) 9 = none ∧ (at_ link0).makeCode link0 (near 2 0) = none ∧
      ((((labHost link0).updLink 0 fun k => { k with launches := [near 9 0] }).acting (.server 0)).hostSubmit 0 (near 9 0)).pause = none ∧
      ((at_ linkL).hostSubmit 0 (near 9 0)).pause = none := by decide +kernel

/-- The link about to bind code that stands at a peer device, whose answers have come (log entry 13). -/
def codeParts : List (FullAddr × Nat × PeerOp) := (area, 2048, .check (rightsBits [.r])) :: peerParts area 2048 .load
/-- CODELEN is one block. -/
def linkK : HostLink := { link0 with codelen := 2048 }
def labCode : State := { labPeer 0 0 [] codeParts with
  hub := { storage.hub with links := [linkK] }, away := answers (.server 0) [] codeParts, bound := [readBefore (.server 0)], doer := some (.server 0) }
theorem labCode_read : labCode.unitRead 8 atp1 (near 4 0) 2048 1 = .ok (((peerParts area 2048 .load).map fun _ => ([] : List Byte)).flatten, labCode) := by
  rw [State.unitRead, unitLocate_answers labCode (.server 0) [] codeParts rfl rfl _ _ _ area _ _ _ (by decide +kernel) (by decide +kernel) (List.mem_cons_self ..)]
  exact readAt_answers labCode (.server 0) [] codeParts rfl rfl rfl _ _ _ fun p hp => List.mem_cons_of_mem _ hp
theorem witness_HostEvents_code : someAnd (labCode.makeCode linkK (near 4 0)) (fun e => e.1.pause.isNone) = true := by
  have h : labCode.makeCode linkK (near 4 0) = labCode.createImage ⟨4, 0, 0, 0b00101, 65536⟩ [] := by
    have hf : ((peerParts area 2048 .load).map fun _ => ([] : List Byte)).flatten = [] := by simp
    have hr := labCode_read
    rw [hf] at hr
    have hc : linkK.atp = atp1 := rfl
    have hn : linkK.codelen.toNat = 2048 := rfl
    simp only [State.makeCode, hc, hn, hr]
    rfl
  rw [h]
  decide +kernel

/-- The machine with objects, its main power off. -/
def labOff : State := { storage with mgmt := { storage.mgmt with mainUp := false } }
theorem witness_ManagementEvents : ({ storage with mgmt := { storage.mgmt with mainUp := true } } : State).mgmt.mainUp = true ∧ labOff.mgmt.mainUp = false ∧
    labOff.mgmt.counter.toNat ≤ (1#32).toNat ∧ (1#32).toNat < ({ labOff with mgmt := { labOff.mgmt with counter := 2 } } : State).mgmt.counter.toNat ∧
    storage.mgmt.badImage = false ∧ storage.mgmt.leaf < 2 ^ 20 ∧ 95 ≤ (96#8).toNat ∧ 105 ≤ (106#8).toNat ∧ (94#8).toNat < 95 := by decide

theorem witness_RecordsNeverStop : (Instr.mov hN false false).isEvent = false ∧ FiresReal (.fma hN .f16 .ru) (labS 1 2 3) ∧
    FiresReal (.fcvt hN (.tap .t6) (.int .n64) .rne) (labS 1 0 0) ∧ FiresReal (.amax hN .t6) (labV 0 (sc 0) (sc 0)) ∧
    FiresReal (.cvdq hN .t8 3) (labV 0 (sc 0x7F000) (sc 0)) ∧ FiresReal (.vpk hN) (labV 0 (sc 0) (sc 0)) ∧ FiresReal (.vupk hN) (labV 0 (sc 0) (sc 0)) ∧
    FiresReal (.cvq hN .t6 3) (labV 0 (sc 0x7F000) (sc 0)) :=
  ⟨rfl, labS_real _ _ _ _ rfl rfl, labS_real _ _ _ _ rfl rfl, (labV_real _ _ rfl rfl).1, lab_fires _ _ _ _ rfl rfl rfl rfl, (labV_real _ _ rfl rfl).1,
    (labV_real _ _ rfl rfl).1, lab_fires _ _ _ _ rfl rfl rfl rfl⟩
theorem witness_FiringKeepsRegisters : (Instr.mov hN false false).isEvent = false ∧ (∃ t, exec (.mov hN false false) (labS 7 0 0) = .next t) ∧
    ∀ h, Instr.mov hN false false ≠ .ctxld h := ⟨rfl, ⟨_, rfl⟩, fun _ => nofun⟩

/-- The step after `withFetchWord` fires the record: a CONST (OP 0x04) sends its token (R265). -/
theorem test_step_fires : (match step (State.reset.withFetchWord 96 (word 0x04 1 0x02 0x006 0xC00 0).toNat) with
    | .next t => decide (t.packets.length = 1) && t.ctxs.any fun x => x.insts.any fun i => i.hasFired 0 0
    | _ => false) = true := by decide +kernel
end Sys2Proof.Tests
end

section
/-! SUPPORT. The events of links and peers (R28, R380, R391-R393): what each operation behind them answers in each of its cases. -/

namespace Sys2Proof.Machine
open Sys2Proof
variable {s : State} {dev : BitVec 16} {seq : BitVec 32} {p : PeerPayload}

/-! ### Packets of a device, in the order of its sequence (R391, R392) -/

/-- The number of the packet that a device's sequence awaits. -/
def State.awaited (s : State) (dev : BitVec 16) : BitVec 32 := Sparse.get 0#32 s.hub.recvSeq dev.toNat

/-- A SACK goes back to a device. -/
def State.sackBack (s : State) (dev : BitVec 16) : State :=
  { s with hub := { s.hub with sacks := s.hub.sacks ++ [(dev, s.sackFor dev)] } }

/-- A device's sequence has moved past the packet it awaited. -/
def State.pastAwaited (s : State) (dev : BitVec 16) : State :=
  { s with hub := { s.hub with recvSeq := Sparse.put 0#32 s.hub.recvSeq dev.toNat (s.awaited dev + 1) } }

/-- A packet is kept until its turn comes. -/
def State.keepEarly (s : State) (dev : BitVec 16) (seq : BitVec 32) (p : PeerPayload) : State :=
  { s with hub := { s.hub with early := s.hub.early ++ [(dev, seq, p)] } }

/-- No packet that a device has sent under that number is kept early. -/
def State.NotEarly (s : State) (dev : BitVec 16) (seq : BitVec 32) : Prop := ∀ e ∈ s.hub.early, e.1 = dev → e.2.1 ≠ seq

theorem State.NotEarly.any_eq_false (h : s.NotEarly dev seq) : (s.hub.early.any fun e => e.1 == dev && e.2.1 == seq) = false := by
  simpa [State.NotEarly] using h

theorem State.NotEarly.find?_eq_none (h : s.NotEarly dev seq) : (s.hub.early.find? fun e => e.1 == dev && e.2.1 == seq) = none := by
  simpa [State.NotEarly] using h

theorem State.NotEarly.filter_eq (h : s.NotEarly dev seq) : (s.hub.early.filter fun e => !(e.1 == dev && e.2.1 == seq)) = s.hub.early :=
  List.filter_eq_self.mpr fun e he => by simpa [imp_iff_not_or] using h e he

/-- A packet that has come before, or that is kept already, is dropped. -/
theorem State.receive_again (h : 2 ^ 31 ≤ (seq - s.awaited dev).toNat ∨ ∃ e ∈ s.hub.early, e.1 = dev ∧ e.2.1 = seq) :
    s.receive dev seq p = s.sackBack dev := by
  have hc : (seq - Sparse.get 0#32 s.hub.recvSeq dev.toNat).toNat ≥ 2 ^ 31 ∨
      (s.hub.early.any fun e => e.1 == dev && e.2.1 == seq) = true := by
    simpa [State.awaited] using h
  simp only [State.receive, if_pos hc]
  rfl

/-- A packet that comes for the first time joins those kept, and all whose turn has come are delivered. -/
theorem State.receive_first (h : (seq - s.awaited dev).toNat < 2 ^ 31) (hn : s.NotEarly dev seq) :
    s.receive dev seq p = ((s.keepEarly dev seq p).deliverEarly dev (s.hub.early.length + 1)).sackBack dev := by
  have hc : ¬((seq - Sparse.get 0#32 s.hub.recvSeq dev.toNat).toNat ≥ 2 ^ 31 ∨
      (s.hub.early.any fun e => e.1 == dev && e.2.1 == seq) = true) := by
    rw [hn.any_eq_false]
    simpa [State.awaited] using h
  simp only [State.receive, if_neg hc, List.length_append, List.length_singleton]
  rfl

/-- Nothing is delivered while the awaited packet has not come. -/
theorem State.deliverEarly_waits (h : s.NotEarly dev (s.awaited dev)) (fuel : Nat) : s.deliverEarly dev fuel = s := by
  cases fuel with
  | zero => rfl
  | succ n =>
    have hf := h.find?_eq_none
    simp only [State.awaited] at hf
    simp only [State.deliverEarly, hf]

/-- The awaited packet is delivered, and then those behind it. -/
theorem State.deliverEarly_awaited (h : s.NotEarly dev (s.awaited dev)) (fuel : Nat) :
    (s.keepEarly dev (s.awaited dev) p).deliverEarly dev (fuel + 1) = ((s.pastAwaited dev).deliver dev p).deliverEarly dev fuel := by
  have hf : ((s.keepEarly dev (s.awaited dev) p).hub.early.find? fun e =>
      e.1 == dev && e.2.1 == Sparse.get 0#32 (s.keepEarly dev (s.awaited dev) p).hub.recvSeq dev.toNat) = some (dev, s.awaited dev, p) := by
    have hk : Sparse.get 0#32 (s.keepEarly dev (s.awaited dev) p).hub.recvSeq dev.toNat = s.awaited dev := rfl
    rw [hk]
    simp [State.keepEarly, h.find?_eq_none]
  have hr : ((s.keepEarly dev (s.awaited dev) p).hub.early.filter fun e =>
      !(e.1 == dev && e.2.1 == Sparse.get 0#32 (s.keepEarly dev (s.awaited dev) p).hub.recvSeq dev.toNat)) = s.hub.early := by
    have hk : Sparse.get 0#32 (s.keepEarly dev (s.awaited dev) p).hub.recvSeq dev.toNat = s.awaited dev := rfl
    rw [hk]
    simp only [State.keepEarly, List.filter_append, h.filter_eq]
    simp
  simp only [State.deliverEarly, hf, hr]
  rfl

/-- The packet that a device's sequence awaits is delivered, with those that came early behind it. -/
theorem State.receive_awaited (h : s.NotEarly dev (s.awaited dev)) :
    s.receive dev (s.awaited dev) p = (((s.pastAwaited dev).deliver dev p).deliverEarly dev s.hub.early.length).sackBack dev := by
  rw [State.receive_first (by simp) h, State.deliverEarly_awaited h]

/-- A packet that comes before its turn is kept. -/
theorem State.receive_early (h : s.NotEarly dev (s.awaited dev)) (hne : seq ≠ s.awaited dev) (hlt : (seq - s.awaited dev).toNat < 2 ^ 31)
    (hn : s.NotEarly dev seq) : s.receive dev seq p = (s.keepEarly dev seq p).sackBack dev := by
  have hk : (s.keepEarly dev seq p).NotEarly dev ((s.keepEarly dev seq p).awaited dev) := by
    intro e he hd
    rcases List.mem_append.mp he with he | he
    · exact h e he hd
    · rw [List.mem_singleton.mp he]
      exact hne
  rw [State.receive_first hlt hn, State.deliverEarly_waits hk]

/-! ### Sending again (R392) -/

/-- A packet of a device's sequence. -/
def Sent.isOf (dev : BitVec 16) (seq : BitVec 32) (u : Sent) : Bool := u.dev == dev && u.seq == seq

/-- A packet of a device whose number is one of those listed. -/
def Sent.isAmong (dev : BitVec 16) (l : List (BitVec 32)) (u : Sent) : Bool := u.dev == dev && l.contains u.seq

theorem Sent.isOf_iff {u : Sent} : u.isOf dev seq = true ↔ u.dev = dev ∧ u.seq = seq := by simp [Sent.isOf]

theorem Sent.isAmong_iff {l : List (BitVec 32)} {u : Sent} : u.isAmong dev l = true ↔ u.dev = dev ∧ u.seq ∈ l := by
  simp [Sent.isAmong]

theorem Sent.isAmong_cons (l : List (BitVec 32)) (u : Sent) : u.isAmong dev (seq :: l) = (u.isOf dev seq || u.isAmong dev l) := by
  cases h : u.dev == dev <;> simp [Sent.isOf, Sent.isAmong, h, beq_eq_decide]

theorem Sent.isAmong_of_isOf {l : List (BitVec 32)} {u : Sent} (hn : seq ∉ l) (h : u.isOf dev seq = true) : u.isAmong dev l = false := by
  obtain ⟨-, hs⟩ := Sent.isOf_iff.mp h
  simp [Sent.isAmong, hs, hn]

/-- The packets that `q` picks among those not acknowledged have been sent once more. -/
def State.sentAgain (s : State) (q : Sent → Bool) : State :=
  { s with hub := { s.hub with unacked := updWhere q (fun u => { u with tries := u.tries + 1 }) s.hub.unacked } }

theorem State.mem_sentAgain {q : Sent → Bool} {v : Sent} (hv : v ∈ (s.sentAgain q).hub.unacked) :
    ∃ w ∈ s.hub.unacked, (q w = true ∧ v = { w with tries := w.tries + 1 }) ∨ (q w = false ∧ v = w) := by
  obtain ⟨w, hw, rfl⟩ := List.mem_map.mp hv
  refine ⟨w, hw, ?_⟩
  cases hq : q w with
  | true => exact .inl ⟨rfl, rfl⟩
  | false => exact .inr ⟨rfl, rfl⟩

theorem State.sentAgain_congr {q r : Sent → Bool} (h : ∀ u ∈ s.hub.unacked, q u = r u) : s.sentAgain q = s.sentAgain r := by
  have hm : updWhere q (fun u => { u with tries := u.tries + 1 }) s.hub.unacked =
      updWhere r (fun u => { u with tries := u.tries + 1 }) s.hub.unacked :=
    List.map_congr_left fun u hu => by simp only [h u hu]
  simp only [State.sentAgain, hm]

theorem State.sentAgain_none {q : Sent → Bool} (h : ∀ u ∈ s.hub.unacked, q u = false) : s.sentAgain q = s := by
  have hm : updWhere q (fun u => { u with tries := u.tries + 1 }) s.hub.unacked = s.hub.unacked :=
    (List.map_congr_left fun u hu => by simp [h u hu]).trans (List.map_id _)
  simp only [State.sentAgain, hm]

/-- Packets that no two picks have in common, sent again one pick after the other. -/
theorem State.sentAgain_sentAgain {q r : Sent → Bool} (hr : ∀ u, r { u with tries := u.tries + 1 } = r u)
    (hd : ∀ u ∈ s.hub.unacked, q u = true → r u = false) : (s.sentAgain q).sentAgain r = s.sentAgain fun u => q u || r u := by
  have hm : updWhere r (fun u => { u with tries := u.tries + 1 }) (updWhere q (fun u => { u with tries := u.tries + 1 }) s.hub.unacked) =
      updWhere (fun u => q u || r u) (fun u => { u with tries := u.tries + 1 }) s.hub.unacked := by
    simp only [updWhere, List.map_map]
    refine List.map_congr_left fun u hu => ?_
    cases hq : q u with
    | true => simp [hq, hr, hd u hu hq]
    | false => simp [hq]
  simp only [State.sentAgain, hm]

theorem State.resend_any {u : Sent} (hu : u ∈ s.hub.unacked) (hm : u.isOf dev seq = true) (ht : 15 ≤ u.tries) :
    ((s.sentAgain (Sent.isOf dev seq)).hub.unacked.any fun u => u.isOf dev seq && decide (u.tries ≥ 16)) = true := by
  refine List.any_eq_true.mpr ⟨{ u with tries := u.tries + 1 }, List.mem_map.mpr ⟨u, hu, by simp [hm]⟩, ?_⟩
  have h16 : u.tries + 1 ≥ 16 := by omega
  exact Bool.and_eq_true_iff.mpr ⟨hm, by simpa using h16⟩

/-- A packet sent for the sixteenth time without an acknowledgement loses its peer. -/
theorem State.resend_loses {u : Sent} (hu : u ∈ s.hub.unacked) (hm : u.isOf dev seq = true) (ht : 15 ≤ u.tries) :
    s.resend dev seq = (s.sentAgain (Sent.isOf dev seq)).losePeer dev := if_pos (State.resend_any hu hm ht)

/-- Before the sixteenth time another sending is counted. -/
theorem State.resend_counts (h : ∀ u ∈ s.hub.unacked, u.isOf dev seq = true → u.tries < 15) :
    s.resend dev seq = s.sentAgain (Sent.isOf dev seq) := by
  refine if_neg fun ha => ?_
  obtain ⟨u, hu, hp⟩ := List.any_eq_true.mp ha
  obtain ⟨hm, ht⟩ := Bool.and_eq_true_iff.mp hp
  obtain ⟨v, hv, ⟨hq, rfl⟩ | ⟨hq, rfl⟩⟩ := State.mem_sentAgain hu
  · have hlt := h v hv hq
    have hge : v.tries + 1 ≥ 16 := of_decide_eq_true ht
    omega
  · exact absurd (hm.symm.trans hq) (by decide)

/-- A packet that still waits for its acknowledgement is sent again. -/
def State.resendOne (dev : BitVec 16) (s : State) (u : Sent) : State :=
  if s.hub.unacked.any fun x => x.dev == dev && x.seq == u.seq then s.resend dev u.seq else s

theorem State.resendOne_waiting {u v : Sent} (hv : v ∈ s.hub.unacked) (hm : v.isOf dev u.seq = true) :
    s.resendOne dev u = s.resend dev u.seq := if_pos (List.any_eq_true.mpr ⟨v, hv, hm⟩)

theorem State.resendOne_counts {u : Sent} (h : ∀ v ∈ s.hub.unacked, v.isOf dev u.seq = true → v.tries < 15) :
    s.resendOne dev u = s.sentAgain (Sent.isOf dev u.seq) := by
  cases ha : s.hub.unacked.any fun x => x.dev == dev && x.seq == u.seq with
  | true => simp only [State.resendOne, ha, if_true, State.resend_counts h]
  | false =>
    have hn : s.sentAgain (Sent.isOf dev u.seq) = s :=
      State.sentAgain_none fun v hv => by simpa [Sent.isOf] using List.any_eq_false.mp ha v hv
    simp only [State.resendOne, ha, hn, Bool.false_eq_true, if_false]

/-- Packets with numbers all different are sent again one after the other, and none for the sixteenth time. -/
theorem State.resendAll_counts (l : List Sent) (hd : (l.map Sent.seq).Nodup)
    (ht : ∀ v ∈ s.hub.unacked, v.isAmong dev (l.map Sent.seq) = true → v.tries < 15) :
    l.foldl (State.resendOne dev) s = s.sentAgain (Sent.isAmong dev (l.map Sent.seq)) := by
  induction l generalizing s with
  | nil => exact (State.sentAgain_none fun v _ => by simp [Sent.isAmong]).symm
  | cons u l ih =>
    obtain ⟨hu, hl⟩ := List.nodup_cons.mp hd
    simp only [List.map_cons, Sent.isAmong_cons, Bool.or_eq_true] at ht ⊢
    have hrest : ∀ v ∈ (s.sentAgain (Sent.isOf dev u.seq)).hub.unacked, v.isAmong dev (l.map Sent.seq) = true → v.tries < 15 := by
      intro v hv hm
      obtain ⟨w, hw, ⟨hq, rfl⟩ | ⟨-, rfl⟩⟩ := State.mem_sentAgain hv
      · exact absurd (hm.symm.trans (Sent.isAmong_of_isOf hu hq)) (by decide)
      · exact ht _ hw (.inr hm)
    have hdisj : ∀ v ∈ s.hub.unacked, v.isOf dev u.seq = true → v.isAmong dev (l.map Sent.seq) = false :=
      fun v _ => Sent.isAmong_of_isOf hu
    rw [List.foldl_cons, State.resendOne_counts fun v hv hm => ht v hv (.inl hm), ih hl hrest,
      State.sentAgain_sentAgain (fun _ => rfl) hdisj]
    exact State.sentAgain_congr fun v _ => (Sent.isAmong_cons _ v).symm

/-- A packet below the base of a SACK. -/
def Sent.isBelow (dev : BitVec 16) (base : BitVec 32) (u : Sent) : Bool := u.dev == dev && decide (2 ^ 31 ≤ (u.seq - base).toNat)

/-- The packets that a SACK names are acknowledged. -/
def State.acknowledged (s : State) (dev : BitVec 16) (base : BitVec 32) (bitmap : BitVec 64) : State :=
  { s with hub := { s.hub with unacked := s.hub.unacked.filter fun u =>
      !(u.dev == dev && decide ((u.seq - base).toNat < 64) && bitmap.getLsbD (u.seq - base).toNat) } }

variable {base : BitVec 32} {bitmap : BitVec 64}

/-- Whether a packet is below the base depends on its device and number alone. -/
theorem Sent.isAmong_below {l : List Sent} {v : Sent} (hv : v ∈ l) :
    v.isAmong dev ((l.filter (Sent.isBelow dev base)).map Sent.seq) = v.isBelow dev base := by
  rw [Bool.eq_iff_iff, Sent.isAmong_iff]
  constructor
  · rintro ⟨hd, hs⟩
    obtain ⟨u, hu, hsv⟩ := List.mem_map.mp hs
    obtain ⟨-, hb⟩ := List.mem_filter.mp hu
    simp only [Sent.isBelow, hd, hsv, BEq.rfl, Bool.true_and, Bool.and_eq_true] at hb ⊢
    exact hb.2
  · intro hb
    have hd : v.dev = dev := by simpa using (Bool.and_eq_true_iff.mp hb).1
    exact ⟨hd, List.mem_map.mpr ⟨v, List.mem_filter.mpr ⟨hv, hb⟩, rfl⟩⟩

theorem State.sack_eq (hb : base.toNat % 64 = 0) : s.sack dev base bitmap =
    ((s.acknowledged dev base bitmap).hub.unacked.filter (Sent.isBelow dev base)).foldl (State.resendOne dev)
      (s.acknowledged dev base bitmap) := if_neg fun h => h hb

/-- A SACK has every packet below its base that it does not name sent again. -/
theorem State.sack_counts (hb : base.toNat % 64 = 0)
    (hd : (((s.acknowledged dev base bitmap).hub.unacked.filter (Sent.isBelow dev base)).map Sent.seq).Nodup)
    (ht : ∀ u ∈ (s.acknowledged dev base bitmap).hub.unacked, u.isBelow dev base = true → u.tries < 15) :
    s.sack dev base bitmap = (s.acknowledged dev base bitmap).sentAgain (Sent.isBelow dev base) := by
  rw [State.sack_eq hb, State.resendAll_counts _ hd fun v hv hm => ht v hv (Sent.isAmong_below hv ▸ hm)]
  exact State.sentAgain_congr fun v hv => Sent.isAmong_below hv

/-- A SACK whose one packet to send again has been sent fifteen times more already loses the peer. -/
theorem State.sack_loses {u : Sent} (hb : base.toNat % 64 = 0)
    (hu : (s.acknowledged dev base bitmap).hub.unacked.filter (Sent.isBelow dev base) = [u]) (ht : 15 ≤ u.tries) :
    s.sack dev base bitmap = ((s.acknowledged dev base bitmap).sentAgain (Sent.isBelow dev base)).losePeer dev := by
  obtain ⟨hmem, hbelow⟩ := List.mem_filter.mp (hu ▸ List.mem_singleton_self u)
  have hof : u.isOf dev u.seq = true := Sent.isOf_iff.mpr ⟨by simpa using (Bool.and_eq_true_iff.mp hbelow).1, rfl⟩
  have hsame : ∀ v ∈ (s.acknowledged dev base bitmap).hub.unacked, v.isOf dev u.seq = v.isBelow dev base := fun v hv => by
    rw [← Sent.isAmong_below hv, hu, List.map_singleton, Sent.isAmong_cons]
    simp [Sent.isAmong]
  rw [State.sack_eq hb, hu, List.foldl_cons, List.foldl_nil, State.resendOne_waiting hmem hof, State.resend_loses hmem hof ht, State.sentAgain_congr hsame]

/-! ### Links and parity (R380, R393) -/

/-- The failures in a row of a link's flits. -/
def State.crcCount (s : State) (l : Link) : Nat := ((s.hub.crcFails.find? fun e => e.1 == l).map fun e => e.2).getD 0

variable {l : Link}

/-- A failed flit of a link is counted. -/
def State.crcCounted (s : State) (l : Link) : State :=
  { s with hub := { s.hub with crcFails := (s.hub.crcFails.filter fun e => e.1 != l) ++ [(l, s.crcCount l + 1)] } }

theorem State.flitFails_eq (hg : goodLink l = true) (hd : s.mgmt.degraded.getLsbD (Link_bit l) = false) :
    s.flitFails l = if s.crcCount l + 1 ≥ 64 then s.linkFails l else s.crcCounted l := by
  unfold State.flitFails State.crcCounted State.crcCount
  cases s.hub.crcFails.find? fun e => e.1 == l <;> simp [hg, hd]

theorem State.flitFails_last (hg : goodLink l = true) (hd : s.mgmt.degraded.getLsbD (Link_bit l) = false) (hn : 63 ≤ s.crcCount l) :
    s.flitFails l = s.linkFails l := by
  rw [State.flitFails_eq hg hd, if_pos (by omega)]

theorem State.flitFails_counts (hg : goodLink l = true) (hd : s.mgmt.degraded.getLsbD (Link_bit l) = false) (hn : s.crcCount l < 63) :
    s.flitFails l = s.crcCounted l := by
  rw [State.flitFails_eq hg hd, if_neg (by omega)]

theorem State.linkFails_eq (hg : goodLink l = true) : s.linkFails l =
    ((s.degrade (Link_bit l)).flitPasses l).reqs.foldl (fun t q => t.cutRequest q.id) ((s.degrade (Link_bit l)).flitPasses l) := by
  simp only [State.linkFails, hg, Bool.not_true, Bool.false_eq_true, if_false, List.foldl_map]
  rfl

/-- A packet's token is poisoned. -/
def State.poisoned (s : State) (pkt : Nat) : State :=
  { s with packets := updWhere (fun k => k.id == pkt) (fun k => { k with tok := { k.tok with poison := true } }) s.packets }

theorem State.parity_eq {pkt die con pe : Nat} {dir : BitVec 3} {word : BitVec 5} {p : Packet}
    (hp : (s.packets.find? fun k => k.id == pkt) = some p) (hh : s.hopOn p die con pe dir word = true) :
    s.parity pkt die con pe dir word = some ((s.poisoned pkt).post p.ctx (parityRecord die con pe dir word)) := by
  simp only [State.parity, hp, hh, if_true]
  rfl

/-! ### Accesses of peers (R28, R49, R146) -/

variable {a : PeerAcc} {d : Desc}

/-- A unit that need not wait has acted. -/
theorem State.whole_acted {w : Doer} {slack : Nat} {late : Bool} {f : State → Option State} {t : State} (h : f (s.acting w) = some t)
    (hp : t.pause = none) : s.whole w slack late f = some (t.acted w) := by
  have h' : f { s with doer := some w, pause := none } = some t := h
  simp only [State.whole, h']
  split
  · rfl
  · next hsome => exact absurd (hp.symm.trans hsome) (by simp)

theorem exec_peerAccess {req : Nat} {t : State} (h : (s.hub.peerAccs.filter fun a => a.dev == dev && a.req == req) = [a])
    (hs : s.peerServe a = some (t, none)) : exec (.peerAccess dev req) s = .next t := by
  show execPeerAccess dev req s = .next t
  simp only [execPeerAccess, h, List.findSome?_cons, hs]

/-- An access whose name step passes acts, and is not left to wait. -/
theorem State.peerServe_ok {r : State × Option Nat} (hh : a.held = false) (hw : s.peerWaits a = false) (hn : s.peerName a = .ok d)
    (ha : (s.passName a).peerAct { a with named := true } d = some r) : s.peerServe a = some r := by
  have hc : ¬(a.held || s.peerWaits a) = true := by simp [hh, hw]
  simp only [State.peerServe, if_neg hc, hn, ha]
  rfl

theorem State.peerServe_error {e : BitVec 8} (hh : a.held = false) (hw : s.peerWaits a = false) (hn : s.peerName a = .error e)
    (hp : e = codeNameDead → s.passedHere a = false ∧ (a.op ≠ .retire ∧ a.named = false)) :
    s.peerServe a = some (s.peerFaults a e, none) := by
  by_cases he : e = codeNameDead
  · obtain ⟨hpass, hop, hnamed⟩ := hp he
    simp [State.peerServe, hh, hw, hn, hpass, hop, hnamed]
  · simp [State.peerServe, hh, hw, hn, he]

theorem State.peerServe_dead_retire (hh : a.held = false) (hw : s.peerWaits a = false) (hn : s.peerName a = .error codeNameDead)
    (hp : s.passedHere a = false) (ho : a.op = .retire) : s.peerServe a = some (s.peerReply a [], none) := by
  simp [State.peerServe, hh, hw, hn, hp, ho]

/-- An access to bytes of its object, which its bank has to choose (R146). -/
def atBank : PeerOp → Bool
  | .load | .store _ | .stores _ | .combine _ _ _ | .wait _ | .poll _ | .peek => true
  | _ => false

theorem State.peerAct_eq (ho : atBank a.op = true) : s.peerAct a d = if s.peerHeld a || s.accOutranked a then none
    else (s.whole (.acc a.id) a.slack a.late fun t => some (t.peerPerform a d)).map fun t => (t, none) := by
  obtain ⟨id, dev, req, piece, serial, ofs, size, op, slack, late, held, renew, named⟩ := a
  cases op with
  | load | store | stores | combine | wait | poll | peek => rfl
  | probe | check | add | warm | promote | persist | retire | drop | fetch => cases ho

theorem State.peerAct_atBank {t : State} (ho : atBank a.op = true) (hh : s.peerHeld a = false) (hr : s.accOutranked a = false)
    (ht : (s.acting (.acc a.id)).peerPerform a d = t) (hp : t.pause = none) :
    s.peerAct a d = some (t.acted (.acc a.id), none) := by
  have hw : s.whole (.acc a.id) a.slack a.late (fun u => some (u.peerPerform a d)) = some (t.acted (.acc a.id)) :=
    State.whole_acted (congrArg some ht) hp
  rw [State.peerAct_eq ho, if_neg (by simp [hh, hr]), hw]
  rfl

/-! ### What an access does at its home (R28, R225, R339) -/

section
variable {u v w : State} {f : FullAddr} {bs : List Byte} {thr : Word}

theorem State.peerPerform_load (ho : a.op = .load) (hr : u.readNow 0 { u.peerAt a with ofs := a.ofs / 8 * 8 } d 8 = .ok (bs, v)) :
    u.peerPerform a d = v.peerReply a bs := by
  simp only [State.peerPerform, ho, hr]

theorem State.peerPerform_store (ho : a.op = .store bs) (hw : u.writeNow 0 (u.peerAt a) d bs = .ok v) :
    u.peerPerform a d = v.peerReply a [] := by
  simp only [State.peerPerform, ho, hw]

theorem State.peerPerform_stores {ps : List (Nat × List Byte)} (ho : a.op = .stores ps) (hw : u.storeParts (u.peerAt a) d ps = .ok v) :
    u.peerPerform a d = v.peerReply a [] := by
  simp only [State.peerPerform, ho, hw]

theorem State.peerPerform_combine {ty : Ty} {fn : MemFn} {x : Word} (ho : a.op = .combine ty fn x)
    (hr : u.readNow 0 (u.peerAt a) d a.size = .ok (bs, v))
    (hw : v.writeNow 0 (u.peerAt a) d (toBytesLE a.size (combine ty fn (leWord bs) x).toNat) = .ok w) :
    u.peerPerform a d = w.peerReply a [] := by
  simp only [State.peerPerform, ho, hr, hw]

theorem State.peerWord_ok {k : Word → State → State} (hr : u.readNow 0 (u.peerAt a) d 8 = .ok (bs, v)) :
    u.peerWord a d k = k (leWord bs) v := by
  simp only [State.peerWord, hr]

theorem State.peerPerform_wait_satisfied (ho : a.op = .wait thr) (hr : u.readNow 0 (u.peerAt a) d 8 = .ok (bs, v))
    (hd : (thr - leWord bs).toNat ≠ 2 ^ 63) (hs : satisfied (leWord bs) thr = true) :
    u.peerPerform a d = v.peerReply a (toBytesLE 8 (leWord bs).toNat) := by
  simp only [State.peerPerform, ho, State.peerWord_ok hr, if_neg hd, hs, if_true]

theorem State.peerPerform_wait_registered (ho : a.op = .wait thr) (hr : u.readNow 0 (u.peerAt a) d 8 = .ok (bs, v))
    (hd : (thr - leWord bs).toNat ≠ 2 ^ 63) (hs : satisfied (leWord bs) thr = false)
    (hw : v.register (u.peerAt a) thr a.slack (.peer a.id) = some w) : u.peerPerform a d = w := by
  simp only [State.peerPerform, ho, State.peerWord_ok hr, if_neg hd, hs, Bool.false_eq_true, if_false, hw]

theorem State.peerPerform_poll (ho : a.op = .poll thr) (hr : u.readNow 0 (u.peerAt a) d 8 = .ok (bs, v))
    (hd : (thr - leWord bs).toNat ≠ 2 ^ 63) : u.peerPerform a d = v.peerReply a (toBytesLE 8 (leWord bs).toNat) := by
  simp only [State.peerPerform, ho, State.peerWord_ok hr, if_neg hd]

theorem State.peerPerform_peek (ho : a.op = .peek) (hr : u.readNow 0 (u.peerAt a) d 8 = .ok (bs, v)) :
    u.peerPerform a d = v.peerReply a (toBytesLE 8 (leWord bs).toNat) := by
  simp only [State.peerPerform, ho, State.peerWord_ok hr]
end

/-! ### Accesses that act without their bank -/

theorem State.peerAct_check {ks : Nat} (ho : a.op = .check ks) : s.peerAct a d = some (s.peerPasses a d, none) := by
  simp only [State.peerAct, State.peerPerform, ho]

theorem State.peerAct_retire {e : Desc} (ho : a.op = .retire) (hl : s.live? a.serial = some e) :
    s.peerAct a d = some ((s.markDying e).peerReply a [], none) := by
  simp only [State.peerAct, State.peerPerform, ho, hl]

theorem State.peerAct_add {am : Word} {sc : Bool} {t : State} (ho : a.op = .add am sc)
    (hc : s.counterStep ((s.addHome (.acc a)).getD 0) [a.id] = some t) : s.peerAct a d = some (t, none) := by
  simp only [State.peerAct, ho, hc, Option.map_some]

theorem State.peerAct_warm {n lo hi : Nat} (ho : a.op = .warm n lo hi) :
    s.peerAct a d = some ((s.warmPages d lo hi (a.ofs / pageBytes d.pgsz) n).peerReply a [], none) := by
  simp only [State.peerAct, State.peerPerform, ho]

theorem State.peerAct_promote (ho : a.op = .promote) (hr : ∀ r ∈ s.releases, r.at_.same (s.peerAt a) = true → s.answered r = true) :
    s.peerAct a d =
      some (({ s with releases := s.releases.filter fun r => !r.at_.same (s.peerAt a) } : State).peerReply a [], none) := by
  have hall : ((s.releases.filter fun r => r.at_.same (s.peerAt a)).all s.answered) = true :=
    List.all_eq_true.mpr fun r hm => hr r (List.mem_filter.mp hm).1 (List.mem_filter.mp hm).2
  simp only [State.peerAct, State.peerPerform, ho, hall, if_true]

theorem State.peerAct_persist (ho : a.op = .persist) (hh : s.peerHeld a = false) (hc : d.cls = 1)
    (hb : s.persistBad d a.lines.1 a.lines.2 = none) :
    s.peerAct a d = some ((s.persistLines d a.lines.1 a.lines.2).peerReply a [], none) := by
  simp [State.peerAct, State.peerPerform, ho, hh, hc, hb]

/-! ### The events -/

theorem exec_peerPacketReceive {t : State} (h : s.receive dev seq p = t) : exec (.peerPacketReceive dev seq p) s = .next t :=
  congrArg Host.Outcome.next h

theorem exec_sack {t : State} (h : s.sack dev base bitmap = t) : exec (.sack dev base bitmap) s = .next t :=
  congrArg Host.Outcome.next h

theorem exec_retransmitTimeout {u : Sent} {t : State} (hu : u ∈ s.hub.unacked) (hm : u.isOf dev seq = true) (h : s.resend dev seq = t) :
    exec (.retransmitTimeout dev seq) s = .next t := by
  have hw : (if s.hub.unacked.any fun u => u.dev == dev && u.seq == seq then s.resend dev seq else s) = s.resend dev seq :=
    if_pos (List.any_eq_true.mpr ⟨u, hu, hm⟩)
  exact congrArg Host.Outcome.next (hw.trans h)

theorem exec_parityError {pkt die con pe : Nat} {dir : BitVec 3} {word : BitVec 5} {t : State}
    (h : s.parity pkt die con pe dir word = some t) : exec (.parityError pkt die con pe dir word) s = .next t := by
  show Host.Outcome.next ((s.parity pkt die con pe dir word).getD s) = _
  rw [h]
  rfl

/-- Settles O58: each event is one operation of the model, and each of its clauses one of that operation's cases above. A SACK's sendings are
counted by induction on the packets below its base; an access of a peer is split by its name step and then by whether its bank chooses it. -/
theorem linkEvents : Obligations.LinkEvents := by
  unfold Obligations.LinkEvents
  refine ⟨?receive, ?sack, ?timeout, ?link, ?parity, ?access⟩
  case receive =>
    intro s dev seq p n acks
    refine ⟨fun h => exec_peerPacketReceive (State.receive_again h), fun h => ⟨?_, fun hne hlt hn => ?_⟩⟩
    · rintro rfl
      exact exec_peerPacketReceive (State.receive_awaited h)
    · exact exec_peerPacketReceive (State.receive_early h hne hlt hn)
  case sack =>
    intro s dev base bitmap hb kept below again
    exact ⟨fun hd ht => exec_sack (State.sack_counts hb hd ht), fun u hu ht => exec_sack (State.sack_loses hb hu ht)⟩
  case timeout =>
    rintro s dev seq ⟨u, hu, hm⟩ t
    have ht : s.sentAgain (Sent.isOf dev seq) = t := by simp only [State.sentAgain, updWhere, Sent.isOf_iff, t]
    refine ⟨fun h => ?_, fun ⟨v, hv, hd, hs, h15⟩ => ?_⟩
    · refine exec_retransmitTimeout hu (Sent.isOf_iff.mpr hm) ?_
      rw [State.resend_counts fun v hv hq => h v hv (Sent.isOf_iff.mp hq).1 (Sent.isOf_iff.mp hq).2, ht]
    · have hof : v.isOf dev seq = true := Sent.isOf_iff.mpr ⟨hd, hs⟩
      exact exec_retransmitTimeout hv hof (by rw [State.resend_loses hv hof h15, ht])
  case link =>
    intro s l hg n down t failed
    have hf : s.linkFails l = failed := by
      rw [State.linkFails_eq hg]
      exact List.foldl_map.symm
    exact ⟨congrArg Host.Outcome.next hf, fun hd => ⟨fun h => congrArg Host.Outcome.next ((State.flitFails_last hg hd h).trans hf),
      fun h => congrArg Host.Outcome.next (State.flitFails_counts hg hd h)⟩⟩
  case parity =>
    intro s pkt die con pe dir word p hp hh
    have hx : s.poisoned pkt = { s with packets := s.packets.map fun k =>
        if k.id = pkt then { k with tok := { k.tok with poison := true } } else k } := by
      simp only [State.poisoned, updWhere, beq_iff_eq]
    exact hx ▸ exec_parityError (State.parity_eq hp hh)
  case access =>
    intro s dev req a h1 hh hw answers
    refine ⟨fun e hn he => ?_, fun hn hp => ⟨fun ho => ?_, fun ho hnamed => ?_⟩, fun d hn => ?_⟩
    · exact exec_peerAccess h1 (State.peerServe_error hh hw hn fun he' => absurd he' he)
    · exact exec_peerAccess h1 (State.peerServe_dead_retire hh hw hn hp ho)
    · exact exec_peerAccess h1 (State.peerServe_error hh hw hn fun _ => ⟨hp, ho, hnamed⟩)
    · intro t b u f whole
      have does {v : State} (hv : t.peerAct b d = some (v, none)) : answers v :=
        exec_peerAccess h1 (State.peerServe_ok hh hw hn hv)
      refine ⟨fun ⟨ks, ho⟩ => does (State.peerAct_check ho), fun ho e he => does (State.peerAct_retire ho he),
        fun am sc v ho hv => does (State.peerAct_add ho hv), fun n lo hi ho => does (State.peerAct_warm ho),
        fun ho hr => does (State.peerAct_promote ho hr), fun hq ho hc hb => does (State.peerAct_persist ho hq hc hb), fun hq hr => ?bank⟩
      have acts {v : State} (ho : atBank a.op = true) (hv : u.peerPerform b d = v) : whole v := fun hp =>
        does (State.peerAct_atBank ho hq hr hv hp)
      refine ⟨fun bs v ho hv => acts (by rw [ho]; rfl) (State.peerPerform_load ho hv),
        fun bs v ho hv => acts (by rw [ho]; rfl) (State.peerPerform_store ho hv),
        fun ps v ho hv => acts (by rw [ho]; rfl) (State.peerPerform_stores ho hv),
        fun ty fn x old v w ho hv hw => acts (by rw [ho]; rfl) (State.peerPerform_combine ho hv hw),
        fun thr bs v ho hv hd => ⟨fun hs => acts (by rw [ho]; rfl) (State.peerPerform_wait_satisfied ho hv hd hs),
          fun w hs hw => acts (by rw [ho]; rfl) (State.peerPerform_wait_registered ho hv hd hs hw)⟩,
        fun thr bs v ho hv hd => acts (by rw [ho]; rfl) (State.peerPerform_poll ho hv hd),
        fun bs v ho hv => acts (by rw [ho]; rfl) (State.peerPerform_peek ho hv)⟩

end Sys2Proof.Machine
end
section
/-! SUPPORT. The events of management and power (R21, R254, R394-R400): what a response, a loaded image, a failed supply, a loss of power and a
bring-up change, and what they leave. -/

namespace Sys2Proof.Machine
open Sys2Proof
variable {s t u : State}

/-! ### Firmware and signed responses (R397, R398) -/

/-- An image of that version is loaded, and the security counter raised to it. -/
def State.imageLoaded (s : State) (secver build : BitVec 32) : State :=
  { s with mgmt := { s.mgmt with secver := secver, build := build, counter := secver } }

theorem State.loadImage_some {secver build : BitVec 32} (h : s.mgmt.counter.toNat ≤ secver.toNat) :
    s.loadImage secver build true = some (s.imageLoaded secver build) :=
  if_pos (by simpa using h)

theorem State.loadImage_none {secver build : BitVec 32} {ok : Bool} (h : ok = false ∨ secver.toNat < s.mgmt.counter.toNat) :
    s.loadImage secver build ok = none := by
  refine if_neg fun hc => ?_
  obtain ⟨hok, hge⟩ := Bool.and_eq_true_iff.mp hc
  have hle := of_decide_eq_true hge
  rcases h with h | h
  · exact absurd (hok.symm.trans h) (by decide)
  · omega

section
variable {code : String} {nonce : BitVec 256} {digests : List (BitVec 256)} {body : List Byte}

theorem State.signed_exhausted (h : 2 ^ 20 ≤ s.mgmt.leaf) : s.signed code nonce digests body = s.respond (.spdm "ERROR Unspecified" []) :=
  if_pos h

theorem State.signed_next (h : s.mgmt.leaf < 2 ^ 20) : s.signed code nonce digests body =
    ({ s with mgmt := { s.mgmt with leaf := s.mgmt.leaf + 1 } } : State).respond
      (.spdm code (body ++ Config.signature s.mgmt.leaf nonce digests)) :=
  if_neg (by omega)
end

/-! ### The degraded bits (R395, R396) -/

/-- The bits of DEGRADED with those listed set. -/
def withBits (w : BitVec 64) (l : List Nat) : BitVec 64 := l.foldl (fun a b => a ||| BitVec.ofNat 64 (2 ^ b)) w

theorem getLsbD_withBits {w : BitVec 64} {l : List Nat} {i : Nat} (hi : i < 64) :
    (withBits w l).getLsbD i = true ↔ w.getLsbD i = true ∨ i ∈ l := by
  induction l generalizing w with
  | nil => simp [withBits]
  | cons b l ih =>
    have hb : (w ||| BitVec.ofNat 64 (2 ^ b)).getLsbD i = true ↔ w.getLsbD i = true ∨ i = b := by
      rw [BitVec.getLsbD_or, BitVec.getLsbD_ofNat, Nat.testBit_two_pow, decide_eq_true hi, Bool.true_and, Bool.or_eq_true,
        decide_eq_true_eq, eq_comm (a := b)]
    rw [withBits, List.foldl_cons, ← withBits, ih, hb, List.mem_cons, or_assoc]

/-- The degraded bits, the request for replacement and what has left the Pelpex port, set to what is given. -/
def State.withDegraded (s : State) (w : BitVec 64) (r : Bool) (o : List Response) : State :=
  { s with mgmt := { s.mgmt with degraded := w, replace := r, out := o } }

/-- Looking at the limits of R396 changes the request for replacement and its event alone. -/
theorem State.checkReplace_eq (s : State) : ∃ r o, s.checkReplace = s.withDegraded s.mgmt.degraded r o := by
  unfold State.checkReplace
  split
  · exact ⟨_, _, rfl⟩
  · exact ⟨_, _, rfl⟩

theorem State.degrade_eq (s : State) (b : Nat) : ∃ r o, s.degrade b = s.withDegraded (s.mgmt.degraded ||| BitVec.ofNat 64 (2 ^ b)) r o := by
  obtain ⟨r, o, h⟩ := State.checkReplace_eq { s with mgmt := { s.mgmt with degraded := s.mgmt.degraded ||| BitVec.ofNat 64 (2 ^ b) } }
  exact ⟨r, o, h⟩

/-- Bits of DEGRADED are set, and besides them only the request for replacement and its event may change. -/
theorem State.degradeAll_eq (l : List Nat) (s : State) : ∃ r o, l.foldl State.degrade s = s.withDegraded (withBits s.mgmt.degraded l) r o := by
  induction l generalizing s with
  | nil => exact ⟨_, _, rfl⟩
  | cons b l ih =>
    obtain ⟨r, o, hb⟩ := s.degrade_eq b
    obtain ⟨r', o', hl⟩ := ih (s.degrade b)
    exact ⟨r', o', by rw [List.foldl_cons, hl, hb]; rfl⟩

/-! ### A loss of power (R254, R399) -/

theorem State.keepGranule_eq (s : State) (pick : Nat × Nat) : ∃ m, s.keepGranule pick = { s with mem := m } := by
  unfold State.keepGranule
  split
  · exact ⟨_, rfl⟩
  · dsimp only
    split
    · exact ⟨_, rfl⟩
    · exact ⟨_, rfl⟩

/-- The granules that keep their last write change memory alone. -/
theorem State.keepGranules_eq (picks : List (Nat × Nat)) (s : State) : ∃ m, picks.foldl State.keepGranule s = { s with mem := m } := by
  induction picks generalizing s with
  | nil => exact ⟨_, rfl⟩
  | cons p picks ih =>
    obtain ⟨m, hm⟩ := s.keepGranule_eq p
    obtain ⟨m', hm'⟩ := ih (s.keepGranule p)
    exact ⟨m', by rw [List.foldl_cons, hm', hm]⟩

theorem Sparse.get_filter {α : Type} {d : α} {p : Nat × α → Bool} {k : Nat} (h : ∀ v, p (k, v) = true) (l : Sparse α) :
    Sparse.get d (l.filter p) k = Sparse.get d l k := by
  induction l with
  | nil => rfl
  | cons e l ih =>
    obtain ⟨a, v⟩ := e
    cases hp : p (a, v) with
    | true => simp only [List.filter_cons, hp, if_true, Sparse.get, ih]
    | false =>
      have ha : a ≠ k := fun e => by simp [e ▸ h v] at hp
      simp only [List.filter_cons, hp, Bool.false_eq_true, if_false, Sparse.get, if_neg ha, ih]

/-- The memory of the name table and of the persistent tier outlives a loss of power. -/
theorem State.read_dropPower {a : Nat} (h : a < 2 ^ 34 ∨ tierBase ≤ a) : Memory.read s.dropPower.mem a = Memory.read s.mem a :=
  Sparse.get_filter (fun _ => by simpa [survives] using h) s.mem

/-! ### Storage at bring-up (R31, R35, R47) -/

/-- What a step of the object server's own storage leaves: the contexts, the loader, the constellation masks, management, TIME and the device number
are as before, and the horizon is not lowered. -/
structure StorageOnly (s t : State) : Prop where
  ctxs : t.ctxs = s.ctxs
  loader : t.loader = s.loader
  cmask : t.faults.cmask = s.faults.cmask
  mgmt : t.mgmt = s.mgmt
  ticks : t.ticks = s.ticks
  devNum : t.names.devNum = s.names.devNum
  horizon : s.names.horizon.toNat ≤ t.names.horizon.toNat

theorem StorageOnly.refl (s : State) : StorageOnly s s := ⟨.refl _, .refl _, .refl _, .refl _, .refl _, .refl _, Nat.le_refl _⟩

theorem StorageOnly.trans (h : StorageOnly s t) (k : StorageOnly t u) : StorageOnly s u :=
  ⟨k.ctxs.trans h.ctxs, k.loader.trans h.loader, k.cmask.trans h.cmask, k.mgmt.trans h.mgmt, k.ticks.trans h.ticks,
    k.devNum.trans h.devNum, h.horizon.trans k.horizon⟩

theorem StorageOnly.foldl {α : Type} {f : State → α → State} (hf : ∀ t a, StorageOnly t (f t a)) (l : List α) (s : State) : StorageOnly s (l.foldl f s) := by
  induction l generalizing s with
  | nil => exact .refl _
  | cons a l ih => exact (hf s a).trans (ih (f s a))

/-- Memory and storage changed, the device number and the horizon kept. -/
theorem StorageOnly.of_names {m : List Host.Cell} {n : Names} (hd : n.devNum = s.names.devNum) (hh : n.horizon = s.names.horizon) :
    StorageOnly s { s with mem := m, names := n } :=
  ⟨.refl _, .refl _, .refl _, .refl _, .refl _, hd, by simp [hh]⟩

theorem StorageOnly.resetPages (d : Desc) (s : State) : StorageOnly s (s.resetPages d) := by
  refine StorageOnly.foldl (fun t a => ?_) _ s
  unfold State.resetPte
  dsimp only
  split
  · exact .refl _
  · exact .of_names (.refl _) (.refl _)

theorem StorageOnly.giveFrame (frame pgsz : Nat) (s : State) : StorageOnly s (s.giveFrame frame pgsz) := .of_names (.refl _) (.refl _)

theorem StorageOnly.freePage (d : Desc) (pte : Nat) (s : State) : StorageOnly s (s.freePage d pte) := by
  have hframe : StorageOnly s (if pteState (Memory.word s.mem pte) = 0 then s else s.giveFrame (pteFrame (Memory.word s.mem pte)) d.pgsz) := by
    split
    · exact .refl _
    · exact .giveFrame _ _ s
  unfold State.freePage
  dsimp only
  split
  · exact .refl _
  · split
    · exact .of_names (.refl _) (.refl _)
    · split
      · exact hframe
      · exact hframe.trans (.of_names (.refl _) (.refl _))

theorem StorageOnly.freeObject (s : State) (d : Desc) : StorageOnly s (s.freeObject d) :=
  (StorageOnly.foldl (fun t a => StorageOnly.freePage d a t) _ s).trans (.of_names (.refl _) (.refl _))

theorem StorageOnly.restoreNames (s : State) : StorageOnly s s.restoreNames :=
  ((StorageOnly.foldl (fun t d => StorageOnly.resetPages d t) _ s).trans (StorageOnly.foldl StorageOnly.freeObject _ _)).trans (.of_names (.refl _) (.refl _))

/-! ### The objects that the object server makes (R29, R366, R387) -/

theorem StorageOnly.newNode {n : Nat} (h : s.newNode = some (n, t)) : StorageOnly s t := by
  unfold State.newNode at h
  split at h
  · cases h
  · cases h
    exact .of_names (.refl _) (.refl _)

theorem StorageOnly.newLevel {n : Nat} (h : s.newLevel = some (n, t)) : StorageOnly s t := by
  unfold State.newLevel at h
  split at h
  · cases h
  · cases h
    exact .of_names (.refl _) (.refl _)

theorem StorageOnly.newSide {k n : Nat} (h : s.newSide k = some (n, t)) : StorageOnly s t := by
  unfold State.newSide at h
  dsimp only at h
  split at h
  · cases h
  · cases h
    exact .of_names (.refl _) (.refl _)

theorem StorageOnly.makeLevels {l : List Nat} {a b : Nat} (h : s.makeLevels a l = some (b, t)) : StorageOnly s t := by
  induction l generalizing s a with
  | nil =>
    cases h
    exact .refl _
  | cons i l ih =>
    unfold State.makeLevels at h
    split at h
    · exact ih h
    · split at h
      · cases h
      · next hl => exact ((StorageOnly.newLevel hl).trans (.of_names (.refl _) (.refl _))).trans (ih h)

theorem toNat_le_add_one {w : BitVec 64} (h : w ≠ BitVec.allOnes 64) : w.toNat ≤ (w + 1).toNat := by
  have hw : w.toNat ≠ 2 ^ 64 - 1 := fun e => h (BitVec.eq_of_toNat_eq (by simpa using e))
  have h1 : (w + 1).toNat = (w.toNat + 1) % 2 ^ 64 := BitVec.toNat_add w 1
  omega

/-- A new object of class V has its serial issued, and its pages are absent. -/
theorem StorageOnly.createObject {o : ObjectSpec} {serial : BitVec 64} (hc : o.cls = 0) (h : s.createObject o = some (t, serial)) : StorageOnly s t := by
  unfold State.createObject at h
  dsimp only at h
  split at h
  · cases h
  · next hok =>
    have hs : s.names.horizon ≠ BitVec.allOnes 64 := fun e => hok (by simp [e])
    simp only [Option.bind_eq_some_iff, Option.map_eq_some_iff, Prod.exists, Prod.mk.injEq] at h
    obtain ⟨a4, s1, h1, root, s2, h2, desc, s3, h3, side, s4, h4, s5, h5, rfl, rfl⟩ := h
    have h5' : s5 = s4 := by simpa [State.newPages, hc, durableClass, eq_comm] using h5
    subst h5'
    have hst := (((StorageOnly.makeLevels h1).trans (StorageOnly.newNode h2)).trans (StorageOnly.newNode h3)).trans (StorageOnly.newSide h4)
    exact ⟨hst.ctxs, hst.loader, hst.cmask, hst.mgmt, hst.ticks, hst.devNum, toNat_le_add_one hs⟩

theorem StorageOnly.serverObject (maxr : Nat) (s : State) : StorageOnly s (s.serverObject maxr).1 := by
  unfold State.serverObject
  split
  · next h => exact .createObject (.refl _) h
  · exact .refl _

theorem StorageOnly.updLink (n : Nat) (f : HostLink → HostLink) (s : State) : StorageOnly s (s.updLink n f) :=
  ⟨.refl _, .refl _, .refl _, .refl _, .refl _, .refl _, Nat.le_refl _⟩

theorem StorageOnly.makeClient (s : State) (n : Nat) : StorageOnly s (s.makeClient n) :=
  (StorageOnly.serverObject _ s).trans (.updLink n _ _)

theorem StorageOnly.enqueueMsg (ep sender : Nat) (atp : BitVec 128) (req : Option Nat) (retire : Bool) (body : BitVec 512) (s : State) :
    StorageOnly s (s.enqueueMsg ep sender atp req retire body) :=
  ⟨.refl _, .refl _, .refl _, .refl _, .refl _, .refl _, Nat.le_refl _⟩

theorem StorageOnly.nameSignal (s : State) : StorageOnly s s.nameSignal := by
  unfold State.nameSignal
  split
  · exact .refl _
  · exact .foldl (fun t e => .enqueueMsg e 3 0 none false _ t) _ s

/-! ### The places of the servers (R384, R400; log entry 62) -/

/-- The regions of the first `k` servers, on the first `k` cores of H. -/
def serverRegions (k : Nat) : List Region := (List.range k).map fun core => Region.fresh core 0 0 0 8 [core] [] [] [] 0

/-- A state in which those regions, and no others, are placed. -/
def State.serving (s : State) (k : Nat) : State := { s with loader := { s.loader with regions := serverRegions k } }

/-- A server is placed on a core, under the number given. -/
def State.placeNumbered (s : State) (core : Nat) : Option Nat → State
  | some num => { s with loader := { s.loader with regions := s.loader.regions ++ [Region.fresh num 0 0 0 8 [core] [] [] [] 0] } }
  | none => s

theorem State.placeServers_foldl (s : State) : s.placeServers = [0, 1, 2, 3, 4].foldl (fun t core => t.placeNumbered core t.freeNumber) s := by
  unfold State.placeServers
  refine congrArg (List.foldl · s [0, 1, 2, 3, 4]) (funext fun t => funext fun core => ?_)
  generalize t.freeNumber = o
  cases o with
  | none => rfl
  | some n => rfl

theorem State.serving_freeNumber {k : Nat} (hk : k < 65536) : (s.serving k).freeNumber = some k := by
  have hany : ∀ n, ((serverRegions k).any fun r => r.num == n) = decide (n < k) := fun n => by
    rw [Bool.eq_iff_iff]
    simp [serverRegions, Region.fresh]
  unfold State.freeNumber
  simp only [State.serving, hany]
  rw [List.find?_range_eq_some]
  simp [hk]

theorem State.serving_placeNumbered {k : Nat} (hk : k < 65536) :
    (s.serving k).placeNumbered k (s.serving k).freeNumber = s.serving (k + 1) := by
  rw [State.serving_freeNumber hk]
  simp [State.placeNumbered, State.serving, serverRegions, List.range_succ]

theorem State.placeServers_eq (h : s.loader.regions = []) : s.placeServers = s.serving 5 := by
  have h0 : s.serving 0 = s := by
    have he : serverRegions 0 = s.loader.regions := h.symm
    rw [State.serving, he]
  rw [State.placeServers_foldl]
  conv_lhs => rw [← h0]
  simp only [List.foldl_cons, List.foldl_nil, State.serving_placeNumbered, Nat.reduceLT, Nat.reduceAdd]

/-! ### The steps of a bring-up (R387, R400) -/

/-- A module before its supplies are checked: no power on its main side, TIME 0, and no bit of DEGRADED set. -/
def State.unpowered (s : State) : State :=
  { s.dropPower with ticks := 0, mgmt := { s.mgmt with degraded := 0, replace := false } }

/-- The supplies, boundaries and bridges are checked (R393, R400). -/
def State.supplied (s : State) (links : List Link) (dies : List Nat) : State :=
  ((links.filter goodLink).foldl (fun t l => t.degrade (Link_bit l)) ((dies.filter fun d => d < 9).foldl State.degrade s.unpowered)).checkReplace

/-- The names are restored, the servers placed, and the device number given. -/
def State.namesUp (s : State) (dev : BitVec 16) : State :=
  { s.restoreNames.placeServers with names := { s.restoreNames.placeServers.names with devNum := dev } }

/-- The fault-signal object and the client contexts stand, and the servers are told the former's name. -/
def State.clientsUp (s : State) : State :=
  ((List.range 2).foldl State.makeClient { (s.serverObject 0b01011).1 with
    faults := { (s.serverObject 0b01011).1.faults with signal := (s.serverObject 0b01011).2 } }).nameSignal

/-- The main side is up (R394). -/
def State.withMain (s : State) : State := { s with mgmt := { s.mgmt with mainUp := true } }

section
variable {links : List Link} {dies : List Nat} {dev : BitVec 16} {image : BitVec 32 × BitVec 32}

theorem State.bringUp_refused (hm : s.mgmt.mainUp = false) (hl : s.loadImage image.1 image.2 (!s.mgmt.badImage) = none) :
    s.bringUp links dies dev image = some (s.respond (.event "FIRMWARE_REFUSED" 0)) := by
  simp only [State.bringUp, hm, Bool.false_eq_true, if_false, hl]

theorem State.bringUp_loaded (hm : s.mgmt.mainUp = false) (hl : s.loadImage image.1 image.2 (!s.mgmt.badImage) = some t) :
    s.bringUp links dies dev image = some (((t.supplied links dies).namesUp dev).clientsUp).withMain := by
  simp only [State.bringUp, hm, Bool.false_eq_true, if_false, hl, State.withMain, State.clientsUp, State.namesUp, State.supplied,
    State.unpowered]

/-- After the checks the failed dies are degraded and no others. -/
theorem State.supplied_eq (s : State) (links : List Link) (dies : List Nat) : ∃ w r o, s.supplied links dies = s.unpowered.withDegraded w r o ∧
    ∀ d < 9, (w.getLsbD d = true ↔ d ∈ dies) := by
  have hlinks : ∀ d < 9, d ∉ (links.filter goodLink).map Link_bit := by
    intro d hd hmem
    obtain ⟨l, -, hl⟩ := List.mem_map.mp hmem
    cases l <;> simp only [Link_bit] at hl <;> omega
  obtain ⟨r1, o1, h1⟩ := State.degradeAll_eq (dies.filter fun d => d < 9) s.unpowered
  obtain ⟨r2, o2, h2⟩ := State.degradeAll_eq ((links.filter goodLink).map Link_bit) ((dies.filter fun d => d < 9).foldl State.degrade s.unpowered)
  obtain ⟨r3, o3, h3⟩ := State.checkReplace_eq (((links.filter goodLink).map Link_bit).foldl State.degrade
    ((dies.filter fun d => d < 9).foldl State.degrade s.unpowered))
  refine ⟨withBits (withBits 0 (dies.filter fun d => d < 9)) ((links.filter goodLink).map Link_bit), r3, o3, ?_, fun d hd => ?_⟩
  · rw [State.supplied, ← List.foldl_map, h3, h2, h1]
    rfl
  · rw [getLsbD_withBits (by omega), getLsbD_withBits (by omega)]
    simp [hlinks d hd, hd]

theorem State.namesUp_eq (h : s.loader.regions = []) (dev : BitVec 16) : StorageOnly s s.restoreNames ∧
    s.namesUp dev = { s.restoreNames.serving 5 with names := { s.restoreNames.names with devNum := dev } } := by
  have hst := StorageOnly.restoreNames s
  refine ⟨hst, ?_⟩
  rw [State.namesUp, State.placeServers_eq (by rw [hst.loader, h])]
  rfl

theorem StorageOnly.clientsUp (s : State) : StorageOnly s s.clientsUp := by
  have hs := StorageOnly.serverObject 0b01011 s
  have hsignal : StorageOnly s { (s.serverObject 0b01011).1 with
      faults := { (s.serverObject 0b01011).1.faults with signal := (s.serverObject 0b01011).2 } } :=
    ⟨hs.ctxs, hs.loader, hs.cmask, hs.mgmt, hs.ticks, hs.devNum, hs.horizon⟩
  exact (hsignal.trans (.foldl StorageOnly.makeClient _ _)).trans (.nameSignal _)

/-- What a module is after it has come up. -/
structure CameUp (s t : State) (dies : List Nat) (dev : BitVec 16) : Prop where
  main : t.mgmt.mainUp = true
  devNum : t.names.devNum = dev
  ticks : t.ticks = 0
  ctxs : t.ctxs = []
  secver : t.mgmt.secver = s.mgmt.secver
  counter : t.mgmt.counter = s.mgmt.counter
  horizon : s.names.horizon.toNat ≤ t.names.horizon.toNat
  cmask : t.faults.cmask = s.faults.cmask
  servers : (t.loader.regions.map fun g => (g.die, g.cons)) = [(8, [0]), (8, [1]), (8, [2]), (8, [3]), (8, [4])]
  degraded : ∀ d, d < 9 → (t.mgmt.degraded.getLsbD d = true ↔ d ∈ dies)

theorem State.cameUp (s : State) (links : List Link) (dies : List Nat) (dev : BitVec 16) :
    CameUp s (((s.supplied links dies).namesUp dev).clientsUp).withMain dies dev := by
  obtain ⟨w, r, o, hsup, hbits⟩ := State.supplied_eq s links dies
  rw [hsup]
  obtain ⟨hst, hnames⟩ := State.namesUp_eq (s := s.unpowered.withDegraded w r o) rfl dev
  rw [hnames]
  generalize (s.unpowered.withDegraded w r o).restoreNames = n at hst ⊢
  have hcl := StorageOnly.clientsUp { n.serving 5 with names := { n.names with devNum := dev } }
  generalize State.clientsUp { n.serving 5 with names := { n.names with devNum := dev } } = c at hcl ⊢
  have hm : c.mgmt = (s.unpowered.withDegraded w r o).mgmt := hcl.mgmt.trans hst.mgmt
  have hsecver : c.mgmt.secver = s.mgmt.secver := by rw [hm]; rfl
  have hcounter : c.mgmt.counter = s.mgmt.counter := by rw [hm]; rfl
  exact {
    main := rfl
    devNum := hcl.devNum
    ticks := hcl.ticks.trans hst.ticks
    ctxs := hcl.ctxs.trans hst.ctxs
    secver := hsecver
    counter := hcounter
    horizon := hst.horizon.trans hcl.horizon
    cmask := hcl.cmask.trans hst.cmask
    servers := congrArg (fun l : Loader => l.regions.map fun g => (g.die, g.cons)) hcl.loader
    degraded := fun d hd => by
      rw [← hbits d hd]
      exact Eq.to_iff (congrArg (fun m : Mgmt => m.degraded.getLsbD d = true) hm) }
end

/-! ### The events -/

theorem exec_bringUp {links : List Link} {dies : List Nat} {dev : BitVec 16} {image : BitVec 32 × BitVec 32}
    (h : s.bringUp links dies dev image = some t) : exec (.bringUp links dies dev image) s = .next t := by
  show Host.Outcome.next ((s.bringUp links dies dev image).getD s) = _
  rw [h]
  rfl

theorem exec_pldmFirmwareUpdate_loaded {secver build : BitVec 32} {ok : Bool} (h : s.loadImage secver build ok = some t) :
    exec (.pldmFirmwareUpdate secver build ok) s = .next (t.respond (.event "FIRMWARE_UPDATE" 1)) := by
  show execPldmFirmwareUpdate secver build ok s = _
  simp only [execPldmFirmwareUpdate, h]

theorem exec_pldmFirmwareUpdate_refused {secver build : BitVec 32} {ok : Bool} (h : s.loadImage secver build ok = none) :
    exec (.pldmFirmwareUpdate secver build ok) s = .next (s.respond (.event "FIRMWARE_UPDATE" 0)) := by
  show execPldmFirmwareUpdate secver build ok s = _
  simp only [execPldmFirmwareUpdate, h]

/-- Settles O60: the port's answers and the heat follow from the events' own branches; a loss of power keeps what `State.dropPower` keeps; and a
bring-up degrades the failed dies on a module without power, after which only storage changes but for the servers' places. -/
theorem managementEvents : Obligations.ManagementEvents := by
  unfold Obligations.ManagementEvents
  refine ⟨?port, ?heat, ?power, ?up⟩
  case port =>
    intro s out
    refine ⟨rfl, fun h => congrArg Host.Outcome.next (if_pos h), fun h => congrArg Host.Outcome.next (if_neg (by simp [h])),
      fun secver build => ⟨fun h => exec_pldmFirmwareUpdate_loaded (State.loadImage_some h),
        fun ok h => exec_pldmFirmwareUpdate_refused (State.loadImage_none h)⟩,
      rfl, rfl, rfl, rfl, fun _ _ => rfl, ⟨fun nonce => ⟨fun h => congrArg Host.Outcome.next (State.signed_exhausted h),
        fun h => congrArg Host.Outcome.next (State.signed_next h)⟩, ⟨fun h => congrArg Host.Outcome.next (State.signed_exhausted h),
        fun h => congrArg Host.Outcome.next (State.signed_next h)⟩, rfl⟩, fun die hd => ?_⟩
    obtain ⟨r, o, h⟩ := s.degrade_eq die
    exact ⟨_, congrArg Host.Outcome.next ((if_pos hd).trans h), rfl, rfl, rfl⟩
  case heat =>
    intro s die c hot
    exact ⟨fun h => congrArg Host.Outcome.next (if_pos h), fun h => congrArg Host.Outcome.next (if_neg (Nat.not_le.mpr h)),
      fun h => ⟨_, congrArg Host.Outcome.next (if_pos h), rfl, rfl, rfl, rfl⟩,
      fun h => congrArg Host.Outcome.next (if_neg (Nat.not_le.mpr h))⟩
  case power =>
    intro s picks
    obtain ⟨m, hm⟩ := State.keepGranules_eq picks s
    refine ⟨({ s with mem := m } : State).dropPower, congrArg (fun t : State => Host.Outcome.next t.dropPower) hm, rfl, rfl, rfl, rfl, rfl, rfl, rfl, rfl,
      rfl, rfl, rfl, fun hp a ha => ?_⟩
    subst hp
    have hs : m = s.mem := (congrArg State.mem hm).symm
    rw [State.read_dropPower ha, hs]
  case up =>
    intro s links dies dev secver build hm
    refine ⟨fun h => exec_bringUp (State.bringUp_refused hm (State.loadImage_none (by simpa using h))), fun hb hc => ?_⟩
    have hl : s.loadImage secver build (!s.mgmt.badImage) = some (s.imageLoaded secver build) := by
      rw [hb]
      exact State.loadImage_some hc
    obtain ⟨hmain, hdev, hticks, hctxs, hsec, hcount, hhor, hmask, hserv, hdeg⟩ :=
      (s.imageLoaded secver build).cameUp links dies dev
    exact ⟨_, exec_bringUp (State.bringUp_loaded hm hl), hmain, hdev, hticks, hctxs, hsec, hcount, hhor, hmask, hserv, hdeg⟩

end Sys2Proof.Machine
end

section
/-! SUPPORT. Records (R52-R75): the second half of the round trip, which takes an accepted word to the encoding of its record; and the one
firing behind every record. -/

namespace Sys2Proof
variable {n : Nat} {h : Hdr} {r : Raw}

/-! ### The fields of a word, packed again, and codes that come back from what they name (R52, R56) -/

theorem Raw.pack_unpack (w : RecordWord) : (Raw.unpack w).pack = w := by
  apply BitVec.eq_of_getLsbD_eq
  intro i hi
  simp only [Raw.pack, Raw.unpack, BitVec.getLsbD_cast, BitVec.getLsbD_append, BitVec.getLsbD_extractLsb', BitVec.getLsbD_ofBool]
  grind

theorem Pred.code_ofCode {c : BitVec 2} {p : Pred} (h : Pred.ofCode c = some p) : p.code = c := by
  revert c p; decide

theorem Port.code_ofCode (c : BitVec 2) : (Port.ofCode c).code = c := by
  revert c; decide

/-- Two fields that meet are one field. -/
theorem extractLsb'_join {w : Nat} (c : BitVec w) (lo m n : Nat) :
    c.extractLsb' (lo + n) m ++ c.extractLsb' lo n = c.extractLsb' lo (m + n) :=
  BitVec.extractLsb'_append_extractLsb'_eq_extractLsb' rfl

theorem Target.code_ofCode {c : BitVec 12} {t : Target} (h : Target.ofCode c = some t) : t.code = c := by
  have class_eq {k : Nat} (hk : (c.extractLsb' 10 2).toNat = k) : BitVec.ofNat 2 k = c.extractLsb' 10 2 := by
    rw [← hk, BitVec.ofNat_toNat, BitVec.setWidth_eq]
  unfold Target.ofCode at h
  split at h
  case h_1 hk =>
    split at h
    case isTrue => cases h
    case isFalse h9 =>
      cases h
      have h9 : c.extractLsb' 9 1 = 0#1 := by
        apply BitVec.eq_of_getLsbD_eq
        intro i hi
        simpa [show i = 0 by omega] using h9
      have hz : c.extractLsb' 9 3 = 0#3 := by
        rw [← extractLsb'_join c 9 2 1, h9, ← class_eq hk]
        rfl
      rw [Target.code, Port.code_ofCode, ← hz, extractLsb'_join c 2 3 7]
      exact (extractLsb'_join c 0 10 2).trans BitVec.extractLsb'_eq_self
  case h_2 hk =>
    split at h
    case isTrue hz =>
      cases h
      rw [Target.code, ← hz, class_eq hk, extractLsb'_join c 6 2 4]
      exact (extractLsb'_join c 0 6 6).trans BitVec.extractLsb'_eq_self
    case isFalse => cases h
  case h_3 hk =>
    cases h
    rw [Target.code, class_eq hk]
    exact (extractLsb'_join c 0 2 10).trans BitVec.extractLsb'_eq_self
  case h_4 =>
    split at h
    case isTrue hc => cases h; exact hc.symm
    case isFalse => cases h

/-! ### What the decoder's tables build (R71) -/

/-- OP of a record's encoding. -/
def Instr.opOf (i : Instr) : Option Nat := i.enc.map fun e => e.1.toNat

/-- What the table reads of a word under OP `n` and header `h` is a record with that header, whose encoding has that OP. -/
def Builds (n : Nat) (h : Hdr) (x : Except DecodeError Instr) : Prop := ∀ i, x = .ok i → i.hdr = some h ∧ i.opOf = some n

theorem Builds.error {e : DecodeError} : Builds n h (.error e) := fun _ => nofun

theorem Builds.ok {i : Instr} (hh : i.hdr = some h) (ho : i.opOf = some n) : Builds n h (.ok i) := by
  rintro _ ⟨⟩
  exact ⟨hh, ho⟩

theorem Builds.bind {α : Type} {x : Except DecodeError α} {f : α → Except DecodeError Instr} (hf : ∀ a, Builds n h (f a)) :
    Builds n h (x >>= f) := by
  cases x with
  | error e => exact .error
  | ok a => exact hf a

theorem Instr.opOf_read {g : RegName} : (Instr.read h g).opOf = some 0x01 := by cases g <;> rfl
theorem Instr.opOf_slks {b : SlksRhs} : (Instr.slks h b).opOf = some 0x0E := by cases b <;> rfl
theorem Instr.opOf_lea {b : LeaRhs} : (Instr.lea h b).opOf = some 0x28 := by cases b <;> rfl

/-! The tables of OP: each arm reads its operands and names one record, or refuses the word; the last arm refuses an unlisted OP. -/

theorem buildCore_builds : Builds r.op.toNat h (r.buildCore h) := by
  unfold Raw.buildCore
  generalize r.op.toNat = n
  split
  all_goals repeat refine .bind fun _ => ?_
  case h_1 => exact .ok rfl Instr.opOf_read
  case h_8 =>
    split
    case h_6 => exact .error
    all_goals exact .ok rfl rfl
  case h_12 =>
    split
    case h_4 => exact .error
    all_goals exact .ok rfl rfl
  case h_13 =>
    split
    case h_7 => exact .error
    all_goals exact .ok rfl rfl
  case h_14 => exact .ok rfl Instr.opOf_slks
  case h_16 => exact .error
  all_goals exact .ok rfl rfl

theorem buildInt_builds : Builds r.op.toNat h (r.buildInt h) := by
  unfold Raw.buildInt
  generalize r.op.toNat = n
  split
  all_goals repeat refine .bind fun _ => ?_
  case h_12 =>
    split
    case h_6 => exact .error
    all_goals exact .ok rfl rfl
  case h_17 => exact .error
  all_goals exact .ok rfl rfl

theorem buildInt2_builds : Builds r.op.toNat h (r.buildInt2 h) := by
  unfold Raw.buildInt2
  generalize r.op.toNat = n
  split
  all_goals repeat refine .bind fun _ => ?_
  case h_4 =>
    split
    case h_4 => exact .error
    all_goals exact .ok rfl rfl
  case h_7 => split <;> exact .ok rfl rfl
  case h_9 => exact .ok rfl Instr.opOf_lea
  case h_11 => exact .error
  all_goals exact .ok rfl rfl

theorem buildFp_builds : Builds r.op.toNat h (r.buildFp h) := by
  unfold Raw.buildFp
  generalize r.op.toNat = n
  split
  all_goals repeat refine .bind fun _ => ?_
  case h_9 | h_14 =>
    split
    case h_4 => exact .error
    all_goals exact .ok rfl rfl
  case h_15 => exact .error
  all_goals exact .ok rfl rfl

theorem buildVec_builds : Builds r.op.toNat h (r.buildVec h) := by
  unfold Raw.buildVec
  generalize r.op.toNat = n
  split
  all_goals repeat refine .bind fun _ => ?_
  case h_17 => exact .error
  all_goals exact .ok rfl rfl

theorem buildVec2_builds : Builds r.op.toNat h (r.buildVec2 h) := by
  unfold Raw.buildVec2
  generalize r.op.toNat = n
  split
  all_goals repeat refine .bind fun _ => ?_
  case h_16 => exact .error
  all_goals exact .ok rfl rfl

theorem buildFmt_builds : Builds r.op.toNat h (r.buildFmt h) := by
  unfold Raw.buildFmt
  generalize r.op.toNat = n
  split
  all_goals repeat refine .bind fun _ => ?_
  case h_15 => exact .error
  all_goals exact .ok rfl rfl

theorem buildMem_builds : Builds r.op.toNat h (r.buildMem h) := by
  unfold Raw.buildMem
  generalize r.op.toNat = n
  split
  all_goals repeat refine .bind fun _ => ?_
  case h_15 => exact .error
  all_goals exact .ok rfl rfl

theorem buildCnt_builds : Builds r.op.toNat h (r.buildCnt h) := by
  unfold Raw.buildCnt
  generalize r.op.toNat = n
  split
  all_goals repeat refine .bind fun _ => ?_
  case h_14 => exact .error
  all_goals exact .ok rfl rfl

theorem buildSys_builds : Builds r.op.toNat h (r.buildSys h) := by
  unfold Raw.buildSys
  generalize r.op.toNat = n
  split
  all_goals repeat refine .bind fun _ => ?_
  case h_1 =>
    split
    case h_3 => exact .error
    all_goals exact .ok rfl rfl
  case h_4 | h_9 => split <;> exact .ok rfl rfl
  case h_17 => exact .error
  all_goals exact .ok rfl rfl

theorem build_builds : Builds r.op.toNat h (r.build h) := by
  unfold Raw.build
  split
  case h_1 => exact buildCore_builds
  case h_2 => exact buildInt_builds
  case h_3 => exact buildInt2_builds
  case h_4 => exact buildFp_builds
  case h_5 => exact buildVec_builds
  case h_6 => exact buildVec2_builds
  case h_7 => exact buildFmt_builds
  case h_8 => exact buildMem_builds
  case h_9 => exact buildCnt_builds
  case h_10 => split <;> [exact buildCnt_builds; exact buildSys_builds]
  case h_11 => exact buildSys_builds

/-! ### What an accepted word says of its record -/

theorem ok_of_bind {ε α β : Type} {x : Except ε α} {f : α → Except ε β} {b : β} (hb : x >>= f = .ok b) :
    ∃ a, x = .ok a ∧ f a = .ok b := by
  cases x with
  | error e => cases hb
  | ok a => exact ⟨a, rfl, hb⟩

theorem eq_some_of_orErr {α : Type} {o : Option α} {e : DecodeError} {a : α} (ho : orErr o e = .ok a) : o = some a := by
  cases o with
  | none => cases ho
  | some b => cases ho; rfl

/-- A header that is read has the codes of the word's own fields. -/
theorem Raw.codes_of_hdr (hh : r.hdr = .ok h) : h.pr.code = r.pr ∧ h.t0.code = r.t0 ∧ h.t1.code = r.t1 ∧ h.slk = r.slk := by
  obtain ⟨pr, hpr, hh⟩ := ok_of_bind hh
  dsimp only at hh
  split at hh
  case isTrue =>
    obtain ⟨t0, h0, hh⟩ := ok_of_bind hh
    obtain ⟨t1, h1, ⟨⟩⟩ := ok_of_bind hh
    exact ⟨Pred.code_ofCode (eq_some_of_orErr hpr), Target.code_ofCode (eq_some_of_orErr h0), Target.code_ofCode (eq_some_of_orErr h1), rfl⟩
  case isFalse => cases hh

/-- A record is confirmed when it is well-formed and its encoding has the word's M, FN and LIT. -/
theorem Raw.confirm_ok {i j : Instr} (hc : r.confirm i = .ok j) : j = i ∧ i.wf = true ∧ ∃ op, i.enc = some (op, r.m, r.fn, r.lit) := by
  unfold Raw.confirm at hc
  split at hc
  case h_1 op m fn lit he =>
    split_ifs at hc with hmf hl hw
    cases hc
    obtain ⟨hm, hf⟩ := not_or.mp hmf
    rw [not_ne_iff] at hm hf hl
    exact ⟨rfl, hw, op, hm ▸ hf ▸ hl ▸ he⟩
  case h_2 => cases hc

/-- The record that a decoding answers is well-formed and has exactly the fields that were read. -/
theorem toRaw_of_decodeRaw {i : Instr} (hd : decodeRaw r = .ok i) : i.wf = true ∧ i.isEvent = false ∧ i.toRaw = some r := by
  obtain ⟨h, hh, hd⟩ := ok_of_bind hd
  obtain ⟨j, hb, hc⟩ := ok_of_bind hd
  obtain ⟨rfl, hw, op, he⟩ := Raw.confirm_ok hc
  obtain ⟨hhdr, hop⟩ := build_builds _ hb
  obtain ⟨hpr, h0, h1, hs⟩ := Raw.codes_of_hdr hh
  have hop : op = r.op := BitVec.eq_of_toNat_eq (by simpa [Instr.opOf, he] using hop)
  refine ⟨hw, by simp [Instr.isEvent, hhdr], ?_⟩
  simp only [Instr.toRaw, he, hhdr, hop, hpr, h0, h1, hs]

end Sys2Proof

namespace Sys2Proof.Laws.RoundTrip
open Sys2Proof

/-- Each constructor's own lemma, for every record and event. -/
theorem statement_all : ∀ i : Instr, Statement i
  | .read .. => read _ _ | .mov .. => mov _ _ _ | .movx .. => movx _ _ _ _ | .const .. => const _ _ _ | .null .. => null _ _
  | .sel .. => sel _ _ | .gate .. => gate _ _ | .exitJmp .. => exitJmp _ _ | .exitJmpi .. => exitJmpi _ | .exitCall .. => exitCall _ _
  | .exitRet .. => exitRet _ | .exitStop .. => exitStop _ | .itin .. => itin _ _ | .itnx .. => itnx _ _ | .itout .. => itout _ _
  | .tagr .. => tagr _ _ _ | .wfld .. => wfld _ _ | .slks .. => slks _ _ | .slkr .. => slkr _ _ | .add .. => add _ _ _
  | .sub .. => sub _ _ _ | .mul .. => mul _ _ _ | .mulh .. => mulh _ _ _ | .mulw .. => mulw _ _ _ | .div .. => div _ _ _
  | .rem .. => rem _ _ _ | .min .. => min _ _ _ | .max .. => max _ _ _ | .adds .. => adds _ _ _ | .subs .. => subs _ _ _
  | .and .. => and _ _ | .or .. => or _ _ | .xor .. => xor _ _ | .andn .. => andn _ _ | .not .. => not _ | .neg .. => neg _ _
  | .abs .. => abs _ _ | .shl .. => shl _ _ _ | .shr .. => shr _ _ _ | .sar .. => sar _ _ _ | .rol .. => rol _ _ _ | .ror .. => ror _ _ _
  | .clz .. => clz _ _ | .ctz .. => ctz _ _ | .popc .. => popc _ _ | .bfx .. => bfx _ _ _ _ | .bfi .. => bfi _ _ _ | .sext .. => sext _ _
  | .zext .. => zext _ _ | .tst .. => tst _ _ _ | .lea .. => lea _ _ | .apx .. => apx _ _ | .fadd .. => fadd _ _ _ | .fsub .. => fsub _ _ _
  | .fmul .. => fmul _ _ _ | .fdiv .. => fdiv _ _ _ | .fsqrt .. => fsqrt _ _ _ | .fma .. => fma _ _ _ | .fmin .. => fmin _ _ _
  | .fmax .. => fmax _ _ _ | .fabs .. => fabs _ _ | .fneg .. => fneg _ _ | .fcpys .. => fcpys _ _ | .ftst .. => ftst _ _ _ _
  | .fcvt .. => fcvt _ _ _ _ | .frnd .. => frnd _ _ _ | .fcls .. => fcls _ _ | .exp2 .. => exp2 _ _ _ | .log2 .. => log2 _ _ _
  | .rsq .. => rsq _ _ _ | .vadd .. => vadd _ _ _ | .vsub .. => vsub _ _ _ | .vmul .. => vmul _ _ _ | .vdiv .. => vdiv _ _ _
  | .vfma .. => vfma _ _ _ | .vmin .. => vmin _ _ _ | .vmax .. => vmax _ _ _ | .vabs .. => vabs _ _ | .vneg .. => vneg _ _
  | .vand .. => vand _ _ _ | .vor .. => vor _ _ _ | .vxor .. => vxor _ _ _ | .vshl .. => vshl _ _ _ | .vshr .. => vshr _ _ _
  | .vsar .. => vsar _ _ _ | .vtst .. => vtst _ _ _ | .vsel .. => vsel _ _ | .vcvt .. => vcvt _ _ _ _ _ | .vexp2 .. => vexp2 _ _ _
  | .vlog2 .. => vlog2 _ _ _ | .vrsq .. => vrsq _ _ _ | .vbcast .. => vbcast _ _ | .vextr .. => vextr _ _ _ | .vins .. => vins _ _ _
  | .vperm .. => vperm _ _ | .viota .. => viota _ _ | .vred .. => vred _ _ _ _ _ | .vscan .. => vscan _ _ _ _ | .vdot .. => vdot _ _ _ _
  | .vmaxi .. => vmaxi _ _ _ | .vmini .. => vmini _ _ _ | .amax .. => amax _ _ | .cvq .. => cvq _ _ _ | .cvdq .. => cvdq _ _ _
  | .chset .. => chset _ | .chtab .. => chtab _ | .sclw .. => sclw _ _ _ | .vpk .. => vpk _ | .vupk .. => vupk _ | .rngs .. => rngs _
  | .rngn .. => rngn _ _ | .rngf .. => rngf _ _ | .sample .. => sample _ _ | .topk .. => topk _ _ | .accept .. => accept _ _ _
  | .ld .. => ld _ _ _ _ | .st .. => st _ _ _ | .vld .. => vld _ _ _ _ | .vst .. => vst _ _ _ | .vldg .. => vldg _ _ _ _
  | .vsts .. => vsts _ _ _ | .ldr .. => ldr _ _ _ _ | .pref .. => pref _ _ _ | .red .. => red _ _ _ _ | .vredm .. => vredm _ _ _ _
  | .mldred .. => mldred _ _ _ | .mldredReduce .. => mldredReduce _ | .gset .. => gset _ _ | .copy .. => copy _ _ _
  | .persist .. => persist _ _ _ | .persistComplete .. => persistComplete _ | .cadd .. => cadd _ _ _ _ | .caddr .. => caddr _ _ _ _
  | .caddrReply .. => caddrReply _ | .cwait .. => cwait _ _ _ _ | .cpoll .. => cpoll _ _ _ _ | .counterStep .. => counterStep _ _
  | .durableStepComplete .. => durableStepComplete _ | .promoteAnswer .. => promoteAnswer _ | .mma .. => mma _ _ _ | .mmaz .. => mmaz _ _
  | .accld .. => accld _ _ | .accst .. => accst _ _ _ | .lxtab .. => lxtab _ _ | .lxctx .. => lxctx _ _ | .lxrun .. => lxrun _ _
  | .lxtin .. => lxtin _ _ | .lxtout .. => lxtout _ _ | .spawn .. => spawn _ _ _ | .spawnNowait .. => spawnNowait _ _ _
  | .spawnResume .. => spawnResume _ | .retn .. => retn _ | .launch .. => launch _ | .cancel .. => cancel _
  | .cancelLaunch .. => cancelLaunch _ | .cancelMarkSeen .. => cancelMarkSeen _ | .trap .. => trap _ _ | .fltr .. => fltr _
  | .msg .. => msg _ | .msgReply .. => msgReply _ | .msgr .. => msgr _ | .msgrReceive .. => msgrReceive _ | .dusk .. => dusk _
  | .duskSave .. => duskSave _ | .duskMarkerArrival .. => duskMarkerArrival _ _ _ | .ctxsv .. => ctxsv _ | .ctxld .. => ctxld _
  | .litw .. => litw _ _ | .badn .. => badn _ | .apset .. => apset _ | .time .. => time _ | .retire .. => retire _
  | .tokenArrival .. => tokenArrival _ | .blockFetch .. => blockFetch _ _ | .commit .. => commit _ | .commitWatchdog .. => commitWatchdog _
  | .tick .. => tick _ | .tileAccess .. => tileAccess _ | .pageFillComplete .. => pageFillComplete _ | .pagerDecline .. => pagerDecline _
  | .pagerMigrateStart .. => pagerMigrateStart _ _ | .pagerEvictStart .. => pagerEvictStart _
  | .migrationComplete .. => migrationComplete _ | .evictionComplete .. => evictionComplete _
  | .writebackComplete .. => writebackComplete _ | .heatWindowEnd => heatWindowEnd | .homePerform .. => homePerform _ _
  | .peerAccess .. => peerAccess _ _ | .streamerAccept .. => streamerAccept _ _ _ | .streamerComplete .. => streamerComplete _ _ _
  | .islandAccept .. => islandAccept _ _ _ | .islandComplete .. => islandComplete _ _ | .latticeAccept .. => latticeAccept _ _
  | .latticeComplete .. => latticeComplete _ | .tcbReady .. => tcbReady _ | .taskDispatch .. => taskDispatch _
  | .taskSteal .. => taskSteal _ | .taskFinish .. => taskFinish _ | .regionPlace .. => regionPlace _ | .itemStart .. => itemStart _ _
  | .itemFinish .. => itemFinish _ _ | .regionFree .. => regionFree _ | .launchSubmit .. => launchSubmit _
  | .jobRecordRead .. => jobRecordRead _ | .haltReport .. => haltReport _ | .haltAction .. => haltAction _ | .regionList .. => regionList _
  | .objectCreate .. => objectCreate _ | .apertureBind .. => apertureBind _ | .apertureUnbind .. => apertureUnbind _
  | .objectRetire .. => objectRetire _ | .objectReclaim .. => objectReclaim _ | .parityError .. => parityError _ _ _ _ _ _
  | .peerPacketReceive .. => peerPacketReceive _ _ _ | .sack .. => sack _ _ _ | .retransmitTimeout .. => retransmitTimeout _ _
  | .flitCrcFail .. => flitCrcFail _ | .boundaryFail .. => boundaryFail _ | .hostWindowAccess .. => hostWindowAccess _ _ _ _
  | .backInvalidate .. => backInvalidate _ _ _ | .backInvalidateComplete .. => backInvalidateComplete _ _ _ _
  | .ownerHoldExpire .. => ownerHoldExpire _ _ _ | .hostCounterRead .. => hostCounterRead _ _ _
  | .hostCounterWrite .. => hostCounterWrite _ _ _ _ | .hostLaunchWrite .. => hostLaunchWrite _ _ | .hostCodeWrite .. => hostCodeWrite _ _
  | .codeBindComplete .. => codeBindComplete _ | .hostRegWrite .. => hostRegWrite _ _ _ | .resync => resync | .mgmtRefresh => mgmtRefresh
  | .pldmFirmwareUpdate .. => pldmFirmwareUpdate _ _ _ | .getVersion => getVersion | .getCapabilities => getCapabilities
  | .negotiateAlgorithms => negotiateAlgorithms | .getDigests => getDigests | .getCertificate .. => getCertificate _ _
  | .challenge .. => challenge _ | .getMeasurements .. => getMeasurements _ | .thermalWarning .. => thermalWarning _ _
  | .thermalTrip .. => thermalTrip _ _ | .powerLoss .. => powerLoss _ | .bringUp .. => bringUp _ _ _ _
  | .dieSupplyFault .. => dieSupplyFault _ | .tableWalkComplete .. => tableWalkComplete _ _ _

end Sys2Proof.Laws.RoundTrip

namespace Sys2Proof.Machine
open Sys2Proof

/-- Settles O5: every constructor has its lemma in `Laws.RoundTrip`. -/
theorem decodeEncode : Obligations.DecodeEncode := Laws.RoundTrip.statement_all

/-- Settles O6: the record read has the word's OP by the table that built it, the word's header by its codes, and the word's M, FN and LIT
because the decoder confirms them. -/
theorem encodeDecode : Obligations.EncodeDecode := by
  unfold Obligations.EncodeDecode
  intro w i hd
  obtain ⟨hw, hr, he⟩ := toRaw_of_decodeRaw hd
  exact ⟨hw, hr, by rw [encode, he, Option.map_some, Raw.pack_unpack]⟩

/-- The word that a well-formed record encodes to decodes to it. -/
theorem decode_of_encode {i : Instr} {w : RecordWord} (hr : i.isEvent = false) (hm : ∀ h, i ≠ .msgReply h) (hw : i.wf = true)
    (he : encode i = some w) : decode w = .ok i := by
  obtain ⟨v, hv, hd⟩ := decodeEncode i hr hm hw
  rwa [Option.some.inj (he.symm.trans hv)]

/-- Settles O4: each record of the spec's worked encodings is well-formed and encodes to the word beside it. -/
theorem decodeWords : Obligations.DecodeWords := by
  unfold Obligations.DecodeWords
  and_intros
  all_goals exact decode_of_encode rfl (fun _ => nofun) rfl (by decide)

/-- Every record but the three loop records runs as one firing that sends null tokens when it fires null (R55); `e` is its effect when it
fires real. -/
theorem exec_eq_fire {i : Instr} (s : State) (hr : i.isEvent = false)
    (hl : ∀ h v, i ≠ .itin h v ∧ i ≠ .itnx h v ∧ i ≠ .itout h v) : ∃ e, exec i s = .next (s.fire i e) := by
  -- `cases hr` leaves the records: an event's header is none
  cases i <;> cases hr
  case itin h v => exact absurd rfl (hl h v).1
  case itnx h v => exact absurd rfl (hl h v).2.1
  case itout h v => exact absurd rfl (hl h v).2.2
  all_goals exact ⟨_, rfl⟩

/-- Settles O10: every record named runs as one firing, whose null case is `fireWith_null`. -/
theorem nullFiring : Obligations.NullFiring := by
  unfold Obligations.NullFiring
  intro i s hl hn
  obtain ⟨e, he⟩ := exec_eq_fire s hn.record hl
  rw [he]
  exact congrArg Host.Outcome.next (fireWith_null hn)

end Sys2Proof.Machine
end

section
/-! SUPPORT. The events of tasks and cancellation (R105, R108, R110, R111, R113, R349, R350): what each operation behind them answers where its
unit need not wait. -/

namespace Sys2Proof.Machine
open Sys2Proof
variable {s t u v : State}

/-! ### The first of a list by an order, and the one member that satisfies a test -/

theorem mem_of_firstBy {α : Type} {before : α → α → Bool} {l : List α} {a : α} (h : firstBy before l = some a) : a ∈ l := by
  induction l with
  | nil => cases h
  | cons x l ih =>
    simp only [firstBy] at h
    split at h
    · simp_all
    · next b hb => split at h <;> simp_all

/-- The member that stands before every other is the first. -/
theorem firstBy_eq_some {α : Type} {before : α → α → Bool} {l : List α} {a : α} (ha : a ∈ l)
    (hl : ∀ b ∈ l, b ≠ a → before a b = true ∧ before b a = false) : firstBy before l = some a := by
  induction l with
  | nil => cases ha
  | cons x l ih =>
    have hx : x ≠ a → before a x = true ∧ before x a = false := hl x List.mem_cons_self
    simp only [firstBy]
    split
    · next hn =>
      -- nothing stands behind `x`, so `a` is `x`
      rcases List.mem_cons.mp ha with rfl | hmem
      · rfl
      · rw [ih hmem fun b hb => hl b (List.mem_cons_of_mem x hb)] at hn
        cases hn
    · next b hb =>
      by_cases hmem : a ∈ l
      · obtain rfl : b = a := Option.some.inj (hb.symm.trans (ih hmem fun c hc => hl c (List.mem_cons_of_mem x hc)))
        by_cases hxb : x = b
        · simp [hxb]
        · rw [if_pos (hx hxb).1]
      · obtain rfl : a = x := (List.mem_cons.mp ha).resolve_right hmem
        have hba : b ≠ a := fun e => hmem (e ▸ mem_of_firstBy hb)
        rw [if_neg (by simp [(hl b (List.mem_cons_of_mem a (mem_of_firstBy hb)) hba).2])]

/-- The order of four numbers, the first that differs deciding: the form of the orders of R110 and R114. -/
def lexBefore (p q r n p' q' r' n' : Nat) : Bool :=
  if p ≠ p' then p < p' else if q ≠ q' then q < q' else if r ≠ r' then r < r' else n < n'

theorem lexBefore_asymm {p q r n p' q' r' n' : Nat} (h : lexBefore p q r n p' q' r' n' = true) : lexBefore p' q' r' n' p q r n = false := by
  unfold lexBefore at *
  grind

/-- Of a list, the first member that satisfies a test is the one that alone does. -/
theorem find?_eq_some_of_unique {α : Type} {p : α → Bool} {l : List α} {a : α} (ha : a ∈ l) (hp : p a = true)
    (hu : ∀ b ∈ l, b ≠ a → p b = false) : l.find? p = some a := by
  obtain ⟨b, hb⟩ : ∃ b, l.find? p = some b := Option.isSome_iff_exists.mp (List.find?_isSome.mpr ⟨a, ha, hp⟩)
  have hpb : p b = true := List.find?_some hb
  by_cases hab : b = a
  · rw [hb, hab]
  · rw [hu b (List.mem_of_find?_eq_some hb) hab] at hpb
    cases hpb

/-- An event whose operation answers a state leads there. -/
theorem next_getD {o : Option State} (h : o = some t) : (.next (o.getD s) : Host.Outcome State Fault Refusal) = .next t :=
  congrArg (fun o => Host.Outcome.next (Option.getD o s)) h

/-! ### A waiting SPAWN (R105) -/

variable {h : Hdr} {na : Fin 3} {blk : BitVec 33}

theorem State.spawnResume_first {region : Nat} {q : Req} (hq : q ∈ s.reqs) (hm : s.mayResume q = true) (hr : q.latch.ctx.region = region)
    (hi : q.instr = .spawn h na blk)
    (hf : ∀ p ∈ s.reqs, p ≠ q → s.mayResume p = true → p.latch.ctx.region = region →
      q.slack < p.slack ∨ (q.slack = p.slack ∧ q.id < p.id))
    (hs : s.startChild q.latch q.id na.val blk (if h.slk = 0#8 then q.slack else slkValue h.slk) = some t) :
    s.spawnResume region = some (t.updReq q.id fun r => { r with stage := .answer }) := by
  have hfirst : firstBy (fun a b : Req => decide (a.slack < b.slack) || (a.slack == b.slack && decide (a.id < b.id)))
      (s.reqs.filter fun q => q.latch.ctx.region == region && s.mayResume q) = some q := by
    refine firstBy_eq_some (by simp [hq, hm, hr]) fun p hp hne => ?_
    simp only [List.mem_filter, Bool.and_eq_true, beq_iff_eq] at hp
    have hlt := hf p hp.1 hne hp.2.2 hp.2.1
    simp only [Bool.or_eq_true, Bool.or_eq_false_iff, Bool.and_eq_true, Bool.and_eq_false_iff, decide_eq_true_eq, decide_eq_false_iff_not,
      beq_iff_eq, beq_eq_false_iff_ne]
    omega
  simp only [State.spawnResume, hfirst, hi, hs, Option.map_some]

/-! ### A mark on its way (R349, R350, R367, R379) -/

/-- What is left of a running or halted context, and of what descends from it, once it has seen its mark (R350, R367). -/
def State.markTaken (s : State) (c : CtxId) (x : Ctx) : State :=
  let u := (s.updCtx c fun y => { y with mark := .seen }).passMark c
  (if x.halt.isSome then u.endCtx c .null none else u).cancelsDone

/-- What is left of a context that ended or was saved before it saw its mark, and of what descends from it (R350, R379). -/
def State.markPassedOn (s : State) (c : CtxId) : State :=
  let u : State := { s with marks := s.marks.filter fun m => m != c }
  let v := match u.savedCtxs.find? fun e => e.1 == c with | some e => u.endSaved c e.2 | none => u
  (v.passMark c).cancelsDone

theorem State.markSeen_sent {c : CtxId} {x : Ctx} (hx : s.ctx? c = some x) (hm : x.mark = .sent)
    (hp : ((s.acting (.ctx c)).markTaken c x).pause = none) : s.markSeen c = some (((s.acting (.ctx c)).markTaken c x).acted (.ctx c)) := by
  simp only [State.markSeen, hx, hm]
  exact State.whole_acted (f := fun u => some (u.markTaken c x)) rfl hp

theorem State.markSeen_gone {c : CtxId} (hx : s.ctx? c = none) (hc : c ∈ s.marks)
    (hp : ((s.acting (.ctx c)).markPassedOn c).pause = none) : s.markSeen c = some (((s.acting (.ctx c)).markPassedOn c).acted (.ctx c)) := by
  simp only [State.markSeen, hx, List.contains_iff_mem.mpr hc, if_true]
  exact State.whole_acted (f := fun u => some (u.markPassedOn c)) rfl hp

theorem State.markSeen_done {c : CtxId} {q : Req} (hx : s.ctx? c = none) (hm : s.marks = []) (hs : ∀ x ∈ s.ctxs, x.mark ≠ .sent)
    (hq : q ∈ s.reqs) (ha : q.stage = .answer) (hi : (∃ h, q.instr = .cancel h) ∨ ∃ h, q.instr = .cancelLaunch h) :
    s.markSeen c = some s.cancelsDone := by
  have hleft : s.marksLeft = false := by
    simp only [State.marksLeft, hm, Bool.or_eq_false_iff, List.any_eq_false, beq_iff_eq]
    exact ⟨hs, rfl⟩
  simp only [State.markSeen, hx, hm, List.contains_nil, hleft, Bool.not_false, Bool.and_true, Bool.false_eq_true, if_false]
  refine if_pos (List.any_eq_true.mpr ⟨q, hq, ?_⟩)
  rcases hi with ⟨h, hi⟩ | ⟨h, hi⟩ <;> simp [ha, hi]

/-! ### The ready queue (R110, R111) -/

theorem insertTask_perm (k : Task) (l : List Task) : (insertTask k l).Perm (k :: l) := by
  induction l with
  | nil => exact .refl _
  | cons a l ih =>
    simp only [insertTask]
    split
    · exact .refl _
    · exact (ih.cons a).trans (.swap k a l)

theorem foldl_insertTask_perm (l acc : List Task) : (l.foldl (fun l k => insertTask k l) acc).Perm (l ++ acc) := by
  induction l generalizing acc with
  | nil => exact .refl _
  | cons a l ih => exact (ih _).trans (((insertTask_perm a acc).append_left l).trans List.perm_middle)

/-- A task is due with another: the same step of their counter has satisfied both, for the same die (R110). -/
def Task.dueAs (k u : Task) : Bool := u.dueOn k.die && u.order == k.order

/-- The ready tasks of a die's queue. -/
def State.queuedFor (s : State) (k : Task) : Nat := s.tasks.countP fun u => u.status == 2#4 && u.die == k.die

theorem State.mem_dueWith {k a : Task} (ha : a ∈ s.dueWith k) : a ∈ s.tasks ∧ k.dueAs a = true := by
  have hmem := (foldl_insertTask_perm _ []).mem_iff.mp (List.mem_of_mem_take ha)
  rw [List.append_nil] at hmem
  exact List.mem_filter.mp hmem

theorem State.dueWith_all {k : Task} (hroom : s.queuedFor k + s.tasks.countP k.dueAs ≤ 4096) {a : Task} (ha : a ∈ s.tasks)
    (hd : k.dueAs a = true) : a ∈ s.dueWith k := by
  have hperm := foldl_insertTask_perm (s.tasks.filter k.dueAs) []
  rw [List.append_nil] at hperm
  have hlen : ((s.tasks.filter k.dueAs).foldl (fun l u => insertTask u l) []).length ≤ 4096 - s.queuedFor k := by
    rw [hperm.length_eq, ← List.countP_eq_length_filter]
    omega
  have hmem := hperm.mem_iff.mpr (List.mem_filter.mpr ⟨ha, hd⟩)
  rwa [← List.take_of_length_le hlen] at hmem

/-- The tasks due with one enter their queue together. -/
def State.enterQueue (s : State) (k : Task) : State :=
  (s.dueWith k).foldl (fun v u => v.moveTask { u with status := 2#4, slack := slkValue (s.taskCode u) }) s

theorem State.taskReady_due {n : Nat} {k : Task} (hk : s.task? n = some k) (hd : k.dueOn k.die = true) (hw : k ∈ s.dueWith k)
    (he : ∀ u ∈ s.tasks, u.dueOn k.die = true → u.order ≠ k.order → k.woke ≤ u.woke)
    (hp : ((s.acting (.task n)).enterQueue k).pause = none) :
    s.taskReady n = some (((s.acting (.task n)).enterQueue k).acted (.task n)) := by
  have hearlier : (s.tasks.any fun u => u.dueOn k.die && u.order != k.order && decide (u.woke < k.woke)) = false := by
    simpa [and_imp] using he
  simp only [State.taskReady, hk, hd, hearlier, List.contains_iff_mem.mpr hw]
  exact State.whole_acted (f := fun u => some (u.enterQueue k)) rfl hp

theorem Task.before_asymm {a b : Task} (h : a.before b = true) : b.before a = false := lexBefore_asymm h

theorem State.startIn_ok {k : Task} {g : Region} (hs : (s.acting (.task k.id)).startTask k g = some v) (hp : v.pause = none) :
    s.startIn k g = some (v.acted (.task k.id)) :=
  State.whole_acted hs hp

theorem State.mem_readyOn {die : Nat} {k : Task} : k ∈ s.readyOn die ↔ k ∈ s.tasks ∧ k.status = 2#4 ∧ k.die = die := by
  simp [State.readyOn]

theorem State.dispatchNow_first {die : Nat} {k : Task} {g : Region} (hw : s.dieWorks die = true) (hk : k ∈ s.tasks) (h2 : k.status = 2#4)
    (hd : k.die = die) (hg : s.regionFor die k = some g)
    (hf : ∀ u ∈ s.tasks, u ≠ k → u.status = 2#4 → u.die = die → (s.regionFor die u).isSome = true → k.before u = true) :
    s.dispatchNow die = s.startIn k g := by
  have hfirst : firstBy Task.before ((s.readyOn die).filter fun k => (s.regionFor die k).isSome) = some k := by
    refine firstBy_eq_some (List.mem_filter.mpr ⟨State.mem_readyOn.mpr ⟨hk, h2, hd⟩, by simp [hg]⟩) fun u hu hne => ?_
    obtain ⟨hu, hr⟩ := List.mem_filter.mp hu
    obtain ⟨hu, hu2, hud⟩ := State.mem_readyOn.mp hu
    have hb := hf u hu hne hu2 hud hr
    exact ⟨hb, Task.before_asymm hb⟩
  simp [State.dispatchNow, hw, hfirst, hg]

/-- The regions of a job that a die holds (R111, R117). -/
def State.heldOn (s : State) (die job : Nat) : List Region := (s.regionsOf job).filter fun g => g.die == die && g.holding

/-- A unit of a die may take a task that it does not hold: unhinted, of a job that has regions on the die, each with a free colour (R111). -/
def State.mayTake (s : State) (die : Nat) (k : Task) : Bool :=
  k.rhint = 0xFFFF && !(s.heldOn die k.job).isEmpty && (s.heldOn die k.job).all fun g => g.nextColour.isSome

theorem State.mayTake_iff {die : Nat} {k : Task} : s.mayTake die k = true ↔
    k.rhint = 0xFFFF ∧ s.heldOn die k.job ≠ [] ∧ ∀ g ∈ s.heldOn die k.job, g.nextColour.isSome = true := by
  simp [State.mayTake, and_assoc]

theorem State.stealNow_first {die : Nat} {k : Task} {g : Region} (hw : s.dieWorks die = true) (hk : k ∈ s.tasks) (h2 : k.status = 2#4)
    (hd : k.die ≠ die) (hnone : ∀ u ∈ s.tasks, u.status = 2#4 → u.die = die → s.regionFor die u = none) (hm : s.mayTake die k = true)
    (hf : ∀ u ∈ s.tasks, u ≠ k → u.status = 2#4 → u.die ≠ die → s.mayTake die u = true → k.before u = true)
    (hg : lowestRegion (s.heldOn die k.job) = some g) : s.stealNow die = s.startIn k g := by
  have hidle : ((s.readyOn die).any fun k => (s.regionFor die k).isSome) = false := by
    refine List.any_eq_false.mpr fun u hu => ?_
    obtain ⟨hu, hu2, hud⟩ := State.mem_readyOn.mp hu
    simp [hnone u hu hu2 hud]
  have hfirst : firstBy Task.before (s.tasks.filter fun k => k.status == 2#4 && k.die != die && s.mayTake die k) = some k := by
    refine firstBy_eq_some (by simp [hk, h2, hd, hm]) fun u hu hne => ?_
    simp only [List.mem_filter, Bool.and_eq_true, beq_iff_eq, bne_iff_ne] at hu
    have hb := hf u hu.1 hne hu.2.1.1 hu.2.1.2 hu.2.2
    exact ⟨hb, Task.before_asymm hb⟩
  have hmay : ¬(!s.dieWorks die || (s.readyOn die).any fun k => (s.regionFor die k).isSome) = true := by simp [hw, hidle]
  simp only [State.mayTake, State.heldOn] at hfirst hg
  simp only [State.stealNow, if_neg hmay, hfirst, hg, Option.bind_some]

/-! ### The end of a task (R113) -/

theorem State.taskDone_ok {n : Nat} {k : Task} {c : CtxId} (hk : s.task? n = some k) (hc : k.ctx = some c) (h3 : k.status = 3#4)
    (hb : s.taskBusy n = false) (ho : (s.acting (.task n)).outcome k c = v) (hp : v.pause = none) :
    s.taskDone n = some (v.acted (.task n)) := by
  simp only [State.taskDone, hk, hc, h3, hb]
  exact State.whole_acted (f := fun u => some (u.outcome k c)) (congrArg some ho) hp

section outcome
variable {k : Task} {c : CtxId}

theorem State.outcome_cancelled (hc : k.cancelled = true) : s.outcome k c = s.endTask { k with status := 5#4, lastf := codeCancelled } :=
  if_pos hc

theorem State.outcome_done (hc : k.cancelled = false) (hf : k.lastf = 0#8) :
    s.outcome k c = (s.endTask { k with status := 4#4 }).addSuccs k c := by
  simp [State.outcome, hc, hf]

theorem State.outcome_skip (hc : k.cancelled = false) (hf : k.lastf ≠ 0#8) (hp : k.fpol = 2) :
    s.outcome k c = (s.endTask { k with status := 6#4 }).addSuccs k c := by
  simp [State.outcome, hc, hf, hp]

theorem State.outcome_retry (hc : k.cancelled = false) (hf : k.lastf ≠ 0#8) (hp : k.fpol = 1) (ht : k.tries < wordField k.words 4 38 4) :
    s.outcome k c = s.moveTask { k with status := 7#4, tries := k.tries + 1, ctx := none, woken := none } := by
  simp [State.outcome, hc, hf, hp, ht]

theorem State.outcome_faulted (hc : k.cancelled = false) (hf : k.lastf ≠ 0#8) (hp : k.fpol ≠ 2)
    (ht : k.fpol = 1 → wordField k.words 4 38 4 ≤ k.tries) : s.outcome k c = s.endTask { k with status := 5#4 } := by
  have hr : ¬(k.fpol = 1 ∧ k.tries < wordField k.words 4 38 4) := fun h => absurd h.2 (not_lt.mpr (ht h.1))
  simp [State.outcome, hc, hf, hp, hr]

end outcome

/-- Settles O55: each event is one operation of the model, whose cases are above; a clause says which member of a queue comes first, or which
branch a task's end takes. -/
theorem taskEvents : Obligations.TaskEvents := by
  unfold Obligations.TaskEvents
  refine ⟨?resume, ?seen, ?ready, ?start, ?finish⟩
  case resume =>
    intro s t region q h na blk hq hm hr hi hf hs
    exact next_getD (State.spawnResume_first hq hm hr hi hf hs)
  case seen =>
    intro s c
    refine ⟨fun x hx hm hp => ?_, fun hx hc hp => ?_, fun hx hm hs hw => ?_⟩
    · exact next_getD (State.markSeen_sent hx hm hp)
    · exact next_getD (State.markSeen_gone hx hc hp)
    · obtain ⟨q, hq, ha, hi⟩ := hw
      exact next_getD (State.markSeen_done hx hm hs hq ha hi)
  case ready =>
    intro s n k hk hd hw he queued due
    exact ⟨fun u hu => State.mem_dueWith hu, fun hroom u hu hdue => State.dueWith_all hroom hu hdue,
      fun hp => next_getD (State.taskReady_due hk hd hw he hp)⟩
  case start =>
    intro s v die k g hdie hk h2
    refine ⟨fun hd hg hf hs hp => ?_, fun hd hnone hm hf hg hs hp => ?_⟩
    · exact next_getD ((State.dispatchNow_first hdie hk h2 hd hg hf).trans (State.startIn_ok hs hp))
    · exact next_getD ((State.stealNow_first hdie hk h2 hd hnone (State.mayTake_iff.mpr hm)
        (fun u hu hne hu2 hud hmu => hf u hu hne hu2 hud (State.mayTake_iff.mp hmu)) hg).trans (State.startIn_ok hs hp))
  case finish =>
    intro s n k c hk hc h3 hb u ends
    have ends_of {v : State} (ho : u.outcome k c = v) : ends v := fun hp => next_getD (State.taskDone_ok hk hc h3 hb ho hp)
    exact ⟨fun h => ends_of (State.outcome_cancelled h), fun h h0 => ends_of (State.outcome_done h h0),
      fun h h0 => ⟨fun hp => ends_of (State.outcome_skip h h0 hp), fun hp ht => ends_of (State.outcome_retry h h0 hp ht),
        fun hp ht => ends_of (State.outcome_faulted h h0 hp ht)⟩⟩

end Sys2Proof.Machine
end

section
/-! SUPPORT. The events of the loader, of a dusk's marker and of inboxes (R97-R100, R114, R117, R354, R371): what each operation behind them
answers where its unit need not wait. -/

namespace Sys2Proof.Machine
open Sys2Proof
variable {s t u v : State}

/-- A unit that need not wait goes on. -/
theorem State.goOn_ok {f : State → Option State} (hp : s.pause = none) : s.goOn f = f s := by simp [State.goOn, hp]

/-! ### Launches and regions by their numbers -/

theorem State.mem_of_job? {n : Nat} {j : Job} (h : s.job? n = some j) : j ∈ s.loader.jobs := List.mem_of_find?_eq_some h

theorem State.num_of_region? {n : Nat} {g : Region} (h : s.region? n = some g) : g.num = n := by simpa using List.find?_some h

/-! ### Placement (R114, R412) -/

theorem Job.before_asymm {a b : Job} (h : a.before b = true) : b.before a = false := lexBefore_asymm h

/-- A launch is served next that waits and that no other that waits precedes: one that has regions already goes before any that has none. -/
theorem State.nextLaunch_first {j : Job} (hj : j ∈ s.loader.jobs) (hw : j.waiting = true)
    (hf : ∀ k ∈ s.loader.jobs, k ≠ j → k.waiting = true →
      (j.begun = true ∧ k.begun = false) ∨ (k.begun = j.begun ∧ j.before k = true)) :
    s.nextLaunch = some j := by
  have hjs : j ∈ s.loader.jobs.filter Job.waiting := List.mem_filter.mpr ⟨hj, hw⟩
  simp only [State.nextLaunch]
  cases hb : j.begun with
  | true =>
    have hfirst : firstBy Job.before ((s.loader.jobs.filter Job.waiting).filter Job.begun) = some j := by
      refine firstBy_eq_some (List.mem_filter.mpr ⟨hjs, hb⟩) fun k hk hne => ?_
      simp only [List.mem_filter] at hk
      obtain ⟨-, hk'⟩ | ⟨-, hk'⟩ := hf k hk.1.1 hne hk.1.2
      · rw [hk.2] at hk'
        cases hk'
      · exact ⟨hk', Job.before_asymm hk'⟩
    rw [hfirst, Option.some_or]
  | false =>
    have hnot : ∀ k ∈ s.loader.jobs, k ≠ j → k.waiting = true → k.begun = false ∧ j.before k = true := fun k hk hne hkw =>
      (hf k hk hne hkw).elim (fun h => absurd h.1 (by simp [hb])) fun h => ⟨h.1.trans hb, h.2⟩
    have hnone : (s.loader.jobs.filter Job.waiting).filter Job.begun = [] := by
      refine List.filter_eq_nil_iff.mpr fun k hk => ?_
      obtain ⟨hk, hkw⟩ := List.mem_filter.mp hk
      by_cases hne : k = j
      · simp [hne, hb]
      · simp [(hnot k hk hne hkw).1]
    have hfirst : firstBy Job.before (s.loader.jobs.filter Job.waiting) = some j := by
      refine firstBy_eq_some hjs fun k hk hne => ?_
      obtain ⟨hk, hkw⟩ := List.mem_filter.mp hk
      have hk' := (hnot k hk hne hkw).2
      exact ⟨hk', Job.before_asymm hk'⟩
    rw [hnone, hfirst]
    rfl

theorem State.placeNow_ok {job num die : Nat} {cons : List Nat} {j : Job} {g : Graph} {b : List (Word × List RecordWord) × State}
    (hj : s.job? job = some j) (hg : j.graph = some g) (hn : s.nextLaunch = some j)
    (hb : (s.acting (.job job)).graphBlocks j.atp g.blocks = b) (hbp : b.2.pause = none) (hr : b.2.roomFor g b.1 = some (die, cons))
    (hf : b.2.freeNumber = some num) (hv : b.2.placeRegion j g num die cons b.1 = some v) (hp : v.pause = none) :
    s.placeNow job = some (v.acted (.job job)) := by
  simp only [State.placeNow, hj, hg, hn, Option.bind_some, Option.map_some, ne_eq, not_true_eq_false, if_false]
  refine State.whole_acted ?_ hp
  simp only [hb, State.goOn_ok hbp, hr, hf, hv, Option.some_or]

/-! ### Items (R97, R99, R100) -/

theorem State.startItem_ok {job region item : Nat} {c : CtxId} {j : Job} {g : Region} (hj : s.job? job = some j) (hg : s.region? region = some g)
    (hgj : g.job = job) (hc : j.cancelled = false) (hd : s.dieWorks g.die = true) (hh : g.holding = true)
    (hi : j.itemAt g.index g.started = some item) (hdraw : (s.acting (.region region)).drawColour region = some (t, c)) (hp : (t.startAs j g item c).pause = none) :
    s.startItem job region = some ((t.startAs j g item c).acted (.region region)) := by
  have hmay : ¬(g.job ≠ job ∨ j.cancelled = true ∨ (!s.dieWorks g.die) = true ∨ (!g.holding) = true) := by simp [hgj, hc, hd, hh]
  simp only [State.startItem, hj, hg, if_neg hmay, hi, Option.bind_some]
  refine State.whole_acted ?_ hp
  rw [hdraw]
  rfl

/-- An item counted as finished: its job is complete with the last. -/
def State.countItem (s : State) (job item : Nat) : State := s.updJob job fun k =>
  { k with running := k.running.erase item, finished := k.finished + 1, complete := decide (k.finished + 1 = k.count) }

/-- What an item's add to DONE comes to. -/
def State.doneAdd (s : State) (job item : Nat) (j : Job) : Except (BitVec 8) State :=
  s.unitAdd 8 j.atp (j.words.getD 4 0) 1 j.dscope (slkValue j.dslk) false (.item job item)

/-- The add to DONE, or the charge to the job record in its place. -/
def State.addDone (s : State) (job item : Nat) (j : Job) : State :=
  match s.doneAdd job item j with
  | .ok u => u
  | .error e => s.chargeJob job e

theorem State.finishItem_done {job item : Nat} {j : Job} (hj : s.job? job = some j) (hd : s.itemDone j item = true)
    (hv : (s.acting (.job job)).addDone job item j = v) (hp : (v.countItem job item).pause = none) :
    s.finishItem job item = some ((v.countItem job item).acted (.job job)) := by
  subst hv
  simp only [State.finishItem, hj, hd, Option.bind_some, Bool.not_true, Bool.false_eq_true, if_false]
  exact State.whole_acted (f := fun u => some ((u.addDone job item j).countItem job item)) rfl hp

/-! ### Freeing regions (R117, R381) -/

/-- Nothing is left in a region that carries no marker. -/
def State.emptied (s : State) (g : Region) : Prop := g.dusk = none ∧ s.regionBusy g.num = false

theorem State.emptied_iff {g : Region} : s.emptied g ↔ (g.dusk.isNone && !s.regionBusy g.num) = true := by simp [State.emptied]

theorem State.freeRegions_complete {job : Nat} {j : Job} (hj : s.job? job = some j) (hc : j.complete = true) (hne : s.regionsOf job ≠ [])
    (hq : ∀ g ∈ s.regionsOf job, s.emptied g) : s.freeRegions job = some ((s.regionsOf job).foldl State.freeRegion s) := by
  have hall : ((s.regionsOf job).filter fun g => g.dusk.isNone && !s.regionBusy g.num && (j.complete || s.affected g)) = s.regionsOf job :=
    List.filter_eq_self.mpr fun g hg => by rw [State.emptied_iff.mp (hq g hg), hc]; rfl
  simp only [State.freeRegions, hj, Option.bind_some, hall]
  exact if_neg (by simp [hne])

theorem State.freeRegions_running {job : Nat} {j : Job} (hj : s.job? job = some j) (hc : j.complete = false)
    (hq : ∃ g ∈ s.regionsOf job, s.emptied g ∧ s.affected g = true) : s.freeRegions job =
      some (((s.regionsOf job).filter fun g => g.dusk.isNone && !s.regionBusy g.num && s.affected g).foldl State.freeRegion s) := by
  obtain ⟨g, hg, hgq, hga⟩ := hq
  have hne : ((s.regionsOf job).filter fun g => g.dusk.isNone && !s.regionBusy g.num && s.affected g) ≠ [] :=
    List.ne_nil_of_mem (List.mem_filter.mpr ⟨hg, by rw [State.emptied_iff.mp hgq, hga]; rfl⟩)
  simp only [State.freeRegions, hj, Option.bind_some, hc, Bool.false_or, Bool.false_and, Bool.or_false]
  exact if_neg (by simpa using hne)

/-! ### The marker of a dusk (R371) -/

/-- A dusk whose marker one more node has forwarded, a sink or not. -/
def Dusk.past (d : Dusk) (block : Word) (node : Nat) (sink : Bool) : Dusk :=
  { d with marks := d.marks ++ [(block, node)], drained := if sink then d.drained + 1 else d.drained }

/-- A region's dusk as it now stands. -/
def State.withDusk (s : State) (region : Nat) (d : Dusk) : State := s.updRegion region fun h => { h with dusk := some d }

/-- A sink's add at the drain counter. -/
def State.sinkAdd (s : State) (region : Nat) (g : Region) (d : Dusk) : Except (BitVec 8) State :=
  s.unitAdd g.die d.atp d.counter 1 .module d.slack d.late (.sink region)

/-- The marker has passed one more node, which leaves the dusk `d'`; with the last node the dusk ends. -/
def State.carryMarker (s : State) (region : Nat) (g : Region) (d d' : Dusk) (sink : Bool) : State :=
  let t := if sink then
      (match (s.withDusk region d').sinkAdd region g d with
      | .ok u => u
      | .error _ => s.withDusk region d')
    else s.withDusk region d'
  if t.pause.isNone && g.allMarked d' then t.endDusk g d' else t

theorem State.carryMarker_plain {region : Nat} {g : Region} {d d' : Dusk} (hp : s.pause = none) :
    s.carryMarker region g d d' false = if g.allMarked d' then (s.withDusk region d').endDusk g d' else s.withDusk region d' := by
  have hp' : (s.withDusk region d').pause = none := hp
  simp only [State.carryMarker, Bool.false_eq_true, if_false, hp', Option.isNone_none, Bool.true_and]

theorem State.carryMarker_sink {region : Nat} {g : Region} {d d' : Dusk} (hu : (s.withDusk region d').sinkAdd region g d = .ok u)
    (hp : u.pause = none) : s.carryMarker region g d d' true = if g.allMarked d' then u.endDusk g d' else u := by
  simp only [State.carryMarker, if_true, hu, hp, Option.isNone_none, Bool.true_and]

section marker
variable {region node : Nat} {block : Word} {g : Region} {d : Dusk} {p : Placed} {i : Instr} {sink : Bool}

theorem State.forwardMarker_passes (hg : s.region? region = some g) (hd : g.dusk = some d) (hb : g.block? block = some p)
    (hi : p.node node = some i) (hn : (block, node) ∉ d.marks) (hf : s.mayForward g d p node i = true) (hs : (isSink i && !d.free) = sink)
    (hq : d.free = true → g.allMarked (d.past block node sink) = true → s.regionBusy g.num = false)
    (hv : (s.acting (.region g.num)).carryMarker region g d (d.past block node sink) sink = v) (hp : v.pause = none) :
    s.forwardMarker region block node = some (v.acted (.region g.num)) := by
  subst hs
  have hmay : ¬(d.marks.contains (block, node) || !s.mayForward g d p node i ||
      (d.free && g.allMarked (d.past block node (isSink i && !d.free)) && s.regionBusy g.num)) = true := by
    simpa [hn, hf] using hq
  simp only [Dusk.past] at hmay
  simp only [State.forwardMarker, hg, hd, hb, hi, if_neg hmay]
  exact State.whole_acted (f := fun u => some (u.carryMarker region g d (d.past block node (isSink i && !d.free)) (isSink i && !d.free)))
    (congrArg some hv) hp

end marker

/-! ### A MSGR at its inbox (R354) -/

theorem State.receiveMsg_first {c : CtxId} {x : Ctx} {m : Msg} {q : Req} {h : Hdr} (hx : s.ctx? c = some x)
    (hm : (s.hub.msgs.find? fun m => m.ep == x.env.endpoint) = some m) (hq : q ∈ s.reqs) (hc : q.latch.ctx = c) (hw : q.stage = .waiter)
    (hi : q.instr = .msgr h) (hu : ∀ p ∈ s.reqs, p ≠ q → p.latch.ctx = c → p.stage = .waiter → ∀ h, p.instr ≠ .msgr h) :
    s.receiveMsg c = some ((s.takeMsg m).answerMsgr q m.body (BitVec.ofNat 64 m.sender)) := by
  have hfind : (s.reqs.find? fun q => q.latch.ctx == c && q.stage == .waiter && (match q.instr with | .msgr _ => true | _ => false)) = some q := by
    refine find?_eq_some_of_unique hq (by simp [hc, hw, hi]) fun p hp hne => ?_
    by_contra hcon
    simp only [Bool.not_eq_false, Bool.and_eq_true, beq_iff_eq] at hcon
    obtain ⟨⟨hpc, hpw⟩, hpi⟩ := hcon
    have hnot := hu p hp hne hpc hpw
    split at hpi
    · next h' he => exact hnot h' he
    · cases hpi
  simp only [State.receiveMsg, hx, hm]
  exact hfind ▸ rfl

/-- Settles O56: each event is one operation of the model, whose cases are above. -/
theorem launchEvents : Obligations.LaunchEvents := by
  unfold Obligations.LaunchEvents
  refine ⟨?place, ?start, ?finish, ?free, ?marker, ?receive⟩
  case place =>
    intro s v job num die cons j g hj hg hw hf b hb hr hn hv hp
    exact next_getD (State.placeNow_ok hj hg (State.nextLaunch_first (State.mem_of_job? hj) hw hf) rfl hb hr hn hv hp)
  case start =>
    intro s t job region item c j g hj hg hgj hc hd hh hi hdraw hp
    exact next_getD (State.startItem_ok hj hg hgj hc hd hh hi hdraw hp)
  case finish =>
    intro s job item j hj hd count r
    have done {v : State} (hv : (s.acting (.job job)).addDone job item j = v) (hp : (v.countItem job item).pause = none) :
        exec (.itemFinish job item) s = .next ((count v).acted (.job job)) := next_getD (State.finishItem_done hj hd hv hp)
    refine ⟨fun u hu hp => done ?_ hp, fun e he => done ?_ rfl⟩
    · have hu' : (s.acting (.job job)).doneAdd job item j = .ok u := hu
      rw [State.addDone, hu']
    · have he' : (s.acting (.job job)).doneAdd job item j = .error e := he
      rw [State.addDone, he']
  case free =>
    intro s job j hj gs quiet
    exact ⟨fun hc hne hq => next_getD (State.freeRegions_complete hj hc hne hq), fun hc hq => next_getD (State.freeRegions_running hj hc hq)⟩
  case marker =>
    intro s region block node g d p i hg hd hb hi hn hf plain s1
    refine ⟨fun hs hq => ?_, fun hs hfree u hu hp => ?_⟩
    · have hs' : (isSink i && !d.free) = false := by rcases hs with hs | hs <;> simp [hs]
      have hcarry := State.carryMarker_plain (s := s.acting (.region g.num)) (region := region) (g := g) (d := d) (d' := plain) rfl
      refine ⟨fun hall => ?_, fun hall hp => ?_⟩
      · exact next_getD (State.forwardMarker_passes hg hd hb hi hn hf hs' hq (hcarry.trans (if_neg (Bool.eq_false_iff.mp hall))) rfl)
      · exact next_getD (State.forwardMarker_passes hg hd hb hi hn hf hs' hq (hcarry.trans (if_pos hall)) hp)
    · have hs' : (isSink i && !d.free) = true := by simp [hs, hfree]
      have hq : d.free = true → g.allMarked (d.past block node true) = true → s.regionBusy g.num = false := fun h => absurd h (by simp [hfree])
      have hcarry := State.carryMarker_sink (s := s.acting (.region g.num)) (region := region) (g := g) (d := d) (d' := d.past block node true) hu hp
      refine ⟨fun hall => ?_, fun hall hp' => ?_⟩
      · exact next_getD (State.forwardMarker_passes hg hd hb hi hn hf hs' hq (hcarry.trans (if_neg (Bool.eq_false_iff.mp hall))) hp)
      · exact next_getD (State.forwardMarker_passes hg hd hb hi hn hf hs' hq (hcarry.trans (if_pos hall)) hp')
  case receive =>
    intro s c x m q h hx hm hq hc hw hi hu
    exact next_getD (State.receiveMsg_first hx hm hq hc hw hi hu)

end Sys2Proof.Machine
end

section
/-! SUPPORT. A real firing's state, and the request of a task or system record that acts in it (R55, R122, R129, R345; log entry 13): what the
firing leaves as it was, and what an answer leaves as it was. -/

namespace Sys2Proof.Machine
open Sys2Proof
variable {s t u v : State} {i : Instr}

/-! ### The state of a real firing -/

/-- A firing that has begun has changed contexts alone. -/
theorem State.begun_eq_ctxs : s.begun i = { s with ctxs := (s.begun i).ctxs } := by
  unfold State.begun
  rcases State.markLsid_cases (s := s.mark true) (i := i) with h | ⟨f, h⟩ <;> rw [h] <;> rfl

@[simp] theorem State.begun_nextId : (s.begun i).nextId = s.nextId := by rw [State.begun_eq_ctxs]
@[simp] theorem State.begun_reqs : (s.begun i).reqs = s.reqs := by rw [State.begun_eq_ctxs]
@[simp] theorem State.begun_ticks : (s.begun i).ticks = s.ticks := by rw [State.begun_eq_ctxs]
@[simp] theorem State.begun_faults : (s.begun i).faults = s.faults := by rw [State.begun_eq_ctxs]
@[simp] theorem State.begun_loader : (s.begun i).loader = s.loader := by rw [State.begun_eq_ctxs]
@[simp] theorem State.begun_mem : (s.begun i).mem = s.mem := by rw [State.begun_eq_ctxs]
@[simp] theorem State.begun_outSlack (k : Instr) : (s.begun i).outSlack k = s.outSlack k := by rw [State.begun_eq_ctxs]; rfl

/-- A record that runs as one firing has, firing real, its effect. -/
theorem exec_real {e : State → State} (he : exec i s = .next (s.fire i e)) (h : FiresReal i s) : exec i s = .next (s.after (e (s.begun i))) :=
  he.trans (congrArg Host.Outcome.next (fireWith_real h))

/-! ### Its request -/

theorem State.request_begun (st : Stage) :
    (s.begun i).request i st 0 = { s.begun i with nextId := s.nextId + 1, reqs := s.reqs ++ [s.asked i st] } := by
  simp only [State.request, State.asked, State.bump, State.begun_nextId, State.begun_reqs, State.begun_outSlack, State.begun_latch]

/-- No request has the number of the one to come. -/
def State.Fresh (s : State) : Prop := ∀ q ∈ s.reqs, q.id ≠ s.nextId

theorem State.req?_request (hf : s.Fresh) (st : Stage) : ((s.begun i).request i st 0).req? s.nextId = some (s.asked i st) := by
  have hnone : s.reqs.find? (fun q => q.id == s.nextId) = none := List.find?_eq_none.mpr fun q hq => by simpa using hf q hq
  rw [State.request_begun]
  simp only [State.req?, List.find?_append, hnone, Option.none_or, List.find?_cons, State.asked, beq_self_eq_true]

/-- A record whose request acts at once, by `g`, where it need not wait. -/
theorem exec_request {g : State → Nat → Option State}
    (he : exec i s = .next (s.fire i fun t => (g (t.request i .queued 0) t.nextId).getD (t.request i .queued 0))) (h : FiresReal i s)
    (hv : g ((s.begun i).request i .queued 0) s.nextId = some (v.acted (.req s.nextId))) : exec i s = .next (s.over v) := by
  rw [exec_real he h, State.begun_nextId, hv]
  rfl

/-- A system record whose request need not wait has acted. -/
theorem exec_unitHere (he : exec i s = .next (s.fire i fun t => t.unitHere i)) (h : FiresReal i s) (hf : s.Fresh)
    (hv : (s.unitOf i .queued).unitAct (s.asked i .queued) = some v) (hp : v.pause = none) : exec i s = .next (s.over v) := by
  refine exec_request (g := State.unitNow) he h ?_
  simp only [State.unitNow, State.req?_request hf]
  exact State.whole_acted (f := fun t => t.unitAct (s.asked i .queued)) hv hp

/-- The checks of the access that a request's op.L names, at its context's die and by its table (R41). -/
def State.reqLocate (s : State) (q : Req) (size : Nat) (ks : List Right) (al : Nat) : Except (BitVec 8) (Located × State) :=
  s.unitLocate (s.dieOf q.latch.ctx) (s.atpOf q.latch.ctx) q.latch.opL.word size ks al

/-! ### Sending and answering -/

/-- The state with other packets on their way. -/
def State.sending (s : State) (ps : List Packet) (n : Nat) : State := { s with packets := ps, nextId := n }

theorem State.sendTo_eq (s : State) (c : CtxId) (r : Route) (k : Key) (grp : Nat) (vec : Bool) (x : Target) (tok : Tok) (loud : Bool)
    (req : Option Nat) : ∃ ps n, s.sendTo c r k grp vec x tok loud req = s.sending ps n := by
  cases x with
  | none => exact ⟨_, _, rfl⟩
  | node n y => exact ⟨_, _, rfl⟩
  | reg n => exact ⟨_, _, rfl⟩
  | port n =>
    simp only [State.sendTo]
    split
    · exact ⟨_, _, rfl⟩
    · exact ⟨_, _, rfl⟩

theorem State.reply2_eq (s : State) (q : Req) (v0 v1 : TokVal) (chan : BitVec 5) (slack : Nat) (late : Bool) :
    ∃ ps n, s.reply2 q v0 v1 chan slack late = s.sending ps n := by
  have send (t : State) (vec : Bool) (x : Target) (tok : Tok) : ∃ ps n, (if (q.void && isPortTarget x) = true then t
      else t.sendTo q.latch.ctx q.latch.route q.latch.key q.latch.key.node vec x tok (loudOf q.instr) (some q.id)) = t.sending ps n := by
    split
    · exact ⟨_, _, rfl⟩
    · exact t.sendTo_eq ..
  simp only [State.reply2]
  obtain ⟨ps, n, h0⟩ := send s (q.instr.out0 == some .vector) (hdrOf q.instr).t0
    { newTok v0 chan none slack with late := late || slack == 0, poison := q.pieces.any fun p => p.poison }
  obtain ⟨ps', n', h1⟩ := send (s.sending ps n) (q.instr.out1 == some .vector) (hdrOf q.instr).t1
    { newTok v1 chan none slack with late := late || slack == 0, poison := q.pieces.any fun p => p.poison }
  exact ⟨ps', n', by rw [h0, h1]; rfl⟩

/-- A request whose access no longer holds up commit changes at most what is held for commit where it fired (R129). -/
theorem State.lsidDone_cases (s : State) (q : Req) : s.lsidDone q = s ∨ ∃ f, s.lsidDone q = s.updOutAny q.latch.ctx q.latch.route f := by
  unfold State.lsidDone
  split
  · exact .inl rfl
  · exact .inr ⟨_, rfl⟩

section answer
variable (s : State) (q : Req) (v0 v1 : TokVal) (chan : BitVec 5) (slack : Nat) (late : Bool)

theorem State.answer_cases : ∃ ps n, s.answer q v0 v1 chan slack late = (s.sending ps n).dropReq q.id ∨
    ∃ f, s.answer q v0 v1 chan slack late = ((s.sending ps n).updOutAny q.latch.ctx q.latch.route f).dropReq q.id := by
  obtain ⟨ps, n, h⟩ := s.reply2_eq q v0 v1 chan slack late
  refine ⟨ps, n, ?_⟩
  unfold State.answer
  rw [h]
  exact ((s.sending ps n).lsidDone_cases q).imp (congrArg (State.dropReq · q.id)) fun ⟨f, hf⟩ => ⟨f, congrArg (State.dropReq · q.id) hf⟩

@[simp] theorem State.answer_pause : (s.answer q v0 v1 chan slack late).pause = s.pause := by
  obtain ⟨ps, n, h | ⟨f, h⟩⟩ := s.answer_cases q v0 v1 chan slack late <;> rw [h] <;> rfl

@[simp] theorem State.answer_tasks : (s.answer q v0 v1 chan slack late).tasks = s.tasks := by
  obtain ⟨ps, n, h | ⟨f, h⟩⟩ := s.answer_cases q v0 v1 chan slack late <;> rw [h] <;> rfl

end answer

@[simp] theorem State.reqDone_pause (s : State) (q : Req) (w : Word) : (s.reqDone q w).pause = s.pause := s.answer_pause ..

/-- What each step of a run keeps, the run keeps. -/
theorem foldl_keeps {α β : Type} {π : State → β} {f : State → α → State} (hf : ∀ t a, π (f t a) = π t) (l : List α) (s : State) :
    π (l.foldl f s) = π s := by
  induction l generalizing s with
  | nil => rfl
  | cons a l ih => exact (ih (f s a)).trans (hf s a)

@[simp] theorem State.cancelsDone_pause (s : State) : s.cancelsDone.pause = s.pause := by
  unfold State.cancelsDone
  split
  · rfl
  · exact foldl_keeps (π := State.pause) (fun t q => t.answer_pause ..) _ s

@[simp] theorem State.cancelActed_pause (s : State) (r : Nat) (b : Bool) : (s.cancelActed r b).pause = s.pause := State.cancelsDone_pause _

end Sys2Proof.Machine
end
section
/-! SUPPORT. The system records but DUSK, CTXSV, CTXLD and RETIRE (R118, R352-R354, R357-R360): what each of their effects answers in each of its
cases. -/

namespace Sys2Proof.Machine
open Sys2Proof
variable {s t u v : State} {i : Instr} {q : Req} {l : Located}

/-! ### FLTR (R353) -/

theorem State.filterQueue_empty (hl : s.reqLocate q 32 [.w] 32 = .ok (l, u)) (hp : u.pause = none)
    (h : 8 < q.latch.opR.word.toNat ∨ u.faults.queues.getD q.latch.opR.word.toNat [] = []) : s.filterQueue q = some (u.reqDone q 0) := by
  have hq : (if q.latch.opR.word.toNat > 8 then [] else u.faults.queues.getD q.latch.opR.word.toNat []) = [] :=
    ite_eq_left_iff.mpr fun hn => h.resolve_left hn
  unfold State.reqLocate at hl
  simp only [State.filterQueue, hl, State.goOn_ok hp, hq]

/-- A fault queue without its oldest record (R353). -/
def State.popFault (s : State) (n : Nat) : State :=
  { s with faults := { s.faults with queues := updAt s.faults.queues n fun x => x.drop 1, notes := updAt s.faults.notes n fun x => x.drop 1 } }

theorem State.filterQueue_moves {r : BitVec 256} {rest : List (BitVec 256)} (hl : s.reqLocate q 32 [.w] 32 = .ok (l, u))
    (hp : u.pause = none) (hn : q.latch.opR.word.toNat ≤ 8) (hq : u.faults.queues.getD q.latch.opR.word.toNat [] = r :: rest)
    (ht : u.writeAt (u.dieOf q.latch.ctx) l (toBytesLE 32 r.toNat) = .ok t) (hp' : t.pause = none) :
    s.filterQueue q = some ((t.popFault q.latch.opR.word.toNat).reqDone q 1) := by
  unfold State.reqLocate at hl
  simp only [State.filterQueue, hl, State.goOn_ok hp, gt_iff_lt, if_neg (not_lt.mpr hn), hq, ht, State.goOn_ok hp']
  rfl

/-! ### Messages (R354, R384) -/

/-- The firing context's message enters an endpoint's inbox; `req` is the MSGR that waits for the reply. -/
def State.intoInbox (s : State) (body : BitVec 512) (e : Nat) (req : Option Nat) : State := { s with
  nextId := s.nextId + 1
  hub := { s.hub with msgs := s.hub.msgs ++ [⟨s.nextId, e, s.myEndpoint, s.myAtp, req, false, body⟩] } }

theorem bits_ne_zero {k : Nat} {w : BitVec k} {lo n : Nat} : bits w lo n ≠ 0 ↔ w.extractLsb' lo n ≠ 0 :=
  not_congr (BitVec.toNat_inj (y := 0#n))

/-- MSG does not send with such an operand to an endpoint. -/
def State.msgRefused (s : State) (r : Word) (e : Nat) : Prop := r.extractLsb' 33 31 ≠ 0 ∨ s.endpointFor s.super e = false

theorem State.msgRefused_iff {r : Word} {e : Nat} : s.msgRefused r e ↔ bits r 33 31 ≠ 0 ∨ (!s.endpointFor s.super e) = true := by
  simp only [State.msgRefused, bits_ne_zero, Bool.not_eq_true']

/-- MSGR does not wait with such an operand. -/
def State.msgrRefused (s : State) (r : Word) : Prop :=
  r.extractLsb' 33 31 ≠ 0 ∨ (bits r 0 32 ≠ 0 ∧ s.endpointFor s.super (bits r 0 32) = false)

theorem State.msgrRefused_iff {r : Word} :
    s.msgrRefused r ↔ bits r 33 31 ≠ 0 ∨ (bits r 0 32 ≠ 0 ∧ (!s.endpointFor s.super (bits r 0 32)) = true) := by
  simp only [State.msgrRefused, bits_ne_zero (lo := 33), Bool.not_eq_true']

/-- A selector and a value that BADN refuses. -/
def badSelector (l r : Word) : Prop :=
  7 < bits l 0 4 ∨ l.extractLsb' 10 5 ≠ 0 ∨ l.extractLsb' 16 48 ≠ 0 ∨ (l.getLsbD 15 = true ∧ r.extractLsb' 16 48 ≠ 0)

theorem badSelector_iff {l r : Word} : badSelector l r ↔
    bits l 0 4 > 7 ∨ bits l 10 5 ≠ 0 ∨ bits l 16 48 ≠ 0 ∨ (l.getLsbD 15 = true ∧ bits r 16 48 ≠ 0) := by
  simp only [badSelector, bits_ne_zero, gt_iff_lt]

section operands
variable {a : Latch} (ha : s.latch = a)
include ha

theorem State.sendMsg_refused (h : s.msgRefused a.opR.word (s.endpointOf a.opR.word)) : s.sendMsg i = s.result i (.scalar 0) := by
  subst ha
  exact if_pos (State.msgRefused_iff.mp h)

theorem State.sendMsg_plain (h : ¬ s.msgRefused a.opR.word (s.endpointOf a.opR.word)) (hr : a.opR.word.getLsbD 32 = false) :
    s.sendMsg i = (s.intoInbox (a.opL.vec.extractLsb' 0 512) (s.endpointOf a.opR.word) none).result i (.scalar 1) := by
  subst ha
  exact (if_neg (h ∘ State.msgRefused_iff.mpr)).trans (if_neg (Bool.eq_false_iff.mp hr))

theorem State.sendMsg_noWaiter (h : ¬ s.msgRefused a.opR.word (s.endpointOf a.opR.word)) (hr : a.opR.word.getLsbD 32 = true)
    (hw : s.waitingMsgr (s.endpointOf a.opR.word) = none) : s.sendMsg i = s.result i (.scalar 0) := by
  subst ha
  refine (if_neg (h ∘ State.msgRefused_iff.mpr)).trans ((if_pos hr).trans ?_)
  rw [hw]
  rfl

theorem State.sendMsg_reply (h : ¬ s.msgRefused a.opR.word (s.endpointOf a.opR.word)) (hr : a.opR.word.getLsbD 32 = true)
    (hw : s.waitingMsgr (s.endpointOf a.opR.word) = some q) :
    s.sendMsg i = (s.answerMsgr q (a.opL.vec.extractLsb' 0 512) 1).result i (.scalar 1) := by
  subst ha
  refine (if_neg (h ∘ State.msgRefused_iff.mpr)).trans ((if_pos hr).trans ?_)
  rw [hw]
  rfl

theorem State.requestMsg_refused (h : s.msgrRefused a.opR.word) :
    s.requestMsg i = s.send2 i (nullTok (s.outSlack i)) (newTok (.scalar 0) 0 none (s.outSlack i)) := by
  subst ha
  exact if_pos (State.msgrRefused_iff.mp h)

theorem State.requestMsg_next (h : ¬ s.msgrRefused a.opR.word) (he : bits a.opR.word 0 32 = 0) : s.requestMsg i = s.request i .waiter 0 := by
  subst ha
  exact (if_neg (h ∘ State.msgrRefused_iff.mpr)).trans (if_pos he)

theorem State.requestMsg_reply {n : Nat} (hn : s.nextId = n) (h : ¬ s.msgrRefused a.opR.word) (he : bits a.opR.word 0 32 ≠ 0) :
    s.requestMsg i = (s.request i .answer 0).intoInbox (a.opL.vec.extractLsb' 0 512) (bits a.opR.word 0 32) (some n) := by
  subst ha hn
  exact (if_neg (h ∘ State.msgrRefused_iff.mpr)).trans (if_neg he)

/-! ### BADN (R358) -/

theorem State.writeBadNode_bad (h : badSelector a.opL.word a.opR.word) : s.writeBadNode i = s.result i (.scalar (BitVec.allOnes 64)) := by
  subst ha
  exact if_pos (badSelector_iff.mp h)

theorem State.writeBadNode_pe {f : Faults} (hf : s.faults = f) (h : ¬ badSelector a.opL.word a.opR.word) (hk : a.opL.word.getLsbD 15 = true) :
    let k := bits a.opL.word 0 4 * 64 + bits a.opL.word 4 6
    s.writeBadNode i = ({ s with faults := { s.faults with
      pmask := Sparse.put 0#16 s.faults.pmask k (a.opR.word.setWidth 16) } } : State).result i
        (.scalar ((Sparse.get 0#16 f.pmask k).setWidth 64)) := by
  subst ha hf
  exact (if_neg (h ∘ badSelector_iff.mpr)).trans (if_pos hk)

theorem State.writeBadNode_con {f : Faults} (hf : s.faults = f) (h : ¬ badSelector a.opL.word a.opR.word) (hk : a.opL.word.getLsbD 15 = false) :
    s.writeBadNode i = (({ s with faults := { s.faults with
      cmask := updAt s.faults.cmask (bits a.opL.word 0 4) fun _ => a.opR.word } } : State).checkReplace).result i
        (.scalar (f.cmask.getD (bits a.opL.word 0 4) 0)) := by
  subst ha hf
  exact (if_neg (h ∘ badSelector_iff.mpr)).trans (if_neg (Bool.eq_false_iff.mp hk))

end operands

/-! ### LITW (R118, R357) -/

/-- The placed copies of a block in the regions of a context's job, each with its region. -/
def State.copiesFor (s : State) (c : CtxId) (a : Word) : List (Region × Placed) :=
  (s.regionsOf (s.jobIn c)).filterMap fun g => (g.block? a).map fun p => (g, p)

/-- The copies of a block in a region have node `n`'s literal rewritten. -/
def State.setLits (s : State) (a : Word) (n : Nat) (x : Lit) (gp : Region × Placed) : State :=
  s.updRegion gp.1.num fun g => { g with placed := g.placed.map fun p => if p.addr = a then p.setLit n x else p }

theorem State.rewriteLit_ok {node : Nat} {x : Lit} {copies : List (Region × Placed)}
    (hl : s.fetchAt (s.dieOf q.latch.ctx) (s.atpOf q.latch.ctx) q.latch.opL.word = .ok (l, u)) (hp : u.pause = none)
    (hx : q.latch.opR.word.setWidth 48 = x) (hcopies : u.copiesFor q.latch.ctx q.latch.opL.word = copies)
    (hr : q.latch.opR.word.toNat < 2 ^ 48) (hne : copies ≠ [])
    (hc : ∀ gp ∈ copies, node < gp.2.size ∧ u.liveBlock gp.1 q.latch.opL.word = false)
    (hk : u.checkCopies (u.atpOf q.latch.ctx) node x copies = (false, v)) (hp' : v.pause = none) :
    s.rewriteLit q node = some ((copies.foldl (fun t gp => t.setLits q.latch.opL.word node x gp) v).reqDone q 1) := by
  have hok : ¬(q.latch.opR.word.toNat ≥ 2 ^ 48 ∨ copies = [] ∨
      copies.any fun gp => decide (node ≥ gp.2.size) || u.liveBlock gp.1 q.latch.opL.word) := by
    simp only [not_or, List.any_eq_true, not_exists, not_and, Bool.or_eq_true, decide_eq_true_eq, ge_iff_le, not_le]
    exact ⟨hr, hne, fun gp hgp => ⟨(hc gp hgp).1, by simp [(hc gp hgp).2]⟩⟩
  unfold State.copiesFor at hcopies
  simp only [State.rewriteLit, hl, State.goOn_ok hp, hcopies, if_neg hok, hx, hk, State.goOn_ok hp', Bool.false_eq_true, if_false, updWhere,
    beq_iff_eq]
  rfl

/-! ### APSET (R359) -/

theorem State.setAperture_ok {bs : List Byte} (hb : s.unitRead (s.dieOf q.latch.ctx) (s.atpOf q.latch.ctx) q.latch.opL.word 32 32 = .ok (bs, t))
    (hp : t.pause = none) (hx : q.latch.opX.word.extractLsb' 41 23 = 0)
    (hg : t.badAperture (BitVec.ofNat 256 (ofBytesLE bs)) (bits q.latch.opX.word 0 20) (bits q.latch.opX.word 20 21) = false)
    (hw : t.writeAperture (t.dieOf q.latch.ctx) q.latch.opR.word (bits q.latch.opX.word 0 20) (BitVec.ofNat 256 (ofBytesLE bs)) = some u)
    (hp' : u.pause = none) : s.setAperture q = some (u.reqDone q 1) := by
  have hok : ¬(bits q.latch.opX.word 41 23 ≠ 0 ∨ t.badAperture (BitVec.ofNat 256 (ofBytesLE bs)) (bits q.latch.opX.word 0 20)
      (bits q.latch.opX.word 20 21) = true) := by
    simp [bits_ne_zero, hx, hg]
  simp only [State.setAperture, hb, State.goOn_ok hp, if_neg hok, hw, State.goOn_ok hp']

/-- Settles O45: each record runs as one firing, and its effect in the state of the firing is a case above. -/
theorem systemRecords : Obligations.SystemRecords := by
  unfold Obligations.SystemRecords
  intro s h code node L R body low sl c fresh inbox
  refine ⟨?trap, ?time, ?msg, ?msgr, ?fltr, ?badn, ?litw, ?apset⟩
  case trap =>
    intro hr
    rw [exec_real rfl hr, State.begun_latch]
  case time =>
    intro hr
    exact (exec_real rfl hr).trans (by rw [State.begun_ticks]; rfl)
  case msg =>
    intro i hi hr b e bad
    have hb : b.latch = s.latch := State.begun_latch
    have does {w : State} (hw : b.sendMsg i = w) : exec i s = .next (s.after w) := by
      subst hw
      simp only [List.mem_cons, List.not_mem_nil, or_false] at hi
      rcases hi with rfl | rfl
      · exact exec_real (e := fun t => t.sendMsg _) rfl hr
      · exact exec_real (e := fun t => t.sendMsg _) rfl hr
    exact ⟨fun hbad => does (State.sendMsg_refused hb hbad), fun hbad hp => does (State.sendMsg_plain hb hbad hp),
      fun hbad hp => ⟨fun hw => does (State.sendMsg_noWaiter hb hbad hp hw), fun q hw => does (State.sendMsg_reply hb hbad hp hw)⟩⟩
  case msgr =>
    intro i b bad hr
    have hb : b.latch = s.latch := State.begun_latch
    have does {w : State} (hw : b.requestMsg i = w) : exec i s = .next (s.after w) :=
      hw ▸ exec_real (e := fun t => t.requestMsg i) rfl hr
    refine ⟨fun hbad => does ((State.requestMsg_refused hb hbad).trans ?_), fun hbad he => does (State.requestMsg_next hb hbad he),
      fun hbad he => does (State.requestMsg_reply hb State.begun_nextId hbad he)⟩
    rw [State.begun_outSlack]
  case fltr =>
    intro i b q l u hr hf hl hp
    refine ⟨fun hq => ?_, fun r rest t hn hq ht hp' => ?_⟩
    · exact exec_unitHere rfl hr hf (State.filterQueue_empty hl hp hq) (by simp [hp])
    · exact exec_unitHere rfl hr hf (State.filterQueue_moves hl hp hn hq ht hp') (by simp [hp'])
  case badn =>
    intro i b die key bad hr
    have hb : b.latch = s.latch := State.begun_latch
    have hfaults : b.faults = s.faults := State.begun_faults
    have does {w : State} (hw : b.writeBadNode i = w) : exec i s = .next (s.after w) :=
      hw ▸ exec_real (e := fun t => t.writeBadNode i) rfl hr
    exact ⟨fun hbad => does (State.writeBadNode_bad hb hbad), fun hbad hk => does (State.writeBadNode_pe hb hfaults hbad hk),
      fun hbad hk => does (State.writeBadNode_con hb hfaults hbad hk)⟩
  case litw =>
    intro i b l u v hr hf hl hp copies hlow hne hc hk hp'
    have hkeep := foldl_keeps (π := State.pause) (f := fun t gp => t.setLits L node.toNat (R.setWidth 48) gp) (fun _ _ => rfl) copies v
    exact exec_unitHere rfl hr hf (State.rewriteLit_ok hl hp rfl rfl hlow hne hc hk hp') ((State.reqDone_pause ..).trans (hkeep.trans hp'))
  case apset =>
    intro i b X index bs t u hr hf hb hp hx hg hw hp'
    exact exec_unitHere rfl hr hf (State.setAperture_ok hb hp hx hg hw hp') (by simp [hp'])

end Sys2Proof.Machine
end

section
/-! SUPPORT. Tasks are kept: what an access of a unit, an answer and a charge leave of the tasks of the meridian units (R108, R113; log entry 13). -/

namespace Sys2Proof.Machine
open Sys2Proof
variable {s t u v : State}

/-! ### Operations that leave the tasks as they are -/

@[simp] theorem State.pauseFor_tasks (w : Pause) : (s.pauseFor w).tasks = s.tasks := by
  unfold State.pauseFor
  split <;> rfl

theorem State.atPeer_tasks {f : FullAddr} {size : Nat} {op : PeerOp} {bs : List Byte} (h : s.atPeer f size op = .ok (bs, t)) : t.tasks = s.tasks := by
  unfold State.atPeer at h
  split at h
  · cases h
  · cases h
    rfl
  · split at h <;> cases h
    exact State.pauseFor_tasks _

@[simp] theorem State.endAway_tasks (d : Doer → Bool) : (s.endAway d).tasks = s.tasks := by
  unfold State.endAway
  refine foldl_keeps (π := State.tasks) (fun t e => ?_) _ _
  split <;> rfl

/-- A loop level that advances changes at most the place where it stands (R135). -/
theorem State.advanceLevel_cases (s : State) (c : CtxId) (r : Route) : s.advanceLevel c r = s ∨ ∃ f, s.advanceLevel c r = s.updInst c r f := by
  unfold State.advanceLevel
  split
  · exact .inl rfl
  · split
    · exact .inl rfl
    · split
      · exact .inr ⟨_, rfl⟩
      · exact .inl rfl

theorem State.after_cases (s u : State) : s.after u = u ∨ ∃ f, s.after u = u.updInst s.latch.ctx s.latch.route f := u.advanceLevel_cases ..

@[simp] theorem State.over_tasks (s u : State) : (s.over u).tasks = u.tasks := by
  have hacted : (u.acted (.req s.nextId)).tasks = u.tasks := State.endAway_tasks _
  rcases s.after_cases (u.acted (.req s.nextId)) with h | ⟨f, h⟩ <;> exact (congrArg State.tasks h).trans hacted

/-! ### Pages -/

theorem State.makeLeaf_tasks {d node page pte : Nat} (h : s.makeLeaf node d page = some (pte, t)) : t.tasks = s.tasks := by
  induction d generalizing s node with
  | zero => cases h
  | succ d ih =>
    cases d with
    | zero => cases h; rfl
    | succ d =>
      simp only [State.makeLeaf] at h
      split at h
      · exact ih h
      · split at h
        · cases h
        · next hn =>
          refine (ih h).trans ?_
          unfold State.newNode at hn
          split at hn <;> cases hn
          rfl

@[simp] theorem State.noteOwner_tasks (d : Desc) (pte page : Nat) : (s.noteOwner d pte page).tasks = s.tasks := by
  unfold State.noteOwner
  split <;> rfl

theorem State.leafFor_tasks {d : Desc} {page pte : Nat} (h : s.leafFor d page = some (pte, t)) : t.tasks = s.tasks := by
  unfold State.leafFor at h
  split at h
  · cases h
  · next hm =>
    cases h
    exact (State.noteOwner_tasks ..).trans (State.makeLeaf_tasks hm)

theorem State.startFill_tasks {die pte : Nat} {d : Desc} (h : s.startFill die d pte = some t) : t.tasks = s.tasks := by
  unfold State.startFill at h
  split at h
  · cases h
  · next hf =>
    cases h
    unfold State.takeFrame at hf
    dsimp only at hf
    split at hf <;> cases hf
    rfl

@[simp] theorem State.finishMove_tasks (pte : Nat) : (s.finishMove pte).tasks = s.tasks := by
  unfold State.finishMove
  split
  · rfl
  · split <;> rfl

theorem State.residentNow_tasks {die ofs pte : Nat} {d : Desc} {write : Bool} (h : s.residentNow die d ofs write = .ok (pte, t)) :
    t.tasks = s.tasks := by
  unfold State.residentNow at h
  split at h
  · cases h
  · next hl =>
    rw [← State.leafFor_tasks hl]
    dsimp only at h
    split at h
    · cases h
    · split at h
      · cases h
        rfl
      · split at h
        · cases h
          exact State.finishMove_tasks _
        · split at h
          · cases h
          · next hs =>
            cases h
            exact (State.finishMove_tasks _).trans (State.startFill_tasks hs)

@[simp] theorem State.noteWanted_tasks (serial : BitVec 64) (ofs : Nat) : (s.noteWanted serial ofs).tasks = s.tasks := by
  unfold State.noteWanted
  split
  · rfl
  · dsimp only
    split <;> rfl

@[simp] theorem State.updTile_tasks (x : Nat × Nat) (f : Tile → Tile) : (s.updTile x f).tasks = s.tasks := rfl

@[simp] theorem State.unitWalk_tasks (die : Nat) (serial : BitVec 64) (page : Nat) : (s.unitWalk die serial page).tasks = s.tasks := by
  unfold State.unitWalk
  dsimp only
  split
  · rfl
  · split
    · exact State.pauseFor_tasks _
    · exact State.updTile_tasks _ _

/-- A unit that meets what it must wait for at a page leaves the tasks as they are. -/
theorem State.tasks_of_paused {pte pte' : Nat} {w : Pause}
    (h : (.ok (pte, s.pauseFor w) : Except (BitVec 8) (Nat × State)) = .ok (pte', t)) : t.tasks = s.tasks := by
  cases h
  exact State.pauseFor_tasks w

theorem State.resident_tasks {die ofs pte : Nat} {d : Desc} {write : Bool} (h : s.resident die d ofs write = .ok (pte, t)) : t.tasks = s.tasks := by
  unfold State.resident at h
  split at h
  · exact State.residentNow_tasks h
  · dsimp only at h
    split at h
    · cases h
    · next hl =>
      have hleaf := State.leafFor_tasks hl
      rw [State.unitWalk_tasks, State.noteWanted_tasks] at hleaf
      rw [← hleaf]
      split at h
      · cases h
      · split at h
        · exact State.tasks_of_paused h
        · split at h
          · exact State.tasks_of_paused h
          · split at h
            · split at h
              · cases h
              · exact State.tasks_of_paused h
            · cases h
              rfl

theorem State.readNow_tasks {die n : Nat} {f : FullAddr} {d : Desc} {bs : List Byte} (h : s.readNow die f d n = .ok (bs, t)) : t.tasks = s.tasks := by
  unfold State.readNow State.readNowAs at h
  split at h
  · cases h
  · next hr =>
    rw [← State.resident_tasks hr]
    cases h
    split <;> rfl

theorem State.writeNow_tasks {die : Nat} {f : FullAddr} {d : Desc} {bs : List Byte} (h : s.writeNow die f d bs = .ok t) : t.tasks = s.tasks := by
  unfold State.writeNow at h
  split at h
  · cases h
  · next hr =>
    rw [← State.resident_tasks hr]
    split at h <;> cases h
    · rfl
    · simp only [State.dirty]
      split <;> rfl

theorem State.writeRange_tasks {die n : Nat} {f : FullAddr} {d : Desc} {bs : List Byte} (h : s.writeRange die f d n bs = .ok t) :
    t.tasks = s.tasks := by
  induction n generalizing s f bs with
  | zero => cases h; rfl
  | succ n ih =>
    simp only [State.writeRange] at h
    split at h
    · cases h
      rfl
    · split at h
      · cases h
      · next hw => exact (ih h).trans (State.writeNow_tasks hw)

/-! ### What a fault leaves of the tasks: at most the last fault of one that runs changes (R113) -/

/-- The tasks stand as they were, in their places, and those that no context runs are unchanged. -/
def TasksKept (s t : State) : Prop := ∃ f : Task → Task, t.tasks = s.tasks.map f ∧ ∀ k, (f k).at_ = k.at_ ∧ (k.ctx = none → f k = k)

theorem TasksKept.of_eq (h : t.tasks = s.tasks) : TasksKept s t := ⟨id, by simpa using h, fun _ => ⟨rfl, fun _ => rfl⟩⟩

theorem TasksKept.trans (h : TasksKept s t) (k : TasksKept t u) : TasksKept s u := by
  obtain ⟨f, hf, hf'⟩ := h
  obtain ⟨g, hg, hg'⟩ := k
  refine ⟨g ∘ f, by rw [hg, hf, List.map_map], fun a => ⟨(hg' (f a)).1.trans (hf' a).1, fun ha => ?_⟩⟩
  rw [Function.comp_apply, (hf' a).2 ha, (hg' a).2 ha]

@[simp] theorem State.enqueueFault_tasks (q : Nat) (c : CtxId) (f : FaultRec) : (s.enqueueFault q c f).tasks = s.tasks := by
  unfold State.enqueueFault
  dsimp only
  split
  · rfl
  · split <;> rfl

@[simp] theorem State.postTo_tasks (q : Nat) (c : CtxId) (f : FaultRec) (n : Note) : (s.postTo q c f n).tasks = s.tasks := by
  unfold State.postTo
  dsimp only
  split <;> exact State.enqueueFault_tasks ..

theorem TasksKept.post (s : State) (c : CtxId) (f : FaultRec) : TasksKept s (s.post c f) := by
  refine ⟨fun k => if k.ctx == some c then { k with lastf := f.code } else k, ?_, fun k => ⟨?_, fun hk => ?_⟩⟩
  · simp only [State.post, State.postAs, updWhere, State.postTo_tasks]
  · dsimp only
    split <;> rfl
  · simp [hk]

theorem State.addK_tasks (c : CtxId) (n : Nat) (w : Word) : (s.addK c n w).tasks = s.tasks := by
  unfold State.addK
  split
  · rfl
  · refine foldl_keeps (π := State.tasks) (fun t q => ?_) _ _
    split
    · exact State.answer_tasks ..
    · rfl

theorem TasksKept.restFault (s : State) (c : CtxId) (code : BitVec 8) : TasksKept s (s.restFault c code) := .post _ _ _

theorem TasksKept.atRest {f : State → State} (hf : ∀ t, TasksKept t (f t)) (s : State) : TasksKept s (s.atRest f) := hf { s with doer := none }

theorem TasksKept.updSaved (s : State) (c : CtxId) (e : SavedCtx) (ofs : Nat) (op : SavedOp) : TasksKept s (s.updSaved c e ofs op) := by
  unfold State.updSaved
  dsimp only
  split
  · exact .of_eq rfl
  · refine .atRest (fun s => ?_) s
    split
    · exact .of_eq rfl
    · split
      · exact .restFault ..
      · next hr =>
        have hr' := State.readNow_tasks hr
        split
        · exact (TasksKept.of_eq hr').trans (.restFault _ _ _)
        · next hw => exact .of_eq ((State.writeNow_tasks hw).trans hr')

theorem TasksKept.addKAny (s : State) (c : CtxId) (n : Nat) (w : Word) : TasksKept s (s.addKAny c n w) := by
  unfold State.addKAny
  split
  · exact .of_eq (State.addK_tasks ..)
  · split
    · exact .updSaved ..
    · exact .of_eq rfl

theorem TasksKept.storeFails (s : State) (c : CtxId) (die : Nat) (f : FullAddr) (code : BitVec 8) : TasksKept s (s.storeFails c die f code) :=
  (TasksKept.post s c _).trans (.addKAny _ _ _ _)

theorem TasksKept.storeFull (s : State) (c : CtxId) (die : Nat) (f : FullAddr) (bs : List Byte) : TasksKept s (s.storeFull c die f bs) := by
  unfold State.storeFull
  split
  · split
    · exact .of_eq rfl
    · split
      · exact .storeFails ..
      · next hp => exact .of_eq (State.atPeer_tasks hp)
  · split
    · exact .storeFails ..
    · split
      · next hw => exact .of_eq (State.writeRange_tasks hw)
      · exact .storeFails ..

theorem TasksKept.writeTcb (s : State) (k : Task) : TasksKept s (s.writeTcb k) := .storeFull ..

end Sys2Proof.Machine
end

section
/-! SUPPORT. The records of tasks (R104-R106, R109, R347-R350): what SPAWN, RETN, CANCEL and LAUNCH come to in each of their cases. -/

namespace Sys2Proof.Machine
open Sys2Proof
variable {s t u v : State} {i : Instr} {h : Hdr}

/-! ### The context of a firing that has begun, and what fires there -/

theorem State.ctx?_updInst {c d : CtxId} {r : Route} {f : Inst → Inst} {x : Ctx} (hx : s.ctx? d = some x) :
    ∃ l, (s.updInst c r f).ctx? d = some { x with insts := l } := by
  simp only [State.ctx?] at *
  rw [State.updInst_ctxs, find?_updWhere (by intro x; rfl), hx, Option.map_some]
  split
  · exact ⟨_, rfl⟩
  · exact ⟨x.insts, rfl⟩

theorem State.ctx?_updOut {c d : CtxId} {r : Route} {f : Outputs → Outputs} {x : Ctx} {k : List Inst}
    (hx : s.ctx? d = some { x with insts := k }) : ∃ l, (s.updOut c r f).ctx? d = some { x with insts := l } :=
  State.ctx?_updInst (x := { x with insts := k }) hx

/-- The contexts of a firing that has begun stand as before, but for what they have in flight. -/
theorem State.begun_ctx? {d : CtxId} {x : Ctx} (hx : s.ctx? d = some x) : ∃ l, (s.begun i).ctx? d = some { x with insts := l } := by
  obtain ⟨l, hl⟩ : ∃ l, (s.mark true).ctx? d = some { x with insts := l } := State.ctx?_updInst hx
  unfold State.begun
  rcases State.markLsid_cases (s := s.mark true) (i := i) with h | ⟨f, h⟩
  · exact ⟨l, by rw [h, hl]⟩
  · rw [h]
    exact State.ctx?_updOut hl

theorem State.myInst_updInst {j : Inst} {f : Inst → Inst} (hf : ∀ k, (f k).route = k.route) (hj : s.myInst = some j) :
    (s.updInst s.latch.ctx s.latch.route f).myInst = some (f j) := by
  simp only [State.myInst, Option.bind_eq_some_iff] at hj ⊢
  obtain ⟨x, hx, hj⟩ := hj
  have hid : x.id = s.latch.ctx := by simpa using List.find?_some hx
  have hr : j.route = s.latch.route := by simpa using List.find?_some hj
  refine ⟨{ x with insts := updWhere (fun k => k.route == s.latch.route) f x.insts }, ?_, ?_⟩
  · simp only [State.ctx?] at *
    rw [State.updInst_ctxs, find?_updWhere (by intro x; rfl)]
    simp [hx, hid]
  · simp only [Ctx.inst?, State.updInst_latch] at *
    rw [find?_updWhere (by intro k; rw [hf])]
    simp [hj, hr]

/-! ### SPAWN (R104, R105, R347) -/

section spawn
variable {a : Latch} {req na slack c : Nat} {blk : BitVec 33} {x : Ctx} {g : Region}

/-- A child's context: the parent's surroundings without privilege, its launch's slack code, zero registers, and the block named as its first. -/
def State.childCtx (s : State) (x : Ctx) (id : CtxId) (a : Latch) (req : Nat) (blk : BitVec 33) : Ctx :=
  { Ctx.fresh id { x.env with
      dslk := match s.job? x.env.job with | some j => j.dslk | none => x.env.dslk
      super := false, endpoint := s.newEndpoint, origin := .child a.ctx req, anc := x.env.anc ++ [a.ctx] } [] (blkNear blk) with
    mark := if x.mark == .seen then .sent else .none }

theorem State.startChild_none (hx : s.ctx? a.ctx = some x) (hg : s.region? a.ctx.region = some g) (hc : g.nextColour = none) :
    s.startChild a req na blk slack = none := by
  simp only [State.startChild, hx, State.drawColour, hg, hc]

/-- The name that a region gives a context of a colour next: its generation goes on (R102). -/
def Region.nextName (g : Region) (c : Nat) : CtxId := ⟨g.num, c, (Sparse.get 0#6 g.gens c + 1#6).toNat⟩

theorem State.sendAheads_eq (c : CtxId) (vs : List (Word × Nat)) (slack : Nat) (s : State) :
    ∃ ps n, vs.foldl (fun t v => t.sendAhead c v.2 v.1 slack) s = s.sending ps n := by
  induction vs generalizing s with
  | nil => exact ⟨_, _, rfl⟩
  | cons v vs ih => exact ih (s.sendAhead c v.2 v.1 slack)

theorem State.startChild_some (hx : s.ctx? a.ctx = some x) (hg : s.region? a.ctx.region = some g) (hc : g.nextColour = some c) :
    ∃ t, s.startChild a req na blk slack = some t ∧ s.childCtx x (g.nextName c) a req blk ∈ t.ctxs ∧ t.reqs = s.reqs ∧ t.mem = s.mem := by
  simp only [State.startChild, hx, State.drawColour, hg, hc, Region.nextName, State.num_of_region? hg, Option.some.injEq, exists_eq_left']
  obtain ⟨ps, n, hsend⟩ := State.sendAheads_eq ⟨a.ctx.region, c, (Sparse.get 0#6 g.gens c + 1#6).toNat⟩ (a.args na).zipIdx slack _
  rw [hsend]
  exact ⟨List.mem_append_right _ List.mem_cons_self, rfl, rfl⟩

theorem State.spawn_marked {wait : Bool} (hm : s.marked = true) : s.spawn i na blk wait = s.emitNull i := if_pos hm

section counts
variable {wait : Bool} {n : Nat} (ha : s.latch = a) (hn : s.nextId = n) (hm : s.marked = false)
include ha hn hm

theorem State.spawn_starts (hs : (s.request i .answer 0).startChild a n na blk (s.outSlack i) = some t) : s.spawn i na blk wait = t := by
  subst ha hn
  simp only [State.spawn, hm, hs, Bool.false_eq_true, if_false]

theorem State.spawn_none (hs : (s.request i .answer 0).startChild a n na blk (s.outSlack i) = none) :
    s.spawn i na blk wait = if wait then (s.request i .answer 0).updReq n fun r => { r with stage := .colour }
      else (s.faultHere codeSpawn 0 0).emitNull i := by
  subst ha hn
  simp only [State.spawn, hm, hs, Bool.false_eq_true, if_false]

end counts

theorem State.region?_request {n : Nat} {st : Stage} : ((s.begun i).request i st 0).region? n = s.region? n := by
  rw [State.request_begun]
  simp only [State.region?, State.begun_loader]

theorem State.job?_request {n : Nat} {st : Stage} : ((s.begun i).request i st 0).job? n = s.job? n := by
  rw [State.request_begun]
  simp only [State.job?, State.begun_loader]

theorem State.childCtx_dslk {id : CtxId} {j : Job} (hj : s.job? x.env.job = some j) : (s.childCtx x id a req blk).env.dslk = j.dslk := by
  simp only [State.childCtx, Ctx.fresh, hj]

theorem State.childCtx_next {id : CtxId} :
    (s.childCtx x id a req blk).next = some (.block (BitVec.ofNat 64 (2 ^ 44 + 2048 * blk.toNat))) := by
  simp only [State.childCtx, Ctx.fresh, blkNear, Nat.mul_comm 2048, Nat.reducePow]

end spawn

/-- A context with nothing in flight stands after a firing. -/
theorem State.mem_after {y : Ctx} (hy : y ∈ u.ctxs) (hn : y.insts = []) : y ∈ (s.after u).ctxs := by
  rcases s.after_cases u with h | ⟨f, h⟩
  · rwa [h]
  · rw [h, State.updInst_ctxs]
    refine List.mem_map.mpr ⟨y, hy, ?_⟩
    split
    · have hnone : updWhere (fun i => i.route == s.latch.route) f y.insts = y.insts := by rw [hn]; rfl
      show { y with insts := updWhere (fun i => i.route == s.latch.route) f y.insts } = y
      rw [hnone]
    · rfl

@[simp] theorem State.after_reqs (s u : State) : (s.after u).reqs = u.reqs := by
  rcases s.after_cases u with h | ⟨f, h⟩
  · rw [h]
  · rw [h, State.updInst_reqs]

@[simp] theorem State.after_mem (s u : State) : (s.after u).mem = u.mem := by
  rcases s.after_cases u with h | ⟨f, h⟩
  · rw [h]
  · rw [h, State.updInst_mem]

/-! ### RETN (R348) -/

section retn
variable {x : Ctx} {j : Inst}

theorem State.me_begun (hx : s.me = some x) : ∃ l, (s.begun i).me = some { x with insts := l } := by
  unfold State.me
  rw [State.begun_latch]
  exact State.begun_ctx? hx

/-- RETN's effect. -/
def State.holdRetn (s : State) (i : Instr) : State :=
  let again : Bool := match s.myInst with
    | some x => x.out.retn.isSome
    | none => false
  if !s.isChild || again then s.faultHere codeSpawn 0 0
  else s.updOut s.latch.ctx s.latch.route fun o => { o with retn := some (s.latch.key, newTok (.scalar s.latch.opL.word) 0 none (s.outSlack i)) }

theorem State.isChild_iff (hx : s.me = some x) : s.isChild = true ↔ ∃ p q, x.env.origin = .child p q := by
  unfold State.isChild
  rw [hx]
  cases h : x.env.origin <;> simp [h]

theorem State.holdRetn_holds (hj : s.myInst = some j) (hc : s.isChild = true) (hn : j.out.retn = none) :
    s.holdRetn i = s.updOut s.latch.ctx s.latch.route fun o =>
      { o with retn := some (s.latch.key, newTok (.scalar s.latch.opL.word) 0 none (s.outSlack i)) } := by
  simp only [State.holdRetn, hj, hc, hn, Option.isSome_none, Bool.not_true, Bool.or_false, Bool.false_eq_true, if_false]

theorem State.holdRetn_faults (hj : s.myInst = some j) (h : s.isChild = false ∨ j.out.retn.isSome = true) :
    s.holdRetn i = s.faultHere codeSpawn 0 0 := by
  simp only [State.holdRetn, hj]
  exact if_pos (by simpa using h)

/-- RETN counts no LSID and claims no register. -/
theorem State.begun_retn (s : State) (h : Hdr) : s.begun (.retn h) = s.mark true := rfl

end retn

/-! ### CANCEL (R349, R350) -/

section cancel
variable {r : Nat} {q : Req} {l : Located} {f : FullAddr}

/-- What a CANCEL comes to that names the control block at a full address. -/
def State.cancelTaskAt (s : State) (r : Nat) (f : FullAddr) : State :=
  match s.tasks.find? fun k => k.at_ == f with
  | none => s.cancelActed r false
  | some k => (s.cancelTask k).cancelActed r true

/-- What a CANCEL comes to that names the launch header at a full address. -/
def State.cancelLaunchAt (s : State) (r : Nat) (f : FullAddr) : State :=
  let m := (s.launchesAt f).foldl (fun (acc : State × Bool) j =>
    let k := acc.1.cancelJob j
    (k.1, acc.2 || k.2)) (s, false)
  m.1.cancelActed r m.2

theorem State.cancelNow_task (hq : s.req? r = some q) (hi : q.instr = .cancel h) (hs : q.stage = .queued)
    (hl : (s.acting (.req r)).reqLocate q 128 [.r, .w] 128 = .ok (l, u))
    (hp : u.pause = none) (hv : u.cancelTaskAt r l.full = v) (hp' : v.pause = none) : s.cancelNow r = some (v.acted (.req r)) := by
  subst hv
  unfold State.reqLocate at hl
  simp only [State.cancelNow, hq, hi, cancelAccess, hs, bne_self_eq_false, Bool.false_eq_true, if_false]
  refine State.whole_acted ?_ hp'
  simp only [hl, State.goOn_ok hp, State.cancelTaskAt]
  cases u.tasks.find? fun k => k.at_ == l.full <;> rfl

theorem State.cancelNow_launch (hq : s.req? r = some q) (hi : q.instr = .cancelLaunch h) (hs : q.stage = .queued)
    (hl : (s.acting (.req r)).reqLocate q 64 [.r] 8 = .ok (l, u))
    (hp : u.pause = none) (hv : u.cancelLaunchAt r l.full = v) (hp' : v.pause = none) : s.cancelNow r = some (v.acted (.req r)) := by
  subst hv
  unfold State.reqLocate at hl
  simp only [State.cancelNow, hq, hi, cancelAccess, hs, bne_self_eq_false, Bool.false_eq_true, if_false]
  refine State.whole_acted ?_ hp'
  simp only [hl, State.goOn_ok hp]
  rfl

theorem State.cancelTaskAt_none (h : ∀ k ∈ s.tasks, k.at_ ≠ f) : s.cancelTaskAt r f = s.cancelActed r false := by
  have hnone : (s.tasks.find? fun k => k.at_ == f) = none := List.find?_eq_none.mpr fun k hk => by simpa using h k hk
  simp only [State.cancelTaskAt, hnone]

theorem State.cancelTaskAt_some {k : Task} (h : (s.tasks.find? fun k => k.at_ == f) = some k) :
    s.cancelTaskAt r f = (s.cancelTask k).cancelActed r true := by
  simp only [State.cancelTaskAt, h]

theorem State.cancelTask_waiting {k : Task} (hs : k.status ≠ 3#4) :
    s.cancelTask k = s.endTask { k with status := 5#4, lastf := codeCancelled } := by
  simp only [State.cancelTask, State.markTask, if_neg hs]

theorem State.cancelTask_running {k : Task} {d : CtxId} {x : Ctx} (hs : k.status = 3#4) (hd : k.ctx = some d) (hx : s.ctx? d = some x) :
    s.cancelTask k = (s.updTask k.id fun t => { t with cancelled := true }).sendMark d := by
  have hx' : (s.updTask k.id fun t => { t with cancelled := true }).ctx? d = some x := hx
  simp only [State.cancelTask, State.markTask, hs, if_true, hd, hx']

theorem State.cancelLaunchAt_none (h : ∀ j ∈ s.loader.jobs, j.at_ = f → j.refused = true ∨ j.complete = true) :
    s.cancelLaunchAt r f = s.cancelActed r false := by
  have hnone : s.launchesAt f = [] := by
    refine List.filter_eq_nil_iff.mpr fun j hj hrun => ?_
    simp only [Bool.and_eq_true, beq_iff_eq, Bool.not_eq_true'] at hrun
    obtain ⟨⟨ha, hr⟩, hc⟩ := hrun
    simpa [hr, hc] using h j hj ha
  simp only [State.cancelLaunchAt, hnone, List.foldl_nil]

theorem State.cancelLaunchAt_one {j : Job} (h : s.launchesAt f = [j]) : s.cancelLaunchAt r f = (s.cancelJob j).1.cancelActed r (s.cancelJob j).2 := by
  simp only [State.cancelLaunchAt, h, List.foldl_cons, List.foldl_nil, Bool.false_or]

end cancel

/-! ### LAUNCH (R109) -/

section launch
variable {c : CtxId} {q : Req} {ws : List Word} {l dl p : Located} {w : Option Word}

theorem State.taskMarked_updInst {d : CtxId} {r : Route} {f : Inst → Inst} : (s.updInst d r f).taskMarked c = s.taskMarked c := by
  unfold State.taskMarked
  cases hx : s.ctx? c with
  | some x =>
    obtain ⟨k, hk⟩ := State.ctx?_updInst (c := d) (r := r) (f := f) hx
    rw [hk]
  | none =>
    have hnone : (s.updInst d r f).ctx? c = none := by
      unfold State.ctx? at *
      rw [State.updInst_ctxs, find?_updWhere (by intro x; rfl), hx, Option.map_none]
    rw [hnone]

@[simp] theorem State.answer_taskMarked (s : State) (q : Req) (v0 v1 : TokVal) (chan : BitVec 5) (slack : Nat) (late : Bool) :
    (s.answer q v0 v1 chan slack late).taskMarked c = s.taskMarked c := by
  obtain ⟨ps, n, h | ⟨f, h⟩⟩ := s.answer_cases q v0 v1 chan slack late
  · rw [h]
    rfl
  · rw [h]
    exact State.taskMarked_updInst (s := s.sending ps n)

/-- A task in the place of any other of its control block, which has been written. -/
def State.withTask (s : State) (k : Task) (w : Option Word) : State :=
  ({ s.bump with tasks := (s.tasks.filter fun u => u.at_ != k.at_) ++ [{ k with woken := w }] } : State).writeTcb k

/-- A task that no context runs stands alone for its control block. -/
theorem State.withTask_tasks {k : Task} (hk : k.ctx = none) : { k with woken := w } ∈ (s.withTask k w).tasks ∧
    ∀ k' ∈ (s.withTask k w).tasks, k'.at_ = k.at_ → k' = { k with woken := w } := by
  obtain ⟨f, hf, hkeep⟩ := TasksKept.writeTcb { s.bump with tasks := (s.tasks.filter fun u => u.at_ != k.at_) ++ [{ k with woken := w }] } k
  have hself : f { k with woken := w } = { k with woken := w } := (hkeep _).2 hk
  refine ⟨?_, fun k' hk' ha => ?_⟩
  · rw [State.withTask, hf]
    exact List.mem_map.mpr ⟨_, List.mem_append_right _ List.mem_cons_self, hself⟩
  · rw [State.withTask, hf] at hk'
    obtain ⟨u, hu, rfl⟩ := List.mem_map.mp hk'
    rw [(hkeep u).1] at ha
    rcases List.mem_append.mp hu with hu | hu
    · exact absurd ha (by simpa using (List.mem_filter.mp hu).2)
    · rw [List.mem_singleton.mp hu, hself]

theorem State.handOver_ok {tcb : FullAddr} (hfetch : s.fetchAt (s.dieOf q.latch.ctx) (s.atpOf q.latch.ctx) (ws.getD 0 0) = .ok (p, t))
    (hl : t.unitLocate (s.dieOf q.latch.ctx) (t.atpOf q.latch.ctx) (ws.getD 2 0) 8 [.c] 8 = .ok (dl, u)) (hp : u.pause = none) {k : Task}
    (hk : u.newTask q.latch.ctx q.latch.opL.word tcb dl.full ws = k)
    (hw : u.awaitDep k.die dl (ws.getD 3 0) (slkValue (u.taskCode k)) k.id = .ok (w, v)) (hp' : (v.withTask k w).pause = none)
    (hm : (v.withTask k w).taskMarked q.latch.ctx = false) :
    s.handOver q tcb ws = some ((v.withTask k w).answer q (.scalar 1) (.scalar 1) 0 q.replySlack q.late) := by
  subst hk
  simp only [State.handOver, hfetch, hl, State.goOn_ok hp, hw]
  refine (State.goOn_ok hp').trans ?_
  simp only [State.answer_taskMarked]
  exact congrArg some (if_neg (Bool.eq_false_iff.mp hm))

/-- The sixteen words of a control block (R107). -/
def tcbWords (bs : List Byte) : List Word := (List.range 16).map fun k => leWord ((bs.drop (8 * k)).take 8)

theorem State.launchNow_acts {r : Nat} {bs : List Byte} (hq : s.req? r = some q) (hi : q.instr = .launch h) (hs : q.stage = .queued)
    (ho : s.olderReleased q.latch.ctx q.latch.route q.born = true)
    (hl : (s.acting (.req r)).reqLocate q 128 [.r] 128 = .ok (l, t))
    (hb : t.readAt (t.dieOf q.latch.ctx) l 128 = .ok (bs, u)) (hp : u.pause = none)
    (hbad : badTcb (tcbWords bs) ((u.regionsOf (u.jobIn q.latch.ctx)).map fun g => g.index) = none)
    (hv : u.handOver q l.full (tcbWords bs) = some v) (hp' : v.pause = none) : s.launchNow r = some (v.acted (.req r)) := by
  have hgo : ¬(q.stage != .queued || !s.olderReleased q.latch.ctx q.latch.route q.born) = true := by simp [hs, ho]
  simp only [tcbWords] at hbad hv
  unfold State.reqLocate at hl
  simp only [State.launchNow, hq, hi, if_neg hgo]
  refine State.whole_acted ?_ hp'
  simp only [hl, hb, State.goOn_ok hp, hbad, hv]

end launch

/-- Settles O44: each record runs as one firing, and its effect in the state of the firing is a case above. A LAUNCH's task stands alone for its
control block because what is written there changes at most the last fault of a task that runs. -/
theorem taskRecords : Obligations.TaskRecords := by
  unfold Obligations.TaskRecords
  refine ⟨?spawn, ?retn, ?cancel, ?cancelLaunch, ?launch⟩
  case spawn =>
    intro s h na blk x g hx hg i hi hr
    obtain ⟨n, hn⟩ := State.me_begun (i := i) hx
    have hmark : (s.begun i).marked = (x.mark == .seen) := by rw [State.marked, hn]
    have hl : (s.begun i).latch = s.latch := State.begun_latch
    have hctx : ((s.begun i).request i .answer 0).ctx? s.latch.ctx = some { x with insts := n } := hl ▸ hn
    have hregion : ((s.begun i).request i .answer 0).region? s.latch.ctx.region = some g := State.region?_request.trans hg
    obtain ⟨wait, hwait, does⟩ : ∃ wait : Bool, (wait = true ↔ i = .spawn h na blk) ∧
        ∀ {w : State}, (s.begun i).spawn i na.val blk wait = w → exec i s = .next (s.after w) := by
      simp only [List.mem_cons, List.not_mem_nil, or_false] at hi
      rcases hi with rfl | rfl
      · exact ⟨true, by simp, fun hw => hw ▸ exec_real (e := fun t => t.spawn _ na.val blk true) rfl hr⟩
      · exact ⟨false, by simp, fun hw => hw ▸ exec_real (e := fun t => t.spawn _ na.val blk false) rfl hr⟩
    refine ⟨fun hm => does (State.spawn_marked (by rw [hmark, hm]; rfl)), fun hm c hc => ?_, fun hm hc => ?_⟩
    · have hm' : (s.begun i).marked = false := hmark.trans (by simpa using hm)
      obtain ⟨t, ht, hy, hreqs, hmem⟩ := State.startChild_some (req := s.nextId) (na := na.val) (blk := blk) hctx hregion hc
      refine ⟨s.after t, _, s.asked i .answer, does (State.spawn_starts hl State.begun_nextId hm' ht), State.mem_after hy rfl, ?_,
        rfl, rfl, rfl, rfl, rfl, rfl, fun j hj => State.childCtx_dslk (State.job?_request.trans hj), rfl, rfl, State.childCtx_next, rfl, rfl, rfl, rfl, ?_⟩
      · rw [State.after_reqs, hreqs, State.request_begun]
        exact List.mem_append_right _ List.mem_cons_self
      · rw [State.after_mem, hmem, State.request_begun, State.begun_mem]
    · have hm' : (s.begun i).marked = false := hmark.trans (by simpa using hm)
      refine (does (State.spawn_none hl State.begun_nextId hm' (State.startChild_none hctx hregion hc))).trans ?_
      simp only [hwait]
  case retn =>
    intro s h x j hx hj i hr
    have hj' := (congrArg State.myInst (State.begun_retn s h)).trans (State.myInst_updInst (fun _ => rfl) hj)
    obtain ⟨n, hn⟩ := State.me_begun (i := i) hx
    have hchild := State.isChild_iff hn
    have does {w : State} (hw : (s.begun i).holdRetn i = w) : exec i s = .next (s.after w) :=
      hw ▸ exec_real (e := fun t => t.holdRetn i) rfl hr
    refine ⟨fun ho hn => does (State.holdRetn_holds hj' (hchild.mpr ho) hn), fun ho => does (State.holdRetn_faults hj' (ho.imp (fun ho => ?_) id))⟩
    exact Bool.eq_false_iff.mpr fun hc => (hchild.mp hc).elim fun p hp => hp.elim fun q hq => ho p q hq
  case cancel =>
    intro s h l u hf i b c hr hl hp
    have does {v : State} (hv : u.cancelTaskAt s.nextId l.full = v) (hp' : v.pause = none) : exec i s = .next (s.over v) :=
      exec_request (g := State.cancelNow) rfl hr (State.cancelNow_task (State.req?_request hf .queued) rfl rfl hl hp hv hp')
    refine ⟨fun hnone => ?_, fun k hk => ⟨fun hs hp' => ?_, fun hs d x hd hx => ?_⟩⟩
    · exact does (State.cancelTaskAt_none hnone) (by simp [hp])
    · exact does ((State.cancelTaskAt_some hk).trans (by rw [State.cancelTask_waiting hs])) (by simpa using hp')
    · exact does ((State.cancelTaskAt_some hk).trans (by rw [State.cancelTask_running hs hd hx])) (by simpa [State.sendMark] using hp)
  case cancelLaunch =>
    intro s h l u hf i b c hr hl hp
    have does {v : State} (hv : u.cancelLaunchAt s.nextId l.full = v) (hp' : v.pause = none) : exec i s = .next (s.over v) :=
      exec_request (g := State.cancelNow) rfl hr (State.cancelNow_launch (State.req?_request hf .queued) rfl rfl hl hp hv hp')
    exact ⟨fun hnone => does (State.cancelLaunchAt_none hnone) (by simp [hp]),
      fun j hj hp' => does (State.cancelLaunchAt_one hj) (by simpa using hp')⟩
  case launch =>
    intro s h l dl p bs w s0 s1 s2 s3 s4 hf i c L b ws word regs k0 t4 hr ho hl hb hp1 hbad hfetch hdl hp3 hdep hp4 hm
    have ht : s4.withTask k0 w = t4 := rfl
    have hand : s1.handOver (s.asked i .queued) l.full ws = some _ :=
      State.handOver_ok (q := s.asked i .queued) (k := k0) hfetch hdl hp3 rfl hdep (ht ▸ hp4) (ht ▸ hm)
    have hnow := State.launchNow_acts (State.req?_request hf .queued) rfl rfl ho hl hb hp1 hbad hand ((State.answer_pause ..).trans hp4)
    obtain ⟨hmem, halone⟩ := State.withTask_tasks (s := s4) (k := k0) (w := w) rfl
    refine ⟨_, { k0 with woken := w }, exec_request (g := State.launchNow) rfl hr hnow, ?_, rfl, rfl, rfl, rfl, rfl, rfl, rfl, rfl, rfl, ?_⟩
    · rw [State.over_tasks, State.answer_tasks]
      exact hmem
    · rw [State.over_tasks, State.answer_tasks]
      exact halone

end Sys2Proof.Machine
end

section
/-! SUPPORT. COPY and the engine records (R193, R207, R208): the packet that each sends to the engine its T0 entry binds. -/

namespace Sys2Proof.Machine
open Sys2Proof
variable {s : State} {i : Instr}

@[simp] theorem State.begun_portAt (c : CtxId) (q : Nat) : (s.begun i).portAt c q = s.portAt c q := by
  rw [State.begun_eq_ctxs]
  rfl

/-- What a real firing sends to the engine that its T0 entry binds (R193, R208). -/
theorem State.toEngine_begun {q : BitVec 10} {p : EngPort} (ht : (hdrOf i).t0 = .port q) (hp : s.portAt s.latch.ctx q.toNat = some p) :
    (s.begun i).toEngine i = { s.begun i with
      nextId := (s.begun i).nextId + 1
      packets := (s.begun i).packets ++ [⟨(s.begun i).nextId, s.latch.ctx, .port p s.latch.route s.latch.key,
        newTok s.latch.opL.val 0 none (s.outSlack i), false, none, some i, s.outSlack i, [],
        (((s.begun i).myInst).map fun x => x.born).getD 0⟩] } := by
  simp only [State.toEngine, ht, State.begun_latch, State.begun_portAt, hp, State.begun_outSlack, State.bump]

/-- Settles O43: each record runs as one firing whose effect is the packet to the engine, COPY's LSID being over with it. -/
theorem engineRecords : Obligations.EngineRecords := by
  unfold Obligations.EngineRecords
  intro s h t l e q p ht hp sends
  refine ⟨?copy, ?engine⟩
  case copy =>
    intro i hr
    rw [exec_real (e := fun u => (u.toEngine i).lsidOver i) rfl hr, State.toEngine_begun (i := i) ht hp]
  case engine =>
    intro i hi hr
    have hrun : exec i s = .next (s.fire i fun u => u.sendEngine i) ∧ (hdrOf i).t0 = h.t0 := by
      simp only [List.mem_cons, List.not_mem_nil, or_false] at hi
      rcases hi with rfl | rfl | rfl | rfl | rfl | rfl | rfl | rfl | rfl <;> exact ⟨rfl, rfl⟩
    obtain ⟨hexec, hhdr⟩ := hrun
    rw [exec_real hexec hr, State.sendEngine, State.toEngine_begun (hhdr.trans ht) hp]

end Sys2Proof.Machine
end

section
/-! SUPPORT. What brings pages to rest, and what charges a fault, leaves a unit's wait as it was (R45, R46, R190; log entry 13). -/

namespace Sys2Proof.Machine
open Sys2Proof
variable {s t u : State}

/-! ### Pages brought to rest (R45, R46) -/

/-- Memory, the names and the requests alone have changed. -/
def PagesOnly (s t : State) : Prop := ∃ m n r, t = { s with mem := m, names := n, reqs := r }

theorem PagesOnly.refl (s : State) : PagesOnly s s := ⟨_, _, _, rfl⟩

theorem PagesOnly.trans (h : PagesOnly s t) (k : PagesOnly t u) : PagesOnly s u := by
  obtain ⟨m, n, r, rfl⟩ := h
  obtain ⟨m', n', r', rfl⟩ := k
  exact ⟨m', n', r', rfl⟩

theorem PagesOnly.pause (h : PagesOnly s t) : t.pause = s.pause := by
  obtain ⟨m, n, r, rfl⟩ := h
  rfl

theorem PagesOnly.doer (h : PagesOnly s t) : t.doer = s.doer := by
  obtain ⟨m, n, r, rfl⟩ := h
  rfl

theorem PagesOnly.newNode {n : Nat} (h : s.newNode = some (n, t)) : PagesOnly s t := by
  unfold State.newNode at h
  split at h <;> cases h
  exact ⟨_, _, _, rfl⟩

theorem PagesOnly.makeLeaf {d node page pte : Nat} (h : s.makeLeaf node d page = some (pte, t)) : PagesOnly s t := by
  induction d generalizing s node with
  | zero => cases h
  | succ d ih =>
    cases d with
    | zero => cases h; exact .refl _
    | succ d =>
      simp only [State.makeLeaf] at h
      split at h
      · exact ih h
      · split at h
        · cases h
        · next hn => exact (PagesOnly.newNode hn).trans (PagesOnly.trans ⟨_, _, _, rfl⟩ (ih h))

theorem PagesOnly.noteOwner (s : State) (d : Desc) (pte page : Nat) : PagesOnly s (s.noteOwner d pte page) := by
  unfold State.noteOwner
  split <;> exact ⟨_, _, _, rfl⟩

theorem PagesOnly.leafFor {d : Desc} {page pte : Nat} (h : s.leafFor d page = some (pte, t)) : PagesOnly s t := by
  unfold State.leafFor at h
  split at h
  · cases h
  · next hm =>
    cases h
    exact (PagesOnly.makeLeaf hm).trans (.noteOwner ..)

theorem PagesOnly.startFill {die pte : Nat} {d : Desc} (h : s.startFill die d pte = some t) : PagesOnly s t := by
  unfold State.startFill at h
  split at h
  · cases h
  · next hf =>
    cases h
    unfold State.takeFrame at hf
    dsimp only at hf
    split at hf <;> cases hf
    exact ⟨_, _, _, rfl⟩

theorem PagesOnly.finishMove (s : State) (pte : Nat) : PagesOnly s (s.finishMove pte) := by
  unfold State.finishMove
  split
  · exact .refl s
  · split <;> exact ⟨_, _, _, rfl⟩

theorem PagesOnly.residentNow {die ofs pte : Nat} {d : Desc} {write : Bool} (h : s.residentNow die d ofs write = .ok (pte, t)) :
    PagesOnly s t := by
  unfold State.residentNow at h
  split at h
  · cases h
  · next hl =>
    refine (PagesOnly.leafFor hl).trans ?_
    dsimp only at h
    split at h
    · cases h
    · split at h
      · cases h
        exact .refl _
      · split at h
        · cases h
          exact .finishMove ..
        · split at h
          · cases h
          · next hs =>
            cases h
            exact (PagesOnly.startFill hs).trans (.finishMove ..)

/-- Where nothing acts as a unit, an access brings its page to rest and never waits. -/
theorem PagesOnly.resident {die ofs pte : Nat} {d : Desc} {write : Bool} (hd : s.doer = none) (h : s.resident die d ofs write = .ok (pte, t)) :
    PagesOnly s t := by
  rw [State.resident, hd] at h
  exact .residentNow h

theorem PagesOnly.dirty (s : State) (pte : Nat) : PagesOnly s (s.dirty pte) := by
  unfold State.dirty
  dsimp only
  split <;> exact ⟨_, _, _, rfl⟩

theorem PagesOnly.readNow {die n : Nat} {f : FullAddr} {d : Desc} {bs : List Byte} (hd : s.doer = none) (h : s.readNow die f d n = .ok (bs, t)) :
    PagesOnly s t := by
  unfold State.readNow State.readNowAs at h
  split at h
  · cases h
  · next hr =>
    cases h
    refine (PagesOnly.resident hd hr).trans ?_
    split <;> exact ⟨_, _, _, rfl⟩

theorem PagesOnly.writeNow {die : Nat} {f : FullAddr} {d : Desc} {bs : List Byte} (hd : s.doer = none) (h : s.writeNow die f d bs = .ok t) :
    PagesOnly s t := by
  unfold State.writeNow at h
  split at h
  · cases h
  · next hr =>
    refine (PagesOnly.resident hd hr).trans ?_
    split at h <;> cases h
    · exact .refl _
    · exact PagesOnly.trans ⟨_, _, _, rfl⟩ (.dirty _ _)

/-! ### Faults charged (R190, R365, R369) -/

@[simp] theorem State.enqueueFault_pause (s : State) (q : Nat) (c : CtxId) (f : FaultRec) : (s.enqueueFault q c f).pause = s.pause := by
  unfold State.enqueueFault
  dsimp only
  split
  · rfl
  · split <;> rfl

@[simp] theorem State.postTo_pause (s : State) (q : Nat) (c : CtxId) (f : FaultRec) (n : Note) : (s.postTo q c f n).pause = s.pause := by
  unfold State.postTo
  dsimp only
  split <;> exact State.enqueueFault_pause ..

@[simp] theorem State.post_pause (s : State) (c : CtxId) (f : FaultRec) : (s.post c f).pause = s.pause := State.postTo_pause ..

@[simp] theorem State.addK_pause (s : State) (c : CtxId) (n : Nat) (w : Word) : (s.addK c n w).pause = s.pause := by
  unfold State.addK
  split
  · rfl
  · refine foldl_keeps (π := State.pause) (fun t q => ?_) _ _
    split
    · exact State.answer_pause ..
    · rfl

@[simp] theorem State.restFault_pause (s : State) (c : CtxId) (code : BitVec 8) : (s.restFault c code).pause = s.pause := State.post_pause ..

theorem State.atRest_pause {f : State → State} (hf : ∀ t, t.doer = none → (f t).pause = t.pause) : (s.atRest f).pause = s.pause :=
  hf { s with doer := none } rfl

@[simp] theorem State.updSaved_pause (s : State) (c : CtxId) (e : SavedCtx) (ofs : Nat) (op : SavedOp) :
    (s.updSaved c e ofs op).pause = s.pause := by
  unfold State.updSaved
  dsimp only
  split
  · rfl
  · refine State.atRest_pause fun t hd => ?_
    split
    · rfl
    · split
      · exact State.restFault_pause ..
      · next hr =>
        have hread := PagesOnly.readNow hd hr
        split
        · exact (State.restFault_pause ..).trans hread.pause
        · next hw => exact (PagesOnly.writeNow (hread.doer.trans hd) hw).pause.trans hread.pause

@[simp] theorem State.addKAny_pause (s : State) (c : CtxId) (n : Nat) (w : Word) : (s.addKAny c n w).pause = s.pause := by
  unfold State.addKAny
  split
  · exact State.addK_pause ..
  · split
    · exact State.updSaved_pause ..
    · rfl

@[simp] theorem State.chargeAny_pause (s : State) (c : CtxId) (f : FaultRec) : (s.chargeAny c f).pause = s.pause :=
  (State.addKAny_pause ..).trans (State.post_pause ..)

@[simp] theorem State.engineFault_pause (s : State) (q : EngReq) (die kind index : Nat) (code : BitVec 8) (addr : Word) (low : Nat) :
    (s.engineFault q die kind index code addr low).pause = s.pause := State.chargeAny_pause ..

end Sys2Proof.Machine
end

section
/-! SUPPORT. The events of the engines (R146, R178, R186-R192, R202-R217): what each operation behind them answers where its unit need not
wait. -/

namespace Sys2Proof.Machine
open Sys2Proof
variable {s t v : State} {q : EngReq} {d k : Nat}

/-! ### Engines take a request (R146, R189, R202, R216) -/

theorem State.streamerAccept_next (hd : d < 8) (hw : s.dieWorks d = true) (hk : k < 8) (hq : nextQueued (s.streamer d k).queue = some q)
    (hn : (s.streamer d k).serving.length < 16)
    (ht : ((s.updStreamer (d * 8 + k) fun x => { queue := x.queue.filter fun e => e.id != q.id, serving := x.serving ++
      [{ q with bad := copyCheck q, base := s.baseAt q.atp (copyReq q).dst }] }).engineServes q) = t) :
    s.streamerAccept d k q.id = some (match copyCheck q with
      | some n => t.engineFault q d 1 k codeCopyshape (copyCounter q) n
      | none => t) := by
  subst ht
  simp only [State.streamerAccept, hq, State.hasStreamer]
  exact if_neg (by simp [hd, hw, hk, hn])

theorem State.islandAccept_next (hd : d < 8) (hw : s.dieWorks d = true) (hk : k < 18) (hq : nextQueued (s.island d k).queue = some q)
    (hn : (s.island d k).serving.length < 16)
    (ht : ((s.updIsland (d * 18 + k) fun x => { x with queue := x.queue.filter fun e => e.id != q.id, serving := x.serving ++
      [{ q with bad := islandCheck q }] }).engineServes q) = t) :
    s.islandAccept d k q.id = some (match islandCheck q with
      | some n => t.engineFault q d 2 k codeAccbounds (islandReq q).cnt n
      | none => t) := by
  subst ht
  simp only [State.islandAccept, hq, State.hasIsland]
  exact if_neg (by simp [hd, hw, hk, hn])

theorem State.latticeAccept_next (hd : d < 8) (hw : s.dieWorks d = true) (hq : nextQueued (s.lattice d).queue = some q)
    (hn : (s.lattice d).serving.length < 8)
    (ht : ((s.updLattice d fun x => { x with queue := x.queue.filter fun e => e.id != q.id, serving := x.serving ++
      [{ q with bad := latCheck q }] }).engineServes q) = t) :
    s.latticeAccept d q.id = some (match latCheck q with
      | some n => t.engineFault q d 3 0 codeLxctx 0 n
      | none => t) := by
  subst ht
  simp only [State.latticeAccept, hq, State.hasLattice]
  exact if_neg (by simp [hd, hw, hn])

/-! ### A piece of a copy (R178, R190, R192) -/

/-- The charge of the access that stopped a request, if one did (R190, R206). -/
def State.charged (s : State) (q : EngReq) (d kind k : Nat) : Option Stop → State
  | some e => s.engineFault q d kind k e.1 e.2 0
  | none => s

/-- The request `q` of streamer `n` stands as `q1` after a piece of it, stopped where an access of the piece faulted. -/
def State.pieceEnds (s : State) (n : Nat) (q q1 : EngReq) (e : Option Stop) : State :=
  (s.charged q (n / 8) 1 (n % 8) e).updStreamer n fun x => { x with
    serving := updWhere (fun e => e.id == q.id) (fun _ => { q1 with stopped := e.isSome }) x.serving }

theorem State.streamPiece_performs {n j : Nat} {r : State × EngReq × Option Stop}
    (hf : (s.copies.find? fun e => e.2.id == q.id) = some (n, q)) (hb : q.bad = none) (hs : q.stopped = false)
    (hj : j ∉ q.did) (hl : j < q.pieces) (hh : s.hasStreamer (n / 8) (n % 8) = true) (ho : s.copyOutranked q j = false)
    (hr : (s.acting (.piece q.id j)).copyStep (n / 8) (n % 8) q j = r) (ht : r.1.pieceEnds n q r.2.1 r.2.2 = t) (hp : t.pause = none) :
    s.streamPiece q.id j = some (t.acted (.piece q.id j)) := by
  have hgo : ¬ (q.bad.isSome || q.stopped || q.did.contains j || decide (j ≥ q.pieces) || !s.hasStreamer (n / 8) (n % 8) ||
      s.copyOutranked q j) = true := by simp [hb, hs, hj, hl, hh, ho]
  simp only [State.streamPiece, hf, if_neg hgo, State.engineWhole]
  subst hr ht
  exact State.whole_acted rfl hp

/-- A piece that is no request's is performed by the streamer that serves its copy. -/
theorem exec_homePerform_streamPiece {j r : Nat} (hr : s.req? r = none) (h : s.streamPiece r j = some t) : exec (.homePerform r j) s = .next t := by
  have hnow : s.homeNow r j = none := by simp only [State.homeNow, hr]
  show execHomePerform r j s = .next t
  simp only [execHomePerform, hnow, h, Option.getD_some]

/-! ### The completion add (R190, R191, R210) -/

@[simp] theorem State.endAway_adds (s : State) (f : Doer → Bool) : (s.endAway f).adds = s.adds := by
  unfold State.endAway
  refine foldl_keeps (π := State.adds) (fun t e => ?_) _ _
  split <;> rfl

@[simp] theorem State.acted_adds (s : State) (d : Doer) : (s.acted d).adds = s.adds := State.endAway_adds _ _

theorem State.unitAdd_adds {die slack : Nat} {atp : BitVec 128} {a amt : Word} {sc : Scope} {late : Bool} {src : AddSrc}
    (h : s.unitAdd die atp a amt sc slack late src = .ok t) : ∃ p ∈ t.adds, p.amt = amt ∧ p.scope = sc ∧ p.src = src := by
  simp only [State.unitAdd] at h
  split at h <;> cases h
  exact ⟨_, List.mem_append_right _ (List.mem_singleton_self _), rfl, rfl, rfl⟩

/-- An engine's event whose request has left service in `v` ends in its completion add, or in the charge of that add's fault. -/
theorem ends_of_completeAdd {kind i amt : Nat} {cnt : Word} {slk : BitVec 8} {e : Instr}
    (he : ∀ t, v.completeAdd q d kind i cnt amt slk = t → t.pause = none → exec e s = .next (t.acted (.engine q.id))) :
    let src := AddSrc.engine q.ctx q.route d (enginePort kind i)
    let add := v.unitAdd d q.atp cnt (BitVec.ofNat 64 (amt + 1)) q.scope (q.ownSlack slk) q.late src
    (∀ w, add = .ok w → w.pause = none → exec e s = .next (w.acted (.engine q.id)) ∧
      ∃ a ∈ (w.acted (.engine q.id)).adds, a.amt = BitVec.ofNat 64 (amt + 1) ∧ a.scope = q.scope ∧ a.src = src) ∧
    ∀ c, add = .error c → v.pause = none → exec e s = .next ((v.engineFault q d kind i c cnt 0).acted (.engine q.id)) := by
  intro src add
  refine ⟨fun w hw hp => ⟨he w ?_ hp, ?_⟩, fun c hc hp => he _ ?_ ?_⟩
  · have hw' : v.unitAdd d q.atp cnt (BitVec.ofNat 64 (amt + 1)) q.scope (q.ownSlack slk) q.late src = .ok w := hw
    simp only [State.completeAdd, hw', src]
  · rw [State.acted_adds]
    exact State.unitAdd_adds hw
  · have hc' : v.unitAdd d q.atp cnt (BitVec.ofNat 64 (amt + 1)) q.scope (q.ownSlack slk) q.late src = .error c := hc
    simp only [State.completeAdd, hc', src]
  · rw [State.engineFault_pause, hp]

/-! ### Engines end a request (R191, R206, R210, R217) -/

/-- A streamer's request out of service, with what its pieces waited for. -/
def State.streamerEnds (s : State) (d k : Nat) (q : EngReq) : State :=
  (s.endAway fun x => match x with
    | .piece e _ => e == q.id
    | _ => false).updStreamer (d * 8 + k) fun x => { x with serving := x.serving.filter fun e => e.id != q.id }

theorem State.streamerComplete_ends {r : State × Option Stop} (hd : d < 8) (hw : s.dieWorks d = true) (hk : k < 8)
    (hf : ((s.streamer d k).serving.find? fun e => e.id == q.id) = some q) (ho : s.piecesOut q = false)
    (hr : (s.acting (.engine q.id)).copyRest d k q = r) (hv : (r.1.charged q d 1 k r.2).pause = none)
    (ht : ((r.1.charged q d 1 k r.2).streamerEnds d k q).completeAdd q d 1 k (copyCounter q) (q.field 232 8) (copySlk q) = t)
    (hp : t.pause = none) : s.streamerComplete d k q.id = some (t.acted (.engine q.id)) := by
  have hgo : ¬ (!s.hasStreamer d k || s.piecesOut q) = true := by simp [State.hasStreamer, hd, hw, hk, ho]
  simp only [State.streamerComplete, hf, if_neg hgo, State.engineWhole]
  subst hr ht
  exact State.whole_acted (State.goOn_ok hv) hp

theorem State.islandComplete_ends {r : State × Option Stop} (hd : d < 8) (hw : s.dieWorks d = true) (hk : k < 18)
    (hf : (s.island d k).serving.head? = some q) (ho : s.addOut d (.island k) = false)
    (hr : (if q.bad.isSome then (s.acting (.engine q.id), none) else (s.acting (.engine q.id)).runIsland d k q) = r)
    (hv : (r.1.charged q d 2 k r.2).pause = none)
    (ht : ((r.1.charged q d 2 k r.2).updIsland (d * 18 + k) fun x => { x with serving := x.serving.drop 1 }).completeAdd q d 2 k
      (islandReq q).cnt (q.field 408 8) (q.vec.extractLsb' 400 8) = t)
    (hp : t.pause = none) : s.islandComplete d k = some (t.acted (.engine q.id)) := by
  obtain ⟨l, hl⟩ := List.head?_eq_some_iff.mp hf
  have hgo : ¬ (!s.hasIsland d k || s.addOut d (.island k)) = true := by simp [State.hasIsland, hd, hw, hk, ho]
  simp only [State.islandComplete, hl, if_neg hgo, State.engineWhole]
  subst hr ht
  exact State.whole_acted (State.goOn_ok hv) hp

/-- The charge of what stopped a lattice request: an access, or check 5 or 6, made in its place in the order (R216, R217). -/
def State.latticeCharged (s : State) (q : EngReq) (d : Nat) : Option Stop → Option Nat → State
  | some e, _ => s.engineFault q d 3 0 e.1 e.2 0
  | none, some n => s.engineFault q d 3 0 codeLxctx 0 n
  | none, none => s

theorem State.latticeComplete_ends {r : State × Option Stop × Option Nat} (hd : d < 8) (hw : s.dieWorks d = true)
    (hf : (s.lattice d).serving.head? = some q) (ho : s.addOut d .lattice = false)
    (hr : (if q.bad.isSome then (s.acting (.engine q.id), none, none) else (s.acting (.engine q.id)).runLattice d q) = r)
    (hv : (r.1.latticeCharged q d r.2.1 r.2.2).pause = none)
    (ht : ((r.1.latticeCharged q d r.2.1 r.2.2).updLattice d fun x => { x with serving := x.serving.drop 1 }).completeAdd q d 3 0
      (latReq q).counter (q.field 200 8) (q.vec.extractLsb' 192 8) = t)
    (hp : t.pause = none) : s.latticeComplete d = some (t.acted (.engine q.id)) := by
  obtain ⟨l, hl⟩ := List.head?_eq_some_iff.mp hf
  have hgo : ¬ (!s.hasLattice d || s.addOut d .lattice) = true := by simp [State.hasLattice, hd, hw, ho]
  simp only [State.latticeComplete, hl, if_neg hgo, State.engineWhole]
  subst hr ht
  exact State.whole_acted (State.goOn_ok hv) hp

/-- Settles O54: each event is one operation of the model, whose cases are above; an engine's request ends in the one of its completion add. -/
theorem engineEvents : Obligations.EngineEvents := by
  unfold Obligations.EngineEvents
  refine ⟨?accept, ?piece, ?complete⟩
  case accept =>
    intro s d k q hd hw left
    refine ⟨fun hk hq hn => ?_, fun hk hq hn => ?_, fun hq hn => ?_⟩
    · exact next_getD (State.streamerAccept_next hd hw hk hq hn rfl)
    · exact next_getD (State.islandAccept_next hd hw hk hq hn rfl)
    · exact next_getD (State.latticeAccept_next hd hw hq hn rfl)
  case piece =>
    intro s n j q hr hf hb hs hj hl hh ho r t hp
    exact exec_homePerform_streamPiece hr (State.streamPiece_performs hf hb hs hj hl hh ho rfl rfl hp)
  case complete =>
    intro s d k q hd hw u ended ends
    refine ⟨fun hk hf ho => ?_, fun hk hf ho => ?_, fun hf ho => ?_⟩
    · intro r v hv
      exact ends_of_completeAdd fun t ht hp => next_getD (State.streamerComplete_ends hd hw hk hf ho rfl hv ht hp)
    · intro r v hv
      exact ends_of_completeAdd fun t ht hp => next_getD (State.islandComplete_ends hd hw hk hf ho rfl hv ht hp)
    · intro r v hv
      exact ends_of_completeAdd fun t ht hp => next_getD (State.latticeComplete_ends hd hw hf ho rfl hv ht hp)

end Sys2Proof.Machine
end

section
/-! SUPPORT. What leaves memory and the durable steps as they are (R130, R225, R228, R230): answers, wakes, and what follows once
the writes of a commit are performed. -/

namespace Sys2Proof.Machine
open Sys2Proof
variable {s t : State}

/-- Memory and the durable steps under way. -/
def State.stored (s : State) : List Host.Cell × List DurStep := (s.mem, s.durable)

theorem State.mem_of_stored (h : t.stored = s.stored) : t.mem = s.mem := congrArg Prod.fst h

theorem State.stored_eq (hm : t.mem = s.mem) (hd : t.durable = s.durable) : t.stored = s.stored := Prod.ext hm hd

theorem State.ite_stored {c : Prop} [Decidable c] {x : List Host.Cell × List DurStep} (hs : s.stored = x) (ht : t.stored = x) :
    (if c then s else t).stored = x := by
  split
  · exact hs
  · exact ht

/-! ### Answers and faults (R144, R363-R366) -/

@[simp] theorem State.answer_stored (s : State) (q : Req) (v0 v1 : TokVal) (chan : BitVec 5) (slack : Nat) (late : Bool) :
    (s.answer q v0 v1 chan slack late).stored = s.stored := by
  obtain ⟨ps, n, h | ⟨f, h⟩⟩ := s.answer_cases q v0 v1 chan slack late <;> rw [h] <;> rfl

@[simp] theorem State.addK_stored (s : State) (c : CtxId) (n : Nat) (w : Word) : (s.addK c n w).stored = s.stored := by
  unfold State.addK
  split
  · rfl
  · exact foldl_keeps (π := State.stored) (fun t q => State.ite_stored (State.answer_stored ..) rfl) _ _

@[simp] theorem State.enqueueFault_stored (s : State) (q : Nat) (c : CtxId) (f : FaultRec) : (s.enqueueFault q c f).stored = s.stored := by
  unfold State.enqueueFault
  dsimp only
  split
  · rfl
  · split <;> rfl

@[simp] theorem State.post_stored (s : State) (c : CtxId) (f : FaultRec) : (s.post c f).stored = s.stored := by
  simp only [State.post, State.postAs, State.postTo]
  split <;> exact State.enqueueFault_stored ..

/-! ### Squashing, halting and ending (R103, R106, R124, R131) -/

@[simp] theorem State.endAway_stored (s : State) (f : Doer → Bool) : (s.endAway f).stored = s.stored := by
  unfold State.endAway
  refine foldl_keeps (π := State.stored) (fun t e => ?_) _ _
  split <;> rfl

@[simp] theorem State.giveUp_stored (s : State) (q : Req) : (s.giveUp q).stored = s.stored := by
  unfold State.giveUp
  refine foldl_keeps (π := State.stored) (fun t e => ?_) _ _
  exact State.ite_stored rfl rfl

@[simp] theorem State.discard_stored (s : State) (c : CtxId) (rs : List Route) : (s.discard c rs).stored = s.stored :=
  foldl_keeps (π := State.stored) State.giveUp_stored _ s

@[simp] theorem State.squash_stored (s : State) (c : CtxId) (rs : List Route) : (s.squash c rs).stored = s.stored :=
  (State.endAway_stored ..).trans (s.discard_stored c rs)

@[simp] theorem State.returnTo_stored (s : State) (r : Nat) (x : TokVal) (slack : Option Nat) : (s.returnTo r x slack).stored = s.stored := by
  have send (t : State) (c : CtxId) (r : Route) (k : Key) (g : Nat) (b : Bool) (x : Target) (tok : Tok) (l : Bool) (o : Option Nat) :
      (t.sendTo c r k g b x tok l o).stored = t.stored := by
    obtain ⟨ps, n, h⟩ := t.sendTo_eq c r k g b x tok l o
    rw [h]
    rfl
  unfold State.returnTo
  split
  · rfl
  · split
    · rfl
    · exact State.ite_stored ((send ..).trans (send ..)) ((send ..).trans (send ..))

@[simp] theorem State.endCtx_stored (s : State) (c : CtxId) (x : TokVal) (slack : Option Nat) : (s.endCtx c x slack).stored = s.stored := by
  unfold State.endCtx
  split
  · rfl
  · next x _ =>
    have hsquash := s.squash_stored c (x.insts.map fun i => i.route)
    have hleft {t : State} (hm : t.mem = (s.squash c (x.insts.map fun i => i.route)).mem)
        (hd : t.durable = (s.squash c (x.insts.map fun i => i.route)).durable) : t.stored = s.stored := (State.stored_eq hm hd).trans hsquash
    dsimp only
    split
    · exact (State.returnTo_stored ..).trans (hleft rfl rfl)
    · exact hleft rfl rfl

@[simp] theorem State.halt_stored (s : State) (c : CtxId) (a : Word) : (s.halt c a).stored = s.stored := by
  have hend (rs rs' : List Route) (f : Ctx → Ctx) :
      (((((s.discard c rs).voidReqs c rs').endAway fun d => d == .fetch c).updCtx c f)).stored = s.stored :=
    (State.endAway_stored ..).trans (s.discard_stored c rs)
  unfold State.halt
  split
  · rfl
  · exact State.ite_stored ((State.endCtx_stored ..).trans (hend _ _ _)) (hend _ _ _)

@[simp] theorem State.postHeld_stored (s : State) (c : CtxId) (f : FaultRec) : (s.postHeld c f).stored = s.stored :=
  State.ite_stored ((State.addK_stored ..).trans (State.post_stored ..)) (State.post_stored ..)

@[simp] theorem State.settle_stored (s : State) (c : CtxId) : (s.settle c).stored = s.stored := by
  unfold State.settle
  split
  · rfl
  · next i hi =>
    have hsoft : ((i.faults.takeWhile fun f => !f.ending).foldl (fun t f => t.postHeld c f) s).stored = s.stored :=
      foldl_keeps (π := State.stored) (fun t f => t.postHeld_stored c f) _ s
    dsimp only
    split
    · exact hsoft
    · exact (State.halt_stored ..).trans ((State.postHeld_stored ..).trans hsoft)

@[simp] theorem State.postTraps_stored (s : State) (c : CtxId) (i : Inst) : (s.postTraps c i).stored = s.stored :=
  foldl_keeps (π := State.stored) (fun _ _ => State.post_stored ..) _ s

@[simp] theorem State.finishInst_stored (s : State) (c : CtxId) (i : Inst) : (s.finishInst c i).stored = s.stored := by
  have htraps (f : Ctx → Ctx) : ((s.updCtx c f).postTraps c i).stored = s.stored := State.postTraps_stored ..
  have hcancel (t : State) (b : Bool) : (if b then t.post c (t.cancelRecord c) else t).stored = t.stored :=
    State.ite_stored (State.post_stored ..) rfl
  have hended (b : Bool) (f : Ctx → Ctx) (x : TokVal) (slack : Option Nat) :
      ((if b then ((s.updCtx c f).postTraps c i).post c (((s.updCtx c f).postTraps c i).cancelRecord c)
        else (s.updCtx c f).postTraps c i).endCtx c x slack).stored = s.stored := by
    rw [State.endCtx_stored, hcancel, htraps]
  unfold State.finishInst
  dsimp only
  split
  · exact hended ..
  · refine State.ite_stored (hended ..) (State.ite_stored ((State.settle_stored ..).trans (htraps _)) ?_)
    split
    · exact (State.halt_stored ..).trans (htraps _)
    · exact htraps _

@[simp] theorem State.drained_stored (s : State) (c : CtxId) (r : Route) : (s.drained c r).stored = s.stored := by
  unfold State.drained
  split
  · rfl
  · exact State.ite_stored (State.finishInst_stored ..) rfl

/-! ### Waiters (R225, R230) -/

@[simp] theorem State.wake_stored (s : State) (n : Nat) (w : Waiter) (x : Word) : (s.wake n w x).stored = s.stored := by
  unfold State.wake
  split
  · split
    · exact State.answer_stored ..
    · rfl
  · rfl
  · split <;> rfl

@[simp] theorem State.wakeAll_stored (s : State) (f : FullAddr) (old new : Word) : (s.wakeAll f old new).stored = s.stored :=
  State.ite_stored rfl (foldl_keeps (π := State.stored) (fun t _ => t.wake_stored ..) _ _)

/-- A request served that is not late changes nothing stored. -/
theorem State.serve_stored {q : Req} (h : q.lateNow = false) : (s.serve q).stored = s.stored := by
  unfold State.serve
  split
  · rfl
  · simp only [h, Bool.false_and]
    rfl

end Sys2Proof.Machine
end

section
/-! SUPPORT. The events of counters (R144, R197, R224, R228, R229, R248, R252, R253): what each operation behind them answers in each of its cases. -/

namespace Sys2Proof.Machine
open Sys2Proof
variable {s t : State}

/-! ### A combined step (R228, R229) -/

theorem filterMap_of_map_eq {α β : Type} {f : α → Option β} {l : List α} {m : List β} (h : l.map f = m.map some) : l.filterMap f = m := by
  calc l.filterMap f = (l.map f).filterMap id := by rw [List.filterMap_map]; rfl
    _ = m := by rw [h, List.filterMap_map]; simp

theorem distinct_of_nodup {α : Type} [BEq α] [LawfulBEq α] {l : List α} (h : l.Nodup) : distinct l = l := by
  induction l with
  | nil => rfl
  | cons a l ih =>
    obtain ⟨ha, hl⟩ := List.nodup_cons.mp h
    simp [distinct, ha, ih hl]

section step
variable {pa : Nat} {a : Add} {as : List Add}

theorem State.combineAdds_fits (hat : ∀ b ∈ a :: as, s.addAt b = .home pa ∨ s.addAt b = .dead) (hord : inOrder (a :: as) = true)
    (hrel : s.addsReleased (s.releases.countP fun r => r.at_.same (a.place s.names.devNum)) (a :: as) = true)
    (hpass : s.passedOver pa (a :: as) = false) (hrank : s.stepOutranked pa (a :: as) = false) :
    s.combineAdds pa (a :: as) = some (s.applyAdds pa (a :: as)) := by
  have hfits : ((a :: as).all (s.addFits pa)) = true := List.all_eq_true.mpr fun b hb => by simpa [State.addFits] using hat b hb
  simp only [State.combineAdds, hfits, hord, hrel, hpass, hrank]
  rfl

theorem State.counterStep_combines {ids : List Nat} (hids : ids.map s.add? = (a :: as).map some) (hn : ids.Nodup)
    (hat : ∀ b ∈ a :: as, s.addAt b = .home pa ∨ s.addAt b = .dead) : s.counterStep pa ids = s.combineAdds pa (a :: as) := by
  have hadds : ids.filterMap s.add? = a :: as := filterMap_of_map_eq hids
  have hlen : (a :: as).length = ids.length := by simpa using (congrArg List.length hids).symm
  have hall : ¬ ((a :: as).length ≠ ids.length || decide ((distinct ids).length ≠ ids.length)) = true := by
    simp [hlen, distinct_of_nodup hn]
  simp only [State.counterStep, hadds, if_neg hall]
  cases as with
  | nil => rcases hat a (List.mem_cons_self ..) with h | h <;> simp only [h]
  | cons b as => rfl

/-- The adds of a step applied one after another, each to what the adds before it leave. -/
def State.applyEach (s : State) (durable : Bool) (slack : Nat) (late : Bool) (v : Word) (as : List Add) : State × Word :=
  as.foldl (fun acc x => (acc.1.applyAdd durable slack late acc.2 x, acc.2 + x.amount)) (s, v)

theorem State.applyEach_value (durable : Bool) (slack : Nat) (late : Bool) (v : Word) (as : List Add) :
    (s.applyEach durable slack late v as).2 = as.foldl (fun v b => v + b.amount) v := by
  induction as generalizing s v with
  | nil => rfl
  | cons b as ih => exact ih ..

theorem State.applyAdd_stored {durable late : Bool} {slack : Nat} {v : Word} {b : Add} (h : b.tag.2.2 = false) :
    (s.applyAdd durable slack late v b).stored = s.stored := by
  cases b with
  | req q p => exact State.serve_stored (q := q) h
  | hw a => rfl
  | acc x => exact State.ite_stored rfl rfl

theorem State.applyEach_stored {durable late : Bool} {slack : Nat} {v : Word} {as : List Add} (h : ∀ b ∈ as, b.tag.2.2 = false) :
    (s.applyEach durable slack late v as).1.stored = s.stored := by
  induction as generalizing s v with
  | nil => rfl
  | cons b as ih =>
    exact (ih fun c hc => h c (List.mem_cons_of_mem b hc)).trans (State.applyAdd_stored (h b List.mem_cons_self))

theorem State.noteRelease_stored (s : State) (b : Add) : (s.noteRelease b).stored = s.stored := State.ite_stored rfl rfl

@[simp] theorem State.drainAll_stored (s : State) (as : List Add) : (s.drainAll as).stored = s.stored := by
  refine foldl_keeps (π := State.stored) (fun t b => ?_) as s
  cases b with
  | req q p => exact State.drained_stored ..
  | hw a => rfl
  | acc x => rfl

/-- A word that a store of another word does not meet reads as before. -/
theorem Memory.word_setWord_of_outside {m : List Host.Cell} {b c : Nat} {x : Word} (w : Memory.wf m = true) (h : c + 8 ≤ b ∨ b + 8 ≤ c) :
    Memory.word (Memory.setWord m b x) c = Memory.word m c := by
  have hbytes : Memory.readN (Memory.setWord m b x) c 8 = Memory.readN m c 8 := by
    rw [Memory.readN_eq, Memory.readN_eq]
    refine List.map_congr_left fun k hk => Memory.read_writeN_of_outside w ?_
    rw [length_toBytesLE]
    have hk8 := List.mem_range.mp hk
    omega
  rw [Memory.word, Memory.readLE, hbytes]
  rfl

/-- A page entry that stands apart from a word leaves it as it was when its page becomes dirty. -/
theorem State.word_dirty {e c : Nat} (w : Memory.wf s.mem = true) (h : c + 8 ≤ e ∨ e + 8 ≤ c) :
    Memory.word (s.dirty e).mem c = Memory.word s.mem c := by
  unfold State.dirty
  dsimp only
  split
  · exact Memory.word_setWord_of_outside w h
  · rfl

/-- The counter at `pa`, whose page entry stands at `e`, takes the value that a step leaves. -/
def State.setCounter (r : State × Word) (pa e : Nat) : State := ({ r.1 with mem := Memory.setWord r.1.mem pa r.2 } : State).dirty e

theorem State.word_setCounter {r : State × Word} {e : Nat} (hw : Memory.wf r.1.mem = true) (hout : pa + 8 ≤ e ∨ e + 8 ≤ pa) :
    Memory.word (State.setCounter r pa e).mem pa = r.2 :=
  (State.word_dirty (s := { r.1 with mem := Memory.setWord r.1.mem pa r.2 }) (Memory.setWord_wf hw) hout).trans (Memory.word_setWord hw)

section plain
variable {d : Desc} {e : Nat} (hb : ∀ b ∈ a :: as, s.addAt b = .home pa ∧ b.scope ≠ .durable ∧ b.tag.2.2 = false)
  (hd : s.live? (a.place s.names.devNum).serial = some d) (he : s.leaf? d ((a.place s.names.devNum).ofs / pageBytes d.pgsz) = some e)
include hb hd he

/-- A combined step none of whose adds is durable or of a dead name (R228-R230). -/
theorem State.applyAdds_plain : ∃ slack late, ∃ r : State × Word, r = s.applyEach false slack late (Memory.word s.mem pa) (a :: as) ∧
    s.applyAdds pa (a :: as) = (((a :: as).foldl State.noteRelease (State.setCounter r pa e)).wakeAll (a.place s.names.devNum)
      (Memory.word s.mem pa) r.2).drainAll (a :: as) := by
  have hdead : ((a :: as).filter fun b => s.addAt b == .dead) = [] := List.filter_eq_nil_iff.mpr fun b h => by simp [(hb b h).1]
  have hgood : ((a :: as).filter fun b => s.addAt b != .dead) = a :: as := List.filter_eq_self.mpr fun b h => by simp [(hb b h).1]
  have hdur : ((a :: as).any fun x => x.scope == .durable) = false := List.any_eq_false.mpr fun b h => by simp [(hb b h).2.1]
  refine ⟨as.foldl (fun m x => min m x.tag.2.1) a.tag.2.1, (a :: as).any fun x => x.tag.2.2, _, rfl, ?_⟩
  unfold State.applyAdds
  rw [hdead, hgood]
  dsimp only [List.foldl_nil]
  rw [hdur, hd, Option.bind_some, he]
  rfl

/-- The counter then holds its value and all the amounts, where none of the adds is late (R228, R229). -/
theorem State.word_applyAdds (hw : Memory.wf s.mem = true) (hout : pa + 8 ≤ e ∨ e + 8 ≤ pa) :
    Memory.word (s.applyAdds pa (a :: as)).mem pa = (a :: as).foldl (fun v b => v + b.amount) (Memory.word s.mem pa) := by
  obtain ⟨slack, late, r, hr, happly⟩ := State.applyAdds_plain hb hd he
  have hkept : r.1.mem = s.mem := State.mem_of_stored (hr ▸ State.applyEach_stored fun b h => (hb b h).2.2)
  have hmem : (s.applyAdds pa (a :: as)).mem = (State.setCounter r pa e).mem := by
    rw [happly]
    exact State.mem_of_stored ((State.drainAll_stored ..).trans ((State.wakeAll_stored ..).trans
      (foldl_keeps (π := State.stored) State.noteRelease_stored (a :: as) _)))
  rw [hmem, State.word_setCounter (by rw [hkept, hw]) hout, hr, State.applyEach_value]

end plain

end step

/-! ### A durable step (R253) -/

theorem State.durableDone_some {pa l : Nat} {d : DurStep} {e : Desc}
    (hf : (s.durable.find? fun d => ((s.desc? d.at_.serial).bind fun e => s.frameByte e d.at_.ofs) == some pa) = some d)
    (he : s.desc? d.at_.serial = some e) (hl : s.leaf? e (d.at_.ofs / pageBytes e.pgsz) = some l) :
    ∃ t, s.durableDone pa = some (t, badBlock (Memory.word s.mem l) true) ∧
      t.stored = (Memory.setWord s.mem (tierAddr (ptePblk (Memory.word s.mem l)) + d.at_.ofs % pageBytes e.pgsz) (Memory.word s.mem pa),
        s.durable.filter fun x => !x.at_.same d.at_) := by
  simp only [State.durableDone, hf, he, hl]
  refine ⟨_, rfl, ?_⟩
  refine (foldl_keeps (π := State.stored) (fun t q => t.drained_stored ..) _ _).trans ((State.wakeAll_stored ..).trans
    ((foldl_keeps (π := State.stored) (fun t x => ?_) _ _).trans (foldl_keeps (π := State.stored) (fun t q => ?_) _ _)))
  · rfl
  · rfl

theorem badBlock_none {w : Word} {n : Nat} (h : n < tierBlocks) (hw : ptePblk w = n) : badBlock w true = none :=
  if_neg (by rw [Bool.true_and, decide_eq_true_iff, hw]; exact Nat.not_le.mpr h)

theorem badBlock_some {w : Word} {n : Nat} (h : tierBlocks ≤ n) (hw : ptePblk w = n) : badBlock w true = some n :=
  hw ▸ if_pos (by rw [Bool.true_and, decide_eq_true_iff, hw]; exact h)

theorem exec_durableStepComplete {pa : Nat} (h : s.durableDone pa = some (t, none)) : exec (.durableStepComplete pa) s = .next t := by
  show execDurableStepComplete pa s = .next t
  simp only [execDurableStepComplete, h]

theorem exec_durableStepComplete_stops {pa n : Nat} (h : s.durableDone pa = some (t, some n)) :
    exec (.durableStepComplete pa) s = .fault (.noTierBlock n) := by
  show execDurableStepComplete pa s = .fault (.noTierBlock n)
  simp only [execDurableStepComplete, h]

/-! ### A CADDR's old value (R224) -/

theorem State.updCtx_congr {c : CtxId} {f g : Ctx → Ctx} (h : ∀ x ∈ s.ctxs, x.id = c → f x = g x) : s.updCtx c f = s.updCtx c g := by
  have hmap : updWhere (fun x => x.id == c) f s.ctxs = updWhere (fun x => x.id == c) g s.ctxs := by
    refine List.map_congr_left fun x hx => ?_
    by_cases hc : x.id = c
    · simp only [hc, beq_self_eq_true, if_true, h x hx hc]
    · simp only [beq_eq_false_iff_ne.mpr hc, Bool.false_eq_true, if_false]
  rw [State.updCtx, hmap]
  rfl

section caddr
variable {r n : Nat} {q : Req} {x : Ctx} {h : Hdr} {m : MemLit} {sc : Scope} {k : Option (BitVec 4)}

/-- The value stands in register `n` of a context, and its request `r` no longer writes it (R224). -/
def Ctx.withReturned (y : Ctx) (r n : Nat) (w : Word) : Ctx :=
  { y with regs := { y.regs with g := Sparse.put 0 y.regs.g n w }, pending := y.pending.filter fun e => e.2 != r }

theorem State.caddrReturns_some (hr : s.req? r = some q) (hi : q.instr = .caddr h m sc k) (hs : q.stage = .answer) (ha : s.streamAhead q = false)
    (hl : q.lateNow = false) (hz : q.replySlack ≠ 0) (hx : s.ctx? q.latch.ctx = some x) (hp : (x.pending.find? fun e => e.2 == r) = some (n, r))
    (hu : (s.ctxs.filter fun y => y.id == x.id) = [x]) :
    s.caddrReturns r = some (((s.updCtx q.latch.ctx fun y => y.withReturned r n q.value).dropReq r).drained q.latch.ctx q.latch.route) := by
  have hid : x.id = q.latch.ctx := by simpa using List.find?_some hx
  have hone : ∀ y ∈ s.ctxs, y.id = q.latch.ctx → y = x := fun y hy hyid =>
    List.mem_singleton.mp (hu ▸ List.mem_filter.mpr ⟨hy, beq_iff_eq.mpr (hyid.trans hid.symm)⟩)
  have hgo : ¬ (q.stage != .answer || s.streamAhead q) = true := by simp [hs, ha]
  have hlate : ¬ (q.lateNow || decide (q.replySlack = 0)) = true := by simp [hl, hz]
  simp only [State.caddrReturns, hr, hi, if_neg hgo, if_neg hlate]
  rw [State.updCtx_congr (g := fun y => y.withReturned r n q.value) fun y hy hyid => ?_]
  rw [hone y hy hyid, hp]
  rfl

end caddr

/-! ### Releases recorded at a counter (R248) -/

theorem State.promoted_some {n : Nat} {k : Task} (hk : s.task? n = some k) (hp : k.promote = true) (hd : k.dep.dev = s.names.devNum)
    (ha : ∀ r ∈ s.releases, r.at_.same k.dep = true → s.answered r = true) :
    s.promoted n = some (({ s with releases := s.releases.filter fun r => !r.at_.same k.dep } : State).updTask n
      fun u => { u with promote := false }) := by
  have hall : (k.promote && k.dep.dev == s.names.devNum && (s.releases.filter fun r => r.at_.same k.dep).all s.answered) = true := by
    have hall : ((s.releases.filter fun r => r.at_.same k.dep).all s.answered) = true := List.all_eq_true.mpr fun r hr => by
      obtain ⟨hmem, hsame⟩ := List.mem_filter.mp hr
      exact ha r hmem hsame
    simp [hp, hd, hall]
  simp only [State.promoted, hk]
  exact if_pos hall

/-! ### Group loads (R144, R197, R411) -/

/-- A bit of lanes packed is the lane's. -/
theorem testBit_packLanes {w i : Nat} (hi : i < w) (ls : List Word) (k : Nat) :
    (packLanes w ls).testBit (w * k + i) = (ls.getD k 0).getLsbD i := by
  induction ls generalizing k with
  | nil => simp [packLanes]
  | cons x ls ih =>
    rw [packLanes, Nat.add_comm, Nat.testBit_two_pow_mul_add _ (Nat.mod_lt _ (Nat.two_pow_pos w))]
    cases k with
    | zero => simp [hi, Nat.testBit_mod_two_pow, BitVec.getLsbD]
    | succ k =>
      rw [if_neg (by rw [Nat.mul_succ]; omega), show w * (k + 1) + i - w = w * k + i by rw [Nat.mul_succ]; omega, ih]
      rfl

/-- A lane of a vector whose lanes are given. -/
theorem extractLsb'_ofLanes {w k : Nat} (hk : w * k + w ≤ 1024) (ls : List Word) : (ofLanes w ls).extractLsb' (w * k) w = (ls.getD k 0).setWidth w := by
  refine BitVec.eq_of_getLsbD_eq fun i hi => ?_
  have hin : w * k + i < 1024 := by omega
  rw [BitVec.getLsbD_extractLsb', BitVec.getLsbD_setWidth, ofLanes, BitVec.getLsbD_ofNat, testBit_packLanes hi]
  simp [hi, hin]

/-- The lowest member of a mask is its lowest bit. -/
theorem lowestBit_eq {m : Word} {j : Nat} (hj : j < 16) (hm : m.getLsbD j = true) (hl : ∀ i, i < j → m.getLsbD i = false) : lowestBit m = j := by
  have hfind : ((List.range 16).find? fun i => m.getLsbD i) = some j := by
    rw [List.find?_range_eq_some]
    exact ⟨hm, List.mem_range.mpr hj, fun i hi => by simp [hl i hi]⟩
  rw [lowestBit, hfind]
  rfl

/-- The values of the members that returned, a member's lanes each (R197). -/
def Req.memberLanes (q : Req) : List (List Word) :=
  (distinct (q.pieces.map fun p => p.lane / 8)).map fun j =>
    (List.range 32).map fun k => leWord (((piecesBytes (q.pieces.filter fun p => p.lane / 8 == j)).drop (2 * k)).take 2)

section mldred
variable {r : Nat} {q : Req} {h : Hdr} {l : BitVec 5} {o : BitVec 32} (hr : s.req? r = some q) (hi : q.instr = .mldred h l o)
  (hs : q.stage = .homes) (hp : ∀ p ∈ q.pieces, p.stage = .done)
include hr hi hs hp

theorem State.reduceNow_failed {j : Nat} (hj : j < 16) (hm : q.value.getLsbD j = true) (hl : ∀ i, i < j → q.value.getLsbD i = false) :
    s.reduceNow r = some ((s.groupFault q (BitVec.ofNat 64 (q.latch.opL.word.toNat % 256 + 256 * j))).answer q .null .null 0
      q.replySlack q.lateNow) := by
  have hgo : ¬ (q.stage != .homes || q.pieces.any fun p => p.stage != .done) = true := by simpa [hs] using hp
  have hne : q.value ≠ 0 := fun h0 => by simp [h0] at hm
  simp only [State.reduceNow, hr, hi, if_neg hgo, if_pos hne, lowestBit_eq hj hm hl, groupInfo]

theorem State.reduceNow_returned (hv : q.value = 0) : ∃ (v : Vec) (f : Word),
    (∀ k, k < 32 → v.extractLsb' (32 * k) 32 = (reduceLane q.memberLanes k).val.setWidth 32) ∧
    f = ((List.range 32).map fun k => (reduceLane q.memberLanes k).flags).foldl (fun a b => a ||| b) 0 ∧
    s.reduceNow r = some ((s.updOutAny q.latch.ctx q.latch.route fun o => { o with flags := o.flags ||| f }).answer q (.vector v) (.vector v) 0
      q.replySlack q.lateNow) := by
  have hgo : ¬ (q.stage != .homes || q.pieces.any fun p => p.stage != .done) = true := by simpa [hs] using hp
  have hz : ¬ q.value ≠ 0 := fun h => h hv
  refine ⟨ofLanes 32 (((List.range 32).map (reduceLane q.memberLanes)).map fun x => x.val),
    orFlags ((List.range 32).map (reduceLane q.memberLanes)), fun k hk => ?_, ?_, ?_⟩
  · have hget : (((List.range 32).map (reduceLane q.memberLanes)).map fun x => x.val).getD k 0 = (reduceLane q.memberLanes k).val := by
      simp [List.getD_eq_getElem?_getD, hk]
    rw [extractLsb'_ofLanes (by omega), hget]
  · rw [orFlags, List.foldl_map, List.foldl_map]
  · simp only [State.reduceNow, hr, hi, if_neg hgo, if_neg hz]
    rfl

end mldred

/-! ### PERSIST (R252) -/

theorem State.persistDone_some {r : Nat} {q : Req} {h : Hdr} {m : MemLit} {k : BitVec 4} (hr : s.req? r = some q) (hi : q.instr = .persist h m k)
    (hs : q.stage = .homes) (hl : ∀ p ∈ q.pieces, p.lines ≤ q.value.toNat) (hb : s.persistsBefore q = false) :
    s.persistDone r = some ((((s.serve q).dropReq r).addKAny q.latch.ctx k.toNat 1).drained q.latch.ctx q.latch.route) := by
  have hgo : (q.stage == .homes && q.linesDone && !s.persistsBefore q) = true := by simpa [hs, hb, Req.linesDone] using hl
  simp only [State.persistDone, hr, hi, if_pos hgo]

/-- Settles O53: each event is one operation of the model, whose cases are above; what a step or a durable step wakes and ends leaves memory as its
store left it. -/
theorem counterEvents : Obligations.CounterEvents := by
  unfold Obligations.CounterEvents
  refine ⟨?step, ?durable, ?caddr, ?promote, ?mldred, ?persist⟩
  case step =>
    intro s pa ids a as hids hn hat hord hrel hpass hrank
    refine ⟨next_getD ((State.counterStep_combines hids hn hat).trans (State.combineAdds_fits hat hord hrel hpass hrank)), ?_⟩
    intro d e hb hw hd he hout
    exact State.word_applyAdds hb hd he hw hout
  case durable =>
    intro s pa d e l hf he hl hw blk
    have hblk : ptePblk (Memory.word s.mem l) = blk := rfl
    obtain ⟨t, ht, hstored⟩ := State.durableDone_some hf he hl
    refine ⟨fun hlt => ⟨t, exec_durableStepComplete (badBlock_none hlt hblk ▸ ht), congrArg Prod.snd hstored, ?_⟩,
      fun hge => exec_durableStepComplete_stops (badBlock_some hge hblk ▸ ht)⟩
    have hmem : t.mem = Memory.setWord s.mem (tierAddr blk + d.at_.ofs % pageBytes e.pgsz) (Memory.word s.mem pa) := congrArg Prod.fst hstored
    rw [hmem, Memory.word_setWord hw]
  case caddr =>
    intro s r n q x h m sc k hr hi hs ha hl hz hx hp hu
    exact next_getD (State.caddrReturns_some hr hi hs ha hl hz hx hp hu)
  case promote =>
    intro s n k hk hp hd ha
    exact next_getD (State.promoted_some hk hp hd ha)
  case mldred =>
    intro s r q h l o hr hi hs hp
    refine ⟨fun j hj hm hl => next_getD (State.reduceNow_failed hr hi hs hp hj hm hl), fun hv _ => ?_⟩
    obtain ⟨v, f, hlanes, hflags, hreduce⟩ := State.reduceNow_returned hr hi hs hp hv
    exact ⟨v, f, hlanes, hflags, next_getD hreduce⟩
  case persist =>
    intro s r q h m k hr hi hs hl hb
    exact next_getD (State.persistDone_some hr hi hs hl hb)

end Sys2Proof.Machine
end

section
/-! SUPPORT. CHSET, CHTAB and SCLW (R168, R319): the values a channel entry may hold, and what each record answers. -/

namespace Sys2Proof.Machine
open Sys2Proof
variable {s : State}

/-! ### Fields and lanes -/

theorem bits_eq_iff {w : Nat} {x : BitVec w} {lo n k : Nat} (hk : k < 2 ^ n) : bits x lo n = k ↔ x.extractLsb' lo n = BitVec.ofNat n k := by
  rw [← BitVec.toNat_inj, BitVec.toNat_ofNat, Nat.mod_eq_of_lt hk, bits]

/-- Consecutive lanes of a vector, taken from its list of lanes. -/
theorem take_drop_lanesOf {w a n : Nat} (v : Vec) (h : a + n ≤ 1024 / w) :
    ((lanesOf w v).drop a).take n = (List.range n).map fun k => lane w v (a + k) := by
  refine List.ext_getElem (by simp [lanesOf]; omega) fun k hk hk' => ?_
  simp [lanesOf]

theorem setWidth_lane {w : Nat} (v : Vec) (k : Nat) (h : w ≤ 64) : (lane w v k).setWidth w = v.extractLsb' (w * k) w := by
  rw [lane, BitVec.setWidth_setWidth_of_le _ h, BitVec.setWidth_eq]

/-! ### The values of R168 -/

/-- A value that R168 allows, with bits 15:13 and 4 clear: a T8 or T6 element, an F32 one, or an 8-bit integer one. -/
def ChanAllowed (v : BitVec 16) : Prop :=
  v.extractLsb' 13 3 = 0 ∧ v.getLsbD 4 = false ∧
  (v.extractLsb' 5 5 = 0x0C ∨ v.extractLsb' 5 5 = 0x0D ∨ (v.extractLsb' 5 5 = 0x0A ∧ v.getLsbD 10 = false ∧ v.extractLsb' 11 2 = 0) ∨
    ((v.extractLsb' 5 5 = 0x08 ∨ v.extractLsb' 5 5 = 0x09) ∧ v.getLsbD 10 = false ∧ v.getLsbD 12 = false))

/-- A field of two bits is below 2 exactly when its upper bit is clear. -/
theorem bits_lt_two_iff (v : BitVec 16) : bits v 11 2 < 2 ↔ v.getLsbD 12 = false := by
  have hbit : v.getLsbD 12 = (v.extractLsb' 11 2).getLsbD 1 := by simp
  rw [hbit, bits]
  generalize v.extractLsb' 11 2 = q
  revert q
  decide

theorem chanOk_iff (v : BitVec 16) : chanOk v = true ↔ ChanAllowed v := by
  have hfmt : ∀ k < 32, bits v 5 5 = k ↔ v.extractLsb' 5 5 = BitVec.ofNat 5 k := fun k hk => bits_eq_iff hk
  have hsub : bits v 11 2 = 0 ↔ v.extractLsb' 11 2 = 0 := bits_eq_iff (by decide)
  have hres : bits v 13 3 = 0 ↔ v.extractLsb' 13 3 = 0 := bits_eq_iff (by decide)
  have h8 := hfmt 8 (by decide)
  have h9 := hfmt 9 (by decide)
  have h10 := hfmt 10 (by decide)
  have h12 := hfmt 12 (by decide)
  have h13 := hfmt 13 (by decide)
  unfold chanOk ChanAllowed
  rw [Bool.and_eq_true, Bool.and_eq_true, beq_iff_eq, hres, Bool.not_eq_true', and_assoc]
  refine and_congr_right fun _ => and_congr_right fun _ => ?_
  rw [← hsub, ← bits_lt_two_iff]
  split <;> simp_all

/-! ### The records -/

/-- Executing the record holds writes of the channel table or scale registers with its firing (R319), and sends 1. -/
def HoldsChan (i : Instr) (s : State) (ws : List ChanWrite) : Prop :=
  exec i s = .next (s.after (((s.begun i).holdChan ws).result i (.scalar 1)))

/-- Operands with which CHSET writes its entry. -/
def chsetGood (l r : Word) : Prop := 1 ≤ l.toNat ∧ l.toNat ≤ 31 ∧ r.toNat < 2 ^ 16 ∧ chanOk (r.setWidth 16)

/-- The entries that CHTAB would write. -/
def chtabEntries (s : State) : List (BitVec 16) := (List.range 31).map fun k => s.latch.opL.vec.extractLsb' (16 * (k + 1)) 16

theorem chtabEntries_eq : (((lanesOf 16 s.latch.opL.vec).drop 1).take 31).map (fun x => x.setWidth 16) = chtabEntries s := by
  rw [take_drop_lanesOf _ (by decide), List.map_map]
  refine List.map_congr_left fun k _ => ?_
  rw [Function.comp_apply, setWidth_lane _ _ (by decide), Nat.add_comm]

theorem chtabEntries_all : (chtabEntries s).all chanOk = true ↔
    ∀ k, 1 ≤ k → k < 32 → ChanAllowed (s.latch.opL.vec.extractLsb' (16 * k) 16) := by
  simp only [chtabEntries, List.all_map, List.all_eq_true, List.mem_range, Function.comp_apply, chanOk_iff]
  refine ⟨fun hk k h1 h2 => ?_, fun hk k h1 => hk (k + 1) (by omega) (by omega)⟩
  obtain ⟨j, rfl⟩ := Nat.exists_eq_add_of_le' h1
  exact hk j (by omega)

section
variable {h : Hdr} {sreg qmask : BitVec 4}

theorem exec_chset_writes (hr : FiresReal (.chset h) s) (hg : chsetGood s.latch.opL.word s.latch.opR.word) :
    HoldsChan (.chset h) s [.entry s.latch.opL.word.toNat (s.latch.opR.word.setWidth 16)] := by
  rw [HoldsChan, exec_real rfl hr, State.begun_latch]
  exact congrArg (fun t => Host.Outcome.next (s.after t)) (if_pos hg)

theorem exec_chset_refuses (hr : FiresReal (.chset h) s) (hg : ¬ chsetGood s.latch.opL.word s.latch.opR.word) :
    Sends (.chset h) s (.scalar 0) := by
  rw [Sends, exec_real rfl hr, State.begun_latch]
  exact congrArg (fun t => Host.Outcome.next (s.after t)) (if_neg hg)

theorem exec_chtab_writes (hr : FiresReal (.chtab h) s) (hg : (chtabEntries s).all chanOk = true) :
    HoldsChan (.chtab h) s [.table (chtabEntries s)] := by
  rw [HoldsChan, exec_real rfl hr, State.begun_latch, chtabEntries_eq]
  exact congrArg (fun t => Host.Outcome.next (s.after t)) (if_pos hg)

theorem exec_chtab_refuses (hr : FiresReal (.chtab h) s) (hg : ¬ (chtabEntries s).all chanOk = true) : Sends (.chtab h) s (.scalar 0) := by
  rw [Sends, exec_real rfl hr, State.begun_latch, chtabEntries_eq]
  exact congrArg (fun t => Host.Outcome.next (s.after t)) (if_neg hg)

theorem exec_sclw (hr : FiresReal (.sclw h sreg qmask) s) : HoldsChan (.sclw h sreg qmask) s
    (((List.range 4).filter fun q => qmask.getLsbD q).map fun q => .scale sreg.toNat q (s.latch.opL.vec.extractLsb' (32 * q) 20)) := by
  rw [HoldsChan, exec_real rfl hr, State.begun_latch]

end

/-- Settles O34: each record runs as one firing, and an entry's value is good exactly when `chanOk` says so. -/
theorem channelWrites : Obligations.ChannelWrites := by
  intro s h sreg qmask
  refine ⟨fun hr => ?chset, fun hr => ?chtab, fun hr => ⟨_, exec_sclw hr, ?sclw, ?only⟩⟩
  case chset =>
    have hg : chsetGood s.latch.opL.word s.latch.opR.word ↔ 1 ≤ s.latch.opL.word.toNat ∧ s.latch.opL.word.toNat ≤ 31 ∧
        s.latch.opR.word.toNat < 2 ^ 16 ∧ ChanAllowed (s.latch.opR.word.setWidth 16) := by rw [← chanOk_iff, chsetGood]
    exact ⟨fun hgood => exec_chset_writes hr (hg.mpr hgood), fun hbad => exec_chset_refuses hr (mt hg.mp hbad)⟩
  case chtab =>
    exact ⟨fun hgood => exec_chtab_writes hr (chtabEntries_all.mpr hgood), fun hbad => exec_chtab_refuses hr (mt chtabEntries_all.mp hbad)⟩
  case sclw =>
    intro q hq hm
    exact List.mem_map.mpr ⟨q, by simpa using ⟨hq, hm⟩, rfl⟩
  case only =>
    intro w hw
    obtain ⟨q, hq, rfl⟩ := List.mem_map.mp hw
    obtain ⟨hlt, hm⟩ := List.mem_filter.mp hq
    exact ⟨q, List.mem_range.mp hlt, hm, rfl⟩

end Sys2Proof.Machine
end

section
/-! SUPPORT. Rounding to an integer (R160): a magnitude is a real number, and cutting off its low bits and adding one where the mode says so gives
the integer that `Nearest` states. -/

namespace Sys2Proof.Machine
open Sys2Proof

/-! ### Dyadic magnitudes -/

/-- `m` times 2 to the `e`, as a real number. -/
noncomputable def dyadic (m : Nat) (e : Int) : ℝ := m * 2 ^ e

theorem dyadic_eq_shift {m : Nat} {e g : Int} (h : g ≤ e) : dyadic m e = dyadic (m * 2 ^ (e - g).toNat) g := by
  have he : (2 : ℝ) ^ e = 2 ^ (e - g).toNat * 2 ^ g := by
    rw [← zpow_natCast, ← zpow_add₀ two_ne_zero, Int.toNat_of_nonneg (by omega), sub_add_cancel]
  rw [dyadic, dyadic, he]
  push_cast
  ring

theorem dyadic_le_iff {m n : Nat} {g : Int} : dyadic m g ≤ dyadic n g ↔ m ≤ n := by
  rw [dyadic, dyadic, mul_le_mul_iff_left₀ (by positivity), Nat.cast_le]

theorem dyadic_lt_iff {m n : Nat} {g : Int} : dyadic m g < dyadic n g ↔ m < n := by
  rw [← not_le, dyadic_le_iff, not_le]

theorem dyadic_pow {k : Nat} {g : Int} : dyadic (2 ^ k) g = 2 ^ (g + k) := by
  rw [dyadic, zpow_add₀ two_ne_zero, zpow_natCast]
  push_cast
  ring

theorem dyadicCmp_lt {a b : Nat} {x y : Int} : dyadicCmp a x b y = .lt ↔ dyadic a x < dyadic b y := by
  rw [dyadicCmp, compare_lt_iff_lt, dyadic_eq_shift (min_le_left x y), dyadic_eq_shift (min_le_right x y), dyadic_lt_iff]

theorem dyadicCmp_gt {a b : Nat} {x y : Int} : dyadicCmp a x b y = .gt ↔ dyadic b y < dyadic a x := by
  rw [dyadicCmp, compare_gt_iff_gt, dyadic_eq_shift (min_le_left x y), dyadic_eq_shift (min_le_right x y), dyadic_lt_iff]

/-- `cmp k p` is the order of `k` times 2 to the `p` and the magnitude `x`. -/
structure Orders (cmp : Nat → Int → Ordering) (x : ℝ) : Prop where
  lt : ∀ k p, cmp k p = .lt ↔ dyadic k p < x
  gt : ∀ k p, cmp k p = .gt ↔ x < dyadic k p

theorem orders_dyadicCmp (m : Nat) (e : Int) : Orders (fun k p => dyadicCmp k p m e) (dyadic m e) :=
  ⟨fun _ _ => dyadicCmp_lt, fun _ _ => dyadicCmp_gt⟩

section orders
variable {cmp : Nat → Int → Ordering} {x : ℝ} (h : Orders cmp x)
include h

theorem Orders.ne_gt {k : Nat} {p : Int} : cmp k p ≠ .gt ↔ dyadic k p ≤ x := by rw [Ne, h.gt, not_lt]

theorem Orders.ne_lt {k : Nat} {p : Int} : cmp k p ≠ .lt ↔ x ≤ dyadic k p := by rw [Ne, h.lt, not_lt]

theorem Orders.eq {k : Nat} {p : Int} : cmp k p = .eq ↔ x = dyadic k p := by
  rw [le_antisymm_iff (α := ℝ), ← h.ne_lt, ← h.ne_gt]
  cases cmp k p <;> simp

end orders

theorem dyadicCmp_eq {a b : Nat} {x y : Int} : dyadicCmp a x b y = .eq ↔ dyadic a x = dyadic b y := by
  rw [(orders_dyadicCmp b y).eq, eq_comm]

/-! ### The integer a mode takes a magnitude to -/

/-- `n` is the integer that the mode makes of the magnitude `y` (R160). -/
def NearTo (rm : Rm) (neg : Bool) (y : ℝ) (n : Nat) : Prop :=
  match rm with
  | .rz => (n : ℝ) ≤ y ∧ y < n + 1
  | .ru => if neg then (n : ℝ) ≤ y ∧ y < n + 1 else y ≤ n ∧ (n : ℝ) < y + 1
  | .rd => if neg then y ≤ n ∧ (n : ℝ) < y + 1 else (n : ℝ) ≤ y ∧ y < n + 1
  | .rne => y ≤ n + 1 / 2 ∧ (n : ℝ) ≤ y + 1 / 2 ∧ (y = n + 1 / 2 ∨ (n : ℝ) = y + 1 / 2 → n % 2 = 0)
  | .rna => y < n + 1 / 2 ∧ (n : ℝ) ≤ y + 1 / 2

variable {rm : Rm} {neg : Bool} {x y : ℝ} {n k : Nat}

/-- A mode goes less than one unit up or down, and nowhere from an integer. -/
theorem NearTo.le (h : NearTo rm neg y n) (hk : y ≤ k) : n ≤ k := by
  have hlt : (n : ℝ) < k + 1 := by
    cases rm <;> simp only [NearTo] at h
    case ru | rd => split at h <;> linarith [h.1, h.2]
    case rne => linarith [h.2.1]
    all_goals linarith [h.1, h.2]
  exact Nat.lt_succ_iff.mp (by exact_mod_cast hlt)

theorem NearTo.ge (h : NearTo rm neg y n) (hk : k ≤ y) : k ≤ n := by
  have hlt : (k : ℝ) < n + 1 := by
    cases rm <;> simp only [NearTo] at h
    case ru | rd => split at h <;> linarith [h.1, h.2]
    all_goals linarith [h.1]
  exact Nat.lt_succ_iff.mp (by exact_mod_cast hlt)

theorem NearTo.eq_of_natCast (h : NearTo rm neg (k : ℝ) n) : n = k := Nat.le_antisymm (h.le le_rfl) (h.ge le_rfl)

/-- Two integers that a mode makes of one magnitude are not neighbours. -/
theorem NearTo.not_succ (h : NearTo rm neg y n) (h' : NearTo rm neg y (n + 1)) : False := by
  cases rm <;> simp only [NearTo] at h h' <;> push_cast at h'
  case rne =>
    have hy : y = n + 1 / 2 := by linarith [h.1, h'.2.1]
    have h0 := h.2.2 (.inl hy)
    have h1 := h'.2.2 (.inr (by linarith))
    omega
  case ru | rd => split at h <;> simp_all <;> linarith [h.1, h.2, h'.1, h'.2]
  all_goals linarith [h.1, h.2, h'.1, h'.2]

theorem NearTo.unique (h : NearTo rm neg y n) (h' : NearTo rm neg y k) : n = k := by
  have hbound : ∀ {a b : Nat}, NearTo rm neg y a → NearTo rm neg y b → ¬ a < b := by
    intro a b ha hb hab
    rcases lt_or_ge y (a + 1) with hy | hy
    · have hle := hb.le (k := a + 1) (by push_cast; exact hy.le)
      obtain rfl : b = a + 1 := by omega
      exact ha.not_succ hb
    · have hge := ha.ge (k := a + 1) (by push_cast; exact hy)
      omega
  exact Nat.le_antisymm (not_lt.mp (hbound h' h)) (not_lt.mp (hbound h h'))

theorem dyadic_le_iff_div {k : Nat} {g : Int} : dyadic k g ≤ x ↔ (k : ℝ) ≤ x / 2 ^ g := by
  rw [dyadic, le_div_iff₀ (by positivity)]

theorem le_dyadic_iff_div {k : Nat} {g : Int} : x ≤ dyadic k g ↔ x / 2 ^ g ≤ k := by
  rw [dyadic, div_le_iff₀ (by positivity)]

theorem dyadic_half {k : Nat} {g : Int} : dyadic k (g - 1) = k / 2 * 2 ^ g := by
  rw [dyadic, zpow_sub_one₀ two_ne_zero]
  ring

theorem dyadic_half_le_iff {k : Nat} {g : Int} : dyadic k (g - 1) ≤ x ↔ (k : ℝ) / 2 ≤ x / 2 ^ g := by
  rw [dyadic_half, le_div_iff₀ (by positivity)]

theorem le_dyadic_half_iff {k : Nat} {g : Int} : x ≤ dyadic k (g - 1) ↔ x / 2 ^ g ≤ (k : ℝ) / 2 := by
  rw [dyadic_half, div_le_iff₀ (by positivity)]


theorem nearest_iff {cmp : Nat → Int → Ordering} {g : Int} (h : Orders cmp x) (hx : 0 ≤ x) :
    Nearest rm neg cmp n g ↔ NearTo rm neg (x / 2 ^ g) n := by
  have hy : 0 ≤ x / 2 ^ g := by positivity
  have hpos : n ≠ 0 → 1 ≤ n := Nat.one_le_iff_ne_zero.mpr
  have hbelow : (cmp n g ≠ .gt ∧ cmp (n + 1) g = .gt) ↔ (n : ℝ) ≤ x / 2 ^ g ∧ x / 2 ^ g < n + 1 := by
    rw [h.ne_gt, h.gt, ← not_le, dyadic_le_iff_div, dyadic_le_iff_div, not_le]
    push_cast
    rfl
  have habove : (cmp n g ≠ .lt ∧ (n = 0 ∨ cmp (n - 1) g = .lt)) ↔ x / 2 ^ g ≤ n ∧ (n : ℝ) < x / 2 ^ g + 1 := by
    rw [h.ne_lt, h.lt, ← not_le, le_dyadic_iff_div, le_dyadic_iff_div, not_le]
    rcases Nat.eq_zero_or_pos n with rfl | hn
    · simp
      intro _; linarith
    · have hc : ((n - 1 : Nat) : ℝ) = n - 1 := by push_cast [hn]; ring
      simp [hc, hn.ne', sub_lt_iff_lt_add]
  have hmid : ∀ k : Nat, dyadic k (g - 1) = x ↔ x / 2 ^ g = k / 2 := by
    intro k
    rw [le_antisymm_iff, dyadic_half_le_iff, le_dyadic_half_iff, and_comm, ← le_antisymm_iff]
  have hup : cmp (2 * n + 1) (g - 1) ≠ .lt ↔ x / 2 ^ g ≤ n + 1 / 2 := by
    rw [h.ne_lt, le_dyadic_half_iff]
    push_cast
    rw [show ((2 * n + 1 : ℝ)) / 2 = n + 1 / 2 by ring]
  have hupeq : cmp (2 * n + 1) (g - 1) = .eq ↔ x / 2 ^ g = n + 1 / 2 := by
    rw [h.eq, eq_comm, hmid]
    push_cast
    rw [show ((2 * n + 1 : ℝ)) / 2 = n + 1 / 2 by ring]
  have hupgt : cmp (2 * n + 1) (g - 1) = .gt ↔ x / 2 ^ g < n + 1 / 2 := by
    rw [lt_iff_le_and_ne, ← hup, Ne, Ne, ← hupeq]
    cases cmp (2 * n + 1) (g - 1) <;> simp
  have hpred : n ≠ 0 → ((2 * n - 1 : Nat) : ℝ) / 2 = n - 1 / 2 := by
    intro hn
    have : 1 ≤ 2 * n := by omega
    push_cast [this]
    ring
  have hdown : (n = 0 ∨ cmp (2 * n - 1) (g - 1) ≠ .gt) ↔ (n : ℝ) ≤ x / 2 ^ g + 1 / 2 := by
    rcases eq_or_ne n 0 with rfl | hn
    · simp
      linarith
    · rw [h.ne_gt, dyadic_half_le_iff, hpred hn, sub_le_iff_le_add]
      simp [hn]
  have hdowneq : (n ≠ 0 ∧ cmp (2 * n - 1) (g - 1) = .eq) ↔ (n : ℝ) = x / 2 ^ g + 1 / 2 := by
    rcases eq_or_ne n 0 with rfl | hn
    · simp
      linarith
    · rw [h.eq, eq_comm, hmid, hpred hn, eq_sub_iff_add_eq, eq_comm]
      simp [hn]
  cases rm <;> simp only [Nearest, NearTo, hbelow, habove, hup, hupeq, hupgt, hdown, hdowneq]

/-! ### The floor of a magnitude and what lies above it -/

/-- A magnitude split into its floor, and whether the rest is above one half, exactly one half, and nonzero. -/
structure Split (y : ℝ) (sp : Nat × Bool × Bool × Bool) : Prop where
  le : (sp.1 : ℝ) ≤ y
  lt : y < sp.1 + 1
  above : sp.2.1 = true ↔ sp.1 + 1 / 2 < y
  half : sp.2.2.1 = true ↔ y = sp.1 + 1 / 2
  inexact : sp.2.2.2 = true ↔ y ≠ sp.1

/-- The integer that a mode makes of a split magnitude. -/
def roundUp (rm : Rm) (neg : Bool) (sp : Nat × Bool × Bool × Bool) : Nat :=
  if Rm_up rm neg (sp.1 % 2 == 1) sp.2.1 sp.2.2.1 sp.2.2.2 then sp.1 + 1 else sp.1

variable {sp : Nat × Bool × Bool × Bool}

/-- Away from zero: the floor of an integer, the next integer of any other magnitude. -/
theorem Split.ceil (h : Split y sp) : y ≤ (if sp.2.2.2 then sp.1 + 1 else sp.1 : Nat) ∧
    ((if sp.2.2.2 then sp.1 + 1 else sp.1 : Nat) : ℝ) < y + 1 := by
  split
  next hi => exact ⟨by push_cast; exact h.lt.le, by push_cast; linarith [lt_of_le_of_ne h.le (h.inexact.mp hi).symm]⟩
  next hi =>
    have hy : y = sp.1 := not_not.mp (mt h.inexact.mpr hi)
    exact ⟨hy.le, by linarith⟩

theorem Split.below_half (h : Split y sp) (hy : y < sp.1 + 1 / 2) : sp.2.1 = false ∧ sp.2.2.1 = false :=
  ⟨Bool.eq_false_iff.mpr (mt h.above.mp hy.not_gt), Bool.eq_false_iff.mpr (mt h.half.mp hy.ne)⟩

theorem Split.at_half (h : Split y sp) (hy : y = sp.1 + 1 / 2) : sp.2.1 = false ∧ sp.2.2.1 = true :=
  ⟨Bool.eq_false_iff.mpr (mt h.above.mp hy.not_gt), h.half.mpr hy⟩

theorem Split.nearTo (h : Split y sp) : NearTo rm neg y (roundUp rm neg sp) := by
  have hle := h.le
  have hlt := h.lt
  have hcast : ((sp.1 + 1 : Nat) : ℝ) = sp.1 + 1 := by push_cast; rfl
  cases rm
  case rz => exact ⟨hle, hlt⟩
  case ru =>
    cases neg
    · simpa [NearTo, roundUp, Rm_up] using h.ceil
    · have hn : roundUp .ru true sp = sp.1 := by simp [roundUp, Rm_up]
      rw [hn]
      exact ⟨hle, hlt⟩
  case rd =>
    cases neg
    · have hn : roundUp .rd false sp = sp.1 := by simp [roundUp, Rm_up]
      rw [hn]
      exact ⟨hle, hlt⟩
    · simpa [NearTo, roundUp, Rm_up] using h.ceil
  case rne =>
    rcases lt_trichotomy y (sp.1 + 1 / 2) with hy | hy | hy
    · obtain ⟨ha, hh⟩ := h.below_half hy
      have hn : roundUp .rne neg sp = sp.1 := by simp [roundUp, Rm_up, ha, hh]
      rw [hn]
      exact ⟨hy.le, by linarith, by rintro (he | he) <;> linarith⟩
    · obtain ⟨ha, hh⟩ := h.at_half hy
      rcases Nat.mod_two_eq_zero_or_one sp.1 with hodd | hodd
      · have hn : roundUp .rne neg sp = sp.1 := by simp [roundUp, Rm_up, ha, hh, hodd]
        rw [hn]
        exact ⟨hy.le, by linarith, fun _ => hodd⟩
      · have hn : roundUp .rne neg sp = sp.1 + 1 := by simp [roundUp, Rm_up, ha, hh, hodd]
        rw [hn]
        exact ⟨by linarith, by linarith, fun _ => by omega⟩
    · have hn : roundUp .rne neg sp = sp.1 + 1 := by simp [roundUp, Rm_up, h.above.mpr hy]
      rw [hn]
      exact ⟨by linarith, by linarith, by rintro (he | he) <;> linarith⟩
  case rna =>
    rcases lt_or_ge y (sp.1 + 1 / 2) with hy | hy
    · obtain ⟨ha, hh⟩ := h.below_half hy
      have hn : roundUp .rna neg sp = sp.1 := by simp [roundUp, Rm_up, ha, hh]
      rw [hn]
      exact ⟨hy, by linarith⟩
    · have hup : (sp.2.1 || sp.2.2.1) = true := by
        rcases hy.eq_or_lt with he | hl
        · simp [h.half.mpr he.symm]
        · simp [h.above.mpr hl]
      have hn : roundUp .rna neg sp = sp.1 + 1 := by simp [roundUp, Rm_up, hup]
      rw [hn]
      exact ⟨by linarith, by linarith⟩

theorem exists_nearTo (rm : Rm) (neg : Bool) (hy : 0 ≤ y) : ∃ n, NearTo rm neg y n := by
  classical
  exact ⟨_, Split.nearTo (sp := (⌊y⌋₊, decide (⌊y⌋₊ + 1 / 2 < y), decide (y = ⌊y⌋₊ + 1 / 2), decide (y ≠ ⌊y⌋₊)))
    ⟨Nat.floor_le hy, Nat.lt_floor_add_one y, by simp, by simp, by simp⟩⟩

theorem Split.inexact_iff (h : Split y sp) : sp.2.2.2 = true ↔ y ≠ roundUp rm neg sp := by
  rw [h.inexact]
  refine not_congr ⟨fun he => ?_, fun he => ?_⟩
  · have hn := h.nearTo (rm := rm) (neg := neg)
    rw [he] at hn
    rw [hn.eq_of_natCast, he]
  · have hlt : (roundUp rm neg sp : ℝ) < sp.1 + 1 := he ▸ h.lt
    have hge : sp.1 ≤ roundUp rm neg sp := h.nearTo.ge h.le
    have hle : roundUp rm neg sp ≤ sp.1 := Nat.lt_succ_iff.mp (by exact_mod_cast hlt)
    rw [he, Nat.le_antisymm hle hge]

/-- The magnitude `x` is `m` times 2 to the `e`, or lies less than one unit above it where `sticky`. -/
def Brackets (m : Nat) (e : Int) (sticky : Bool) (x : ℝ) : Prop :=
  if sticky then dyadic m e < x ∧ x < dyadic (m + 1) e else x = dyadic m e

theorem Brackets.le {m : Nat} {e : Int} {sticky : Bool} (h : Brackets m e sticky x) : dyadic m e ≤ x := by
  cases sticky
  · exact h.ge
  · exact h.1.le

theorem Brackets.lt {m : Nat} {e : Int} {sticky : Bool} (h : Brackets m e sticky x) : x < dyadic (m + 1) e := by
  cases sticky
  · exact h ▸ dyadic_lt_iff.mpr (Nat.lt_succ_self m)
  · exact h.2

/-- What lies above the last bit, in its units. -/
theorem Brackets.exists_rest {m : Nat} {e : Int} {sticky : Bool} (h : Brackets m e sticky x) :
    ∃ t : ℝ, x = (m + t) * 2 ^ e ∧ 0 ≤ t ∧ t < 1 ∧ (sticky = true ↔ t ≠ 0) := by
  have hpos : (0 : ℝ) < 2 ^ e := by positivity
  refine ⟨x / 2 ^ e - m, by field_simp; ring, ?_, ?_, ?_⟩
  · rw [sub_nonneg, ← dyadic_le_iff_div]
    exact h.le
  · rw [sub_lt_iff_lt_add', div_lt_iff₀ hpos]
    simpa [dyadic, add_comm] using h.lt
  · rw [Ne, sub_eq_zero, div_eq_iff hpos.ne']
    cases sticky
    · exact ⟨by simp, fun hne => absurd h hne⟩
    · exact ⟨fun _ => h.1.ne', fun _ => rfl⟩

/-- Cutting off `sh` low bits of an integer and of what lies above it. -/
theorem split_shift {m sh : Nat} {t : ℝ} {sticky : Bool} (hsh : 0 < sh) (h0 : 0 ≤ t) (h1 : t < 1) (hs : sticky = true ↔ t ≠ 0) :
    Split ((m + t) / 2 ^ sh) (m / 2 ^ sh, decide (m % 2 ^ sh > 2 ^ (sh - 1)) || (m % 2 ^ sh == 2 ^ (sh - 1) && sticky),
      m % 2 ^ sh == 2 ^ (sh - 1) && !sticky, m % 2 ^ sh != 0 || sticky) := by
  obtain ⟨k, rfl⟩ := Nat.exists_eq_add_of_le' hsh
  have hpow : (2 : Nat) ^ (k + 1) = 2 * 2 ^ k := by rw [pow_succ, Nat.mul_comm]
  have hH : 0 < 2 ^ k := Nat.two_pow_pos k
  have hm := Nat.div_add_mod m (2 ^ (k + 1))
  have hr : m % 2 ^ (k + 1) < 2 ^ (k + 1) := Nat.mod_lt _ (Nat.two_pow_pos _)
  have hreal : (2 : ℝ) ^ (k + 1) = 2 * (2 ^ k : Nat) := by push_cast; rw [pow_succ, mul_comm]
  rw [hreal, Nat.add_sub_cancel]
  rw [hpow] at hm hr ⊢
  generalize m / (2 * 2 ^ k) = d at hm ⊢
  generalize m % (2 * 2 ^ k) = r at hm hr ⊢
  generalize 2 ^ k = H at hH hm hr ⊢
  have hHr : (0 : ℝ) < H := by exact_mod_cast hH
  have hrr : (r : ℝ) + 1 ≤ 2 * H := by exact_mod_cast hr
  have hr0 : (0 : ℝ) ≤ r := Nat.cast_nonneg r
  have hy : ((m : ℝ) + t) / (2 * H) = d + (r + t) / (2 * H) := by
    rw [← hm]
    push_cast
    field_simp
    ring
  have hfrac : (r + t) / (2 * H) < 1 := by rw [div_lt_one (by positivity)]; linarith
  have hge : 0 ≤ (r + t) / (2 * H) := by positivity
  have habove : (1 : ℝ) / 2 < (r + t) / (2 * H) ↔ H < r + t := by
    rw [lt_div_iff₀ (by positivity), show (1 : ℝ) / 2 * (2 * H) = H by ring]
  have hhalf : (r + t) / (2 * H) = (1 : ℝ) / 2 ↔ r + t = H := by
    rw [div_eq_iff (by positivity), show (1 : ℝ) / 2 * (2 * H) = H by ring]
  have hlow : r < H → (r : ℝ) + 1 ≤ H := fun hlt => by exact_mod_cast hlt
  have hhigh : H < r → (H : ℝ) < r := fun hlt => by exact_mod_cast hlt
  have ht : sticky = true ↔ 0 < t := by rw [hs, h0.lt_iff_ne']
  rw [hy]
  refine ⟨by simpa using hge, by simpa using hfrac, ?_, ?_, ?_⟩
  · rw [add_lt_add_iff_left, habove, Bool.or_eq_true, Bool.and_eq_true, decide_eq_true_iff, beq_iff_eq, ht]
    rcases lt_trichotomy r H with hlt | rfl | hgt
    · have := hlow hlt
      exact ⟨by omega, fun hc => absurd hc (by linarith)⟩
    · simp
    · have := hhigh hgt
      exact ⟨fun _ => by linarith, fun _ => .inl hgt⟩
  · rw [add_right_inj, hhalf, Bool.and_eq_true, beq_iff_eq, Bool.not_eq_true', ← Bool.not_eq_true, ht]
    rcases lt_trichotomy r H with hlt | rfl | hgt
    · have := hlow hlt
      exact ⟨by omega, fun hc => absurd hc (by linarith)⟩
    · simp [h0.ge_iff_eq']
    · have := hhigh hgt
      exact ⟨by omega, fun hc => absurd hc (by linarith)⟩
  · have hsum : r + t = 0 ↔ r = 0 ∧ t = 0 := by
      rw [add_eq_zero_iff_of_nonneg hr0 h0, Nat.cast_eq_zero]
    have hne : (2 * H : ℝ) ≠ 0 := by positivity
    rw [Ne, add_eq_left, div_eq_zero_iff, or_iff_left hne, hsum, Bool.or_eq_true, bne_iff_ne, hs]
    by_cases hz : r = 0 <;> simp [hz]

/-- Cutting off low bits splits the magnitude, so long as nothing lies below the last bit where the result is exact. -/
theorem splitAt_split {m : Nat} {e q : Int} {sticky : Bool} (h : Brackets m e sticky x) (hq : sticky = true → e < q) :
    Split (x / 2 ^ q) (splitAt m e q sticky) := by
  unfold splitAt
  split
  next hle =>
    obtain rfl : sticky = false := by
      cases sticky
      · rfl
      · exact absurd (hq rfl) (by omega)
    have hx : x / 2 ^ q = (m * 2 ^ (e - q).toNat : Nat) := by
      rw [show x = dyadic m e from h, dyadic_eq_shift hle, dyadic, mul_div_cancel_right₀ _ (by positivity)]
    rw [hx]
    exact ⟨le_rfl, by simp, by simp, by simp, by simp⟩
  next hlt =>
    obtain ⟨t, rfl, h0, h1, hs⟩ := h.exists_rest
    have hpow : (2 : ℝ) ^ q = 2 ^ (q - e).toNat * 2 ^ e := by
      rw [← zpow_natCast, ← zpow_add₀ two_ne_zero, Int.toNat_of_nonneg (by omega), sub_add_cancel]
    rw [hpow, mul_div_mul_right _ _ (by positivity)]
    exact split_shift (by omega) h0 h1 hs

end Sys2Proof.Machine
end

section
/-! SUPPORT. Patterns (R158, R159): what is packed decodes to what was packed; and `roundTo` in two parts, its rounded integer and the rest. -/

namespace Sys2Proof.Machine
open Sys2Proof

/-! ### Patterns (R158, R159) -/

/-- A format whose patterns fit in a word and have a fraction. -/
structure FpFmt.Fits (f : FpFmt) : Prop where
  fb : 1 ≤ f.fb
  eb : 2 ≤ f.eb
  word : f.eb + f.fb < 64

theorem fmtOf_fits (t : FpTy) : (fmtOf t).Fits := by cases t <;> exact ⟨by decide, by decide, by decide⟩

theorem fmtOf_width (t : FpTy) : (fmtOf t).width = t.width := by cases t <;> rfl

section pack
variable {f : FpFmt} (hf : f.Fits) {neg : Bool} {ex fr : Nat} (hex : ex < 2 ^ f.eb) (hfr : fr < 2 ^ f.fb)
include hex hfr

theorem FpFmt.pack_lt_width : (if neg then 2 ^ (f.eb + f.fb) else 0) + ex * 2 ^ f.fb + fr < 2 ^ f.width := by
  have hrest : ex * 2 ^ f.fb + fr < 2 ^ (f.eb + f.fb) := by
    rw [pow_add]
    calc ex * 2 ^ f.fb + fr < (ex + 1) * 2 ^ f.fb := by rw [Nat.succ_mul]; omega
      _ ≤ 2 ^ f.eb * 2 ^ f.fb := Nat.mul_le_mul_right _ hex
  have hw : 2 ^ f.width = 2 * 2 ^ (f.eb + f.fb) := by rw [FpFmt.width, Nat.add_assoc, pow_add, pow_one]
  rw [hw]
  split <;> omega

include hf

theorem FpFmt.toNat_pack : (f.pack neg ex fr).toNat = (if neg then 2 ^ (f.eb + f.fb) else 0) + ex * 2 ^ f.fb + fr := by
  rw [FpFmt.pack, BitVec.toNat_ofNat, Nat.mod_eq_of_lt]
  exact lt_of_lt_of_le (FpFmt.pack_lt_width hex hfr) (Nat.pow_le_pow_right (by decide) (by have := hf.word; rw [FpFmt.width]; omega))

theorem FpFmt.decode_pack : f.decode (f.pack neg ex fr) =
    if ex = 2 ^ f.eb - 1 then if fr = 0 then .inf neg else .nan (!fr.testBit (f.fb - 1))
    else if ex = 0 then .fin neg fr f.qmin else .fin neg (2 ^ f.fb + fr) (f.qmin + ex - 1) := by
  have hN : (f.pack neg ex fr).toNat = 2 ^ f.fb * (2 ^ f.eb * neg.toNat + ex) + fr := by
    rw [FpFmt.toNat_pack hf hex hfr, pow_add]
    cases neg <;> simp <;> ring
  have hfrac : (f.pack neg ex fr).toNat % 2 ^ f.fb = fr := by rw [hN, Nat.mul_add_mod, Nat.mod_eq_of_lt hfr]
  have hquot : (f.pack neg ex fr).toNat / 2 ^ f.fb = 2 ^ f.eb * neg.toNat + ex := by
    rw [hN, Nat.mul_add_div (Nat.two_pow_pos _), Nat.div_eq_of_lt hfr, Nat.add_zero]
  have hexp : (f.pack neg ex fr).toNat / 2 ^ f.fb % 2 ^ f.eb = ex := by rw [hquot, Nat.mul_add_mod, Nat.mod_eq_of_lt hex]
  have hneg : (f.pack neg ex fr).toNat.testBit (f.eb + f.fb) = neg := by
    rw [← Nat.testBit_div_two_pow, hquot, Nat.testBit_two_pow_mul_add _ hex, if_neg (by omega), Nat.sub_self]
    cases neg <;> rfl
  simp only [FpFmt.decode, hfrac, hexp, hneg]

end pack

variable {f : FpFmt}

theorem FpFmt.two_lt_exps (hf : f.Fits) : 2 < 2 ^ f.eb := by
  have h4 : 2 ^ 2 ≤ 2 ^ f.eb := Nat.pow_le_pow_right (by decide) hf.eb
  omega

@[simp] theorem FpFmt.decode_infinity (hf : f.Fits) (neg : Bool) : f.decode (f.infinity neg) = .inf neg := by
  have := FpFmt.two_lt_exps hf
  rw [FpFmt.infinity, FpFmt.decode_pack hf (by omega) (Nat.two_pow_pos _), if_pos rfl, if_pos rfl]

@[simp] theorem FpFmt.decode_zero (hf : f.Fits) (neg : Bool) : f.decode (f.zero neg) = .fin neg 0 f.qmin := by
  have := FpFmt.two_lt_exps hf
  rw [FpFmt.zero, FpFmt.decode_pack hf (by omega) (Nat.two_pow_pos _), if_neg (by omega), if_pos rfl]

@[simp] theorem FpFmt.decode_qnan (hf : f.Fits) : f.decode f.qnan = .nan false := by
  have := FpFmt.two_lt_exps hf
  have hfr : 2 ^ (f.fb - 1) < 2 ^ f.fb := Nat.pow_lt_pow_right (by decide) (by have := hf.fb; omega)
  rw [FpFmt.qnan, FpFmt.decode_pack hf (by omega) hfr, if_pos rfl, if_neg (Nat.two_pow_pos _).ne', Nat.testBit_two_pow_self]
  rfl

/-! ### The one rounding, from its rounded integer on (R160, R161) -/

/-- A rounded integer that has gained a bit, brought back to the format's precision. -/
def FpFmt.carry (f : FpFmt) (n : Nat) (q : Int) : Nat × Int := if n = 2 ^ (f.fb + 1) then (2 ^ f.fb, q + 1) else (n, q)

/-- Whether a mode takes an overflow to the infinity. -/
def Rm_toInf (rm : Rm) (neg : Bool) : Bool :=
  match rm with
  | .rne | .rna => true
  | .rz => false
  | .ru => !neg
  | .rd => neg

/-- The flags of a result that does not overflow. -/
def inexactFlags (inexact tiny : Bool) : Word := (if inexact then flagNX else 0) ||| (if tiny && inexact then flagUF else 0)

/-- The result whose rounded integer is `n` in units of 2 to the `q`. -/
def FpFmt.finish (f : FpFmt) (rm : Rm) (neg : Bool) (n : Nat) (q : Int) (inexact tiny : Bool) : Res :=
  let c := f.carry n q
  if c.1 < 2 ^ f.fb then ⟨f.pack neg 0 c.1, inexactFlags inexact tiny⟩
  else if c.2 - f.qmin + 1 ≥ 2 ^ f.eb - 1 then ⟨if Rm_toInf rm neg then f.infinity neg else f.maxFinite neg, flagOF ||| flagNX⟩
  else ⟨f.pack neg (c.2 - f.qmin + 1).toNat (c.1 - 2 ^ f.fb), inexactFlags inexact tiny⟩

/-- The exponent of the highest bit of `m` times 2 to the `e`. -/
def topExp (m : Nat) (e : Int) : Int := e + bitLen m - 1

/-- The grain at which a magnitude is rounded. -/
def FpFmt.grain (f : FpFmt) (m : Nat) (e : Int) : Int := max (topExp m e - f.fb) f.qmin

/-- Tininess after rounding, as the model finds it. -/
def FpFmt.isTiny (f : FpFmt) (rm : Rm) (neg : Bool) (m : Nat) (e : Int) (sticky : Bool) : Bool :=
  decide (topExp m e < 1 - (f.bias : Int)) && !(topExp m e == 1 - (f.bias : Int) - 1 &&
    roundUp rm neg (splitAt m e (topExp m e - f.fb) sticky) == 2 ^ (f.fb + 1))

theorem roundTo_eq_finish {f : FpFmt} {rm : Rm} {neg : Bool} {m : Nat} {e : Int} {sticky : Bool} (h : ¬(m = 0 ∧ sticky = false)) :
    roundTo f rm neg m e sticky = f.finish rm neg (roundUp rm neg (splitAt m e (f.grain m e) sticky)) (f.grain m e)
      (splitAt m e (f.grain m e) sticky).2.2.2 (f.isTiny rm neg m e sticky) := by
  exact if_neg h

theorem roundTo_zero {f : FpFmt} {rm : Rm} {neg : Bool} {e : Int} : roundTo f rm neg 0 e false = ⟨f.zero neg, 0⟩ := rfl

end Sys2Proof.Machine
end

section
/-! SUPPORT. Rounding (R160, R161): the model's one rounding, `roundTo`, gives what `Rounds` states of the exact magnitude. -/

namespace Sys2Proof.Machine
open Sys2Proof

/-- `n` is the integer that the mode makes of a magnitude in units of 2 to the `q`, the grain of the format where the magnitude stands. -/
structure RoundedAt (f : FpFmt) (rm : Rm) (neg : Bool) (x : ℝ) (n : Nat) (q : Int) : Prop where
  grain : f.qmin ≤ q
  low : q = f.qmin ∨ dyadic (2 ^ f.fb) q ≤ x
  high : x < dyadic (2 ^ (f.fb + 1)) q
  near : NearTo rm neg (x / 2 ^ q) n

/-- The exponent of a unit in the last place of the largest finite values. -/
def FpFmt.gmax (f : FpFmt) : Int := f.qmin + 2 ^ f.eb - 3

theorem dyadic_pow_le {k l : Nat} {g h : Int} : dyadic (2 ^ k) g ≤ dyadic (2 ^ l) h ↔ g + k ≤ h + l := by
  rw [dyadic_pow, dyadic_pow, zpow_le_zpow_iff_right₀ one_lt_two]

section rounded
variable {f : FpFmt} {rm : Rm} {neg : Bool} {x : ℝ} {n : Nat} {q : Int} {cmp : Nat → Int → Ordering}
  (hf : f.Fits) (h : RoundedAt f rm neg x n q) (ho : Orders cmp x) (hx : 0 < x)

theorem FpFmt.qmin_lt_gmax (hf : f.Fits) : f.qmin < f.gmax := by
  have h4 : (2 : Int) ^ 2 ≤ 2 ^ f.eb := pow_le_pow_right₀ (by decide) hf.eb
  rw [FpFmt.gmax]
  omega

theorem FpFmt.carry_eq : dyadic (f.carry n q).1 (f.carry n q).2 = dyadic n q := by
  rw [FpFmt.carry]
  split
  next he =>
    rw [he, dyadic_pow, dyadic_pow]
    congr 1
    push_cast
    ring
  next => rfl

include h

theorem RoundedAt.le : n ≤ 2 ^ (f.fb + 1) := h.near.le (le_dyadic_iff_div.mp h.high.le)

theorem RoundedAt.ge (hq : q ≠ f.qmin) : 2 ^ f.fb ≤ n := h.near.ge (dyadic_le_iff_div.mp (h.low.resolve_left hq))

theorem RoundedAt.carry_lt : (f.carry n q).1 < 2 ^ (f.fb + 1) := by
  rw [FpFmt.carry]
  split
  · exact Nat.pow_lt_pow_right (by decide) (Nat.lt_succ_self _)
  · exact lt_of_le_of_ne h.le ‹_›

theorem RoundedAt.carry_grain : f.qmin ≤ (f.carry n q).2 ∧ ((f.carry n q).1 < 2 ^ f.fb → (f.carry n q).2 = f.qmin) := by
  have hg := h.grain
  rw [FpFmt.carry]
  split
  · exact ⟨by omega, fun hlt => absurd hlt (lt_irrefl _)⟩
  · exact ⟨hg, fun hlt => by_contra fun hq => absurd (h.ge hq) (by omega)⟩

include ho hx

include hf in
theorem RoundedAt.overAfter_iff : OverAfter f rm neg cmp ↔ f.gmax < (f.carry n q).2 := by
  have hover : OverAfter f rm neg cmp ↔ ∃ k, 2 ^ (f.fb + 1) ≤ k ∧ NearTo rm neg (x / 2 ^ f.gmax) k := by
    simp only [OverAfter, nearest_iff ho hx.le, FpFmt.gmax]
  have hcarry : f.carry n q = if n = 2 ^ (f.fb + 1) then (2 ^ f.fb, q + 1) else (n, q) := rfl
  rw [hover]
  rcases lt_trichotomy q f.gmax with hq | hq | hq
  · have hsmall : x ≤ dyadic (2 ^ f.fb) f.gmax := h.high.le.trans (dyadic_pow_le.mpr (by push_cast; omega))
    refine ⟨fun ⟨k, hk, hnear⟩ => ?_, fun hc => ?_⟩
    · have := hnear.le (le_dyadic_iff_div.mp hsmall)
      have : 2 ^ f.fb < 2 ^ (f.fb + 1) := Nat.pow_lt_pow_right (by decide) (Nat.lt_succ_self _)
      omega
    · rw [hcarry] at hc
      split at hc <;> simp only at hc <;> omega
  · subst hq
    have hle := h.le
    rw [hcarry]
    refine ⟨fun ⟨k, hk, hnear⟩ => ?_, fun hc => ⟨n, ?_, h.near⟩⟩
    · obtain rfl := hnear.unique h.near
      rw [if_pos (Nat.le_antisymm hle hk)]
      simp
    · split at hc
      next he => exact he.ge
      next => simp at hc
  · have hne : q ≠ f.qmin := by rintro rfl; have := FpFmt.qmin_lt_gmax hf; omega
    have hlarge : dyadic (2 ^ (f.fb + 1)) f.gmax ≤ x := (dyadic_pow_le.mpr (by push_cast; omega)).trans (h.low.resolve_left hne)
    obtain ⟨k, hk⟩ := exists_nearTo rm neg (y := x / 2 ^ f.gmax) (by positivity)
    refine ⟨fun _ => ?_, fun _ => ⟨k, hk.ge (dyadic_le_iff_div.mp hlarge), hk⟩⟩
    rw [hcarry]
    split <;> simp only <;> omega

/-- The format's value that a mode makes is the rounded integer brought back to the format's precision. -/
theorem RoundedAt.nearestIn : NearestIn f rm neg cmp (f.carry n q).1 (f.carry n q).2 := by
  have hnear : Nearest rm neg cmp n q := (nearest_iff ho hx.le).mpr h.near
  rw [NearestIn, FpFmt.carry]
  split
  next he =>
    have hg := h.grain
    have hup : x < dyadic (2 ^ f.fb) (q + 1) := h.high.trans_le (dyadic_pow_le.mpr (by push_cast; omega))
    rw [if_pos ⟨rfl, by simp only; omega, (ho.gt _ _).mpr hup⟩]
    simpa [he, pow_succ, Nat.mul_comm] using hnear
  next =>
    refine (if_neg ?_).mpr hnear
    rintro ⟨rfl, hlt, hgt⟩
    rcases h.low with rfl | hlow
    · exact lt_irrefl _ hlt
    · exact absurd ((ho.gt _ _).mp hgt) hlow.not_gt

omit ho hx

include hf in
/-- A rounded value that passes the largest finite one. -/
theorem RoundedAt.finish_over {inexact tiny : Bool} (hover : f.gmax < (f.carry n q).2) :
    f.finish rm neg n q inexact tiny = ⟨if Rm_toInf rm neg then f.infinity neg else f.maxFinite neg, flagOF ||| flagNX⟩ := by
  have hpos := FpFmt.qmin_lt_gmax hf
  have hnormal : ¬(f.carry n q).1 < 2 ^ f.fb := fun hlt => by have := h.carry_grain.2 hlt; omega
  have hbig : (f.carry n q).2 - f.qmin + 1 ≥ 2 ^ f.eb - 1 := by rw [FpFmt.gmax] at hover; omega
  rw [FpFmt.finish, if_neg hnormal, if_pos hbig]

include hf in
/-- Any other rounded value is the value that its pattern decodes to. -/
theorem RoundedAt.finish_finite {inexact tiny : Bool} (hover : (f.carry n q).2 ≤ f.gmax) :
    ∃ v, f.finish rm neg n q inexact tiny = ⟨v, inexactFlags inexact tiny⟩ ∧ v.toNat < 2 ^ f.width ∧
      f.decode v = .fin neg (f.carry n q).1 (f.carry n q).2 := by
  have hexps := FpFmt.two_lt_exps hf
  have hlt := h.carry_lt
  obtain ⟨hg, hlow⟩ := h.carry_grain
  rw [FpFmt.finish]
  generalize f.carry n q = c at *
  rw [FpFmt.gmax] at hover
  by_cases hsub : c.1 < 2 ^ f.fb
  · refine ⟨_, if_pos hsub, ?_, ?_⟩
    · rw [FpFmt.toNat_pack hf (by omega) hsub]
      exact FpFmt.pack_lt_width (by omega) hsub
    · rw [FpFmt.decode_pack hf (by omega) hsub, if_neg (by omega), if_pos rfl, hlow hsub]
  · have hsmall : ¬c.2 - f.qmin + 1 ≥ 2 ^ f.eb - 1 := by omega
    have hcast : ((2 ^ f.eb : Nat) : Int) = 2 ^ f.eb := by push_cast; rfl
    have hex : (c.2 - f.qmin + 1).toNat < 2 ^ f.eb - 1 := by omega
    have hfr : c.1 - 2 ^ f.fb < 2 ^ f.fb := by rw [pow_succ] at hlt; omega
    refine ⟨_, (if_neg hsub).trans (if_neg hsmall), ?_, ?_⟩
    · rw [FpFmt.toNat_pack hf (by omega) hfr]
      exact FpFmt.pack_lt_width (by omega) hfr
    · rw [FpFmt.decode_pack hf (by omega) hfr, if_neg (by omega), if_neg (by omega), FpVal.fin.injEq]
      exact ⟨rfl, by omega, by omega⟩

end rounded

theorem inexactFlags_spec (inexact tiny : Bool) : (inexactFlags inexact tiny).getLsbD 0 = inexact ∧
    (inexactFlags inexact tiny).getLsbD 1 = (tiny && inexact) ∧ (inexactFlags inexact tiny).getLsbD 2 = false ∧
    (inexactFlags inexact tiny).toNat < 4 := by
  revert inexact tiny
  decide

section rounded
variable {f : FpFmt} {rm : Rm} {neg : Bool} {x : ℝ} {n : Nat} {q : Int} {cmp : Nat → Int → Ordering}
  (hf : f.Fits) (h : RoundedAt f rm neg x n q) (ho : Orders cmp x) (hx : 0 < x)
include hf h ho hx

/-- The result of a rounded integer is what R160 and R161 say of the magnitude. -/
theorem RoundedAt.rounds {inexact tiny : Bool} (hinexact : inexact = true ↔ x / 2 ^ q ≠ n) (htiny : tiny = true ↔ TinyAfter f rm neg cmp) :
    Rounds f rm neg cmp (f.finish rm neg n q inexact tiny) := by
  have hover := h.overAfter_iff hf ho hx
  rcases lt_or_ge f.gmax (f.carry n q).2 with hc | hc
  · rw [h.finish_over hf hc]
    unfold Rounds
    have h2 : (flagOF ||| flagNX).getLsbD 2 = true := by decide
    refine ⟨iff_of_true h2 (hover.mpr hc), ?_⟩
    rw [if_pos h2]
    refine ⟨rfl, ?_⟩
    cases rm <;> cases neg <;> rfl
  · obtain ⟨v, hv, hlt, hdec⟩ := h.finish_finite (inexact := inexact) (tiny := tiny) hf hc
    obtain ⟨h0, h1, h2, h4⟩ := inexactFlags_spec inexact tiny
    have hne : inexact = true ↔ cmp (f.carry n q).1 (f.carry n q).2 ≠ .eq := by
      rw [hinexact, Ne, Ne, ho.eq, FpFmt.carry_eq, dyadic, div_eq_iff (by positivity)]
    rw [hv]
    unfold Rounds
    rw [h2]
    refine ⟨iff_of_false Bool.false_ne_true (mt hover.mp hc.not_gt), ?_⟩
    rw [if_neg Bool.false_ne_true, hdec]
    refine ⟨rfl, hlt, h.nearestIn ho hx, h4, ?_, ?_⟩
    · rw [h0, hne]
    · rw [h1, Bool.and_eq_true, htiny, hne, and_comm]

end rounded

section roundTo
variable {f : FpFmt} {rm : Rm} {neg sticky : Bool} {x : ℝ} {m : Nat} {e : Int} {cmp : Nat → Int → Ordering}

theorem bitLen_bounds (hm : m ≠ 0) : ∃ k, bitLen m = k + 1 ∧ 2 ^ k ≤ m ∧ m < 2 ^ (k + 1) :=
  ⟨Nat.log2 m, if_neg hm, Nat.log2_self_le hm, Nat.lt_log2_self⟩

/-- A magnitude stands between the power of two of its highest bit and the next. -/
theorem Brackets.top (hm : m ≠ 0) (h : Brackets m e sticky x) : (2 : ℝ) ^ topExp m e ≤ x ∧ x < 2 ^ (topExp m e + 1) := by
  obtain ⟨k, hk, hle, hlt⟩ := bitLen_bounds hm
  have htop : topExp m e = e + k := by rw [topExp, hk]; push_cast; ring
  rw [htop, ← dyadic_pow, add_assoc, show (k : Int) + 1 = (k + 1 : Nat) by push_cast; rfl, ← dyadic_pow]
  exact ⟨(dyadic_le_iff.mpr hle).trans h.le, h.lt.trans_le (dyadic_le_iff.mpr hlt)⟩

variable (hm : m ≠ 0) (h : Brackets m e sticky x) (hs : sticky = true → e + f.fb < topExp m e)
include hm h hs

theorem roundedAt_roundTo : RoundedAt f rm neg x (roundUp rm neg (splitAt m e (f.grain m e) sticky)) (f.grain m e) := by
  obtain ⟨hlow, hhigh⟩ := h.top hm
  have hgrain : f.grain m e = max (topExp m e - f.fb) f.qmin := rfl
  refine ⟨by omega, ?_, ?_, (splitAt_split h fun hst => by have := hs hst; omega).nearTo⟩
  · rw [or_iff_not_imp_left]
    intro hq
    rw [dyadic_pow, show f.grain m e + f.fb = topExp m e by omega]
    exact hlow
  · rw [dyadic_pow]
    exact hhigh.trans_le (zpow_le_zpow_right₀ one_le_two (by push_cast; omega))

theorem isTiny_iff (hx : 0 < x) (ho : Orders cmp x) : f.isTiny rm neg m e sticky = true ↔ TinyAfter f rm neg cmp := by
  obtain ⟨hlow, hhigh⟩ := h.top hm
  have hqmin : f.qmin = 1 - (f.bias : Int) - f.fb := rfl
  have hbelow : topExp m e < 1 - (f.bias : Int) ↔ cmp (2 ^ f.fb) f.qmin = .gt := by
    rw [ho.gt, dyadic_pow, show f.qmin + f.fb = 1 - (f.bias : Int) by omega]
    refine ⟨fun hlt => hhigh.trans_le (zpow_le_zpow_right₀ one_le_two (by omega)), fun hlt => ?_⟩
    exact (zpow_lt_zpow_iff_right₀ one_lt_two).mp (hlow.trans_lt hlt)
  rw [FpFmt.isTiny, Bool.and_eq_true, decide_eq_true_iff, hbelow, TinyAfter]
  refine and_congr_right fun hc => ?_
  have htop := hbelow.mpr hc
  rw [Bool.not_eq_true', ← Bool.not_eq_true, Bool.and_eq_true, beq_iff_eq, beq_iff_eq, nearest_iff ho hx.le]
  refine not_congr ⟨fun ⟨he, hn⟩ => ?_, fun hnear => ?_⟩
  · have hgrain : f.qmin - 1 = topExp m e - f.fb := by omega
    rw [← hn, hgrain]
    exact (splitAt_split h fun hst => by have := hs hst; omega).nearTo
  · have he : topExp m e = 1 - (f.bias : Int) - 1 := by
      by_contra hne
      have hsmall : x ≤ dyadic (2 ^ f.fb) (f.qmin - 1) := by
        rw [dyadic_pow]
        exact hhigh.le.trans (zpow_le_zpow_right₀ one_le_two (by omega))
      have := hnear.le (le_dyadic_iff_div.mp hsmall)
      have : 2 ^ f.fb < 2 ^ (f.fb + 1) := Nat.pow_lt_pow_right (by decide) (Nat.lt_succ_self _)
      omega
    have hgrain : f.qmin - 1 = topExp m e - f.fb := by omega
    rw [hgrain] at hnear
    exact ⟨he, (splitAt_split h fun hst => by have := hs hst; omega).nearTo.unique hnear⟩

/-- One rounding of an exact magnitude, given as its leading bits and whether anything lies below them (R160, R161). -/
theorem roundTo_rounds (hf : f.Fits) (ho : Orders cmp x) : Rounds f rm neg cmp (roundTo f rm neg m e sticky) := by
  have hx : 0 < x := lt_of_lt_of_le (by positivity) (h.top hm).1
  have hsplit : Split (x / 2 ^ f.grain m e) (splitAt m e (f.grain m e) sticky) := splitAt_split h fun hst => by
    have := hs hst
    rw [FpFmt.grain]
    omega
  rw [roundTo_eq_finish fun hz => hm hz.1]
  exact (roundedAt_roundTo hm h hs).rounds hf ho hx hsplit.inexact_iff (isTiny_iff hm h hs hx ho)

end roundTo

end Sys2Proof.Machine
end

section
/-! SUPPORT. FADD, FSUB, FMUL, FDIV, FSQRT, FMA and RSQ (R291, R292, R299): what each operation makes of decoded values. -/

namespace Sys2Proof.Machine
open Sys2Proof
variable {f : FpFmt} {rm : Rm}

/-! ### Exact magnitudes -/

theorem roundTo_rounds_exact (hf : f.Fits) {neg : Bool} {m : Nat} {e : Int} (hm : m ≠ 0) :
    Rounds f rm neg (fun k p => dyadicCmp k p m e) (roundTo f rm neg m e false) :=
  roundTo_rounds hm rfl nofun hf (orders_dyadicCmp m e)

theorem roundInt_zero {e : Int} : roundInt f rm 0 e = ⟨f.zero (rm == .rd), 0⟩ := rfl

theorem roundInt_rounds (hf : f.Fits) {v e : Int} (hv : v ≠ 0) :
    Rounds f rm (decide (v < 0)) (fun k p => dyadicCmp k p v.natAbs e) (roundInt f rm v e) := by
  rw [roundInt, if_neg hv]
  exact roundTo_rounds_exact hf (Int.natAbs_ne_zero.mpr hv)

/-! ### Sums and products (R292) -/

theorem isNan_iff {a : FpVal} : a.isNan = true ↔ ∃ g, a = .nan g := by cases a <;> simp [FpVal.isNan]

theorem addVal_nan {a b : FpVal} (h : a.isNan = true ∨ b.isNan = true) : addVal f rm a b = nanRes f [a, b] := by
  rcases h with h | h
  · obtain ⟨g, rfl⟩ := isNan_iff.mp h
    rfl
  · obtain ⟨g, rfl⟩ := isNan_iff.mp h
    cases a <;> rfl

theorem addVal_inf {u v : Bool} : addVal f rm (.inf u) (.inf v) = if u = v then ⟨f.infinity u, 0⟩ else ⟨f.qnan, flagNV⟩ := rfl

/-- The exact sum of two finite values, in units of the lesser exponent. -/
def finSum (u : Bool) (m : Nat) (e : Int) (v : Bool) (n : Nat) (g : Int) : Int :=
  withSign u (m * 2 ^ (e - min e g).toNat) + withSign v (n * 2 ^ (g - min e g).toNat)

theorem withSign_eq_zero {u : Bool} {m : Nat} : withSign u m = 0 ↔ m = 0 := by cases u <;> simp [withSign]

theorem withSign_ne_zero {u : Bool} {m k : Nat} (hm : m ≠ 0) : withSign u (m * 2 ^ k) ≠ 0 := by
  rw [Ne, withSign_eq_zero]
  exact (Nat.mul_pos (Nat.pos_of_ne_zero hm) (Nat.two_pow_pos k)).ne'

theorem finSum_zero {u v : Bool} {e g : Int} : finSum u 0 e v 0 g = 0 := by cases u <;> cases v <;> simp [finSum, withSign]

theorem addVal_fin {u v : Bool} {m n : Nat} {e g : Int} (h : ¬(m = 0 ∧ n = 0)) :
    addVal f rm (.fin u m e) (.fin v n g) = roundInt f rm (finSum u m e v n g) (min e g) := if_neg h

theorem addVal_zeros {u v : Bool} {e g : Int} : addVal f rm (.fin u 0 e) (.fin v 0 g) = ⟨f.zero (if u = v then u else rm == .rd), 0⟩ := rfl

theorem mulVal_nan {a b : FpVal} (h : a.isNan = true ∨ b.isNan = true) : mulVal f rm a b = nanRes f [a, b] := by
  rcases h with h | h
  · obtain ⟨g, rfl⟩ := isNan_iff.mp h
    rfl
  · obtain ⟨g, rfl⟩ := isNan_iff.mp h
    cases a <;> rfl

theorem mulVal_inf_fin {u v : Bool} {n : Nat} {g : Int} :
    mulVal f rm (.inf u) (.fin v n g) = if n = 0 then ⟨f.qnan, flagNV⟩ else ⟨f.infinity (u != v), 0⟩ := rfl

theorem mulVal_fin_inf {u v : Bool} {n : Nat} {g : Int} :
    mulVal f rm (.fin v n g) (.inf u) = if n = 0 then ⟨f.qnan, flagNV⟩ else ⟨f.infinity (u != v), 0⟩ := by
  cases u <;> cases v <;> rfl

theorem mulVal_fin {u v : Bool} {m n : Nat} {e g : Int} :
    mulVal f rm (.fin u m e) (.fin v n g) = roundTo f rm (u != v) (m * n) (e + g) false := rfl

/-! ### The records -/

variable {s : State} {i : Instr}

/-- A record that computes one scalar sends it, firing real. -/
theorem gives_fireRes {e : Latch → Res} (he : exec i s = .next (s.fireRes i e)) (h : FiresReal i s) :
    Gives i s (.scalar (e s.latch).val) (e s.latch).flags := by
  rw [Gives, exec_real he h, State.begun_latch]

section
variable {t : FpTy} {b : FRhs}

/-- What a rounding record of two operands makes of them (R291). -/
def fpRecOf (s : State) (t : FpTy) (b : FRhs) (op : FpFmt → Rm → FpVal → FpVal → Res) : Res :=
  op (fmtOf t) (s.latch.frhs (.fp t) b).2 ((fmtOf t).decode (scalarOp (.fp t) s.latch.opL).val)
    ((fmtOf t).decode (s.latch.frhs (.fp t) b).1.val)

theorem gives_fpRec {op : FpFmt → Rm → FpVal → FpVal → Res} (he : exec i s = .next (s.fpRec i t b op)) (h : FiresReal i s) :
    Gives i s (.scalar (fpRecOf s t b op).val)
      ((fpRecOf s t b op).flags ||| (scalarOp (.fp t) s.latch.opL).flags ||| (s.latch.frhs (.fp t) b).1.flags) := (gives_fireRes he h :)

/-- What a rounding record of one operand makes of it (R291, R299). -/
def fpUnaryOf (s : State) (t : FpTy) (op : FpFmt → FpVal → Res) : Res := op (fmtOf t) ((fmtOf t).decode (scalarOp (.fp t) s.latch.opL).val)

theorem gives_fpUnary {op : FpFmt → FpVal → Res} (he : exec i s = .next (s.fpUnary i t op)) (h : FiresReal i s) :
    Gives i s (.scalar (fpUnaryOf s t op).val) ((fpUnaryOf s t op).flags ||| (scalarOp (.fp t) s.latch.opL).flags) := (gives_fireRes he h :)

end

/-- What R292 says of a sum: `FpAddMul` and `FpDivRoot` state it of each record's result. -/
theorem addVal_isSum (hf : f.Fits) (a b : FpVal) :
    let q := addVal f rm a b
    ((a.isNan ∨ b.isNan) → q = nanRes f [a, b]) ∧
      (∀ u v, a = .inf u → b = .inf v → q = if u = v then ⟨f.infinity u, 0⟩ else ⟨f.qnan, flagNV⟩) ∧
      (∀ u v n g, (a = .inf u → b = .fin v n g → q = ⟨f.infinity u, 0⟩) ∧ (a = .fin v n g → b = .inf u → q = ⟨f.infinity u, 0⟩)) ∧
      (∀ u m e v n g, a = .fin u m e → b = .fin v n g →
        (m = 0 → n = 0 → q = ⟨f.zero (if u = v then u else rm == .rd), 0⟩) ∧
        (m ≠ 0 → finSum u m e v n g = 0 → q = ⟨f.zero (rm == .rd), 0⟩) ∧
        (finSum u m e v n g ≠ 0 → Rounds f rm (decide (finSum u m e v n g < 0))
          (fun k p => dyadicCmp k p (finSum u m e v n g).natAbs (min e g)) q)) := by
  refine ⟨addVal_nan, ?_, ?_, ?_⟩
  · rintro u v rfl rfl
    exact addVal_inf
  · intro u v n g
    constructor <;> rintro rfl rfl <;> rfl
  · rintro u m e v n g rfl rfl
    refine ⟨?_, fun hm hz => ?_, fun hne => ?_⟩
    · rintro rfl rfl
      exact addVal_zeros
    · show addVal f rm (.fin u m e) (.fin v n g) = _
      rw [addVal_fin fun h => hm h.1, hz, roundInt_zero]
    · show Rounds f rm _ _ (addVal f rm (.fin u m e) (.fin v n g))
      rw [addVal_fin]
      · exact roundInt_rounds hf hne
      · rintro ⟨rfl, rfl⟩
        exact hne finSum_zero

theorem mulVal_isProduct (hf : f.Fits) (a b : FpVal) :
    let q := mulVal f rm a b
    ((a.isNan ∨ b.isNan) → q = nanRes f [a, b]) ∧
      (∀ u v, a = .inf u → b = .inf v → q = ⟨f.infinity (u != v), 0⟩) ∧
      (∀ u v n g, ((a = .inf u ∧ b = .fin v n g) ∨ (a = .fin v n g ∧ b = .inf u)) →
        q = if n = 0 then ⟨f.qnan, flagNV⟩ else ⟨f.infinity (u != v), 0⟩) ∧
      (∀ u m e v n g, a = .fin u m e → b = .fin v n g →
        (m * n = 0 → q = ⟨f.zero (u != v), 0⟩) ∧
        (m * n ≠ 0 → Rounds f rm (u != v) (fun k p => dyadicCmp k p (m * n) (e + g)) q)) := by
  refine ⟨mulVal_nan, ?_, ?_, ?_⟩
  · rintro u v rfl rfl
    rfl
  · rintro u v n g (⟨rfl, rfl⟩ | ⟨rfl, rfl⟩)
    · exact mulVal_inf_fin
    · exact mulVal_fin_inf
  · rintro u m e v n g rfl rfl
    refine ⟨fun hz => ?_, fun hne => roundTo_rounds_exact hf hne⟩
    show mulVal f rm (.fin u m e) (.fin v n g) = _
    rw [mulVal_fin, hz, roundTo_zero]

/-- Settles O23: the flags held are those of the operation and of decoding, and the operations are `addVal` and `mulVal`. -/
theorem fpAddMul : Obligations.FpAddMul := by
  intro s h t r
  have hf := fmtOf_fits t
  refine ⟨fun hr => ?add, fun hr => ?sub, fun hr => ?mul⟩
  case add => exact ⟨fpRecOf s t r addVal, gives_fpRec rfl hr, addVal_isSum hf _ _⟩
  case sub => exact ⟨fpRecOf s t r subVal, gives_fpRec rfl hr, addVal_isSum hf _ _⟩
  case mul => exact ⟨fpRecOf s t r mulVal, gives_fpRec rfl hr, mulVal_isProduct hf _ _⟩

end Sys2Proof.Machine
end

section
/-! SUPPORT. FDIV, FSQRT, FMA and RSQ (R292, R299): the leading bits that the model finds of a quotient and of a root bracket the exact result. -/

namespace Sys2Proof.Machine
open Sys2Proof
variable {f : FpFmt} {rm : Rm} {m n r : Nat} {e g : Int} {sticky : Bool} {x t : ℝ}

/-! ### Leading bits of a result -/

theorem brackets_of_rest (h0 : 0 ≤ t) (h1 : t < 1) (hs : sticky = true ↔ t ≠ 0) : Brackets m e sticky ((m + t) * 2 ^ e) := by
  have hpos : (0 : ℝ) < 2 ^ e := by positivity
  cases sticky
  · obtain rfl : t = 0 := not_not.mp fun hne => Bool.false_ne_true (hs.mpr hne)
    exact congrArg (· * (2 : ℝ) ^ e) (add_zero (m : ℝ))
  · have ht : 0 < t := lt_of_le_of_ne h0 (hs.mp rfl).symm
    refine ⟨mul_lt_mul_of_pos_right (by linarith) hpos, mul_lt_mul_of_pos_right ?_ hpos⟩
    push_cast
    linarith

/-- Leading bits enough for the format: the grain of rounding lies above them. -/
theorem lt_topExp {k : Nat} (h : 2 ^ (k + 1) ≤ m) : e + k < topExp m e := by
  have hm : m ≠ 0 := fun h0 => by have := Nat.two_pow_pos (k + 1); omega
  obtain ⟨j, hj, -, hlt⟩ := bitLen_bounds hm
  have hkj : k + 1 < j + 1 := (Nat.pow_lt_pow_iff_right (by decide)).mp (h.trans_lt hlt)
  rw [topExp, hj]
  push_cast
  omega

/-! ### Quotients (R292) -/

theorem divVal_nan {a b : FpVal} (h : a.isNan = true ∨ b.isNan = true) : divVal f rm a b = nanRes f [a, b] := by
  rcases h with h | h
  · obtain ⟨g, rfl⟩ := isNan_iff.mp h
    rfl
  · obtain ⟨g, rfl⟩ := isNan_iff.mp h
    cases a <;> rfl

theorem divVal_fin_zero {u v : Bool} : divVal f rm (.fin u m e) (.fin v 0 g) = if m = 0 then ⟨f.qnan, flagNV⟩ else ⟨f.infinity (u != v), flagDZ⟩ := rfl

theorem divVal_fin {u v : Bool} (hn : n ≠ 0) : divVal f rm (.fin u m e) (.fin v n g) = roundTo f rm (u != v) (m * 2 ^ (f.fb + 4 + bitLen n) / n)
    (e - g - (f.fb + 4 + bitLen n : Nat)) (m * 2 ^ (f.fb + 4 + bitLen n) % n != 0) := if_neg hn

theorem orders_quotient (hn : n ≠ 0) : Orders (fun k p => dyadicCmp (k * n) (p + g) m e) (dyadic m e / dyadic n g) := by
  have hpos : 0 < dyadic n g := by rw [dyadic]; have := Nat.pos_of_ne_zero hn; positivity
  have hmul : ∀ k p, dyadic (k * n) (p + g) = dyadic k p * dyadic n g := by
    intro k p
    simp only [dyadic, zpow_add₀ (two_ne_zero (α := ℝ))]
    push_cast
    ring
  refine ⟨fun k p => ?_, fun k p => ?_⟩
  · rw [dyadicCmp_lt, hmul, lt_div_iff₀ hpos]
  · rw [dyadicCmp_gt, hmul, div_lt_iff₀ hpos]

theorem brackets_quotient (hn : n ≠ 0) (k : Nat) :
    Brackets (m * 2 ^ k / n) (e - g - k) (m * 2 ^ k % n != 0) (dyadic m e / dyadic n g) := by
  have hnpos : (0 : ℝ) < n := by exact_mod_cast Nat.pos_of_ne_zero hn
  have hdiv : (n : ℝ) * (m * 2 ^ k / n : Nat) + (m * 2 ^ k % n : Nat) = m * 2 ^ k := by exact_mod_cast Nat.div_add_mod (m * 2 ^ k) n
  have hx : dyadic m e / dyadic n g = ((m * 2 ^ k / n : Nat) + (m * 2 ^ k % n : Nat) / (n : ℝ)) * 2 ^ (e - g - k) := by
    have hsum : ((m * 2 ^ k / n : Nat) : ℝ) + (m * 2 ^ k % n : Nat) / (n : ℝ) = m * 2 ^ k / n := by
      rw [← hdiv]
      field_simp
    rw [hsum, dyadic, dyadic, zpow_sub₀ two_ne_zero, zpow_sub₀ two_ne_zero, zpow_natCast]
    field_simp
  rw [hx]
  refine brackets_of_rest (by positivity) ?_ ?_
  · rw [div_lt_one hnpos]
    exact_mod_cast Nat.mod_lt _ (Nat.pos_of_ne_zero hn)
  · rw [bne_iff_ne, Ne, Ne, div_eq_zero_iff, or_iff_left hnpos.ne', Nat.cast_eq_zero]

theorem divVal_rounds (hf : f.Fits) {u v : Bool} (hn : n ≠ 0) (hm : m ≠ 0) :
    Rounds f rm (u != v) (fun k p => dyadicCmp (k * n) (p + g) m e) (divVal f rm (.fin u m e) (.fin v n g)) := by
  obtain ⟨j, hj, -, hlt⟩ := bitLen_bounds hn
  have hbig : 2 ^ (f.fb + 1) ≤ m * 2 ^ (f.fb + 4 + bitLen n) / n := by
    rw [Nat.le_div_iff_mul_le (Nat.pos_of_ne_zero hn)]
    calc 2 ^ (f.fb + 1) * n ≤ 2 ^ (f.fb + 4) * 2 ^ bitLen n :=
          Nat.mul_le_mul (Nat.pow_le_pow_right (by decide) (by omega)) (hj ▸ hlt.le)
      _ = 1 * 2 ^ (f.fb + 4 + bitLen n) := by rw [← pow_add, Nat.one_mul]
      _ ≤ m * 2 ^ (f.fb + 4 + bitLen n) := Nat.mul_le_mul_right _ (Nat.pos_of_ne_zero hm)
  have hq : m * 2 ^ (f.fb + 4 + bitLen n) / n ≠ 0 := fun h0 => by have := Nat.two_pow_pos (f.fb + 1); omega
  rw [divVal_fin hn]
  exact roundTo_rounds hq (brackets_quotient hn _) (fun _ => lt_topExp hbig) hf (orders_quotient hn)

/-! ### Square roots (R292, R299) -/

theorem isqrtFrom_spec {x : Nat} (k : Nat) {r : Nat} (hle : r * r ≤ x) (hlt : x < (r + 2 ^ k) * (r + 2 ^ k)) :
    isqrtFrom x k r * isqrtFrom x k r ≤ x ∧ x < (isqrtFrom x k r + 1) * (isqrtFrom x k r + 1) := by
  induction k generalizing r with
  | zero => exact ⟨hle, hlt⟩
  | succ k ih =>
    rw [isqrtFrom]
    have hpow : r + 2 ^ (k + 1) = r + 2 ^ k + 2 ^ k := by rw [pow_succ]; omega
    split
    next hc => exact ih hc (hpow ▸ hlt)
    next hc => exact ih hle (not_le.mp hc)

theorem isqrt_spec (x : Nat) : isqrt x * isqrt x ≤ x ∧ x < (isqrt x + 1) * (isqrt x + 1) := by
  refine isqrtFrom_spec _ (Nat.zero_le _) ?_
  have hlen : x < 2 ^ bitLen x := by
    rcases eq_or_ne x 0 with rfl | hx
    · decide
    · obtain ⟨k, hk, -, hlt⟩ := bitLen_bounds hx
      exact hk ▸ hlt
  rw [Nat.zero_add, ← pow_add]
  exact hlen.trans_le (Nat.pow_le_pow_right (by decide) (by omega))

theorem pow_le_isqrt {x k : Nat} (h : 2 ^ k * 2 ^ k ≤ x) : 2 ^ k ≤ isqrt x := by
  have hlt := (isqrt_spec x).2
  exact Nat.lt_succ_iff.mp (Nat.mul_self_lt_mul_self_iff.mp (h.trans_lt hlt))

theorem orders_root : Orders (fun k p => dyadicCmp (k * k) (2 * p) m e) (√(dyadic m e)) := by
  have hsq : ∀ k p, dyadic (k * k) (2 * p) = dyadic k p ^ 2 := by
    intro k p
    rw [dyadic, dyadic, mul_pow, ← zpow_natCast ((2 : ℝ) ^ p), ← zpow_mul, mul_comm (2 : Int) p]
    push_cast
    ring
  have h0 : ∀ k p, 0 ≤ dyadic k p := fun k p => by rw [dyadic]; positivity
  refine ⟨fun k p => ?_, fun k p => ?_⟩
  · rw [dyadicCmp_lt, hsq, Real.lt_sqrt (h0 k p)]
  · rw [dyadicCmp_gt, hsq, Real.sqrt_lt (h0 m e) (h0 k p)]

theorem orders_rootInverse (hm : m ≠ 0) : Orders (fun k p => dyadicCmp (k * k * m) (2 * p + e) 1 0) (√(dyadic m e)⁻¹) := by
  have hmul : ∀ k p, dyadic (k * k * m) (2 * p + e) = dyadic k p ^ 2 * dyadic m e := by
    intro k p
    rw [dyadic, dyadic, dyadic, mul_pow, zpow_add₀ two_ne_zero, ← zpow_natCast ((2 : ℝ) ^ p), ← zpow_mul, mul_comm (2 : Int) p]
    push_cast
    ring
  have hone : dyadic 1 0 = 1 := by simp [dyadic]
  have h0 : ∀ k p, 0 ≤ dyadic k p := fun k p => by rw [dyadic]; positivity
  have hpos : 0 < dyadic m e := by rw [dyadic]; have := Nat.pos_of_ne_zero hm; positivity
  refine ⟨fun k p => ?_, fun k p => ?_⟩
  · rw [dyadicCmp_lt, hmul, hone, Real.lt_sqrt (h0 k p), ← one_div, lt_div_iff₀ hpos]
  · rw [dyadicCmp_gt, hmul, hone, Real.sqrt_lt (inv_nonneg.mpr (h0 m e)) (h0 k p), inv_lt_iff_one_lt_mul₀ hpos]

/-- The integer part of a root, and whether the root is more. -/
theorem brackets_root {y : ℝ} (h0 : (r : ℝ) ^ 2 ≤ y) (h1 : y < (r + 1) ^ 2) (hs : sticky = true ↔ (r : ℝ) ^ 2 ≠ y) :
    Brackets r e sticky (√y * 2 ^ e) := by
  have hy : 0 ≤ y := (by positivity : (0 : ℝ) ≤ r ^ 2).trans h0
  have hr : (0 : ℝ) ≤ r := Nat.cast_nonneg r
  have hle : (r : ℝ) ≤ √y := Real.le_sqrt_of_sq_le h0
  have hlt : √y < r + 1 := (Real.sqrt_lt hy (by positivity)).mpr h1
  have hrest := brackets_of_rest (m := r) (e := e) (sticky := sticky) (t := √y - r) (by linarith) (by linarith) (by
    rw [hs, Ne, Ne, sub_eq_zero, Real.sqrt_eq_iff_eq_sq hy hr, eq_comm])
  rwa [add_sub_cancel] at hrest

/-- A magnitude with an even exponent. -/
def evenExp (m : Nat) (e : Int) : Nat × Int := if e % 2 = 0 then (m, e) else (2 * m, e - 1)

theorem evenExp_spec (hm : m ≠ 0) : (evenExp m e).1 ≠ 0 ∧ dyadic (evenExp m e).1 (2 * ((evenExp m e).2 / 2)) = dyadic m e := by
  rw [evenExp]
  split
  next he => exact ⟨hm, by rw [show 2 * (e / 2) = e by omega]⟩
  next he =>
    refine ⟨by omega, ?_⟩
    simp only
    rw [show 2 * ((e - 1) / 2) = e - 1 by omega, dyadic_half, dyadic]
    push_cast
    ring

/-- The integer whose root the model takes for FSQRT. -/
def FpFmt.radicand (f : FpFmt) (m : Nat) (e : Int) : Nat := (evenExp m e).1 * 2 ^ (2 * (f.fb + 4))

theorem sqrtVal_fin (hm : m ≠ 0) : sqrtVal f rm (.fin false m e) = roundTo f rm false (isqrt (f.radicand m e))
    ((evenExp m e).2 / 2 - (f.fb + 4 : Nat)) (isqrt (f.radicand m e) * isqrt (f.radicand m e) != f.radicand m e) := if_neg hm

/-- The bits that the model takes of an inverse root. -/
def FpFmt.rsqBits (f : FpFmt) (m : Nat) (e : Int) : Nat := f.fb + 4 + bitLen (evenExp m e).1

/-- The leading bits of an inverse root. -/
def FpFmt.rsqRoot (f : FpFmt) (m : Nat) (e : Int) : Nat := isqrt (2 ^ (2 * f.rsqBits m e) / (evenExp m e).1)

theorem rsqVal_fin (hm : m ≠ 0) : rsqVal f rm (.fin false m e) = roundTo f rm false (f.rsqRoot m e)
    (-((evenExp m e).2 / 2) - f.rsqBits m e) (f.rsqRoot m e * f.rsqRoot m e * (evenExp m e).1 != 2 ^ (2 * f.rsqBits m e)) := if_neg hm

theorem sqrt_mul_zpow {y : ℝ} (j : Int) (hy : 0 ≤ y) : √(y * 2 ^ (2 * j)) = √y * 2 ^ j := by
  have hsq : (2 : ℝ) ^ (2 * j) = (2 ^ j) ^ 2 := by rw [mul_comm, zpow_mul, zpow_ofNat]
  rw [hsq, Real.sqrt_mul hy, Real.sqrt_sq (by positivity)]

theorem sqrtVal_rounds (hf : f.Fits) (hm : m ≠ 0) :
    Rounds f rm false (fun k p => dyadicCmp (k * k) (2 * p) m e) (sqrtVal f rm (.fin false m e)) := by
  obtain ⟨h1, heven⟩ := evenExp_spec (e := e) hm
  rw [sqrtVal_fin hm]
  have hX : f.radicand m e = (evenExp m e).1 * 2 ^ (2 * (f.fb + 4)) := rfl
  generalize f.radicand m e = X at hX ⊢
  obtain ⟨hle, hlt⟩ := isqrt_spec X
  have hbig : 2 ^ (f.fb + 4) ≤ isqrt X := pow_le_isqrt (by
    rw [← pow_add, ← two_mul, hX]
    exact Nat.le_mul_of_pos_left _ (Nat.pos_of_ne_zero h1))
  have hbig' : 2 ^ (f.fb + 1) ≤ isqrt X := (Nat.pow_le_pow_right (by decide) (by omega)).trans hbig
  have hroot : √(dyadic m e) = √(X : ℝ) * 2 ^ ((evenExp m e).2 / 2 - (f.fb + 4 : Nat)) := by
    rw [← sqrt_mul_zpow _ (Nat.cast_nonneg X), ← heven, ← dyadic,
      dyadic_eq_shift (g := 2 * ((evenExp m e).2 / 2 - (f.fb + 4 : Nat))) (by push_cast; omega), hX]
    congr 4
    push_cast
    omega
  refine roundTo_rounds (by have := Nat.two_pow_pos (f.fb + 1); omega) ?_ (fun _ => lt_topExp hbig') hf orders_root
  rw [hroot]
  refine brackets_root (by rw [sq]; exact_mod_cast hle) (by rw [sq]; exact_mod_cast hlt) ?_
  rw [bne_iff_ne, sq]
  norm_cast

theorem rsqVal_rounds (hf : f.Fits) (hm : m ≠ 0) :
    Rounds f rm false (fun k p => dyadicCmp (k * k * m) (2 * p + e) 1 0) (rsqVal f rm (.fin false m e)) := by
  obtain ⟨h1, heven⟩ := evenExp_spec (e := e) hm
  obtain ⟨j, hj, -, hlt1⟩ := bitLen_bounds h1
  rw [rsqVal_fin hm]
  have hr : f.rsqRoot m e = isqrt (2 ^ (2 * f.rsqBits m e) / (evenExp m e).1) := rfl
  have hk : f.rsqBits m e = f.fb + 4 + bitLen (evenExp m e).1 := rfl
  generalize f.rsqRoot m e = r at hr ⊢
  generalize f.rsqBits m e = k at hr hk ⊢
  generalize (evenExp m e).1 = m1 at *
  have hpos := Nat.pos_of_ne_zero h1
  have hm1 : (0 : ℝ) < m1 := by exact_mod_cast hpos
  obtain ⟨hle, hlt⟩ := isqrt_spec (2 ^ (2 * k) / m1)
  rw [← hr] at hle hlt
  rw [Nat.le_div_iff_mul_le hpos] at hle
  rw [Nat.div_lt_iff_lt_mul hpos] at hlt
  have hbig : 2 ^ (f.fb + 4) ≤ r := hr ▸ pow_le_isqrt (by
    rw [Nat.le_div_iff_mul_le hpos]
    calc 2 ^ (f.fb + 4) * 2 ^ (f.fb + 4) * m1 ≤ 2 ^ (f.fb + 4) * 2 ^ (f.fb + 4) * 2 ^ bitLen m1 := Nat.mul_le_mul_left _ (hj ▸ hlt1.le)
      _ = 2 ^ (f.fb + 4 + (f.fb + 4) + bitLen m1) := by rw [← pow_add, ← pow_add]
      _ ≤ 2 ^ (2 * k) := Nat.pow_le_pow_right (by decide) (by omega))
  have hbig' : 2 ^ (f.fb + 1) ≤ r := (Nat.pow_le_pow_right (by decide) (by omega)).trans hbig
  have hroot : √(dyadic m e)⁻¹ = √(2 ^ (2 * k) / m1 : ℝ) * 2 ^ (-((evenExp m e).2 / 2) - (k : Int)) := by
    generalize (evenExp m e).2 / 2 = i at heven
    have hexp : (2 : ℝ) ^ (2 * (-i - (k : Int))) = (2 ^ (2 * i))⁻¹ * (2 ^ (2 * k))⁻¹ := by
      rw [show 2 * (-i - (k : Int)) = -(2 * i) - (2 * k : Nat) by push_cast; ring, zpow_sub₀ two_ne_zero, zpow_neg, zpow_natCast, div_eq_mul_inv]
    rw [← sqrt_mul_zpow _ (by positivity), ← heven, dyadic, hexp]
    congr 1
    field_simp
  refine roundTo_rounds (by have := Nat.two_pow_pos (f.fb + 1); omega) ?_ (fun _ => lt_topExp hbig') hf (orders_rootInverse hm)
  rw [hroot]
  refine brackets_root ?_ ?_ ?_
  · rw [sq, le_div_iff₀ hm1]; exact_mod_cast hle
  · rw [sq, div_lt_iff₀ hm1]; exact_mod_cast hlt
  · rw [bne_iff_ne, sq, Ne, Ne, eq_div_iff hm1.ne']
    norm_cast

end Sys2Proof.Machine
end

section
/-! SUPPORT. FMA (R292), and the four records. -/

namespace Sys2Proof.Machine
open Sys2Proof
variable {f : FpFmt} {rm : Rm} {a b c : FpVal} {u v w : Bool} {m n k : Nat} {e g l : Int}

/-! ### Products with an addend (R292) -/

/-- Zero times an infinity. -/
def zeroTimesInf (a b : FpVal) : Bool :=
  match a, b with
  | .inf _, .fin _ n _ => n == 0
  | .fin _ m _, .inf _ => m == 0
  | _, _ => false

theorem zeroTimesInf_iff : zeroTimesInf a b = true ↔ ∃ u v g, (a = .inf u ∧ b = .fin v 0 g) ∨ (a = .fin v 0 g ∧ b = .inf u) := by
  cases a <;> cases b <;> simp [zeroTimesInf]

theorem fmaVal_zeroTimesInf (h : zeroTimesInf a b = true) : fmaVal f rm a b c = ⟨f.qnan, flagNV⟩ := if_pos h

theorem fmaVal_nan (hz : ¬ zeroTimesInf a b = true) (h : a.isNan = true ∨ b.isNan = true ∨ c.isNan = true) :
    fmaVal f rm a b c = nanRes f [a, b, c] := by
  refine (if_neg hz).trans ?_
  rcases h with h | h | h
  all_goals obtain ⟨q, rfl⟩ := isNan_iff.mp h
  · rfl
  · cases a <;> rfl
  · cases a <;> cases b <;> rfl

theorem fmaVal_fin_inf : fmaVal f rm (.fin u m e) (.fin v n g) (.inf w) = ⟨f.infinity w, 0⟩ := rfl

/-- A product of an infinity and a value that is not zero. -/
def InfProduct (u v : Bool) (a b : FpVal) : Prop :=
  (a = .inf u ∧ b = .inf v) ∨ ∃ n g, n ≠ 0 ∧ ((a = .inf u ∧ b = .fin v n g) ∨ (a = .fin u n g ∧ b = .inf v))

theorem fmaVal_infProduct_fin (h : InfProduct u v a b) : fmaVal f rm a b (.fin w k l) = ⟨f.infinity (u != v), 0⟩ := by
  rcases h with ⟨rfl, rfl⟩ | ⟨n, g, hn, ⟨rfl, rfl⟩ | ⟨rfl, rfl⟩⟩
  · rfl
  · exact if_neg (by simpa using hn)
  · exact if_neg (by simpa using hn)

theorem fmaVal_infProduct_inf (h : InfProduct u v a b) :
    fmaVal f rm a b (.inf w) = if (u != v) = w then ⟨f.infinity w, 0⟩ else ⟨f.qnan, flagNV⟩ := by
  rcases h with ⟨rfl, rfl⟩ | ⟨n, g, hn, ⟨rfl, rfl⟩ | ⟨rfl, rfl⟩⟩
  · rfl
  · exact if_neg (by simpa using hn)
  · exact if_neg (by simpa using hn)

theorem fmaVal_zeros (hp : m * n = 0) :
    fmaVal f rm (.fin u m e) (.fin v n g) (.fin w 0 l) = ⟨f.zero (if (u != v) = w then w else rm == .rd), 0⟩ := by
  refine (if_pos ⟨hp, rfl⟩).trans ?_
  by_cases h : (u != v) = w <;> simp [h, Res.plain]

theorem fmaVal_fin (h : ¬(m * n = 0 ∧ k = 0)) : fmaVal f rm (.fin u m e) (.fin v n g) (.fin w k l) =
    roundInt f rm (finSum (u != v) (m * n) (e + g) w k l) (min (e + g) l) := if_neg h

theorem fmaVal_isSum (hf : f.Fits) :
    (m * n = 0 → k = 0 → fmaVal f rm (.fin u m e) (.fin v n g) (.fin w k l) = ⟨f.zero (if (u != v) = w then w else rm == .rd), 0⟩) ∧
      (k ≠ 0 → finSum (u != v) (m * n) (e + g) w k l = 0 →
        fmaVal f rm (.fin u m e) (.fin v n g) (.fin w k l) = ⟨f.zero (rm == .rd), 0⟩) ∧
      (finSum (u != v) (m * n) (e + g) w k l ≠ 0 → Rounds f rm (decide (finSum (u != v) (m * n) (e + g) w k l < 0))
        (fun j p => dyadicCmp j p (finSum (u != v) (m * n) (e + g) w k l).natAbs (min (e + g) l))
        (fmaVal f rm (.fin u m e) (.fin v n g) (.fin w k l))) := by
  refine ⟨fun hp hk => ?_, fun hk hz => ?_, fun hne => ?_⟩
  · rw [hk, fmaVal_zeros hp]
  · rw [fmaVal_fin fun h => hk h.2, hz, roundInt_zero]
  · rw [fmaVal_fin]
    · exact roundInt_rounds hf hne
    · rintro ⟨hp, rfl⟩
      rw [hp] at hne
      exact hne finSum_zero

/-! ### Quotients and roots in all their cases -/

theorem divVal_isQuotient (hf : f.Fits) (a b : FpVal) :
    ((a.isNan ∨ b.isNan) → divVal f rm a b = nanRes f [a, b]) ∧
      (∀ u v, a = .inf u → b = .inf v → divVal f rm a b = ⟨f.qnan, flagNV⟩) ∧
      (∀ u v n g, (a = .inf u → b = .fin v n g → divVal f rm a b = ⟨f.infinity (u != v), 0⟩) ∧
        (a = .fin v n g → b = .inf u → divVal f rm a b = ⟨f.zero (v != u), 0⟩)) ∧
      (∀ u m e v n g, a = .fin u m e → b = .fin v n g →
        (n = 0 → divVal f rm a b = if m = 0 then ⟨f.qnan, flagNV⟩ else ⟨f.infinity (u != v), flagDZ⟩) ∧
        (n ≠ 0 → m = 0 → divVal f rm a b = ⟨f.zero (u != v), 0⟩) ∧
        (n ≠ 0 → m ≠ 0 → Rounds f rm (u != v) (fun k p => dyadicCmp (k * n) (p + g) m e) (divVal f rm a b))) := by
  refine ⟨divVal_nan, ?_, ?_, ?_⟩
  · rintro u v rfl rfl
    rfl
  · intro u v n g
    constructor <;> rintro rfl rfl <;> rfl
  · rintro u m e v n g rfl rfl
    refine ⟨?_, fun hn hm => ?_, divVal_rounds hf⟩
    · rintro rfl
      exact divVal_fin_zero
    · rw [divVal_fin hn, hm, Nat.zero_mul, Nat.zero_div, Nat.zero_mod]
      rfl

/-- What R292 and R299 say of a root: of NaN, of an infinity, of a zero, of a negative operand and of a positive one. -/
def IsRoot (f : FpFmt) (rm : Rm) (ofInf : Res) (ofZero : Bool → Res) (cmp : Nat → Int → Nat → Int → Ordering) (a : FpVal) (q : Res) : Prop :=
  (a.isNan → q = nanRes f [a]) ∧ (∀ u, a = .inf u → q = if u then ⟨f.qnan, flagNV⟩ else ofInf) ∧
    ∀ u m e, a = .fin u m e → (m = 0 → q = ofZero u) ∧ (m ≠ 0 → u = true → q = ⟨f.qnan, flagNV⟩) ∧
      (m ≠ 0 → u = false → Rounds f rm false (cmp m e) q)

theorem isRoot_of {op : FpVal → Res} {ofInf : Res} {ofZero : Bool → Res} {cmp : Nat → Int → Nat → Int → Ordering}
    (hnan : ∀ g, op (.nan g) = nanRes f [.nan g]) (hinf : ∀ u, op (.inf u) = if u then ⟨f.qnan, flagNV⟩ else ofInf)
    (hzero : ∀ u e, op (.fin u 0 e) = ofZero u) (hneg : ∀ m e, m ≠ 0 → op (.fin true m e) = ⟨f.qnan, flagNV⟩)
    (hpos : ∀ m e, m ≠ 0 → Rounds f rm false (cmp m e) (op (.fin false m e))) (a : FpVal) :
    IsRoot f rm ofInf ofZero cmp a (op a) := by
  refine ⟨fun ha => ?_, ?_, ?_⟩
  · obtain ⟨g, rfl⟩ := isNan_iff.mp ha
    exact hnan g
  · rintro u rfl
    exact hinf u
  · rintro u m e rfl
    refine ⟨?_, ?_, ?_⟩
    · rintro rfl
      exact hzero u e
    · rintro hm rfl
      exact hneg m e hm
    · rintro hm rfl
      exact hpos m e hm

theorem sqrtVal_isRoot (hf : f.Fits) (a : FpVal) : IsRoot f rm ⟨f.infinity false, 0⟩ (fun u => ⟨f.zero u, 0⟩)
    (fun m e k p => dyadicCmp (k * k) (2 * p) m e) a (sqrtVal f rm a) :=
  isRoot_of (fun _ => rfl) (fun _ => rfl) (fun _ _ => rfl) (fun _ _ hm => if_neg hm) (fun _ _ => sqrtVal_rounds hf) a

theorem rsqVal_isRoot (hf : f.Fits) (a : FpVal) : IsRoot f rm ⟨f.zero false, 0⟩ (fun u => ⟨f.infinity u, flagDZ⟩)
    (fun m e k p => dyadicCmp (k * k * m) (2 * p + e) 1 0) a (rsqVal f rm a) :=
  isRoot_of (fun _ => rfl) (fun _ => rfl) (fun _ _ => rfl) (fun _ _ hm => if_neg hm) (fun _ _ => rsqVal_rounds hf) a

theorem fmaVal_isFused (hf : f.Fits) (a b c : FpVal) :
    (∀ u v g, ((a = .inf u ∧ b = .fin v 0 g) ∨ (a = .fin v 0 g ∧ b = .inf u)) → fmaVal f rm a b c = ⟨f.qnan, flagNV⟩) ∧
      ((∀ u v g, ¬((a = .inf u ∧ b = .fin v 0 g) ∨ (a = .fin v 0 g ∧ b = .inf u))) → (a.isNan ∨ b.isNan ∨ c.isNan) →
        fmaVal f rm a b c = nanRes f [a, b, c]) ∧
      (∀ u m e v n g w, a = .fin u m e → b = .fin v n g → c = .inf w → fmaVal f rm a b c = ⟨f.infinity w, 0⟩) ∧
      (∀ u v, InfProduct u v a b → (∀ w k l, c = .fin w k l → fmaVal f rm a b c = ⟨f.infinity (u != v), 0⟩) ∧
        (∀ w, c = .inf w → fmaVal f rm a b c = if (u != v) = w then ⟨f.infinity w, 0⟩ else ⟨f.qnan, flagNV⟩)) ∧
      (∀ u m e v n g w k l, a = .fin u m e → b = .fin v n g → c = .fin w k l →
        (m * n = 0 → k = 0 → fmaVal f rm a b c = ⟨f.zero (if (u != v) = w then w else rm == .rd), 0⟩) ∧
        (k ≠ 0 → finSum (u != v) (m * n) (e + g) w k l = 0 → fmaVal f rm a b c = ⟨f.zero (rm == .rd), 0⟩) ∧
        (finSum (u != v) (m * n) (e + g) w k l ≠ 0 → Rounds f rm (decide (finSum (u != v) (m * n) (e + g) w k l < 0))
          (fun j p => dyadicCmp j p (finSum (u != v) (m * n) (e + g) w k l).natAbs (min (e + g) l)) (fmaVal f rm a b c))) := by
  refine ⟨fun u v g hz => fmaVal_zeroTimesInf (zeroTimesInf_iff.mpr ⟨u, v, g, hz⟩), fun hz hn => fmaVal_nan (fun h0 => ?_) hn, ?_, ?_, ?_⟩
  · obtain ⟨u, v, g, hc⟩ := zeroTimesInf_iff.mp h0
    exact hz u v g hc
  · rintro u m e v n g w rfl rfl rfl
    exact fmaVal_fin_inf
  · refine fun u v hp => ⟨?_, ?_⟩
    · rintro w k l rfl
      exact fmaVal_infProduct_fin hp
    · rintro w rfl
      exact fmaVal_infProduct_inf hp
  · rintro u m e v n g w k l rfl rfl rfl
    exact fmaVal_isSum hf

/-! ### The records -/

/-- What FMA makes of its operands. -/
def fmaOf (s : State) (t : FpTy) (rm : Rm) : Res :=
  fmaVal (fmtOf t) rm ((fmtOf t).decode (scalarOp (.fp t) s.latch.opL).val) ((fmtOf t).decode (scalarOp (.fp t) s.latch.opR).val)
    ((fmtOf t).decode (scalarOp (.fp t) s.latch.opX).val)

theorem gives_fma {s : State} {h : Hdr} {t : FpTy} (hr : FiresReal (.fma h t rm) s) : Gives (.fma h t rm) s (.scalar (fmaOf s t rm).val)
    ((fmaOf s t rm).flags ||| (scalarOp (.fp t) s.latch.opL).flags ||| (scalarOp (.fp t) s.latch.opR).flags |||
      (scalarOp (.fp t) s.latch.opX).flags) := (gives_fireRes rfl hr :)

/-- Settles O24: each record sends what its operation makes of the decoded operands, whose cases are above. -/
theorem fpDivRoot : Obligations.FpDivRoot := by
  intro s h t r rm
  have hf := fmtOf_fits t
  refine ⟨fun hr => ?div, fun hr => ?sqrt, fun hr => ?rsq, fun hr => ?fma⟩
  case div => exact ⟨fpRecOf s t r divVal, gives_fpRec rfl hr, divVal_isQuotient hf _ _⟩
  case sqrt => exact ⟨fpUnaryOf s t fun f a => sqrtVal f rm a, gives_fpUnary rfl hr, sqrtVal_isRoot hf _⟩
  case rsq => exact ⟨fpUnaryOf s t fun f a => rsqVal f rm a, gives_fpUnary rfl hr, rsqVal_isRoot hf _⟩
  case fma => exact ⟨fmaOf s t rm, gives_fma hr, fmaVal_isFused hf _ _ _⟩

end Sys2Proof.Machine
end

section
/-! SUPPORT. Conversions (R160, R164, R296, R297): a value rounded to an integer, an exact value in a format, and the nearest tapered pattern. -/

namespace Sys2Proof.Machine
open Sys2Proof
variable {f : FpFmt} {rm : Rm} {neg u : Bool} {m n k : Nat} {e g : Int} {x : ℝ}

/-! ### Values rounded to an integer (R160) -/

theorem nearest_dyadic_iff : Nearest rm neg (fun k p => dyadicCmp k p m e) n 0 ↔ NearTo rm neg (dyadic m e) n := by
  rw [nearest_iff (orders_dyadicCmp m e) (by rw [dyadic]; positivity), zpow_zero, div_one]

theorem dyadicCmp_zero_eq_iff : dyadicCmp n 0 m e = .eq ↔ dyadic m e = n := by
  rw [dyadicCmp_eq, eq_comm, dyadic, dyadic, zpow_zero, mul_one]

theorem splitAt_dyadic : Split (dyadic m e) (splitAt m e 0 false) := by
  have h : Split (dyadic m e / 2 ^ (0 : Int)) (splitAt m e 0 false) := splitAt_split (sticky := false) rfl nofun
  rwa [zpow_zero, div_one] at h

theorem toIntegral_spec : ∃ n, Nearest rm neg (fun k p => dyadicCmp k p m e) n 0 ∧
    toIntegral rm neg m e = (withSign neg n, decide (dyadicCmp n 0 m e ≠ .eq)) := by
  refine ⟨roundUp rm neg (splitAt m e 0 false), nearest_dyadic_iff.mpr splitAt_dyadic.nearTo, Prod.ext rfl ?_⟩
  rw [Bool.eq_iff_iff, decide_eq_true_iff, Ne, dyadicCmp_zero_eq_iff, ← Ne, ← splitAt_dyadic.inexact_iff]
  rfl

theorem exists_nearest (rm : Rm) (neg : Bool) (m : Nat) (e : Int) : ∃ n, Nearest rm neg (fun k p => dyadicCmp k p m e) n 0 :=
  let ⟨n, hn, _⟩ := toIntegral_spec (rm := rm) (neg := neg) (m := m) (e := e)
  ⟨n, hn⟩

theorem Nearest.ge_of_le (h : Nearest rm neg (fun k p => dyadicCmp k p m e) n 0) (hk : k ≤ dyadic m e) : k ≤ n :=
  (nearest_dyadic_iff.mp h).ge hk

theorem Nearest.le_of_le (h : Nearest rm neg (fun k p => dyadicCmp k p m e) n 0) (hk : dyadic m e ≤ k) : n ≤ k :=
  (nearest_dyadic_iff.mp h).le hk

/-! ### Conversions to an integer type (R160, R296) -/

theorem IntTy_bounds (t : IntTy) : -2 ^ 64 < t.lo ∧ t.lo ≤ 0 ∧ 0 ≤ t.hi ∧ t.hi < 2 ^ 64 := by cases t <;> decide

/-- The end of a type's range on the side of a sign. -/
def IntTy_bound (t : IntTy) (neg : Bool) : Int := if neg then t.lo else t.hi

/-- A value converted to an integer type, from its rounded integer. -/
def IntTy_converted (t : IntTy) (u : Bool) (n m : Nat) (e : Int) : Res :=
  if t.lo ≤ withSign u n ∧ withSign u n ≤ t.hi then ⟨t.ext (withSign u n), if dyadicCmp n 0 m e = .eq then 0 else flagNX⟩
  else ⟨t.ext (IntTy_bound t u), flagNV⟩

theorem converted_out {t : IntTy} (h : ¬(t.lo ≤ withSign u n ∧ withSign u n ≤ t.hi)) : IntTy_converted t u n m e = ⟨t.ext (IntTy_bound t u), flagNV⟩ :=
  if_neg h

theorem converted_in {t : IntTy} (h : t.lo ≤ withSign u n ∧ withSign u n ≤ t.hi) :
    IntTy_converted t u n m e = ⟨t.ext (withSign u n), if decide (dyadicCmp n 0 m e ≠ .eq) then flagNX else 0⟩ := by
  refine (if_pos h).trans ?_
  by_cases he : dyadicCmp n 0 m e = .eq <;> simp [he]

theorem withSign_true : withSign true n = -n := rfl

theorem withSign_false : withSign false n = n := rfl

theorem toIntTy_small {t : IntTy} (h : ¬(m ≠ 0 ∧ e + bitLen m > 70)) : toIntTy t rm (.fin u m e) =
    if (toIntegral rm u m e).1 < t.lo then ⟨t.ext t.lo, flagNV⟩ else if (toIntegral rm u m e).1 > t.hi then ⟨t.ext t.hi, flagNV⟩
    else ⟨t.ext (toIntegral rm u m e).1, if (toIntegral rm u m e).2 then flagNX else 0⟩ := if_neg h

theorem toIntTy_fin (t : IntTy) (rm : Rm) (u : Bool) (m : Nat) (e : Int) :
    ∃ n, Nearest rm u (fun k p => dyadicCmp k p m e) n 0 ∧ toIntTy t rm (.fin u m e) = IntTy_converted t u n m e := by
  obtain ⟨hlo, hlo0, hhi0, hhi⟩ := IntTy_bounds t
  obtain ⟨n, hn, hint⟩ := toIntegral_spec (rm := rm) (neg := u) (m := m) (e := e)
  refine ⟨n, hn, ?_⟩
  have hlow : withSign u n < t.lo → IntTy_bound t u = t.lo := by
    cases u
    · rw [withSign_false]; omega
    · exact fun _ => rfl
  have hhigh : t.hi < withSign u n → IntTy_bound t u = t.hi := by
    cases u
    · exact fun _ => rfl
    · rw [withSign_true]; omega
  by_cases hbig : m ≠ 0 ∧ e + bitLen m > 70
  · have hlarge : ((2 ^ 70 : Nat) : ℝ) ≤ dyadic m e := by
      have htop : 70 ≤ topExp m e := by rw [topExp]; omega
      refine le_trans ?_ (Brackets.top (sticky := false) hbig.1 rfl).1
      exact_mod_cast zpow_le_zpow_right₀ (one_le_two (α := ℝ)) htop
    have hge := hn.ge_of_le hlarge
    rw [converted_out]
    · exact if_pos hbig
    · cases u
      · rw [withSign_false]; omega
      · rw [withSign_true]; omega
  · rw [toIntTy_small hbig, hint]
    split
    next hlt => rw [converted_out (by omega), hlow hlt]
    next hge =>
      split
      next hgt => rw [converted_out (by omega), hhigh hgt]
      next hle => rw [converted_in (by omega)]

theorem convert_int {src : Ty} (t : IntTy) (x : Word) (h : src.isInt = false) : convert (.int t) src rm x = toIntTy t rm (decodeTy src x) := by
  cases src with
  | int st => exact absurd h (by simp [Ty.isInt])
  | fp _ | tap _ => rfl

/-! ### Conversions to an IEEE type (R296) -/

theorem toFp_nan : toFp f rm (.nan u) = nanRes f [.nan u] := by cases u <;> rfl

theorem toFp_inf : toFp f rm (.inf u) = ⟨f.infinity u, 0⟩ := rfl

theorem toFp_zero : toFp f rm (.fin u 0 e) = ⟨f.zero u, 0⟩ := rfl

theorem toFp_rounds (hf : f.Fits) (hm : m ≠ 0) : Rounds f rm u (fun k p => dyadicCmp k p m e) (toFp f rm (.fin u m e)) :=
  roundTo_rounds_exact hf hm

/-! ### Values that a format has (R297) -/

theorem topExp_lt {k : Nat} (hm : m ≠ 0) (h : m < 2 ^ k) : topExp m e < e + k := by
  obtain ⟨j, hj, hle, -⟩ := bitLen_bounds hm
  have : j < k := (Nat.pow_lt_pow_iff_right (by decide)).mp (hle.trans_lt h)
  rw [topExp, hj]
  push_cast
  omega

/-- A value that the format has is rounded to itself. -/
theorem roundTo_exact (hf : f.Fits) (hm : m < 2 ^ (f.fb + 1)) (he : f.qmin ≤ e) (htop : topExp m e < f.gmax + f.fb) :
    ∃ n g, f.decode (roundTo f rm neg m e false).val = .fin neg n g ∧ dyadicCmp n g m e = .eq := by
  rcases eq_or_ne m 0 with rfl | hne
  · exact ⟨0, f.qmin, by rw [roundTo_zero, FpFmt.decode_zero hf], dyadicCmp_eq.mpr (by simp [dyadic])⟩
  have hbr : Brackets m e false (dyadic m e) := rfl
  have hat := roundedAt_roundTo (rm := rm) (neg := neg) (f := f) hne hbr nofun
  have hlt := topExp_lt (e := e) hne hm
  have hgmax := FpFmt.qmin_lt_gmax hf
  have hgrain : f.grain m e = max (topExp m e - f.fb) f.qmin := rfl
  have hle : f.grain m e ≤ e := by push_cast at hlt; omega
  have hsplit := splitAt_split (q := f.grain m e) hbr nofun
  have hexact : (splitAt m e (f.grain m e) false).2.2.2 = false := by rw [splitAt, if_pos hle]
  have heq : dyadic m e / 2 ^ f.grain m e = roundUp rm neg (splitAt m e (f.grain m e) false) :=
    not_not.mp (mt hsplit.inexact_iff.mpr (by rw [hexact]; decide))
  have hover : (f.carry (roundUp rm neg (splitAt m e (f.grain m e) false)) (f.grain m e)).2 ≤ f.gmax := by
    rw [FpFmt.carry]
    split <;> simp only <;> omega
  obtain ⟨v, hv, -, hdec⟩ := hat.finish_finite (inexact := (splitAt m e (f.grain m e) false).2.2.2) (tiny := f.isTiny rm neg m e false) hf hover
  rw [← roundTo_eq_finish fun hz => hne hz.1] at hv
  refine ⟨_, _, (congrArg (fun r => f.decode r.val) hv).trans hdec, ?_⟩
  rw [dyadicCmp_eq, FpFmt.carry_eq, dyadic, ← heq, div_mul_cancel₀ _ (by positivity)]

end Sys2Proof.Machine
end

section
/-! SUPPORT. FRND (R297): an integral value is one that the format has; and what a pattern's low bits decode to. -/

namespace Sys2Proof.Machine
open Sys2Proof
variable {f : FpFmt} {rm : Rm} {neg u : Bool} {m n k : Nat} {e g : Int} {x y : Word}

/-! ### What a pattern decodes to (R158, R159) -/

/-- A finite value of a format, in its units. -/
theorem FpFmt.decode_bounds (hf : f.Fits) (h : f.decode x = .fin u m e) :
    m < 2 ^ (f.fb + 1) ∧ f.qmin ≤ e ∧ e ≤ f.gmax ∧ (m < 2 ^ f.fb → e = f.qmin) := by
  have hfr : x.toNat % 2 ^ f.fb < 2 ^ f.fb := Nat.mod_lt _ (Nat.two_pow_pos _)
  have hex : x.toNat / 2 ^ f.fb % 2 ^ f.eb < 2 ^ f.eb := Nat.mod_lt _ (Nat.two_pow_pos _)
  have hgmax := FpFmt.qmin_lt_gmax hf
  have hcast : ((2 ^ f.eb : Nat) : Int) = 2 ^ f.eb := by push_cast; rfl
  have hgm : f.gmax = f.qmin + 2 ^ f.eb - 3 := rfl
  simp only [FpFmt.decode] at h
  split at h
  · split at h <;> exact absurd h (by simp)
  · split at h
    all_goals
      obtain ⟨-, rfl, rfl⟩ := FpVal.fin.inj h
      rw [pow_succ]
      omega

theorem FpFmt.decode_congr (h : x.toNat % 2 ^ f.width = y.toNat % 2 ^ f.width) : f.decode x = f.decode y := by
  have hw : f.width = f.fb + (f.eb + 1) := by rw [FpFmt.width]; omega
  have hfr : ∀ z : Word, z.toNat % 2 ^ f.fb = z.toNat % 2 ^ f.width % 2 ^ f.fb := fun z => by
    rw [Nat.mod_mod_of_dvd _ (pow_dvd_pow 2 (by omega))]
  have hex : ∀ z : Word, z.toNat / 2 ^ f.fb % 2 ^ f.eb = z.toNat % 2 ^ f.width / 2 ^ f.fb % 2 ^ f.eb := fun z => by
    rw [hw, pow_add, Nat.mod_mul_right_div_self, pow_succ, Nat.mod_mod_of_dvd _ (Nat.dvd_mul_right _ _)]
  have hneg : ∀ z : Word, z.toNat.testBit (f.eb + f.fb) = (z.toNat % 2 ^ f.width).testBit (f.eb + f.fb) := fun z => by
    rw [Nat.testBit_mod_two_pow, decide_eq_true (by omega), Bool.true_and]
  simp only [FpFmt.decode, hfr x, hfr y, hex x, hex y, hneg x, hneg y, h]

theorem FpFmt.toNat_low (hf : f.Fits) : (f.low x).toNat = x.toNat % 2 ^ f.width := by
  have hw : f.width ≤ 64 := by have := hf.word; rw [FpFmt.width]; omega
  have hlt : 2 ^ f.width - 1 < 2 ^ 64 := by
    have := Nat.pow_le_pow_right (n := 2) (by decide) hw
    have := Nat.two_pow_pos f.width
    omega
  rw [FpFmt.low, BitVec.toNat_and, BitVec.toNat_ofNat, Nat.mod_eq_of_lt hlt, Nat.and_two_pow_sub_one_eq_mod]

@[simp] theorem FpFmt.decode_low (hf : f.Fits) : f.decode (f.low x) = f.decode x := by
  refine FpFmt.decode_congr ?_
  rw [FpFmt.toNat_low hf, Nat.mod_mod]

/-! ### FRND (R297) -/

theorem fpRound_nan (h : f.decode x = .nan u) : fpRound f rm x = nanRes f [.nan u] := by
  rw [fpRound, h]
  cases u <;> rfl

theorem fpRound_inf (h : f.decode x = .inf u) : fpRound f rm x = ⟨f.infinity u, 0⟩ := by rw [fpRound, h]; rfl

theorem fpRound_integral (h : f.decode x = .fin u m e) (hi : e ≥ 0 ∨ m = 0) : fpRound f rm x = ⟨f.low x, 0⟩ := by
  simp only [fpRound, h, if_pos hi]
  rfl

theorem fpRound_fraction (h : f.decode x = .fin u m e) (hi : ¬(e ≥ 0 ∨ m = 0)) : fpRound f rm x =
    ⟨(roundTo f .rne u (toIntegral rm u m e).1.natAbs 0 false).val, if (toIntegral rm u m e).2 then flagNX else 0⟩ := by
  simp only [fpRound, h, if_neg hi]

theorem natCast_eq_dyadic : (n : ℝ) = dyadic n 0 := by rw [dyadic, zpow_zero, mul_one]

theorem natAbs_withSign : (withSign u n).natAbs = n := by cases u <;> simp [withSign]

/-- A format that has the integers of its precision. -/
structure FpFmt.HasIntegers (f : FpFmt) : Prop where
  fits : f.Fits
  qmin : f.qmin ≤ 0
  gmax : 0 < f.gmax

theorem fmtOf_hasIntegers (t : FpTy) : (fmtOf t).HasIntegers := by cases t <;> exact ⟨fmtOf_fits _, by decide, by decide⟩

theorem fpRound_fin (hf : f.HasIntegers) (h : f.decode x = .fin u m e) :
    ∃ n k g, Nearest rm u (fun k p => dyadicCmp k p m e) n 0 ∧ f.decode (fpRound f rm x).val = .fin u k g ∧ dyadicCmp k g n 0 = .eq ∧
      (fpRound f rm x).flags = if dyadicCmp n 0 m e = .eq then 0 else flagNX := by
  obtain ⟨hm, -, -, -⟩ := FpFmt.decode_bounds hf.fits h
  obtain ⟨n, hn, hint⟩ := toIntegral_spec (rm := rm) (neg := u) (m := m) (e := e)
  by_cases hi : e ≥ 0 ∨ m = 0
  · have heq : dyadic m e = n := by
      have hint : ∃ k : Nat, dyadic m e = k := by
        rcases hi with he | rfl
        · exact ⟨m * 2 ^ (e - 0).toNat, by rw [dyadic_eq_shift he, dyadic, zpow_zero, mul_one]⟩
        · exact ⟨0, by simp [dyadic]⟩
      obtain ⟨k, hk⟩ := hint
      have hnear := nearest_dyadic_iff.mp hn
      rw [hk] at hnear ⊢
      rw [hnear.eq_of_natCast]
    refine ⟨n, m, e, hn, ?_, ?_, ?_⟩
    · rw [fpRound_integral h hi, FpFmt.decode_low hf.fits, h]
    · rw [dyadicCmp_eq, heq, dyadic, zpow_zero, mul_one]
    · rw [fpRound_integral h hi, if_pos (dyadicCmp_zero_eq_iff.mpr heq)]
  · have hsmall : n ≤ 2 ^ f.fb := hn.le_of_le (by
      rw [natCast_eq_dyadic]
      exact (dyadic_le_iff.mpr hm.le).trans (dyadic_pow_le.mpr (by push_cast; omega)))
    have hn1 : n < 2 ^ (f.fb + 1) := hsmall.trans_lt (Nat.pow_lt_pow_right (by decide) (Nat.lt_succ_self _))
    have htop : topExp n 0 < f.gmax + f.fb := by
      have hg := hf.gmax
      rcases eq_or_ne n 0 with rfl | hne
      · rw [topExp, bitLen]; simp; omega
      · have := topExp_lt (e := 0) hne hn1
        push_cast at this
        omega
    obtain ⟨k, g, hdec, hcmp⟩ := roundTo_exact (rm := .rne) (neg := u) hf.fits hn1 hf.qmin htop
    refine ⟨n, k, g, hn, ?_, hcmp, ?_⟩
    · rw [fpRound_fraction h hi, hint, natAbs_withSign, hdec]
    · rw [fpRound_fraction h hi, hint]
      by_cases he : dyadicCmp n 0 m e = .eq <;> simp [he]

theorem fpRound_spec (hf : f.HasIntegers) (x : Word) :
    (f.decode x).isNan = (f.decode (fpRound f rm x).val).isNan ∧ ((f.decode x).isNan → fpRound f rm x = nanRes f [f.decode x]) ∧
      (∀ u, f.decode x = .inf u → fpRound f rm x = ⟨f.infinity u, 0⟩) ∧
      (∀ u m e, f.decode x = .fin u m e → ∃ n k g, Nearest rm u (fun k p => dyadicCmp k p m e) n 0 ∧
        f.decode (fpRound f rm x).val = .fin u k g ∧ dyadicCmp k g n 0 = .eq ∧
        (fpRound f rm x).flags = if dyadicCmp n 0 m e = .eq then 0 else flagNX) := by
  refine ⟨?_, fun ha => ?_, fun u h => fpRound_inf h, fun u m e h => fpRound_fin hf h⟩
  · cases h : f.decode x with
    | nan u => rw [fpRound_nan h, nanRes, FpFmt.decode_qnan hf.fits]; rfl
    | inf u => rw [fpRound_inf h, FpFmt.decode_infinity hf.fits]
    | fin u m e =>
      obtain ⟨n, k, g, -, hdec, -⟩ := fpRound_fin (rm := rm) hf h
      rw [hdec]
      rfl
  · obtain ⟨u, h⟩ := isNan_iff.mp ha
    rw [fpRound_nan h, h]

end Sys2Proof.Machine
end

section
/-! SUPPORT. Tapered patterns (R164): the pattern that the model takes for a magnitude is the nearest one. -/

namespace Sys2Proof.Machine
open Sys2Proof
variable {t : TapTy} {u neg : Bool} {m num den p : Nat} {e : Int} {v w : Nat → Nat} {a b : Nat}

/-! ### The values of the positive patterns (R162, R163) -/

theorem tapScaled_lt_succ : ∀ p < tapMax t, tapScaled t p < tapScaled t (p + 1) := by cases t <;> decide

theorem tapScaled_zero : tapScaled t 0 = 0 := by cases t <;> decide

theorem one_lt_tapMax : 1 < tapMax t := by cases t <;> decide

theorem tapWidth_eq : tapWidth t = t.width := by cases t <;> rfl

/-! ### The nearest of increasing values -/

/-- How far a value stands from a magnitude. -/
def farOf (v a : Nat) : Nat := ((v : Int) - (a : Int)).natAbs

/-- `p` is the one of 1 to `M` whose value stands nearest, the even one of two equally near. -/
def NearestOf (M : Nat) (v : Nat → Nat) (a p : Nat) : Prop :=
  1 ≤ p ∧ p ≤ M ∧ ∀ q, 1 ≤ q → q ≤ M → farOf (v p) a ≤ farOf (v q) a ∧ (farOf (v p) a = farOf (v q) a → p ≠ q → p % 2 = 0)

/-- Values that increase up to `M`. -/
def RisesTo (M : Nat) (v : Nat → Nat) : Prop := ∀ p < M, v p < v (p + 1)

theorem RisesTo.lt {M : Nat} (h : RisesTo M v) {p q : Nat} (hpq : p < q) (hq : q ≤ M) : v p < v q := by
  induction q with
  | zero => omega
  | succ q ih =>
    have hstep := h q hq
    rcases Nat.lt_succ_iff_lt_or_eq.mp hpq with hlt | rfl
    · exact (ih hlt (by omega)).trans hstep
    · exact hstep

theorem RisesTo.le {M : Nat} (h : RisesTo M v) {p q : Nat} (hpq : p ≤ q) (hq : q ≤ M) : v p ≤ v q := by
  rcases hpq.eq_or_lt with rfl | hlt
  · exact le_rfl
  · exact (h.lt hlt hq).le

section nearest
variable {M : Nat} (h : RisesTo M v) (hM : 1 ≤ M)
include h hM

/-- Above the last value the last is nearest. -/
theorem nearestOf_last (ha : v M ≤ a) : NearestOf M v a M := by
  refine ⟨hM, le_rfl, fun q _ hq => ?_⟩
  rcases hq.eq_or_lt with rfl | hlt
  · exact ⟨le_rfl, fun _ hne => absurd rfl hne⟩
  · have := h.lt hlt le_rfl
    simp only [farOf]
    omega

/-- Below the first value the first is nearest. -/
theorem nearestOf_first (ha : a ≤ v 1) : NearestOf M v a 1 := by
  refine ⟨le_rfl, hM, fun q h1 hq => ?_⟩
  rcases h1.eq_or_lt with rfl | hlt
  · exact ⟨le_rfl, fun _ hne => absurd rfl hne⟩
  · have := h.lt hlt hq
    simp only [farOf]
    omega

omit hM

/-- The nearer, or the even one, of two neighbours. -/
def nearer (v : Nat → Nat) (a p : Nat) : Nat :=
  if a - v p < v (p + 1) - a then p else if v (p + 1) - a < a - v p then p + 1 else if p % 2 = 0 then p else p + 1

theorem nearestOf_between (h1 : 1 ≤ p) (hp : p < M) (hlo : v p ≤ a) (hhi : a < v (p + 1)) : NearestOf M v a (nearer v a p) := by
  have hside : ∀ q, 1 ≤ q → q ≤ M → q = p ∨ q = p + 1 ∨ v q < v p ∨ v (p + 1) < v q := by
    intro q _ hq
    rcases Nat.lt_trichotomy q p with hlt | rfl | hgt
    · exact .inr (.inr (.inl (h.lt hlt hp.le)))
    · exact .inl rfl
    · rcases Nat.lt_or_ge (p + 1) q with hlt | hle
      · exact .inr (.inr (.inr (h.lt hlt hq)))
      · exact .inr (.inl (by omega))
  rw [nearer]
  split
  next hc =>
    refine ⟨h1, hp.le, fun q hq1 hq => ?_⟩
    rcases hside q hq1 hq with rfl | rfl | hq' | hq' <;> simp only [farOf] <;> omega
  next hc =>
    split
    next hc' =>
      refine ⟨by omega, hp, fun q hq1 hq => ?_⟩
      rcases hside q hq1 hq with rfl | rfl | hq' | hq' <;> simp only [farOf] <;> omega
    next hc' =>
      split
      next heven =>
        refine ⟨h1, hp.le, fun q hq1 hq => ?_⟩
        rcases hside q hq1 hq with rfl | rfl | hq' | hq' <;> simp only [farOf] <;> omega
      next hodd =>
        refine ⟨by omega, hp, fun q hq1 hq => ?_⟩
        rcases hside q hq1 hq with rfl | rfl | hq' | hq' <;> simp only [farOf] <;> omega

end nearest

/-- The nearest stays the nearest when every value and the magnitude grow by one factor. -/
theorem NearestOf.of_scaled {M c : Nat} (hc : 0 < c) (hv : ∀ p, v p = w p * c) (ha : a = b * c) (h : NearestOf M v a p) : NearestOf M w b p := by
  have hfar : ∀ q, farOf (v q) a = farOf (w q) b * c := by
    intro q
    rw [farOf, farOf, hv, ha]
    push_cast
    rw [← sub_mul, Int.natAbs_mul, Int.natAbs_natCast]
  obtain ⟨h1, hM, hnear⟩ := h
  refine ⟨h1, hM, fun q hq1 hq => ?_⟩
  have := hnear q hq1 hq
  rwa [hfar, hfar, Nat.mul_le_mul_right_iff hc, Nat.mul_left_inj hc.ne'] at this

/-! ### The pattern that the model takes -/

theorem tapFloor_spec (t : TapTy) (num den n : Nat) : tapFloor t num den n ≤ n ∧
    tapScaled t (tapFloor t num den n) * den ≤ num * 4096 ∧ ∀ p, tapFloor t num den n < p → p ≤ n → num * 4096 < tapScaled t p * den := by
  induction n with
  | zero =>
    refine ⟨le_rfl, ?_, fun p h1 h2 => by simp [tapFloor] at h1; omega⟩
    rw [tapFloor, tapScaled_zero]
    omega
  | succ n ih =>
    rw [tapFloor]
    split
    next hc => exact ⟨le_rfl, hc, fun p h1 h2 => by omega⟩
    next hc =>
      obtain ⟨h1, h2, h3⟩ := ih
      refine ⟨h1.trans (Nat.le_succ n), h2, fun p hp hpn => ?_⟩
      rcases hpn.eq_or_lt with rfl | hlt
      · exact not_le.mp hc
      · exact h3 p hp (Nat.lt_succ_iff.mp hlt)

/-- The value of a positive pattern times a denominator, in units of 2 to the -12. -/
def tapVal (t : TapTy) (den p : Nat) : Nat := tapScaled t p * den

theorem tapVal_rises (hden : 0 < den) : RisesTo (tapMax t) (tapVal t den) := fun p hp => Nat.mul_lt_mul_of_pos_right (tapScaled_lt_succ p hp) hden

/-- The pattern that the model takes for the magnitude num/den. -/
def tapPick (t : TapTy) (num den : Nat) : Nat :=
  if tapVal t den (tapMax t) ≤ num * 4096 then tapMax t else if num * 4096 ≤ tapVal t den 1 then 1
  else nearer (tapVal t den) (num * 4096) (tapFloor t num den (tapMax t))

theorem tapPick_nearest (hden : 0 < den) : NearestOf (tapMax t) (tapVal t den) (num * 4096) (tapPick t num den) := by
  have hrise := tapVal_rises (t := t) hden
  have hM := one_lt_tapMax (t := t)
  rw [tapPick]
  split
  next hc => exact nearestOf_last hrise hM.le hc
  next hc =>
    split
    next hc' => exact nearestOf_first hrise hM.le hc'
    next hc' =>
      obtain ⟨hle, hlo, hhi⟩ := tapFloor_spec t num den (tapMax t)
      have hlt : tapFloor t num den (tapMax t) ≠ tapMax t := fun he => hc (by rw [he] at hlo; exact hlo)
      have hpos : 1 ≤ tapFloor t num den (tapMax t) := by
        by_contra h0
        have := hhi 1 (by omega) hM.le
        rw [tapVal] at hc'
        omega
      exact nearestOf_between hrise hpos (by omega) hlo (hhi _ (Nat.lt_succ_self _) (by omega))

/-- The flags of R164: SAT above maxpos, UF below minpos, NX where the value changes. -/
def tapFlags (M : Nat) (v : Nat → Nat) (a p : Nat) : Word :=
  (if v M < a then flagSAT else 0) ||| (if a < v 1 then flagUF else 0) ||| (if v p = a then 0 else flagNX)

theorem tapRound_eq (hden : 0 < den) : tapRound t neg num den =
    ⟨BitVec.ofNat 64 (if neg then 2 ^ t.width - tapPick t num den else tapPick t num den),
      tapFlags (tapMax t) (tapVal t den) (num * 4096) (tapPick t num den)⟩ := by
  have hfirst : tapVal t den 1 < tapVal t den (tapMax t) := (tapVal_rises hden).lt one_lt_tapMax le_rfl
  have hround : tapRound t neg num den =
      let c : Nat × Word := if tapVal t den (tapMax t) ≤ num * 4096 then (tapMax t, if tapVal t den (tapMax t) < num * 4096 then flagSAT else 0)
        else if num * 4096 ≤ tapVal t den 1 then (1, if num * 4096 < tapVal t den 1 then flagUF else 0)
        else (nearer (tapVal t den) (num * 4096) (tapFloor t num den (tapMax t)), 0)
      ⟨BitVec.ofNat 64 (if neg then 2 ^ tapWidth t - c.1 else c.1), c.2 ||| (if tapVal t den c.1 = num * 4096 then 0 else flagNX)⟩ := rfl
  rw [hround, tapWidth_eq, tapPick, tapFlags]
  split
  next hc => simp [show ¬ num * 4096 < tapVal t den 1 by omega]
  next hc =>
    split
    next hc' => simp [show ¬ tapVal t den (tapMax t) < num * 4096 by omega]
    next hc' => simp [show ¬ tapVal t den (tapMax t) < num * 4096 by omega, show ¬ num * 4096 < tapVal t den 1 by omega]

theorem tapFlags_scaled {M c : Nat} (hc : 0 < c) (hv : ∀ p, v p = w p * c) (ha : a = b * c) : tapFlags M v a p = tapFlags M w b p := by
  simp only [tapFlags, hv, ha, Nat.mul_lt_mul_right hc, Nat.mul_left_inj hc.ne']

/-- Conversion into a tapered type, in the words of R164. -/
theorem tapRound_rounds (hd : 0 < den) (x : Int) : TapRounds t u m den x (tapRound t u (m * 2 ^ x.toNat) (den * 2 ^ (-x).toNat)) := by
  have hden : 0 < den * 2 ^ (-x).toNat := Nat.mul_pos hd (Nat.two_pow_pos _)
  have hlo : min x (-12) ≤ x := min_le_left _ _
  have hc : 0 < 2 ^ (min (max (-x) 0) 12).toNat := Nat.two_pow_pos _
  have hval : ∀ p, tapVal t (den * 2 ^ (-x).toNat) p =
      tapScaled t p * den * 2 ^ (-12 - min x (-12)).toNat * 2 ^ (min (max (-x) 0) 12).toNat := fun p => by
    rw [tapVal, Nat.mul_assoc (tapScaled t p * den), ← pow_add, Nat.mul_assoc]
    congr 3
    omega
  have hmag : m * 2 ^ x.toNat * 4096 = m * 2 ^ (x - min x (-12)).toNat * 2 ^ (min (max (-x) 0) 12).toNat := by
    rw [show 4096 = 2 ^ 12 from rfl, Nat.mul_assoc, ← pow_add, Nat.mul_assoc, ← pow_add]
    congr 2
    omega
  obtain ⟨h1, hM, hnear⟩ := NearestOf.of_scaled hc hval hmag (tapPick_nearest (num := m * 2 ^ x.toNat) hden)
  rw [tapRound_eq hden, tapFlags_scaled hc hval hmag]
  exact ⟨_, h1, hM, rfl, hnear, rfl⟩

theorem toTapered_nan {sh : Int} : toTapered t (.nan u) den sh = ⟨tapNar t, if u then flagNV else 0⟩ := rfl

theorem toTapered_inf {sh : Int} : toTapered t (.inf u) den sh =
    ⟨BitVec.ofNat 64 (if u then 2 ^ t.width - tapMax t else tapMax t), flagSAT ||| flagNX⟩ := by rw [← tapWidth_eq]; rfl

theorem toTapered_zero {sh : Int} : toTapered t (.fin u 0 e) den sh = ⟨0, 0⟩ := rfl

theorem toTapered_rounds {sh : Int} (hm : m ≠ 0) (hd : 0 < den) : TapRounds t u m den (e - sh) (toTapered t (.fin u m e) den sh) := by
  have hround : toTapered t (.fin u m e) den sh = tapRound t u (m * 2 ^ (e - sh).toNat) (den * 2 ^ (-(e - sh)).toNat) := if_neg hm
  rw [hround]
  exact tapRound_rounds hd _

/-! ### The records -/

section records
variable {s : State} {h : Hdr} {rm : Rm}

theorem gives_fcvt {dst src : Ty} (hr : FiresReal (.fcvt h dst src rm) s) :
    Gives (.fcvt h dst src rm) s (.scalar (convert dst src rm (scalarOp src s.latch.opL).val).val)
      ((convert dst src rm (scalarOp src s.latch.opL).val).flags ||| (scalarOp src s.latch.opL).flags) := (gives_fireRes rfl hr :)

theorem gives_frnd {t : FpTy} (hr : FiresReal (.frnd h t rm) s) :
    Gives (.frnd h t rm) s (.scalar (fpRound (fmtOf t) rm (scalarOp (.fp t) s.latch.opL).val).val)
      ((fpRound (fmtOf t) rm (scalarOp (.fp t) s.latch.opL).val).flags ||| (scalarOp (.fp t) s.latch.opL).flags) := (gives_fireRes rfl hr :)

theorem convert_int_int {it st : IntTy} {x : Word} : convert (.int it) (.int st) rm x =
    ⟨it.ext (max it.lo (min it.hi (valueOf st.signed (x.setWidth st.width)))),
      if it.lo ≤ valueOf st.signed (x.setWidth st.width) ∧ valueOf st.signed (x.setWidth st.width) ≤ it.hi then 0 else flagSAT⟩ := by
  rw [ext_eq, ← read_eq, ← intClamp_eq]
  rfl

end records

/-- Settles O26: a conversion's result is that of its destination, and FRND's is `fpRound`'s, whose cases are above. -/
theorem fpConvert : Obligations.FpConvert := by
  intro s h src it ft tt rm
  have hf := fmtOf_fits ft
  refine ⟨fun hr => ⟨_, gives_fcvt hr, ?ints, ?toInt⟩, fun hr => ⟨_, gives_fcvt hr, ?fnan, ?finf, ?ffin⟩,
    fun hr => ⟨_, gives_fcvt hr, ?tnan, ?tinf, ?tfin⟩, fun hr => ⟨_, gives_frnd hr, fpRound_spec (fmtOf_hasIntegers ft) _⟩⟩
  case ints =>
    rintro st rfl
    exact convert_int_int
  case toInt =>
    intro hsrc
    rw [convert_int it _ hsrc]
    generalize decodeTy _ _ = v
    refine ⟨?_, ?_, ?_⟩
    · rintro g rfl
      rfl
    · rintro u rfl
      rfl
    · rintro u m e rfl
      exact toIntTy_fin it rm u m e
  case fnan =>
    intro g hv
    rw [convert, hv, toFp_nan]
  case finf =>
    intro u hv
    rw [convert, hv, toFp_inf]
  case ffin =>
    intro u m e hv
    rw [convert, hv]
    refine ⟨?_, toFp_rounds hf⟩
    rintro rfl
    exact toFp_zero
  case tnan =>
    intro g hv
    rw [convert, hv, toTapered_nan]
  case tinf =>
    intro u hv
    rw [convert, hv, toTapered_inf]
  case tfin =>
    intro u m e hv
    rw [convert, hv]
    refine ⟨?_, fun hm => ?_⟩
    · rintro rfl
      exact toTapered_zero
    · have hround := toTapered_rounds (t := tt) (u := u) (e := e) (sh := 0) hm Nat.one_pos
      rwa [sub_zero] at hround

end Sys2Proof.Machine
end

section
/-! SUPPORT. EXP2 and LOG2 (R299): what they make of integers and of powers of two. -/

namespace Sys2Proof.Machine
open Sys2Proof
variable {f : FpFmt} {rm : Rm} {u : Bool} {m n : Nat} {e k : Int}

/-! ### Powers of two out of range -/

theorem topExp_one (i : Int) : topExp 1 i = i := by
  have hlen : bitLen 1 = 1 := by decide
  rw [topExp, hlen]
  push_cast
  ring

/-- A power of two far above the range of the format. -/
theorem roundTo_one_large (hf : f.Fits) {i : Int} (hi : f.gmax + f.fb < i) :
    roundTo f rm false 1 i false = ⟨if Rm_toInf rm false then f.infinity false else f.maxFinite false, flagOF ||| flagNX⟩ := by
  have hgrain : f.grain 1 i = max (i - f.fb) f.qmin := by rw [FpFmt.grain, topExp_one]
  have hat := roundedAt_roundTo (f := f) (rm := rm) (neg := false) one_ne_zero (show Brackets 1 i false (dyadic 1 i) from rfl) nofun
  rw [roundTo_eq_finish (by simp), hat.finish_over hf]
  rw [FpFmt.carry]
  split <;> simp only <;> omega

theorem splitAt_one_far {i q : Int} (h : i + 1 < q) : splitAt 1 i q false = (0, false, false, true) := by
  obtain ⟨j, hj⟩ : ∃ j, (q - i).toNat = j + 2 := ⟨(q - i).toNat - 2, by omega⟩
  have hhalf : 1 < 2 ^ (j + 1) := Nat.one_lt_two_pow (Nat.succ_ne_zero j)
  have hunit : 1 < 2 ^ (j + 2) := Nat.one_lt_two_pow (Nat.succ_ne_zero _)
  rw [splitAt, if_neg (by omega), hj]
  simp [Nat.mod_eq_of_lt hunit, Nat.div_eq_of_lt hunit, hhalf.ne]

/-- A power of two far below the range of the format. -/
theorem roundTo_one_small {i : Int} (hi : i + 1 < f.qmin) :
    roundTo f rm false 1 i false = f.finish rm false (roundUp rm false (0, false, false, true)) f.qmin true true := by
  have hqmin : f.qmin = 1 - (f.bias : Int) - f.fb := rfl
  have hgrain : f.grain 1 i = f.qmin := by rw [FpFmt.grain, topExp_one]; omega
  have htiny : f.isTiny rm false 1 i false = true := by
    rw [FpFmt.isTiny, topExp_one, Bool.and_eq_true, decide_eq_true_iff, Bool.not_eq_true', Bool.and_eq_false_iff]
    exact ⟨by omega, .inl (by rw [beq_eq_false_iff_ne]; omega)⟩
  rw [roundTo_eq_finish (by simp), hgrain, splitAt_one_far hi, htiny]

/-! ### EXP2 (R299) -/

theorem exp2Val_zero : exp2Val f rm (.fin u 0 e) = roundTo f rm false 1 0 false := rfl

theorem exp2Val_clamped (hm : m ≠ 0) (hbig : e + bitLen m > f.eb + 3) :
    exp2Val f rm (.fin u m e) = roundTo f rm false 1 (if u then -(2 ^ f.eb + 200) else 2 ^ f.eb + 200) false :=
  (if_neg hm).trans (if_pos hbig)

theorem exp2Val_integer (hm : m ≠ 0) (hbig : ¬ e + bitLen m > f.eb + 3) (he : e ≥ 0) :
    exp2Val f rm (.fin u m e) = roundTo f rm false 1 (scaled u m e 0) false :=
  (if_neg hm).trans ((if_neg hbig).trans (if_pos he))

theorem exp2Val_shifted (hm : m ≠ 0) (hbig : ¬ e + bitLen m > f.eb + 3) (he : ¬ e ≥ 0)
    (hfr : ((if u then -(m : Int) else m) % 2 ^ (-e).toNat).toNat = 0) :
    exp2Val f rm (.fin u m e) = roundTo f rm false 1 ((if u then -(m : Int) else m) / 2 ^ (-e).toNat) false :=
  (if_neg hm).trans ((if_neg hbig).trans ((if_neg he).trans (if_pos hfr)))

/-- A format whose range is so wide that the model's limits of EXP2 lie beyond it. -/
structure FpFmt.Wide (f : FpFmt) : Prop where
  fits : f.Fits
  fb : f.fb ≤ 2 ^ f.eb

theorem fmtOf_wide (t : FpTy) : (fmtOf t).Wide := by cases t <;> exact ⟨fmtOf_fits _, by decide⟩

theorem FpFmt.bias_lt (f : FpFmt) : f.bias < 2 ^ f.eb := by
  have h : 2 ^ (f.eb - 1) ≤ 2 ^ f.eb := Nat.pow_le_pow_right (by decide) (by omega)
  have := Nat.two_pow_pos (f.eb - 1)
  rw [FpFmt.bias]
  omega

/-- EXP2 of an integer is the power of two rounded once. -/
theorem exp2Val_of_integer (hf : f.Wide) (h : dyadicCmp n 0 m e = .eq) : exp2Val f rm (.fin u m e) = roundTo f rm false 1 (withSign u n) false := by
  have hx : dyadic m e = n := dyadicCmp_zero_eq_iff.mp h
  rcases eq_or_ne m 0 with rfl | hm
  · obtain rfl : n = 0 := by simpa [dyadic] using hx.symm
    cases u <;> rfl
  by_cases hbig : e + bitLen m > f.eb + 3
  · have hn : 2 ^ (f.eb + 3) ≤ n := by
      have htop : ((f.eb + 3 : Nat) : Int) ≤ topExp m e := by rw [topExp]; push_cast; omega
      have hle : ((2 ^ (f.eb + 3) : Nat) : ℝ) ≤ n := by
        rw [← hx]
        refine le_trans ?_ (Brackets.top (sticky := false) hm rfl).1
        push_cast
        rw [← zpow_natCast]
        exact zpow_le_zpow_right₀ one_le_two htop
      exact_mod_cast hle
    have hbias := f.bias_lt
    have hfb := hf.fb
    have hword := hf.fits.word
    have hqmin : f.qmin = 1 - (f.bias : Int) - f.fb := rfl
    have hgmax : f.gmax = f.qmin + 2 ^ f.eb - 3 := rfl
    have hcast : ((2 ^ f.eb : Nat) : Int) = 2 ^ f.eb := by push_cast; rfl
    rw [pow_succ, pow_succ, pow_succ] at hn
    rw [exp2Val_clamped hm hbig]
    cases u
    · rw [withSign_false, roundTo_one_large hf.fits (by simp only [Bool.false_eq_true, if_false]; omega), roundTo_one_large hf.fits (by omega)]
    · rw [withSign_true, roundTo_one_small (by simp only [if_true]; omega), roundTo_one_small (by omega)]
  by_cases he : e ≥ 0
  · have hn : m * 2 ^ (e - 0).toNat = n := by
      rw [dyadic_eq_shift he, dyadic, zpow_zero, mul_one] at hx
      exact_mod_cast hx
    rw [exp2Val_integer hm hbig he, scaled, withSign, hn]
  · have hn : (m : Int) = n * 2 ^ (-e).toNat := by
      rw [natCast_eq_dyadic, dyadic_eq_shift (g := e) (m := n) (by omega), zero_sub] at hx
      have hm : m = n * 2 ^ (-e).toNat := le_antisymm (dyadic_le_iff.mp hx.le) (dyadic_le_iff.mp hx.ge)
      exact_mod_cast hm
    have hv : (if u then -(m : Int) else m) = withSign u n * 2 ^ (-e).toNat := by
      rw [hn, withSign]
      cases u <;> simp
    rw [exp2Val_shifted hm hbig he (by rw [hv, Int.mul_emod_left]; rfl), hv, Int.mul_ediv_cancel _ (by positivity)]

/-! ### LOG2 (R299) -/

theorem log2Val_pos (hm : m ≠ 0) (hpow : m = 2 ^ (bitLen m - 1)) : log2Val f rm (.fin false m e) =
    if topExp m e = 0 then ⟨f.zero false, 0⟩ else roundTo f rm (decide (topExp m e < 0)) (topExp m e).natAbs 0 false := by
  simp only [log2Val, if_neg hm, Bool.false_eq_true, if_false, if_pos hpow]
  rfl

/-- A magnitude that is a power of two. -/
theorem eq_pow_of_dyadicCmp (h : dyadicCmp 1 k m e = .eq) : m = 2 ^ (bitLen m - 1) ∧ topExp m e = k := by
  have hx := dyadicCmp_eq.mp h
  have hm : m ≠ 0 := by
    rintro rfl
    rw [dyadic, dyadic, Nat.cast_zero, zero_mul, Nat.cast_one, one_mul] at hx
    exact absurd hx (by positivity)
  have htop := Brackets.top (sticky := false) hm (show Brackets m e false (dyadic m e) from rfl)
  have hpow : dyadic m e = 2 ^ k := by rw [← hx, dyadic, Nat.cast_one, one_mul]
  rw [hpow, zpow_le_zpow_iff_right₀ one_lt_two, zpow_lt_zpow_iff_right₀ one_lt_two] at htop
  have htop' : topExp m e = k := by omega
  refine ⟨?_, htop'⟩
  obtain ⟨j, hj, -, -⟩ := bitLen_bounds hm
  have hk : k = e + j := by rw [← htop', topExp, hj]; push_cast; ring
  rw [hk, ← dyadic_pow] at hpow
  rw [hj, Nat.add_sub_cancel]
  exact le_antisymm (dyadic_le_iff.mp hpow.le) (dyadic_le_iff.mp hpow.ge)

theorem log2Val_spec (hf : f.Fits) (a : FpVal) : (a.isNan → log2Val f rm a = nanRes f [a]) ∧
    (∀ u, a = .inf u → log2Val f rm a = if u then ⟨f.qnan, flagNV⟩ else ⟨f.infinity false, 0⟩) ∧
    (∀ u m e, a = .fin u m e → (m = 0 → log2Val f rm a = ⟨f.infinity true, flagDZ⟩) ∧ (m ≠ 0 → u = true → log2Val f rm a = ⟨f.qnan, flagNV⟩) ∧
      (m ≠ 0 → u = false → ∀ k : Int, dyadicCmp 1 k m e = .eq → (k = 0 → log2Val f rm a = ⟨f.zero false, 0⟩) ∧
        (k ≠ 0 → Rounds f rm (decide (k < 0)) (fun j p => dyadicCmp j p k.natAbs 0) (log2Val f rm a)))) := by
  refine ⟨fun ha => ?_, ?_, ?_⟩
  · obtain ⟨g, rfl⟩ := isNan_iff.mp ha
    rfl
  · rintro u rfl
    rfl
  · rintro u m e rfl
    refine ⟨?_, ?_, ?_⟩
    · rintro rfl
      rfl
    · rintro hm rfl
      exact if_neg hm
    · rintro hm rfl k hk
      obtain ⟨hpow, htop⟩ := eq_pow_of_dyadicCmp hk
      rw [log2Val_pos hm hpow, htop]
      refine ⟨fun hz => if_pos hz, fun hne => ?_⟩
      rw [if_neg hne]
      exact roundTo_rounds_exact hf (Int.natAbs_ne_zero.mpr hne)

theorem exp2Val_spec (hf : f.Wide) (a : FpVal) : (a.isNan → exp2Val f rm a = nanRes f [a]) ∧
    (∀ u, a = .inf u → exp2Val f rm a = if u then ⟨f.zero false, 0⟩ else ⟨f.infinity false, 0⟩) ∧
    (∀ u m e n, a = .fin u m e → dyadicCmp n 0 m e = .eq →
      Rounds f rm false (fun k p => dyadicCmp k p 1 (withSign u n)) (exp2Val f rm a)) := by
  refine ⟨fun ha => ?_, ?_, ?_⟩
  · obtain ⟨g, rfl⟩ := isNan_iff.mp ha
    rfl
  · rintro u rfl
    rfl
  · rintro u m e n rfl hn
    rw [exp2Val_of_integer hf hn]
    exact roundTo_rounds_exact hf.fits one_ne_zero

/-- Settles O27: an integer's power of two is rounded once, also where the model takes its limit for it; a power of two's exponent likewise. -/
theorem fpTranscendental : Obligations.FpTranscendental := by
  intro s h t rm
  refine ⟨fun hr => ?exp2, fun hr => ?log2⟩
  case exp2 => exact ⟨fpUnaryOf s t fun f a => exp2Val f rm a, gives_fpUnary rfl hr, rfl, exp2Val_spec (fmtOf_wide t) _⟩
  case log2 => exact ⟨fpUnaryOf s t fun f a => log2Val f rm a, gives_fpUnary rfl hr, rfl, log2Val_spec (fmtOf_fits t) _⟩

end Sys2Proof.Machine
end

section
/-! SUPPORT. The forwarding records and CONST (R263-R268): the token each sends, and the exact conversion of an F32 immediate to F64. -/

namespace Sys2Proof.Machine
open Sys2Proof
variable {s : State} {i : Instr}

/-! ### Tokens sent again (R143, R167) -/

/-- A token sent again by the record that fires, as a new packet with its value, channel and scale beat. -/
def State.again (s : State) (i : Instr) (a : Tok) : Tok := newTok a.val a.chan a.beat (s.outSlack i)

theorem State.begun_forward (a : Tok) : (s.begun i).forward i a = (s.begun i).send2 i (s.again i a) (s.again i a) := by
  rw [State.forward, State.again, State.begun_outSlack]

theorem State.begun_emitNull_null {h : Hdr} {vk : Bool} : (s.begun (.null h vk)).emitNull (.null h vk) =
    (s.begun (.null h vk)).send2 (.null h vk) (nullTok (s.outSlack (.null h vk))) (nullTok (s.outSlack (.null h vk))) := by
  rw [← State.begun_outSlack]
  rfl

/-! ### An F32 pattern as F64 (R265) -/

section widen
variable {x : Word} {u : Bool} {m : Nat} {e : Int}

theorem f32ToF64_nan (h : (fmtOf .f32).decode x = .nan u) :
    f32ToF64 x = (fmtOf .f64).pack (x.toNat.testBit 31) 2047 (x.toNat % 2 ^ 23 * 2 ^ 29) := by
  simp only [f32ToF64, h]

theorem f32ToF64_inf (h : (fmtOf .f32).decode x = .inf u) : f32ToF64 x = (fmtOf .f64).infinity u := by
  simp only [f32ToF64, h]
  rfl

theorem f32ToF64_fin (h : (fmtOf .f32).decode x = .fin u m e) : f32ToF64 x = (roundTo (fmtOf .f64) .rne u m e false).val := by
  simp only [f32ToF64, h]
  rfl

/-- The fraction of a NaN, whose highest bit tells a quiet one. -/
theorem FpFmt.decode_nan {f : FpFmt} (h : f.decode x = .nan u) : x.toNat % 2 ^ f.fb ≠ 0 ∧ u = !(x.toNat % 2 ^ f.fb).testBit (f.fb - 1) := by
  simp only [FpFmt.decode] at h
  split at h
  · split at h
    · exact absurd h (by simp)
    next hfr => exact ⟨hfr, (FpVal.nan.inj h).symm⟩
  · split at h <;> exact absurd h (by simp)

theorem decode_f32ToF64_nan (h : (fmtOf .f32).decode x = .nan u) : (fmtOf .f64).decode (f32ToF64 x) = .nan u := by
  obtain ⟨hne, hu⟩ := FpFmt.decode_nan h
  have hlt : x.toNat % 2 ^ 23 < 2 ^ 23 := Nat.mod_lt _ (by decide)
  have hfb : (fmtOf .f64).fb = 52 := rfl
  have hfr : x.toNat % 2 ^ 23 * 2 ^ 29 < 2 ^ (fmtOf .f64).fb := by rw [hfb]; omega
  have hne' : x.toNat % 2 ^ 23 ≠ 0 := hne
  have hbit : (x.toNat % 2 ^ 23 * 2 ^ 29).testBit 51 = (x.toNat % 2 ^ 23).testBit 22 := by rw [Nat.testBit_mul_two_pow]; rfl
  rw [f32ToF64_nan h, FpFmt.decode_pack (fmtOf_fits .f64) (by decide) hfr, if_pos (by decide), if_neg (by omega), hfb, hbit, hu]
  rfl

theorem decode_f32ToF64_fin (h : (fmtOf .f32).decode x = .fin u m e) :
    ∃ n g, (fmtOf .f64).decode (f32ToF64 x) = .fin u n g ∧ dyadicCmp n g m e = .eq := by
  obtain ⟨hm, hlo, hhi, -⟩ := FpFmt.decode_bounds (fmtOf_fits .f32) h
  have hq32 : (fmtOf .f32).qmin = -149 := by decide
  have hg32 : (fmtOf .f32).gmax = 104 := by decide
  have hq64 : (fmtOf .f64).qmin = -1074 := by decide
  have hg64 : (fmtOf .f64).gmax = 971 := by decide
  have hm24 : m < 2 ^ 24 := hm
  have htop : topExp m e < e + 24 := by
    rcases eq_or_ne m 0 with rfl | hne
    · rw [topExp, bitLen]; simp
    · exact topExp_lt hne hm24
  have hfb : ((fmtOf .f64).fb : Int) = 52 := rfl
  rw [f32ToF64_fin h]
  exact roundTo_exact (fmtOf_fits .f64) (hm24.trans (by decide)) (by omega) (by omega)

end widen

/-! ### CONST (R265) -/

/-- The word that CONST sends: its immediate read for the type, an integer extended. -/
def constWord (ty : Ty) (v : Lit) : Word :=
  match ty with
  | .int it => it.ext (it.read (immWord ty v))
  | _ => immWord ty v

theorem constWord_int {it : IntTy} {v : Lit} : constWord (.int it) v = extended it.signed (v.signExtend it.width) := by
  have himm : immWord (.int it) v = v.signExtend 64 := rfl
  rw [constWord, himm, ext_eq, read_eq, ofInt_value, setWidth_signExtend_lit IntTy.width_le]

theorem constWord_f64 {v : Lit} : constWord (.fp .f64) v = f32ToF64 (v.setWidth 64) := rfl

theorem constWord_raw {ty : Ty} {v : Lit} (hi : ty.isInt = false) (hf : ty ≠ .fp .f64) : constWord ty v = v.setWidth 64 := by
  cases ty with
  | int it => exact absurd hi (by simp [Ty.isInt])
  | fp t => cases t with
    | f64 => exact absurd rfl hf
    | f16 | b16 | f32 => rfl
  | tap t => rfl

/-! ### The records -/

section records
variable {h : Hdr} {vk dly : Bool} {t2 t3 : Target} {ty : Ty} {v : Lit}

theorem sends_const (hr : FiresReal (.const h ty v) s) : Sends (.const h ty v) s (.scalar (constWord ty v)) := by
  rw [Sends, exec_real rfl hr]
  rfl

theorem exec_mov (hr : FiresReal (.mov h vk dly) s) : exec (.mov h vk dly) s = .next (s.after ((s.begun (.mov h vk dly)).send2
    (.mov h vk dly) (s.again (.mov h vk dly) s.latch.opL) (s.again (.mov h vk dly) s.latch.opL))) := by
  rw [exec_real rfl hr, State.begun_latch, State.begun_forward]

theorem exec_movx (hr : FiresReal (.movx h vk t2 t3) s) : exec (.movx h vk t2 t3) s = .next (s.after ([h.t0, h.t1, t2, t3].foldl
    (fun u x => u.out (.movx h vk t2 t3) s.latch.key vk x (s.again (.movx h vk t2 t3) s.latch.opL)) (s.begun (.movx h vk t2 t3)))) := by
  rw [exec_real rfl hr]
  simp only [State.begun_latch, State.begun_outSlack, State.again]

theorem exec_sel (hr : FiresReal (.sel h vk) s) : exec (.sel h vk) s = .next (s.after ((s.begun (.sel h vk)).send2 (.sel h vk)
    (s.again (.sel h vk) (if s.latch.opX.word = 0 then s.latch.opR else s.latch.opL))
    (s.again (.sel h vk) (if s.latch.opX.word = 0 then s.latch.opR else s.latch.opL)))) := by
  rw [exec_real rfl hr, State.begun_latch, State.begun_forward, ite_not]

theorem exec_gate (hr : FiresReal (.gate h vk) s) : exec (.gate h vk) s = .next (s.after (if s.latch.opR.word = 0
    then (s.begun (.gate h vk)).send2 (.gate h vk) (nullTok (s.outSlack (.gate h vk))) (s.again (.gate h vk) s.latch.opL)
    else (s.begun (.gate h vk)).send2 (.gate h vk) (s.again (.gate h vk) s.latch.opL) (nullTok (s.outSlack (.gate h vk))))) := by
  rw [exec_real rfl hr]
  simp only [State.begun_latch, State.begun_outSlack, State.again, ite_not]

theorem exec_null (hr : FiresReal (.null h vk) s) : exec (.null h vk) s = .next (s.after ((s.begun (.null h vk)).send2 (.null h vk)
    (nullTok (s.outSlack (.null h vk))) (nullTok (s.outSlack (.null h vk))))) := by
  rw [exec_real rfl hr, State.begun_emitNull_null]

end records

/-- Settles O37: each record runs as one firing, and a token sent again is `State.again`. -/
theorem dataflowMoves : Obligations.DataflowMoves := by
  intro s h vk dly t2 t3 ty v
  refine ⟨exec_mov, exec_movx, exec_sel, exec_gate, exec_null, fun hr => ⟨_, sends_const hr, ?int, ?f64, constWord_raw⟩⟩
  case int =>
    rintro it rfl
    exact constWord_int
  case f64 =>
    rintro rfl
    rw [constWord_f64]
    exact ⟨fun q hq => decode_f32ToF64_nan hq, fun u hu => by rw [f32ToF64_inf hu, FpFmt.decode_infinity (fmtOf_fits .f64)],
      fun u m e he => decode_f32ToF64_fin he⟩

end Sys2Proof.Machine
end

section
/-! SUPPORT. The format records (R166, R316-R318, R321): the least scale, the lanes of CVQ and CVDQ, and the places of packed T6 elements. -/

namespace Sys2Proof.Machine
open Sys2Proof
variable {s : State} {i : Instr}

/-! ### Lanes of results (R303) -/

theorem orFlags_map_range (r : Nat → Res) (n : Nat) : orFlags ((List.range n).map r) = lanesFlags n fun k => (r k).flags := by
  rw [orFlags, lanesFlags, List.foldl_map, List.foldl_map]

/-- A lane of a vector made of results. -/
theorem extractLsb'_ofLanes_range {w n k : Nat} (hk : k < n) (hw : w * n ≤ 1024) (g : Nat → Word) :
    (ofLanes w ((List.range n).map g)).extractLsb' (w * k) w = (g k).setWidth w := by
  have hfit : w * k + w ≤ w * n := by rw [← Nat.mul_succ]; exact Nat.mul_le_mul_left _ hk
  rw [extractLsb'_ofLanes (by omega), List.getD_eq_getElem?_getD]
  simp [hk]

theorem gives_fireVec {t : Ty} {e : Latch → List Res} (he : exec i s = .next (s.fireVec i t e)) (h : FiresReal i s) :
    Gives i s (.vector (ofLanes t.lane ((e s.latch).map fun r => laneBits t r.val))) (orFlags (e s.latch)) := by
  rw [Gives, exec_real he h, State.begun_latch]

/-- The 32 lanes of a token read as raw F32 patterns. -/
theorem rawF32_eq (k : Tok) : rawF32 k = (List.range 32).map (lane 32 k.vec) := rfl

/-! ### AMAX (R166, R316) -/

/-- The magnitude of an F32 lane, as a pattern. -/
def laneMag (v : Vec) (k : Nat) : Nat := (v.extractLsb' (32 * k) 31).toNat

theorem lane_mod (v : Vec) (k : Nat) : (lane 32 v k).toNat % 2 ^ 31 = laneMag v k := by
  have hlt : (v.toNat >>> (32 * k)) % 2 ^ 32 < 2 ^ 64 := (Nat.mod_lt _ (by decide)).trans (by decide)
  rw [lane, laneMag, BitVec.toNat_setWidth, BitVec.extractLsb'_toNat, BitVec.extractLsb'_toNat, Nat.mod_eq_of_lt hlt,
    Nat.mod_mod_of_dvd _ (by decide)]

/-- The greatest of a list, none below a first member. -/
theorem foldl_max_spec (l : List Nat) (a : Nat) : a ≤ l.foldl Nat.max a ∧ (∀ x ∈ l, x ≤ l.foldl Nat.max a) ∧
    (l.foldl Nat.max a = a ∨ l.foldl Nat.max a ∈ l) := by
  induction l generalizing a with
  | nil => simp
  | cons b l ih =>
    obtain ⟨hle, hall, hmem⟩ := ih (Nat.max a b)
    rw [List.foldl_cons]
    refine ⟨(Nat.le_max_left a b).trans hle, fun x hx => ?_, ?_⟩
    · rcases List.mem_cons.mp hx with rfl | hx
      · exact (Nat.le_max_right a x).trans hle
      · exact hall x hx
    · rcases hmem with he | hm
      · rw [he]
        rcases Nat.le_total a b with hab | hab
        · exact .inr (by rw [show Nat.max a b = b from Nat.max_eq_right hab]; exact List.mem_cons_self)
        · exact .inl (Nat.max_eq_left hab)
      · exact .inr (List.mem_cons_of_mem _ hm)

theorem amaxOf_eq (k : Tok) : amaxOf (rawF32 k) = ((List.range 32).map (laneMag k.vec)).foldl Nat.max 0 := by
  rw [amaxOf, rawF32_eq, List.map_map]
  congr 1
  exact List.map_congr_left fun j _ => lane_mod k.vec j

theorem laneMag_le_amaxOf {k : Tok} {j : Nat} (hj : j < 32) : laneMag k.vec j ≤ amaxOf (rawF32 k) := by
  rw [amaxOf_eq]
  exact (foldl_max_spec _ 0).2.1 _ (List.mem_map.mpr ⟨j, List.mem_range.mpr hj, rfl⟩)

theorem amaxOf_cases (k : Tok) : amaxOf (rawF32 k) = 0 ∨ ∃ j < 32, amaxOf (rawF32 k) = laneMag k.vec j := by
  rw [amaxOf_eq]
  refine (foldl_max_spec _ 0).2.2.imp_right fun hmem => ?_
  obtain ⟨j, hj, he⟩ := List.mem_map.mp hmem
  exact ⟨j, List.mem_range.mp hj, he.symm⟩

/-- The greatest magnitude is a lane's. -/
theorem amaxOf_eq_laneMag {k : Tok} {j : Nat} (hj : j < 32) (h : ∀ l < 32, laneMag k.vec l ≤ laneMag k.vec j) :
    amaxOf (rawF32 k) = laneMag k.vec j := by
  refine le_antisymm ?_ (laneMag_le_amaxOf hj)
  rcases amaxOf_cases k with he | ⟨l, hl, he⟩
  · omega
  · rw [he]
    exact h l hl

theorem laneMag_lt (v : Vec) (j : Nat) : laneMag v j < 2 ^ 31 := (v.extractLsb' (32 * j) 31).isLt

theorem amaxOf_lt (k : Tok) : amaxOf (rawF32 k) < 2 ^ 31 := by
  rcases amaxOf_cases k with he | ⟨l, -, he⟩
  · rw [he]; decide
  · rw [he]; exact laneMag_lt _ _

/-- A magnitude of all ones in its exponent is NaN or an infinity. -/
theorem decode_f32_special {n : Nat} (h : 0x7F800000 ≤ n) (hlt : n < 2 ^ 31) :
    (fmtOf .f32).decode (BitVec.ofNat 64 n) = .inf false ∨ ∃ g, (fmtOf .f32).decode (BitVec.ofNat 64 n) = .nan g := by
  have hn : (BitVec.ofNat 64 n).toNat = n := by rw [BitVec.toNat_ofNat, Nat.mod_eq_of_lt (by omega)]
  have hex : n / 2 ^ (fmtOf .f32).fb % 2 ^ (fmtOf .f32).eb = 2 ^ (fmtOf .f32).eb - 1 := by
    show n / 2 ^ 23 % 2 ^ 8 = 2 ^ 8 - 1
    omega
  have hneg : n.testBit ((fmtOf .f32).eb + (fmtOf .f32).fb) = false := Nat.testBit_lt_two_pow hlt
  simp only [FpFmt.decode, hn, hex, if_true, hneg]
  split
  · exact .inl rfl
  · exact .inr ⟨_, rfl⟩

/-! ### The least scale at or above a value (R165, R166) -/

/-- A scale between the zero block's and the NaN block's. -/
def IsScale (q : BitVec 20) : Prop := 1 ≤ bsExp q ∧ bsExp q ≤ 254

/-- A scale at or above `m` times 2 to the `g`. -/
def Covers (m : Nat) (g : Int) (q : BitVec 20) : Prop := dyadicCmp (bsMant q) (bsE q) m g ≠ .lt

theorem bsMant_eq (q : BitVec 20) : bsMant q = 4096 + q.toNat % 4096 := by simp [bsMant, bits]

theorem bsExp_eq (q : BitVec 20) : bsExp q = q.toNat / 4096 := by
  have := q.isLt
  simp [bsExp, bits, Nat.shiftRight_eq_div_pow]
  omega

/-- The value of a scale whose bits are `n` (R165). -/
noncomputable def scaleVal (n : Nat) : ℝ := dyadic (4096 + n % 4096) ((n / 4096 : Nat) - 139)

theorem covers_iff {m : Nat} {g : Int} {q : BitVec 20} : Covers m g q ↔ dyadic m g ≤ scaleVal q.toNat := by
  rw [Covers, Ne, dyadicCmp_lt, not_lt, bsMant_eq, bsE, bsExp_eq, scaleVal]

/-- A fraction of 4,096 is the next exponent's 0. -/
theorem scaleVal_eq {E F : Nat} (hF : F ≤ 4096) : scaleVal (E * 4096 + F) = dyadic (4096 + F) ((E : Int) - 139) := by
  rcases hF.eq_or_lt with rfl | hlt
  · have hmod : (E * 4096 + 4096) % 4096 = 0 := by omega
    have hdiv : (E * 4096 + 4096) / 4096 = E + 1 := by omega
    have hexp : ((E + 1 : Nat) : Int) - 139 = (E : Int) - 139 + 1 := by push_cast; ring
    rw [scaleVal, hmod, hdiv, hexp, dyadic, dyadic, zpow_add_one₀ two_ne_zero]
    push_cast
    ring
  · have hmod : (E * 4096 + F) % 4096 = F := by omega
    have hdiv : (E * 4096 + F) / 4096 = E := by omega
    rw [scaleVal, hmod, hdiv]

/-- The fraction of the least scale at or above a value of `k + 1` bits. -/
def scaleFrac (m k : Nat) : Nat := ((m - 2 ^ k) * 4096 + 2 ^ k - 1) / 2 ^ k

section scaleFrac
variable {m k F : Nat} (hle : 2 ^ k ≤ m)
include hle

theorem scaleFrac_covers : m * 4096 ≤ (4096 + scaleFrac m k) * 2 ^ k := by
  have hpos := Nat.two_pow_pos k
  have hdiv := Nat.div_add_mod ((m - 2 ^ k) * 4096 + 2 ^ k - 1) (2 ^ k)
  have hmod := Nat.mod_lt ((m - 2 ^ k) * 4096 + 2 ^ k - 1) hpos
  rw [Nat.mul_comm (2 ^ k)] at hdiv
  rw [scaleFrac, Nat.add_mul]
  omega

theorem scaleFrac_least (hF : F < scaleFrac m k) : (4096 + F) * 2 ^ k < m * 4096 := by
  have hpos := Nat.two_pow_pos k
  have hmul : (F + 1) * 2 ^ k ≤ (m - 2 ^ k) * 4096 + 2 ^ k - 1 := (Nat.le_div_iff_mul_le hpos).mp hF
  rw [Nat.add_mul, Nat.one_mul] at hmul
  rw [Nat.add_mul]
  omega

omit hle in
theorem scaleFrac_le (hlt : m < 2 ^ (k + 1)) : scaleFrac m k ≤ 4096 := by
  have hpos := Nat.two_pow_pos k
  rw [pow_succ] at hlt
  refine Nat.lt_succ_iff.mp ((Nat.div_lt_iff_lt_mul hpos).mpr ?_)
  omega

end scaleFrac

/-- The bits of the least scale at or above a value that is above the least normal scale. -/
def scaleBits (m : Nat) (g : Int) : Nat := (topExp m g + 127).toNat * 4096 + scaleFrac m (bitLen m - 1)

section least
variable {m : Nat} {g : Int} (hm : m ≠ 0) (hlow : -126 ≤ topExp m g)
include hm hlow

/-- A scale of the value's own exponent beside the value. -/
theorem dyadic_scale (a : Nat) : dyadic a (((topExp m g + 127).toNat : Int) - 139) = dyadic (a * 2 ^ (bitLen m - 1)) (g - 12) := by
  obtain ⟨k, hk, -, -⟩ := bitLen_bounds hm
  rw [topExp, hk] at hlow ⊢
  push_cast at hlow ⊢
  rw [dyadic_eq_shift (g := g - 12) (by omega)]
  congr 2
  congr 1
  omega

omit hm hlow in
theorem dyadic_4096 : dyadic m g = dyadic (m * 4096) (g - 12) := by
  rw [dyadic_eq_shift (g := g - 12) (by omega), show (g - (g - 12)).toNat = 12 by omega]
  rfl

theorem scaleBits_covers : dyadic m g ≤ scaleVal (scaleBits m g) := by
  obtain ⟨k, hk, hle, hlt⟩ := bitLen_bounds hm
  have hkk : bitLen m - 1 = k := by rw [hk]; rfl
  rw [scaleBits, scaleVal_eq (hkk ▸ scaleFrac_le hlt), dyadic_scale hm hlow, dyadic_4096, dyadic_le_iff, hkk]
  exact scaleFrac_covers hle

theorem scaleBits_least {n : Nat} (hn : dyadic m g ≤ scaleVal n) : scaleBits m g ≤ n := by
  obtain ⟨k, hk, hle, hlt⟩ := bitLen_bounds hm
  have hkk : bitLen m - 1 = k := by rw [hk]; rfl
  have hF := scaleFrac_le hlt
  by_contra hcon
  rw [scaleBits, hkk] at hcon
  have hsplit : n = n / 4096 * 4096 + n % 4096 := by omega
  have hfrac : n % 4096 < 4096 := Nat.mod_lt _ (by decide)
  rw [hsplit, scaleVal_eq hfrac.le] at hn
  rcases Nat.lt_trichotomy (n / 4096) (topExp m g + 127).toNat with hE | hE | hE
  · have hsmall : dyadic (4096 + n % 4096) ((n / 4096 : Nat) - 139) < dyadic 4096 (((topExp m g + 127).toNat : Int) - 139) := by
      refine (dyadic_lt_iff.mpr (show 4096 + n % 4096 < 2 ^ 13 by omega)).trans_le ?_
      rw [show 4096 = 2 ^ 12 from rfl, dyadic_pow_le]
      push_cast
      omega
    rw [dyadic_scale hm hlow, hkk] at hsmall
    have hbelow : dyadic (4096 * 2 ^ k) (g - 12) ≤ dyadic m g := by
      rw [dyadic_4096 (m := m), dyadic_le_iff]
      omega
    linarith
  · rw [hE, dyadic_scale hm hlow, hkk, dyadic_4096, dyadic_le_iff] at hn
    have := scaleFrac_least hle (F := n % 4096) (by omega)
    omega
  · omega

end least

end Sys2Proof.Machine
end

section
/-! SUPPORT. AMAX, CVQ, CVDQ, VPK and VUPK (R316-R318, R321): what each sends, lane by lane. -/

namespace Sys2Proof.Machine
open Sys2Proof
variable {s : State} {i : Instr} {t : TapTy} {u : Bool} {m : Nat} {e : Int}

/-! ### The scale that the model finds (R166) -/

theorem bs20For_zero : bs20For (.fin u 0 e) t = 0 := rfl

/-- At most the least normal scale. -/
def AtMostLeast (m : Nat) (g : Int) : Prop := topExp m g < -126 ∨ (topExp m g = -126 ∧ m = 2 ^ (bitLen m - 1))

theorem bs20For_least (hm : m ≠ 0) (h : AtMostLeast m (e - maxposLog t)) : bs20For (.fin u m e) t = 0x01000 :=
  (if_neg hm).trans (if_pos h)

theorem bs20For_normal (hm : m ≠ 0) (h : ¬ AtMostLeast m (e - maxposLog t)) :
    bs20For (.fin u m e) t = BitVec.ofNat 20 (scaleBits m (e - maxposLog t)) := by
  have hE : ((topExp m (e - maxposLog t) + 127).toNat : Int) = topExp m (e - maxposLog t) + 127 := by
    rw [AtMostLeast] at h
    omega
  have hdef : bs20For (.fin u m e) t = if scaleFrac m (bitLen m - 1) = 4096
      then BitVec.ofInt 20 ((topExp m (e - maxposLog t) + 127 + 1) * 4096)
      else BitVec.ofInt 20 ((topExp m (e - maxposLog t) + 127) * 4096 + scaleFrac m (bitLen m - 1)) :=
    (if_neg hm).trans (if_neg h)
  rw [hdef, ← hE, scaleBits, ← BitVec.ofInt_natCast]
  split
  next hF =>
    rw [hF]
    refine congrArg (BitVec.ofInt 20) ?_
    push_cast
    ring
  next => rfl

/-- R166: the scale is at or above the value, and the least such. -/
theorem bs20For_spec (hm : m ≠ 0) (hlt : m < 2 ^ 24) (he : e ≤ 104) : IsScale (bs20For (.fin u m e) t) ∧
    Covers m (e - maxposLog t) (bs20For (.fin u m e) t) ∧
    ∀ q, IsScale q → Covers m (e - maxposLog t) q → (bs20For (.fin u m e) t).toNat ≤ q.toNat := by
  have hlog : 4 ≤ maxposLog t := by cases t <;> decide
  have htop := topExp_lt (e := e - maxposLog t) hm hlt
  have hbr : Brackets m (e - maxposLog t) false (dyadic m (e - maxposLog t)) := rfl
  obtain ⟨-, hhigh⟩ := hbr.top hm
  push_cast at htop
  by_cases h : AtMostLeast m (e - maxposLog t)
  · rw [bs20For_least hm h]
    refine ⟨⟨by decide, by decide⟩, ?_, fun q hq _ => ?_⟩
    · have hval : scaleVal (0x01000 : BitVec 20).toNat = (2 : ℝ) ^ (-126 : Int) := by
        show dyadic (2 ^ 12) (-138) = _
        rw [dyadic_pow]
        norm_num
      rw [covers_iff, hval]
      rcases h with hless | ⟨heq, hpow⟩
      · exact hhigh.le.trans (zpow_le_zpow_right₀ one_le_two (by omega))
      · obtain ⟨k, hk, -, -⟩ := bitLen_bounds hm
        have hpow' : m = 2 ^ k := by rw [hpow, hk]; rfl
        rw [topExp, hk] at heq
        push_cast at heq
        rw [hpow', dyadic_pow]
        exact zpow_le_zpow_right₀ one_le_two (by omega)
    · have hexp := hq.1
      rw [bsExp_eq] at hexp
      show 4096 ≤ q.toNat
      omega
  · have hlow : -126 ≤ topExp m (e - maxposLog t) := by rw [AtMostLeast] at h; omega
    obtain ⟨k, hk, -, hltk⟩ := bitLen_bounds hm
    have hF : scaleFrac m (bitLen m - 1) ≤ 4096 := by rw [hk]; exact scaleFrac_le hltk
    have hbits : scaleBits m (e - maxposLog t) = (topExp m (e - maxposLog t) + 127).toNat * 4096 + scaleFrac m (bitLen m - 1) := rfl
    have hnat : (BitVec.ofNat 20 (scaleBits m (e - maxposLog t))).toNat = scaleBits m (e - maxposLog t) := by
      rw [BitVec.toNat_ofNat, Nat.mod_eq_of_lt (by omega)]
    rw [bs20For_normal hm h, covers_iff, hnat, IsScale, bsExp_eq, hnat]
    refine ⟨by omega, scaleBits_covers hm hlow, fun q _ hq => scaleBits_least hm hlow (covers_iff.mp hq)⟩

/-! ### AMAX (R316) -/

/-- The scale that AMAX sends. -/
def amaxScale (t : TapTy) (k : Tok) : BitVec 20 := bs20For ((fmtOf .f32).decode (BitVec.ofNat 64 (amaxOf (rawF32 k)))) t

theorem gives_amax {h : Hdr} (hr : FiresReal (.amax h t) s) : Gives (.amax h t) s (.scalar ((amaxScale t s.latch.opL).setWidth 64)) 0 :=
  (gives_fireRes rfl hr :)

theorem amaxScale_special {k : Tok} (h : ∃ j < 32, 0x7F800000 ≤ laneMag k.vec j) : amaxScale t k = 0xFF000 := by
  obtain ⟨j, hj, hmag⟩ := h
  rw [amaxScale]
  rcases decode_f32_special (hmag.trans (laneMag_le_amaxOf hj)) (amaxOf_lt k) with hd | ⟨g, hd⟩ <;> rw [hd] <;> rfl

theorem amaxScale_zero {k : Tok} (h : ∀ j < 32, laneMag k.vec j = 0) : amaxScale t k = 0 := by
  have hz : amaxOf (rawF32 k) = 0 := by
    rcases amaxOf_cases k with he | ⟨j, hj, he⟩
    · exact he
    · rw [he, h j hj]
  rw [amaxScale, hz]
  cases t <;> decide

theorem decode_f32_ne_zero {n : Nat} (hn : n ≠ 0) (hlt : n < 2 ^ 31) (h : (fmtOf .f32).decode (BitVec.ofNat 64 n) = .fin u m e) : m ≠ 0 := by
  rintro rfl
  have hn64 : (BitVec.ofNat 64 n).toNat = n := by rw [BitVec.toNat_ofNat, Nat.mod_eq_of_lt (by omega)]
  have hfb : (fmtOf .f32).fb = 23 := rfl
  have heb : (fmtOf .f32).eb = 8 := rfl
  simp only [FpFmt.decode, hn64, hfb, heb] at h
  split at h
  · split at h <;> exact absurd h (by simp)
  · split at h
    all_goals
      have hfr := (FpVal.fin.inj h).2.1
      omega

theorem amaxScale_spec {k : Tok} {j : Nat} (hj : j < 32) (hmax : ∀ l < 32, laneMag k.vec l ≤ laneMag k.vec j) (hne : laneMag k.vec j ≠ 0)
    (hd : (fmtOf .f32).decode (BitVec.ofNat 64 (laneMag k.vec j)) = .fin u m e) : IsScale (amaxScale t k) ∧
    Covers m (e - maxposLog t) (amaxScale t k) ∧ ∀ q, IsScale q → Covers m (e - maxposLog t) q → (amaxScale t k).toNat ≤ q.toNat := by
  obtain ⟨hm, -, he, -⟩ := FpFmt.decode_bounds (fmtOf_fits .f32) hd
  have hg : (fmtOf .f32).gmax = 104 := by decide
  rw [amaxScale, amaxOf_eq_laneMag hj hmax, hd]
  exact bs20For_spec (decode_f32_ne_zero hne (laneMag_lt _ _) hd) hm (hg ▸ he)

/-! ### CVQ (R164, R317) -/

/-- A T6 lane of a value below 64 is written as it is. -/
theorem setWidth_laneBits_tap {x : Word} (h : t = .t6 → x.toNat < 64) : (laneBits (.tap t) x).setWidth 8 = x.setWidth 8 := by
  cases t with
  | t8 => rfl
  | t6 =>
    have hx : x &&& 0x3F = x := by
      apply BitVec.eq_of_toNat_eq
      rw [BitVec.toNat_and]
      exact (Nat.and_two_pow_sub_one_eq_mod _ 6).trans (Nat.mod_eq_of_lt (h rfl))
    exact congrArg (BitVec.setWidth 8) hx

theorem tapRound_lt {num den : Nat} (hden : 0 < den) : (tapRound t u num den).val.toNat < 2 ^ t.width := by
  obtain ⟨h1, hM, -⟩ := tapPick_nearest (t := t) (num := num) hden
  have hmax : tapMax t < 2 ^ t.width := by cases t <;> decide
  have hword : 2 ^ t.width < 2 ^ 64 := by cases t <;> decide
  rw [tapRound_eq hden, BitVec.toNat_ofNat]
  refine (Nat.mod_le _ _).trans_lt ?_
  split <;> omega

theorem toTapered_lt {v : FpVal} {den : Nat} {sh : Int} (hden : 0 < den) : (toTapered t v den sh).val.toNat < 2 ^ t.width := by
  cases v with
  | nan g =>
    rw [toTapered_nan]
    show (tapNar t).toNat < _
    cases t <;> decide
  | inf g => cases t <;> cases g <;> simp [toTapered, tapMax, tapWidth, TapTy.width]
  | fin g m e =>
    by_cases hm : m = 0
    · subst hm
      rw [toTapered_zero]
      exact Nat.two_pow_pos _
    · have hround : toTapered t (.fin g m e) den sh = tapRound t g (m * 2 ^ (e - sh).toNat) (den * 2 ^ (-(e - sh)).toNat) := if_neg hm
      rw [hround]
      exact tapRound_lt (Nat.mul_pos hden (Nat.two_pow_pos _))

theorem bsMant_pos (q : BitVec 20) : 0 < bsMant q := by rw [bsMant]; omega

theorem quantise_zero {q : BitVec 20} {x : Word} (h : bsExp q = 0) : quantise t q x = ⟨0, 0⟩ := if_pos h

theorem quantise_nan {q : BitVec 20} {x : Word} (h : bsExp q = 255) : quantise t q x = ⟨tapNar t, 0⟩ :=
  (if_neg (by omega)).trans (if_pos h)

theorem quantise_scale {q : BitVec 20} {x : Word} (h : IsScale q) :
    quantise t q x = toTapered t ((fmtOf .f32).decode x) (bsMant q) (bsE q) := by
  obtain ⟨h1, h2⟩ := h
  exact (if_neg (by omega)).trans (if_neg (by omega))

theorem quantise_lt {q : BitVec 20} {x : Word} : (quantise t q x).val.toNat < 2 ^ t.width := by
  rw [quantise]
  split
  · exact Nat.two_pow_pos _
  · split
    · cases t <;> decide
    · exact toTapered_lt (bsMant_pos q)

/-- Lane `k` that CVQ sends. -/
def cvqLane (s : State) (t : TapTy) (k : Nat) : Res := quantise t (s.latch.opR.word.setWidth 20) (lane 32 s.latch.opL.vec k)

/-- The vector that CVQ sends. -/
def cvqVec (s : State) (t : TapTy) : Vec := ofLanes 8 ((List.range 32).map fun k => laneBits (.tap t) (cvqLane s t k).val)

/-- The scaled packet that CVQ sends: its beat holds the scale and quarter 0. -/
def cvqTok (s : State) (h : Hdr) (t : TapTy) (ch : BitVec 5) : Tok :=
  newTok (.vector (cvqVec s t)) ch (some ((s.latch.opR.word.setWidth 20 : BitVec 20).setWidth 22)) (s.outSlack (.cvq h t ch))

theorem exec_cvq {h : Hdr} {ch : BitVec 5} (hr : FiresReal (.cvq h t ch) s) : exec (.cvq h t ch) s = .next (s.after
    (((s.begun (.cvq h t ch)).holdFlags (lanesFlags 32 fun k => (cvqLane s t k).flags)).send2 (.cvq h t ch) (cvqTok s h t ch)
      (cvqTok s h t ch))) := by
  rw [exec_real rfl hr]
  simp only [State.begun_latch, State.begun_outSlack, rawF32_eq, List.map_map, orFlags_map_range, Function.comp_def]
  rfl

theorem cvqVec_lane {k : Nat} (hk : k < 32) : (cvqVec s t).extractLsb' (8 * k) 8 = (cvqLane s t k).val.setWidth 8 := by
  rw [cvqVec, extractLsb'_ofLanes_range hk (by decide)]
  refine setWidth_laneBits_tap ?_
  rintro rfl
  exact quantise_lt

theorem cvqVec_above {k : Nat} (hk : 32 ≤ k) (hlt : k < 128) : (cvqVec s t).extractLsb' (8 * k) 8 = 0 := by
  rw [cvqVec, extractLsb'_ofLanes (by omega), List.getD_eq_getElem?_getD, List.getElem?_eq_none (by simpa using hk)]
  rfl

theorem cvqLane_spec (k : Nat) (hq : IsScale (s.latch.opR.word.setWidth 20)) :
    let a := (fmtOf .f32).decode (lane 32 s.latch.opL.vec k)
    let q : BitVec 20 := s.latch.opR.word.setWidth 20
    (∀ g, a = .nan g → cvqLane s t k = ⟨tapNar t, if g then flagNV else 0⟩) ∧
      (∀ u, a = .inf u → cvqLane s t k = ⟨BitVec.ofNat 64 (if u then 2 ^ t.width - tapMax t else tapMax t), flagSAT ||| flagNX⟩) ∧
      (∀ u m e, a = .fin u m e → (m = 0 → cvqLane s t k = ⟨0, 0⟩) ∧
        (m ≠ 0 → TapRounds t u m (bsMant q) (e - bsE q) (cvqLane s t k))) := by
  intro a q
  have hlane : cvqLane s t k = toTapered t a (bsMant q) (bsE q) := quantise_scale hq
  rw [hlane]
  refine ⟨fun g ha => by rw [ha, toTapered_nan], fun u ha => by rw [ha, toTapered_inf], fun u m e ha => ?_⟩
  rw [ha]
  refine ⟨?_, fun hm => toTapered_rounds hm (bsMant_pos q)⟩
  rintro rfl
  exact toTapered_zero

/-! ### CVDQ (R170, R318) -/

theorem ite_fin {c : Prop} [Decidable c] {v w : FpVal} (hv : ∃ u m e, v = .fin u m e) (hw : ∃ u m e, w = .fin u m e) :
    ∃ u m e, (if c then v else w) = .fin u m e := by
  split <;> assumption

/-- A tapered pattern decodes to a quiet NaN or a finite value. -/
theorem tapDecode_cases (t : TapTy) (x : Word) : TapTy_decode t x = .nan false ∨ ∃ u m e, TapTy_decode t x = .fin u m e := by
  cases t with
  | t6 =>
    simp only [TapTy_decode]
    split
    · exact .inr ⟨_, _, _, rfl⟩
    · split
      · exact .inl rfl
      · exact .inr ⟨_, _, _, rfl⟩
  | t8 =>
    simp only [TapTy_decode]
    split
    · exact .inr ⟨_, _, _, rfl⟩
    · split
      · exact .inl rfl
      · refine .inr ?_
        exact ite_fin ⟨_, _, _, rfl⟩ ⟨_, _, _, rfl⟩

/-- Lane `k` that CVDQ sends. -/
def cvdqLane (s : State) (t : TapTy) (qtr : BitVec 2) (k : Nat) : Res :=
  scaleF32 (TapTy_decode t (lane 8 s.latch.opL.vec (32 * qtr.toNat + k))) (s.latch.opR.word.setWidth 20)

theorem gives_cvdq {h : Hdr} {qtr : BitVec 2} (hr : FiresReal (.cvdq h t qtr) s) : Gives (.cvdq h t qtr) s
    (.vector (ofLanes 32 ((List.range 32).map fun k => (cvdqLane s t qtr k).val))) (lanesFlags 32 fun k => (cvdqLane s t qtr k).flags) := by
  have hgives := gives_fireVec (t := .fp .f32) (e := fun a => (((lanesOf 8 a.opL.vec).drop (32 * qtr.toNat)).take 32).map fun x =>
    scaleF32 (TapTy_decode t x) (a.opR.word.setWidth 20)) rfl hr
  have hlanes : (((lanesOf 8 s.latch.opL.vec).drop (32 * qtr.toNat)).take 32).map (fun x =>
      scaleF32 (TapTy_decode t x) (s.latch.opR.word.setWidth 20)) = (List.range 32).map (cvdqLane s t qtr) := by
    rw [take_drop_lanesOf _ (by have := qtr.isLt; omega), List.map_map]
    rfl
  simp only [hlanes, orFlags_map_range, List.map_map] at hgives
  exact hgives

theorem scaleF32_nan {q : BitVec 20} : scaleF32 (.nan false) q = ⟨(fmtOf .f32).qnan, 0⟩ := rfl

theorem scaleF32_nanBlock {q : BitVec 20} (h : bsExp q = 255) : scaleF32 (.fin u m e) q = ⟨(fmtOf .f32).qnan, 0⟩ := if_pos h

theorem scaleF32_zeroBlock {q : BitVec 20} (h : bsExp q = 0) : scaleF32 (.fin u m e) q = ⟨(fmtOf .f32).zero false, 0⟩ :=
  (if_neg (by omega)).trans (if_pos h)

theorem scaleF32_scale {q : BitVec 20} (h : IsScale q) :
    scaleF32 (.fin u m e) q = roundTo (fmtOf .f32) .rne u (m * bsMant q) (e + bsE q) false := by
  obtain ⟨h1, h2⟩ := h
  exact (if_neg (by omega)).trans (if_neg (by omega))

theorem cvdqLane_spec (qtr : BitVec 2) (k : Nat) :
    let a := TapTy_decode t (lane 8 s.latch.opL.vec (32 * qtr.toNat + k))
    let q : BitVec 20 := s.latch.opR.word.setWidth 20
    (a.isNan ∨ bsExp q = 255 → cvdqLane s t qtr k = ⟨(fmtOf .f32).qnan, 0⟩) ∧
      (∀ u m e, a = .fin u m e → (bsExp q = 0 → cvdqLane s t qtr k = ⟨(fmtOf .f32).zero false, 0⟩) ∧
        (IsScale q → (m = 0 → cvdqLane s t qtr k = ⟨(fmtOf .f32).zero u, 0⟩) ∧
          (m ≠ 0 → Rounds (fmtOf .f32) .rne u (fun j p => dyadicCmp j p (m * bsMant q) (e + bsE q)) (cvdqLane s t qtr k)))) := by
  intro a q
  have hlane : cvdqLane s t qtr k = scaleF32 a q := rfl
  rw [hlane]
  refine ⟨fun h => ?_, fun u m e ha => ⟨fun hz => ?_, fun hq => ⟨?_, fun hm => ?_⟩⟩⟩
  · rcases tapDecode_cases t (lane 8 s.latch.opL.vec (32 * qtr.toNat + k)) with ha | ⟨u, m, e, ha⟩
    · rw [show a = .nan false from ha, scaleF32_nan]
    · have hblock := h.resolve_left (by rw [show a = .fin u m e from ha]; exact Bool.false_ne_true)
      rw [show a = .fin u m e from ha, scaleF32_nanBlock hblock]
  · rw [ha, scaleF32_zeroBlock hz]
  · rintro rfl
    rw [ha, scaleF32_scale hq, Nat.zero_mul, roundTo_zero]
  · rw [ha, scaleF32_scale hq]
    exact roundTo_rounds_exact (fmtOf_fits .f32) (Nat.mul_ne_zero hm (bsMant_pos q).ne')

/-! ### VPK and VUPK (R163, R321) -/

/-- Element `j` of four. -/
def packedField (v : Vec) (g j : Nat) : BitVec 6 := v.extractLsb' (8 * (4 * g + j)) 6

/-- The 24 bits of four packed elements. -/
def packedWord (v : Vec) (g : Nat) : Word :=
  let l := fun j => (packedField v g j).setWidth 64
  (l 0) ||| ((l 1) <<< 6) ||| ((l 2) <<< 12) ||| ((l 3) <<< 18)

theorem packT6_eq (v : Vec) : packT6 v = ofLanes 24 ((List.range 32).map (packedWord v)) := rfl

/-- A 6-bit field set at bit `6i`. -/
theorem getLsbD_field_shift (f : BitVec 6) {i j b : Nat} (hj : j < 4) (hb : b < 6) :
    ((f.setWidth 64) <<< (6 * i)).getLsbD (6 * j + b) = (decide (i = j) && f.getLsbD b) := by
  rw [BitVec.getLsbD_shiftLeft, BitVec.getLsbD_setWidth]
  rcases Nat.lt_trichotomy i j with h | h | h
  · have hout : f.getLsbD (6 * j + b - 6 * i) = false := BitVec.getLsbD_of_ge _ _ (by omega)
    simp [hout, h.ne]
  · subst h
    have hin : 6 * i + b < 64 := by omega
    have hpos : b < 64 := by omega
    simp [hin, hpos]
  · have hlow : 6 * j + b < 6 * i := by omega
    simp [hlow, h.ne']

theorem getLsbD_packedWord {v : Vec} {g j b : Nat} (hj : j < 4) (hb : b < 6) :
    (packedWord v g).getLsbD (6 * j + b) = v.getLsbD (8 * (4 * g + j) + b) := by
  have hpack : packedWord v g = ((packedField v g 0).setWidth 64) <<< (6 * 0) ||| ((packedField v g 1).setWidth 64) <<< (6 * 1) |||
      ((packedField v g 2).setWidth 64) <<< (6 * 2) ||| ((packedField v g 3).setWidth 64) <<< (6 * 3) := by
    rw [Nat.mul_zero, BitVec.shiftLeft_zero]
    rfl
  rw [hpack]
  simp only [BitVec.getLsbD_or, getLsbD_field_shift _ hj hb]
  interval_cases j <;> simp [hb, packedField]

theorem packT6_getLsbD {v : Vec} {n : Nat} (hn : n < 768) : (packT6 v).getLsbD n = v.getLsbD (8 * (n / 6) + n % 6) := by
  have hplace : n = 24 * (n / 24) + (6 * (n % 24 / 6) + n % 6) := by omega
  have hword : (List.map (packedWord v) (List.range 32)).getD (n / 24) 0 = packedWord v (n / 24) := by
    have hlt : n / 24 < 32 := by omega
    simp [List.getD_eq_getElem?_getD, hlt]
  rw [packT6_eq, ofLanes, BitVec.getLsbD_ofNat, hplace, testBit_packLanes (by omega), hword, getLsbD_packedWord (by omega) (by omega)]
  have hin : n < 1024 := by omega
  simp only [← hplace, hin, decide_true, Bool.true_and]
  congr 1
  omega

/-- VPK: element `j` in bits 6j to 6j + 5. -/
theorem packT6_field {v : Vec} {j : Nat} (hj : j < 128) : (packT6 v).extractLsb' (6 * j) 6 = v.extractLsb' (8 * j) 6 := by
  refine BitVec.eq_of_getLsbD_eq fun b hb => ?_
  rw [BitVec.getLsbD_extractLsb', BitVec.getLsbD_extractLsb', packT6_getLsbD (by omega)]
  congr 2
  omega

theorem packT6_above (v : Vec) : (packT6 v).extractLsb' 768 256 = 0 := by
  refine BitVec.eq_of_getLsbD_eq fun b hb => ?_
  have hword : (List.map (packedWord v) (List.range 32)).getD ((768 + b) / 24) 0 = 0 := by
    rw [List.getD_eq_getElem?_getD, List.getElem?_eq_none (by simp; omega)]
    rfl
  have hplace : 768 + b = 24 * ((768 + b) / 24) + (768 + b) % 24 := by omega
  rw [BitVec.getLsbD_extractLsb', packT6_eq, ofLanes, BitVec.getLsbD_ofNat, hplace, testBit_packLanes (Nat.mod_lt _ (by decide)), hword]
  simp

theorem unpackT6_lane {v : Vec} {j : Nat} (hj : j < 128) : (unpackT6 v).extractLsb' (8 * j) 8 = (v.extractLsb' (6 * j) 6).setWidth 8 := by
  rw [unpackT6, extractLsb'_ofLanes_range hj (by decide)]
  exact BitVec.setWidth_setWidth_of_le _ (by decide)

theorem sends_vpk {h : Hdr} (hr : FiresReal (.vpk h) s) : Sends (.vpk h) s (.vector (packT6 s.latch.opL.vec)) := by
  rw [Sends, exec_real rfl hr, State.begun_latch]

theorem sends_vupk {h : Hdr} (hr : FiresReal (.vupk h) s) : Sends (.vupk h) s (.vector (unpackT6 s.latch.opL.vec)) := by
  rw [Sends, exec_real rfl hr, State.begun_latch]

/-- Settles O33: the least scale and the conversions are those of the tapered and dyadic rules, and packed elements lie at 6j. -/
theorem formatRecords : Obligations.FormatRecords := by
  unfold Obligations.FormatRecords
  intro s h t ch qtr f x S mag mant expo isScale at8
  refine ⟨fun hr => ⟨amaxScale t s.latch.opL, gives_amax hr, amaxScale_special, amaxScale_zero, ?amax⟩,
    fun hr => ⟨cvqVec s t, cvqLane s t, exec_cvq hr, fun k => cvqVec_above, ?cvq⟩,
    fun hr => ⟨_, cvdqLane s t qtr, gives_cvdq hr, ?cvdq⟩,
    fun hr => ⟨_, sends_vpk hr, fun j => packT6_field, packT6_above _⟩, fun hr => ⟨_, sends_vupk hr, fun j => unpackT6_lane⟩⟩
  case amax =>
    intro k hk hmax hne _ u m e hd
    exact amaxScale_spec hk hmax hne hd
  case cvq =>
    intro k hk
    exact ⟨cvqVec_lane hk, quantise_zero, quantise_nan, cvqLane_spec k⟩
  case cvdq =>
    intro k hk
    exact ⟨extractLsb'_ofLanes_range hk (by decide) _, cvdqLane_spec qtr k⟩

end Sys2Proof.Machine
end

section
/-! SUPPORT. Vector reductions on IEEE lanes (R173, R311, R313): the elements that a record reads, the lanes that a mask keeps and the pairwise tree. -/

namespace Sys2Proof.Machine
open Sys2Proof
variable {s : State} {i : Instr}

/-! ### The elements of a vector operand (R170, R303) -/

theorem elem_raw {t : Ty} {a : Tok} {k : Nat} (h : t = .fp .f32 → a.chan.toNat = 0 ∨ a.bind = none) : elem t a k = .plain (lane t.lane a.vec k) := by
  by_cases ht : t = .fp .f32
  · subst ht
    rcases h rfl with hc | hb
    · simp [elem, laneTok, scalarOp, Tok.word, hc]
    · simp [elem, laneTok, scalarOp, Tok.word, hb]
  · cases t with
    | int => rfl
    | tap => rfl
    | fp ft => cases ft <;> trivial

theorem vectorOp_raw {t : Ty} {a : Tok} (h : t = .fp .f32 → a.chan.toNat = 0 ∨ a.bind = none) :
    vectorOp t a = (lanesOf t.lane a.vec).map Res.plain := by
  unfold vectorOp
  split
  next hc hb => exact absurd (h rfl) (by simp [hc, hb])
  next => rfl

/-- A record reads a vector operand element by element. -/
theorem vectorOp_eq (t : Ty) (a : Tok) : vectorOp t a = (List.range t.lanes).map (elem t a) := by
  by_cases h : t = .fp .f32 → a.chan.toNat = 0 ∨ a.bind = none
  · rw [vectorOp_raw h, lanesOf, List.map_map]
    exact List.map_congr_left fun k _ => (elem_raw h).symm
  · push Not at h
    obtain ⟨rfl, hc, hb⟩ := h
    obtain ⟨n, hn⟩ := Nat.exists_eq_succ_of_ne_zero hc
    obtain ⟨b, hb⟩ := Option.ne_none_iff_exists'.mp hb
    have hvec : vectorOp (.fp .f32) a = (List.range 32).map fun k => chanElem b (lane (chanLane b.entry) a.vec (32 * bits b.entry 11 2 + k)) := by
      simp [vectorOp, hn, hb]
    rw [hvec]
    refine List.map_congr_left fun k _ => ?_
    simp [elem, laneTok, scalarOp, hn, hb, Tok.word]

/-! ### The lanes that a mask keeps (R302) -/

/-- Whether lane `k` is kept. -/
def kept (mk : Bool) (m : Word) (k : Nat) : Bool := !mk || m.getLsbD k

theorem present_map_range {α : Type} (mk : Bool) (m : Word) (g : Nat → α) (n : Nat) :
    present mk m ((List.range n).map g) = (List.range n).map fun k => if kept mk m k then some (g k) else none := by
  induction n with
  | zero => rfl
  | succ n ih =>
    rw [present] at ih ⊢
    rw [List.range_succ, List.map_append, List.zipIdx_append, List.map_append, ih, List.map_append]
    simp [kept]

/-! ### Flags of all lanes (R303) -/

theorem word_zero_or (a : Word) : 0 ||| a = a := BitVec.zero_or

theorem word_or_zero (a : Word) : a ||| 0 = a := BitVec.or_zero

theorem foldl_or (l : List Word) (a : Word) : l.foldl (fun a b => a ||| b) a = a ||| l.foldl (fun a b => a ||| b) 0 := by
  induction l generalizing a with
  | nil => simp
  | cons b l ih => rw [List.foldl_cons, List.foldl_cons, ih, ih (0 ||| b), word_zero_or, BitVec.or_assoc]

theorem lanesFlags_succ (n : Nat) (g : Nat → Word) : lanesFlags (n + 1) g = lanesFlags n g ||| g n := by
  simp [lanesFlags, List.range_succ]

theorem lanesFlags_or (n : Nat) (g h : Nat → Word) : (lanesFlags n fun k => g k ||| h k) = lanesFlags n g ||| lanesFlags n h := by
  induction n with
  | zero => exact (word_zero_or 0).symm
  | succ n ih =>
    rw [lanesFlags_succ, lanesFlags_succ, lanesFlags_succ, ih]
    ac_rfl

theorem lanesFlags_double (n : Nat) (g : Nat → Word) : lanesFlags (2 * n) g = lanesFlags n fun j => g (2 * j) ||| g (2 * j + 1) := by
  induction n with
  | zero => rfl
  | succ n ih => rw [Nat.mul_succ, lanesFlags_succ, lanesFlags_succ, lanesFlags_succ, ih, BitVec.or_assoc]

theorem lanesFlags_zero (n : Nat) : (lanesFlags n fun _ => 0) = 0 := by
  induction n with
  | zero => rfl
  | succ n ih => rw [lanesFlags_succ, ih, word_or_zero]

/-- The flags of the lanes that are present. -/
theorem presentFlags_map_range (p : Nat → Bool) (r : Nat → Res) (n : Nat) :
    presentFlags ((List.range n).map fun k => if p k then some (r k) else none) = lanesFlags n fun k => if p k = true then (r k).flags else 0 := by
  induction n with
  | zero => rfl
  | succ n ih =>
    rw [lanesFlags_succ, ← ih, presentFlags, presentFlags, List.range_succ, List.map_append, List.filterMap_append, orFlags, orFlags,
      List.foldl_append]
    cases h : p n <;> simp [h]

/-! ### The pairwise tree (R173) -/

section tree
variable {rm : Rm} {x : Nat → Option Word}

/-- The sum of two present lanes, or the one that is present. -/
def joinLanes (rm : Rm) (a b : Option Word) : Option Word × Word :=
  match a, b with
  | some a, some b =>
    let r := addVal (fmtOf .f32) rm ((fmtOf .f32).decode a) ((fmtOf .f32).decode b)
    (some r.val, r.flags)
  | some a, none => (some a, 0)
  | none, b => (b, 0)

theorem treeLevel_cons (a b : Option Word) (l : List (Option Word)) :
    treeLevel rm (a :: b :: l) = ((joinLanes rm a b).1 :: (treeLevel rm l).1, (joinLanes rm a b).2 ||| (treeLevel rm l).2) := by
  cases a <;> cases b <;> simp [treeLevel, joinLanes]

theorem treeAt_succ (n j : Nat) : treeAt rm x (n + 1) j = ((joinLanes rm (treeAt rm x n (2 * j)).1 (treeAt rm x n (2 * j + 1)).1).1,
    (joinLanes rm (treeAt rm x n (2 * j)).1 (treeAt rm x n (2 * j + 1)).1).2 ||| ((treeAt rm x n (2 * j)).2 ||| (treeAt rm x n (2 * j + 1)).2)) := by
  rw [treeAt]
  rcases treeAt rm x n (2 * j) with ⟨_ | a, u⟩ <;> rcases treeAt rm x n (2 * j + 1) with ⟨_ | b, v⟩ <;> simp [joinLanes]

theorem treeLevel_map_range' (g : Nat → Option Word) (c j : Nat) : treeLevel rm ((List.range' (2 * j) (2 * c)).map g) =
    ((List.range' j c).map fun l => (joinLanes rm (g (2 * l)) (g (2 * l + 1))).1,
      ((List.range' j c).map fun l => (joinLanes rm (g (2 * l)) (g (2 * l + 1))).2).foldl (fun a b => a ||| b) 0) := by
  induction c generalizing j with
  | zero => rfl
  | succ c ih =>
    rw [Nat.mul_succ, List.range'_succ, List.range'_succ, List.map_cons, List.map_cons, treeLevel_cons, show 2 * j + 1 + 1 = 2 * (j + 1) from rfl,
      ih, List.range'_succ, List.map_cons, List.map_cons, List.foldl_cons, word_zero_or, foldl_or _ (Prod.snd _)]

theorem treeLevel_map_range (g : Nat → Option Word) (c : Nat) : treeLevel rm ((List.range (2 * c)).map g) =
    ((List.range c).map fun l => (joinLanes rm (g (2 * l)) (g (2 * l + 1))).1, lanesFlags c fun l => (joinLanes rm (g (2 * l)) (g (2 * l + 1))).2) := by
  have h := treeLevel_map_range' (rm := rm) g c 0
  rw [Nat.mul_zero, ← List.range_eq_range', ← List.range_eq_range'] at h
  exact h

theorem treeSum_succ (n : Nat) (l : List (Option Word)) : treeSum rm (n + 1) l =
    ⟨(treeSum rm n (treeLevel rm l).1).val, (treeSum rm n (treeLevel rm l).1).flags ||| (treeLevel rm l).2⟩ := rfl

theorem treeSum_single (n : Nat) (a : Option Word) : treeSum rm n [a] = .plain (a.getD 0) := by
  induction n with
  | zero => rfl
  | succ n ih =>
    have hlevel : treeLevel rm [a] = ([a], 0) := by cases a <;> rfl
    rw [treeSum_succ, hlevel, ih]
    exact congrArg (Res.mk _) (word_or_zero 0)

/-- The tree over the nodes of level `n` is the node `c` levels above. -/
theorem treeSum_nodes (c k n : Nat) :
    let q := treeSum rm (c + k) ((List.range (2 ^ c)).map fun j => (treeAt rm x n j).1)
    q.val = (treeAt rm x (n + c) 0).1.getD 0 ∧ (q.flags ||| lanesFlags (2 ^ c) fun j => (treeAt rm x n j).2) = (treeAt rm x (n + c) 0).2 := by
  induction c generalizing n with
  | zero =>
    intro q
    have hq : q = .plain ((treeAt rm x n 0).1.getD 0) := treeSum_single _ _
    rw [hq]
    exact ⟨rfl, (word_zero_or _).trans (word_zero_or _)⟩
  | succ c ih =>
    intro q
    obtain ⟨hval, hfl⟩ := ih (n + 1)
    have hlevel := treeLevel_map_range (rm := rm) (fun j => (treeAt rm x n j).1) (2 ^ c)
    have hnext : (List.range (2 ^ c)).map (fun l => (joinLanes rm (treeAt rm x n (2 * l)).1 (treeAt rm x n (2 * l + 1)).1).1) =
        (List.range (2 ^ c)).map fun j => (treeAt rm x (n + 1) j).1 := by simp only [treeAt_succ]
    have hq : q = treeSum rm (c + k + 1) ((List.range (2 * 2 ^ c)).map fun j => (treeAt rm x n j).1) := by
      show treeSum rm (c + 1 + k) _ = _
      rw [pow_succ', Nat.add_right_comm]
    rw [hq, treeSum_succ, hlevel, hnext, pow_succ', lanesFlags_double, show n + (c + 1) = n + 1 + c from by omega, ← hfl, ← hval]
    refine ⟨rfl, ?_⟩
    simp only [treeAt_succ, lanesFlags_or]
    ac_rfl

/-- Lanes that are absent add nothing. -/
theorem treeAt_absent {n j : Nat} (h : ∀ k, j * 2 ^ n ≤ k → k < (j + 1) * 2 ^ n → x k = none) : treeAt rm x n j = (none, 0) := by
  induction n generalizing j with
  | zero => rw [treeAt, h j (by omega) (by omega)]
  | succ n ih =>
    have hl : treeAt rm x n (2 * j) = (none, 0) := ih fun k h1 h2 => h k (by rw [pow_succ']; linarith) (by rw [pow_succ']; linarith)
    have hr : treeAt rm x n (2 * j + 1) = (none, 0) := ih fun k h1 h2 => h k (by rw [pow_succ']; linarith) (by rw [pow_succ']; linarith)
    rw [treeAt_succ, hl, hr]
    exact congrArg (Prod.mk none) ((word_zero_or _).trans (word_zero_or _))

theorem joinLanes_none (a : Option Word) : joinLanes rm a none = (a, 0) := by cases a <;> rfl

theorem treeSum_leaves (c k : Nat) : treeSum rm (c + k) ((List.range (2 ^ c)).map x) = ⟨(treeAt rm x c 0).1.getD 0, (treeAt rm x c 0).2⟩ := by
  obtain ⟨hval, hfl⟩ := treeSum_nodes (rm := rm) (x := x) c k 0
  have hzero : (lanesFlags (2 ^ c) fun j => (treeAt rm x 0 j).2) = 0 := lanesFlags_zero _
  rw [hzero, word_or_zero, Nat.zero_add] at hfl
  rw [Nat.zero_add] at hval
  rw [← hval, ← hfl]
  rfl

/-- The sum of all lanes of an IEEE lane type: 32 or 64 leaves. -/
theorem treeSum_lanes {ft : FpTy} (hft : ft.isLane = true) (habsent : ∀ k, (Ty.fp ft).lanes ≤ k → x k = none) :
    treeSum rm 7 ((List.range (Ty.fp ft).lanes).map x) = ⟨(treeAt rm x 6 0).1.getD 0, (treeAt rm x 6 0).2⟩ := by
  have hwide : (Ty.fp ft).lanes = 2 ^ 6 ∨ (Ty.fp ft).lanes = 2 ^ 5 := by
    cases ft with
    | f64 => exact absurd hft (by decide)
    | f32 => exact .inr rfl
    | f16 => exact .inl rfl
    | b16 => exact .inl rfl
  rcases hwide with hn | hn <;> rw [hn] at habsent ⊢
  · exact treeSum_leaves 6 1
  · have hright : treeAt rm x 5 1 = (none, 0) := treeAt_absent fun k hk _ => habsent k (by omega)
    have hroot : treeAt rm x 6 0 = treeAt rm x 5 0 := by
      rw [treeAt_succ, Nat.mul_zero, Nat.zero_add, hright, joinLanes_none, word_zero_or, word_or_zero]
    rw [hroot]
    exact treeSum_leaves 5 2

end tree

/-! ### VRED ADD and VDOT (R311, R313) -/

/-- Lane `k` of a vector of `n` lanes where the mask keeps it. -/
def keptLane (n : Nat) (p : Nat → Bool) (v : Nat → Res) (k : Nat) : Option Word := if k < n ∧ p k = true then some (v k).val else none

theorem presentVals_map_range (p : Nat → Bool) (v : Nat → Res) (n : Nat) :
    presentVals ((List.range n).map fun k => if p k then some (v k) else none) = (List.range n).map (keptLane n p v) := by
  rw [presentVals, List.map_map]
  refine List.map_congr_left fun k hk => ?_
  have hlt := List.mem_range.mp hk
  cases h : p k <;> simp [keptLane, h, hlt]

/-- The tree over the kept lanes, with the flags of the lanes. -/
theorem treeSum_kept {ft : FpTy} {rm : Rm} (hft : ft.isLane = true) (p : Nat → Bool) (v : Nat → Res) :
    (treeSum rm 7 (presentVals ((List.range (Ty.fp ft).lanes).map fun k => if p k then some (v k) else none))).with
      [presentFlags ((List.range (Ty.fp ft).lanes).map fun k => if p k then some (v k) else none)] =
    ⟨(treeAt rm (keptLane (Ty.fp ft).lanes p v) 6 0).1.getD 0, (treeAt rm (keptLane (Ty.fp ft).lanes p v) 6 0).2 |||
      lanesFlags (Ty.fp ft).lanes fun k => if p k = true then (v k).flags else 0⟩ := by
  have habsent : ∀ k, (Ty.fp ft).lanes ≤ k → keptLane (Ty.fp ft).lanes p v k = none := fun k hk => if_neg fun h => by omega
  rw [presentVals_map_range, presentFlags_map_range, treeSum_lanes hft habsent]
  rfl

/-- Lane `k` of an IEEE operand as F32, with the flags of its decoding. -/
def f32Lane (ft : FpTy) (a : Tok) (k : Nat) : Res := laneF32 ft (elem (.fp ft) a k)

/-- The kept lanes of an IEEE operand as F32. -/
theorem map_laneF32 {ft : FpTy} {mk : Bool} {m : Word} {a : Tok} : ((present mk m (vectorOp (.fp ft) a)).map fun x => x.map (laneF32 ft)) =
    (List.range (Ty.fp ft).lanes).map fun k => if kept mk m k then some (f32Lane ft a k) else none := by
  rw [vectorOp_eq, present_map_range, List.map_map]
  refine List.map_congr_left fun k _ => ?_
  cases h : kept mk m k <;> simp [h, f32Lane]

/-- The product of lane `k` of two IEEE operands, rounded once to F32, with the flags of their decoding. -/
def f32Product (ft : FpTy) (rm : Rm) (a b : Tok) (k : Nat) : Res :=
  (mulVal (fmtOf .f32) rm ((fmtOf ft).decode (elem (.fp ft) a k).val) ((fmtOf ft).decode (elem (.fp ft) b k).val)).with
    [(elem (.fp ft) a k).flags, (elem (.fp ft) b k).flags]

theorem map_f32Product {ft : FpTy} {rm : Rm} {mk : Bool} {m : Word} {a b : Tok} :
    ((present mk m (List.zip (vectorOp (.fp ft) a) (vectorOp (.fp ft) b))).map fun x => x.map fun q =>
      (mulVal (fmtOf .f32) rm ((fmtOf ft).decode q.1.val) ((fmtOf ft).decode q.2.val)).with [q.1.flags, q.2.flags]) =
    (List.range (Ty.fp ft).lanes).map fun k => if kept mk m k then some (f32Product ft rm a b k) else none := by
  rw [vectorOp_eq, vectorOp_eq, List.zip_map', present_map_range, List.map_map]
  refine List.map_congr_left fun k _ => ?_
  cases h : kept mk m k <;> simp [h, f32Product]

section records
variable {ft : FpTy} {h : Hdr} {rm : Rm} {mk : Bool}

theorem gives_vredAdd (hft : ft.isLane = true) (hr : FiresReal (.vred h (.fp ft) .add rm mk) s) :
    let n := (Ty.fp ft).lanes
    let p := kept mk s.latch.opR.word
    let q := treeAt rm (keptLane n p (f32Lane ft s.latch.opL)) 6 0
    Gives (.vred h (.fp ft) .add rm mk) s (.scalar (q.1.getD 0))
      (q.2 ||| lanesFlags n fun k => if p k = true then (f32Lane ft s.latch.opL k).flags else 0) := by
  intro n p q
  have hres : redFp ft .add rm (present mk s.latch.opR.word (vectorOp (.fp ft) s.latch.opL)) = ⟨q.1.getD 0,
      q.2 ||| lanesFlags n fun k => if p k = true then (f32Lane ft s.latch.opL k).flags else 0⟩ := by
    simp only [redFp, map_laneF32]
    exact treeSum_kept hft _ _
  have hgives := (gives_fireRes rfl hr :)
  simp only [hres] at hgives
  exact hgives

theorem gives_vdot (hft : ft.isLane = true) (hr : FiresReal (.vdot h (.fp ft) rm mk) s) :
    let n := (Ty.fp ft).lanes
    let p := kept mk s.latch.opX.word
    let v := f32Product ft rm s.latch.opL s.latch.opR
    let q := treeAt rm (keptLane n p v) 6 0
    Gives (.vdot h (.fp ft) rm mk) s (.scalar (q.1.getD 0)) (q.2 ||| lanesFlags n fun k => if p k = true then (v k).flags else 0) := by
  intro n p v q
  have hres : dotFp ft rm (present mk s.latch.opX.word (List.zip (vectorOp (.fp ft) s.latch.opL) (vectorOp (.fp ft) s.latch.opR))) =
      ⟨q.1.getD 0, q.2 ||| lanesFlags n fun k => if p k = true then (v k).flags else 0⟩ := by
    simp only [dotFp, map_f32Product]
    exact treeSum_kept hft _ _
  have hgives := (gives_fireRes rfl hr :)
  simp only [hres] at hgives
  exact hgives

end records

end Sys2Proof.Machine
end

section
/-! SUPPORT. The order of IEEE values that FMIN, FMAX and the vector minima and maxima use (R293, R311): a rank for each value that is not NaN. -/

namespace Sys2Proof.Machine
open Sys2Proof
variable {a b : FpVal}

/-! ### The order of values (R293) -/

/-- A value that is not NaN as an extended real. -/
noncomputable def FpVal_real : FpVal → EReal
  | .nan _ => 0
  | .inf u => if u then ⊥ else ⊤
  | .fin u m e => ((if u then -dyadic m e else dyadic m e : ℝ) : EReal)

theorem scaled_eq {u : Bool} {m : Nat} {e g : Int} (h : g ≤ e) : ((scaled u m e g : Int) : ℝ) * 2 ^ g = if u then -dyadic m e else dyadic m e := by
  rw [dyadic_eq_shift h, dyadic]
  cases u <;> simp [scaled]

theorem scaled_lt_iff {u v : Bool} {m n : Nat} {e g e0 : Int} (he : e0 ≤ e) (hg : e0 ≤ g) : scaled u m e e0 < scaled v n g e0 ↔
    FpVal_real (.fin u m e) < FpVal_real (.fin v n g) := by
  rw [FpVal_real, FpVal_real, EReal.coe_lt_coe_iff, ← scaled_eq he, ← scaled_eq hg, mul_lt_mul_iff_left₀ (by positivity), Int.cast_lt]

theorem fpCmp_eq (ha : a.isNan = false) (hb : b.isNan = false) : (fpCmp a b = .lt ↔ FpVal_real a < FpVal_real b) ∧
    (fpCmp a b = .gt ↔ FpVal_real b < FpVal_real a) := by
  cases a with
  | nan => cases ha
  | inf u =>
    cases b with
    | nan => cases hb
    | inf v => cases u <;> cases v <;> simp [fpCmp, FpVal_real]
    | fin v n g => cases u <;> simp [fpCmp, FpVal_real, EReal.bot_lt_coe, EReal.coe_lt_top]
  | fin u m e =>
    cases b with
    | nan => cases hb
    | inf v => cases v <;> simp [fpCmp, FpVal_real, EReal.bot_lt_coe, EReal.coe_lt_top]
    | fin v n g =>
      rw [fpCmp, Std.compare_eq_lt, Std.compare_eq_gt]
      exact ⟨scaled_lt_iff (min_le_left _ _) (min_le_right _ _), scaled_lt_iff (min_le_right _ _) (min_le_left _ _)⟩

/-- The place of a value that is not NaN: by the real, and -0 below +0. -/
noncomputable def fpRank (a : FpVal) : EReal ×ₗ Bool := toLex (FpVal_real a, !a.neg)

theorem fpBelow_iff (ha : a.isNan = false) (hb : b.isNan = false) : fpBelow a b = true ↔ fpRank a < fpRank b := by
  obtain ⟨hlt, hgt⟩ := fpCmp_eq ha hb
  rw [fpRank, fpRank, Prod.Lex.toLex_lt_toLex]
  unfold fpBelow
  cases hc : fpCmp a b with
  | lt => simp [hlt.mp hc]
  | gt => 
    have := hgt.mp hc
    simp [this.not_gt, this.ne']
  | eq =>
    have h1 : ¬FpVal_real a < FpVal_real b := fun h => by rw [hlt.mpr h] at hc; cases hc
    have h2 : ¬FpVal_real b < FpVal_real a := fun h => by rw [hgt.mpr h] at hc; cases hc
    have heq := le_antisymm (not_lt.mp h2) (not_lt.mp h1)
    simp [heq, Bool.lt_iff]

/-! ### Choosing the least or the greatest (R293, R311) -/

/-- Whether `x` is above, or below, `y`. -/
def fpBeats (f : FpFmt) (isMax : Bool) (x y : Word) : Bool :=
  if isMax then fpBelow (f.decode y) (f.decode x) else fpBelow (f.decode x) (f.decode y)

section fold
variable {f : FpFmt} {isMax : Bool} {x y z : Word} {l k : List Word} {r p : Word}

/-- A lane that is not beaten by one that does not beat a third does not beat the third. -/
theorem fpBeats_trans (hx : (f.decode x).isNan = false) (hy : (f.decode y).isNan = false) (hz : (f.decode z).isNan = false)
    (hxy : fpBeats f isMax x y = false) (hyz : fpBeats f isMax y z = false) : fpBeats f isMax x z = false := by
  cases isMax
  · simp only [fpBeats, Bool.false_eq_true, if_false, ← Bool.not_eq_true, fpBelow_iff, hx, hy, hz, not_lt] at *
    exact hyz.trans hxy
  · simp only [fpBeats, if_true, ← Bool.not_eq_true, fpBelow_iff, hx, hy, hz, not_lt] at *
    exact hxy.trans hyz

theorem fpBeats_asymm (hx : (f.decode x).isNan = false) (hy : (f.decode y).isNan = false) (h : fpBeats f isMax x y = true) :
    fpBeats f isMax y x = false := by
  cases isMax
  · simp only [fpBeats, Bool.false_eq_true, if_false, ← Bool.not_eq_true, fpBelow_iff, hx, hy, not_lt] at *
    exact h.le
  · simp only [fpBeats, if_true, ← Bool.not_eq_true, fpBelow_iff, hx, hy, not_lt] at *
    exact h.le

/-- A pattern of the format whose NaN is the canonical one (R159). -/
def Canonical (f : FpFmt) (x : Word) : Prop := x.toNat < 2 ^ f.width ∧ ((f.decode x).isNan = true → x = f.qnan)

/-- `r` is what FMIN or FMAX makes of all the lanes: the best one that is not NaN, or NaN. -/
structure BestOf (f : FpFmt) (isMax : Bool) (l : List Word) (r : Word) : Prop where
  canonical : Canonical f r
  nan : (∀ x ∈ l, (f.decode x).isNan = true) → r = f.qnan
  num : (∃ x ∈ l, (f.decode x).isNan = false) → r ∈ l ∧ (f.decode r).isNan = false ∧ ∀ x ∈ l, (f.decode x).isNan = false → fpBeats f isMax x r = false

theorem fpBeats_self (hx : (f.decode x).isNan = false) : fpBeats f isMax x x = false := by
  by_contra h
  have h := Bool.eq_true_of_not_eq_false h
  exact absurd (fpBeats_asymm hx hx h) (by simp [h])

theorem canonical_qnan (hf : f.Fits) : Canonical f f.qnan := by
  have := FpFmt.two_lt_exps hf
  have hfr : 2 ^ (f.fb - 1) < 2 ^ f.fb := Nat.pow_lt_pow_right (by decide) (by have := hf.fb; omega)
  refine ⟨?_, fun _ => rfl⟩
  rw [FpFmt.qnan, FpFmt.toNat_pack hf (by omega) hfr]
  exact FpFmt.pack_lt_width (by omega) hfr

theorem low_of_lt (hf : f.Fits) (hx : x.toNat < 2 ^ f.width) : f.low x = x := by
  apply BitVec.eq_of_toNat_eq
  rw [FpFmt.toNat_low hf, Nat.mod_eq_of_lt hx]

/-- The lane that FMIN or FMAX takes. -/
def fpChoice (f : FpFmt) (isMax : Bool) (x y : Word) : Word :=
  if (f.decode x).isNan then (if (f.decode y).isNan then f.qnan else y)
  else if (f.decode y).isNan then x
  else if fpBeats f isMax y x then y else x

theorem fpMinMax_val : (fpMinMax f isMax x y).val = f.low (fpChoice f isMax x y) := by
  have hself : ∀ z : Word, z.extractLsb' 0 64 = z := fun z => BitVec.extractLsb'_eq_self
  cases isMax <;> simp [fpMinMax, fpChoice, fpBeats, FpFmt.low, hself]

theorem BestOf.choice (hf : f.Fits) (hx : Canonical f x) (hy : Canonical f y) : BestOf f isMax [x, y] (fpChoice f isMax x y) := by
  cases hxn : (f.decode x).isNan <;> cases hyn : (f.decode y).isNan
  · cases hb : fpBeats f isMax y x
    · have hc : fpChoice f isMax x y = x := by simp [fpChoice, hxn, hyn, hb]
      rw [hc]
      exact ⟨hx, by simp [hxn], by simp [hxn, hb, fpBeats_self]⟩
    · have hc : fpChoice f isMax x y = y := by simp [fpChoice, hxn, hyn, hb]
      rw [hc]
      exact ⟨hy, by simp [hxn], by simp [hyn, fpBeats_asymm hyn hxn hb, fpBeats_self]⟩
  · have hc : fpChoice f isMax x y = x := by simp [fpChoice, hxn, hyn]
    rw [hc]
    exact ⟨hx, by simp [hxn], by simp [hxn, hyn, fpBeats_self]⟩
  · have hc : fpChoice f isMax x y = y := by simp [fpChoice, hxn, hyn]
    rw [hc]
    exact ⟨hy, by simp [hyn], by simp [hxn, hyn, fpBeats_self]⟩
  · have hc : fpChoice f isMax x y = f.qnan := by simp [fpChoice, hxn, hyn]
    rw [hc]
    exact ⟨canonical_qnan hf, by simp, by simp [hxn, hyn]⟩

theorem BestOf.pair (hf : f.Fits) (hx : Canonical f x) (hy : Canonical f y) : BestOf f isMax [x, y] (fpMinMax f isMax x y).val := by
  have hbest : BestOf f isMax [x, y] (fpChoice f isMax x y) := .choice hf hx hy
  rw [fpMinMax_val, low_of_lt hf hbest.canonical.1]
  exact hbest

theorem BestOf.single (h : Canonical f x) : BestOf f isMax [x] x := by
  refine ⟨h, fun hall => h.2 (hall x List.mem_cons_self), fun ⟨y, hy, hyn⟩ => ?_⟩
  rw [List.mem_singleton.mp hy] at hyn
  simp [hyn, fpBeats_self]

/-- The best of some lanes stands for them. -/
theorem BestOf.append (hf : f.Fits) (h : BestOf f isMax l p) (h' : BestOf f isMax (p :: k) r) : BestOf f isMax (l ++ k) r := by
  have hqnan : (f.decode f.qnan).isNan = true := by rw [FpFmt.decode_qnan hf]; rfl
  refine ⟨h'.canonical, fun hall => h'.nan ?_, fun hex => ?_⟩
  · intro x hx
    rcases List.mem_cons.mp hx with rfl | hx
    · rw [h.nan fun y hy => hall y (List.mem_append_left _ hy)]
      exact hqnan
    · exact hall x (List.mem_append_right _ hx)
  · by_cases hl : ∃ x ∈ l, (f.decode x).isNan = false
    · obtain ⟨hmem, hp, hbest⟩ := h.num hl
      obtain ⟨hmem', hr, hbest'⟩ := h'.num ⟨p, List.mem_cons_self, hp⟩
      refine ⟨?_, hr, fun x hx hxn => ?_⟩
      · rcases List.mem_cons.mp hmem' with rfl | hk
        · exact List.mem_append_left _ hmem
        · exact List.mem_append_right _ hk
      · rcases List.mem_append.mp hx with hx | hx
        · exact fpBeats_trans hxn hp hr (hbest x hx hxn) (hbest' p List.mem_cons_self hp)
        · exact hbest' x (List.mem_cons_of_mem _ hx) hxn
    · push Not at hl
      have hpq : p = f.qnan := h.nan fun x hx => Bool.eq_true_of_not_eq_false (hl x hx)
      obtain ⟨x, hx, hxn⟩ := hex
      have hxk : x ∈ k := (List.mem_append.mp hx).resolve_left fun hx => hl x hx hxn
      obtain ⟨hmem', hr, hbest'⟩ := h'.num ⟨x, List.mem_cons_of_mem _ hxk, hxn⟩
      refine ⟨List.mem_append_right _ ((List.mem_cons.mp hmem').resolve_left ?_), hr, fun y hy hyn => ?_⟩
      · rintro rfl
        rw [hpq, hqnan] at hr
        cases hr
      · exact hbest' y (List.mem_cons_of_mem _ ((List.mem_append.mp hy).resolve_left fun hy => hl y hy hyn)) hyn

theorem BestOf.foldl (hf : f.Fits) (h : BestOf f isMax l p) (hk : ∀ x ∈ k, Canonical f x) :
    BestOf f isMax (l ++ k) (k.foldl (fun a w => (fpMinMax f isMax a w).val) p) := by
  induction k generalizing l p with
  | nil => rwa [List.append_nil]
  | cons y k ih =>
    have hstep : BestOf f isMax (l ++ [y]) (fpMinMax f isMax p y).val := h.append hf (.pair hf h.canonical (hk y List.mem_cons_self))
    have := ih hstep fun x hx => hk x (List.mem_cons_of_mem _ hx)
    rwa [List.append_assoc] at this

end fold

end Sys2Proof.Machine
end

section
/-! SUPPORT. VRED MIN and MAX on IEEE lanes (R311): the best of the lanes converted to F32. -/

namespace Sys2Proof.Machine
open Sys2Proof
variable {s : State} {i : Instr}

/-! ### Conversions give canonical patterns (R159) -/

section canonical
variable {f : FpFmt} {rm : Rm} {u : Bool} {r : Res}

theorem canonical_pack (hf : f.Fits) {ex fr : Nat} (hex : ex < 2 ^ f.eb) (hfr : fr < 2 ^ f.fb) (h : ex = 2 ^ f.eb - 1 → fr = 0) :
    Canonical f (f.pack u ex fr) := by
  refine ⟨?_, fun hn => ?_⟩
  · rw [FpFmt.toNat_pack hf hex hfr]
    exact FpFmt.pack_lt_width hex hfr
  · rw [FpFmt.decode_pack hf hex hfr] at hn
    split at hn
    next he =>
      rw [if_pos (h he)] at hn
      cases hn
    next => split at hn <;> cases hn

theorem canonical_infinity (hf : f.Fits) : Canonical f (f.infinity u) := by
  have := FpFmt.two_lt_exps hf
  exact canonical_pack hf (by omega) (Nat.two_pow_pos _) fun _ => rfl

theorem canonical_maxFinite (hf : f.Fits) : Canonical f (f.maxFinite u) := by
  have := FpFmt.two_lt_exps hf
  have := Nat.two_pow_pos f.fb
  exact canonical_pack hf (by omega) (by omega) fun h => by omega

theorem canonical_zero (hf : f.Fits) : Canonical f (f.zero u) := by
  have := FpFmt.two_lt_exps hf
  exact canonical_pack hf (by omega) (Nat.two_pow_pos _) fun h => by omega

theorem Rounds.canonical (hf : f.Fits) {cmp : Nat → Int → Ordering} (h : Rounds f rm u cmp r) : Canonical f r.val := by
  obtain ⟨-, h⟩ := h
  split at h
  · rw [h.2]
    cases rm with
    | rne => exact canonical_infinity hf
    | rna => exact canonical_infinity hf
    | rz => exact canonical_maxFinite hf
    | ru => cases u <;> [exact canonical_infinity hf; exact canonical_maxFinite hf]
    | rd => cases u <;> [exact canonical_maxFinite hf; exact canonical_infinity hf]
  · split at h
    next v n g hd => exact ⟨h.2.1, fun hn => by rw [hd] at hn; cases hn⟩
    next => exact h.elim

theorem canonical_toFp (hf : f.Fits) (v : FpVal) : Canonical f (toFp f rm v).val := by
  cases v with
  | nan g => rw [toFp_nan]; exact canonical_qnan hf
  | inf g => rw [toFp_inf]; exact canonical_infinity hf
  | fin g m e =>
    by_cases hm : m = 0
    · rw [hm, toFp_zero]
      exact canonical_zero hf
    · exact (toFp_rounds hf hm).canonical hf

end canonical

/-! ### VRED MIN and MAX (R311) -/

/-- The extremum of some F32 lanes, and of none (R311). -/
def fpExtreme (isMax : Bool) : List Word → Word
  | [] => (fmtOf .f32).infinity isMax
  | v :: rest => rest.foldl (fun a w => (fpMinMax (fmtOf .f32) isMax a w).val) v

theorem fpExtreme_best {isMax : Bool} {l : List Word} (hl : l ≠ []) (h : ∀ x ∈ l, Canonical (fmtOf .f32) x) :
    BestOf (fmtOf .f32) isMax l (fpExtreme isMax l) := by
  cases l with
  | nil => exact absurd rfl hl
  | cons v rest => exact (BestOf.single (h v List.mem_cons_self)).foldl (fmtOf_fits .f32) fun x hx => h x (List.mem_cons_of_mem _ hx)

section vred
variable {ft : FpTy} {h : Hdr} {rm : Rm} {mk isMax : Bool}

/-- The lanes that the mask keeps, as F32. -/
def keptValues (ft : FpTy) (p : Nat → Bool) (a : Tok) : List Word :=
  (((List.range (Ty.fp ft).lanes).map fun k => if p k then some (f32Lane ft a k) else none).filterMap fun y => y.map Res.val)

theorem mem_keptValues {p : Nat → Bool} {a : Tok} {w : Word} :
    w ∈ keptValues ft p a ↔ ∃ k, (k < (Ty.fp ft).lanes ∧ p k = true) ∧ w = (f32Lane ft a k).val := by
  rw [keptValues, List.filterMap_map, List.mem_filterMap]
  constructor
  · rintro ⟨k, hk, hw⟩
    refine ⟨k, ?_⟩
    cases hp : p k <;> simp_all
  · rintro ⟨k, ⟨hk, hp⟩, rfl⟩
    exact ⟨k, List.mem_range.mpr hk, by simp [hp]⟩

theorem redFp_extreme (xs : List (Option Res)) : redFp ft (if isMax then .max else .min) rm xs =
    let ys := xs.map fun x => x.map (laneF32 ft)
    ⟨fpExtreme isMax (ys.filterMap fun y => y.map Res.val), presentFlags ys⟩ := by
  cases isMax <;> rfl

theorem gives_vredExtreme (hr : FiresReal (.vred h (.fp ft) (if isMax then .max else .min) rm mk) s) :
    let p := kept mk s.latch.opR.word
    Gives (.vred h (.fp ft) (if isMax then .max else .min) rm mk) s (.scalar (fpExtreme isMax (keptValues ft p s.latch.opL)))
      (lanesFlags (Ty.fp ft).lanes fun k => if p k = true then (f32Lane ft s.latch.opL k).flags else 0) := by
  intro p
  have hres : redFp ft (if isMax then .max else .min) rm (present mk s.latch.opR.word (vectorOp (.fp ft) s.latch.opL)) =
      ⟨fpExtreme isMax (keptValues ft p s.latch.opL), lanesFlags (Ty.fp ft).lanes fun k => if p k = true then (f32Lane ft s.latch.opL k).flags else 0⟩ := by
    rw [redFp_extreme, map_laneF32, ← presentFlags_map_range]
    rfl
  have hgives := (gives_fireRes rfl hr :)
  simp only [hres] at hgives
  exact hgives

theorem vredExtreme_spec (p : Nat → Bool) (a : Tok) :
    let m := fmtOf .f32
    let there := fun (k : Nat) => k < (Ty.fp ft).lanes ∧ p k = true
    let num := fun (k : Nat) => there k ∧ (m.decode (f32Lane ft a k).val).isNan = false
    let v := fpExtreme isMax (keptValues ft p a)
    ((∀ k, ¬ there k) → v = m.infinity isMax) ∧ ((∃ k, there k) → (∀ k, ¬ num k) → v = m.qnan) ∧
      ((∃ k, num k) → (∃ k, num k ∧ v = (f32Lane ft a k).val) ∧ ∀ k, num k → fpBeats m isMax (f32Lane ft a k).val v = false) := by
  intro m there num v
  have hbest : ∀ k, there k → BestOf m isMax (keptValues ft p a) v := fun k hk =>
    fpExtreme_best (List.ne_nil_of_mem (mem_keptValues.mpr ⟨k, hk, rfl⟩)) fun x hx => by
      obtain ⟨j, -, rfl⟩ := mem_keptValues.mp hx
      exact canonical_toFp (fmtOf_fits .f32) _
  refine ⟨fun hnone => ?_, fun ⟨k, hk⟩ hall => (hbest k hk).nan fun x hx => ?_, fun ⟨k, hk, hn⟩ => ?_⟩
  · have hnil : keptValues ft p a = [] := by
      refine List.eq_nil_iff_forall_not_mem.mpr fun w hw => ?_
      obtain ⟨k, hk, -⟩ := mem_keptValues.mp hw
      exact hnone k hk
    show fpExtreme isMax (keptValues ft p a) = _
    rw [hnil]
    rfl
  · obtain ⟨j, hj, rfl⟩ := mem_keptValues.mp hx
    exact Bool.eq_true_of_not_eq_false fun hn => hall j ⟨hj, hn⟩
  · obtain ⟨hmem, hv, hbeats⟩ := (hbest k hk).num ⟨_, mem_keptValues.mpr ⟨k, hk, rfl⟩, hn⟩
    obtain ⟨j, hj, hvj⟩ := mem_keptValues.mp hmem
    exact ⟨⟨j, ⟨hj, hvj ▸ hv⟩, hvj⟩, fun l hl => hbeats _ (mem_keptValues.mpr ⟨l, hl.1, rfl⟩) hl.2⟩

end vred

end Sys2Proof.Machine
end

section
/-! SUPPORT. VSCAN on IEEE lanes (R312), VMAXI and VMINI (R314). -/

namespace Sys2Proof.Machine
open Sys2Proof
variable {s : State} {i : Instr}

/-! ### VSCAN (R312) -/

section scan
variable {ft : FpTy} {h : Hdr} {rm : Rm} {mk : Bool} {p : Nat → Bool} {x : Nat → Res}

/-- Result lane 0 of a scan where the lane is kept: a NaN made canonical. -/
def scanFirst (ft : FpTy) (x : Res) : Res :=
  if ((fmtOf ft).decode x.val).isNan then (toFp (fmtOf ft) .rne ((fmtOf ft).decode x.val)).with [x.flags] else x

theorem scanFirst_val (x : Res) : (scanFirst ft x).val = if ((fmtOf ft).decode x.val).isNan then (fmtOf ft).qnan else x.val := by
  unfold scanFirst
  split
  next hn =>
    obtain ⟨g, hg⟩ := isNan_iff.mp hn
    rw [hg, toFp_nan]
    rfl
  next => rfl

theorem scanFirst_flags (x : Res) : (scanFirst ft x).flags = x.flags ||| if ((fmtOf ft).decode x.val).isSnan then flagNV else 0 := by
  unfold scanFirst
  split
  next hn =>
    obtain ⟨g, hg⟩ := isNan_iff.mp hn
    have hsnan : (FpVal.nan g).isSnan = g := rfl
    rw [hg, toFp_nan, BitVec.or_comm, hsnan]
    cases g <;> rfl
  next hn =>
    have hquiet : ((fmtOf ft).decode x.val).isSnan = false := by
      cases hd : (fmtOf ft).decode x.val with
      | nan g => rw [hd] at hn; exact absurd rfl hn
      | inf g => rfl
      | fin u m e => rfl
    rw [hquiet]
    exact (word_or_zero _).symm

/-- The result lanes of a scan, from lane 0 on. -/
def scanLane (ft : FpTy) (rm : Rm) (p : Nat → Bool) (x : Nat → Res) : Nat → Res
  | 0 => if p 0 = true then scanFirst ft (x 0) else ⟨0, 0⟩
  | k + 1 =>
    if p (k + 1) = true then
      let q := addVal (fmtOf ft) rm ((fmtOf ft).decode (scanLane ft rm p x k).val) ((fmtOf ft).decode (x (k + 1)).val)
      ⟨q.val, q.flags ||| (x (k + 1)).flags⟩
    else ⟨(scanLane ft rm p x k).val, 0⟩

theorem scanFrom_range' (m k : Nat) : scanFrom (.fp ft) rm (some (scanLane ft rm p x k).val)
      ((List.range' (k + 1) m).map fun j => if p j then some (x j) else none) = (List.range' (k + 1) m).map (scanLane ft rm p x) := by
  induction m generalizing k with
  | zero => rfl
  | succ m ih =>
    rw [List.range'_succ, List.map_cons, List.map_cons, ← ih (k + 1)]
    cases hp : p (k + 1) <;> simp [scanFrom, scanLane, hp, laneArith, Res.with, Res.plain]

theorem scanFrom_range {n : Nat} (hn : 0 < n) : scanFrom (.fp ft) rm none ((List.range n).map fun j => if p j then some (x j) else none) =
    (List.range n).map (scanLane ft rm p x) := by
  obtain ⟨m, rfl⟩ := Nat.exists_eq_succ_of_ne_zero hn.ne'
  rw [List.range_eq_range', List.range'_succ, List.map_cons, List.map_cons, Nat.zero_add, ← scanFrom_range' m 0]
  cases hp : p 0 <;> simp [scanFrom, scanLane, scanFirst, hp, Res.plain]

theorem lanes_fit (ft : FpTy) : ft.width * (Ty.fp ft).lanes ≤ 1024 ∧ 0 < (Ty.fp ft).lanes := by cases ft <;> decide

theorem gives_vscan (hr : FiresReal (.vscan h (.fp ft) rm mk) s) :
    let r := scanLane ft rm (kept mk s.latch.opR.word) (elem (.fp ft) s.latch.opL)
    Gives (.vscan h (.fp ft) rm mk) s (.vector (ofLanes ft.width ((List.range (Ty.fp ft).lanes).map fun k => (r k).val)))
      (lanesFlags (Ty.fp ft).lanes fun k => (r k).flags) := by
  intro r
  have hgives := (gives_fireVec rfl hr :)
  simp only [vectorOp_eq, present_map_range, scanFrom_range (lanes_fit ft).2, orFlags_map_range, List.map_map] at hgives
  exact hgives

end scan

/-! ### VMAXI and VMINI (R314) -/

section best
variable {t : Ty} {isMax : Bool} {p : Nat → Bool} {x : Nat → Res}

/-- The best lane so far after one more lane. -/
def bestStep (t : Ty) (isMax : Bool) (best : Option (Word × Nat)) (e : Option Res × Nat) : Option (Word × Nat) :=
  match e.1 with
  | none => best
  | some r =>
    if laneNan t r.val then best
    else match best with
      | none => some (r.val, e.2)
      | some b => if laneBetter t isMax r.val b.1 then some (r.val, e.2) else best

/-- The kept lanes of a vector. -/
def keptLanes (p : Nat → Bool) (x : Nat → Res) (n : Nat) : List (Option Res) := (List.range n).map fun k => if p k then some (x k) else none

/-- The best of the lanes below `n`. -/
def bestBelow (t : Ty) (isMax : Bool) (p : Nat → Bool) (x : Nat → Res) (n : Nat) : Option (Word × Nat) :=
  (keptLanes p x n).zipIdx.foldl (bestStep t isMax) none

theorem bestBelow_succ (n : Nat) : bestBelow t isMax p x (n + 1) =
    bestStep t isMax (bestBelow t isMax p x n) (if p n then some (x n) else none, n) := by
  simp [bestBelow, keptLanes, List.range_succ, List.zipIdx_append]

/-- Whether a lane may be chosen. -/
def Eligible (t : Ty) (p : Nat → Bool) (x : Nat → Res) (k : Nat) : Prop := p k = true ∧ laneNan t (x k).val = false

theorem bestStep_ineligible {b : Option (Word × Nat)} {n : Nat} (hn : ¬ Eligible t p x n) :
    bestStep t isMax b (if p n then some (x n) else none, n) = b := by
  cases hp : p n
  · rfl
  · have hnan : laneNan t (x n).val = true := Bool.eq_true_of_not_eq_false fun h => hn ⟨hp, h⟩
    simp [bestStep, hnan]

theorem bestStep_none {n : Nat} (hn : Eligible t p x n) :
    bestStep t isMax none (if p n then some (x n) else none, n) = some ((x n).val, n) := by
  simp [bestStep, hn.1, hn.2]

theorem bestStep_some {n : Nat} {b : Word × Nat} (hn : Eligible t p x n) : bestStep t isMax (some b) (if p n then some (x n) else none, n) =
    if laneBetter t isMax (x n).val b.1 then some ((x n).val, n) else some b := by
  simp [bestStep, hn.1, hn.2]

/-- The best lane so far is an eligible one, and there is none only where none is eligible. -/
theorem bestBelow_cases (n : Nat) : (bestBelow t isMax p x n = none ∧ ∀ k < n, ¬ Eligible t p x k) ∨
    ∃ k < n, Eligible t p x k ∧ bestBelow t isMax p x n = some ((x k).val, k) := by
  induction n with
  | zero => exact .inl ⟨rfl, by simp⟩
  | succ n ih =>
    rw [bestBelow_succ]
    by_cases hn : Eligible t p x n
    · refine .inr ?_
      rcases ih with ⟨hb, -⟩ | ⟨k, hk, he, hb⟩ <;> rw [hb]
      · exact ⟨n, n.lt_succ_self, hn, bestStep_none hn⟩
      · rw [bestStep_some hn]
        split
        · exact ⟨n, n.lt_succ_self, hn, rfl⟩
        · exact ⟨k, by omega, he, rfl⟩
    · rw [bestStep_ineligible hn]
      rcases ih with ⟨hb, hall⟩ | ⟨k, hk, he, hb⟩
      · refine .inl ⟨hb, fun k hk => ?_⟩
        rcases Nat.lt_succ_iff_lt_or_eq.mp hk with hlt | rfl
        · exact hall k hlt
        · exact hn
      · exact .inr ⟨k, by omega, he, hb⟩

/-- A lane that beats every eligible lane below it, and that none beats, is the best from its place on. -/
theorem bestBelow_eq {k m : Nat} (hk : Eligible t p x k) (hbelow : ∀ j < k, Eligible t p x j → laneBetter t isMax (x k).val (x j).val = true)
    (habove : ∀ j < k + 1 + m, Eligible t p x j → laneBetter t isMax (x j).val (x k).val = false) :
    bestBelow t isMax p x (k + 1 + m) = some ((x k).val, k) := by
  induction m with
  | zero =>
    rw [Nat.add_zero, bestBelow_succ]
    rcases bestBelow_cases (t := t) (isMax := isMax) (p := p) (x := x) k with ⟨hb, -⟩ | ⟨j, hj, he, hb⟩ <;> rw [hb]
    · exact bestStep_none hk
    · rw [bestStep_some hk, if_pos (hbelow j hj he)]
  | succ m ih =>
    rw [← Nat.add_assoc, bestBelow_succ, ih fun j hj => habove j (by omega)]
    by_cases hn : Eligible t p x (k + 1 + m)
    · rw [bestStep_some hn, if_neg (by simp [habove _ (by omega) hn])]
    · exact bestStep_ineligible hn

/-- The flags of the kept lanes, with NV for a signalling NaN. -/
def bestFlags (t : Ty) (p : Nat → Bool) (x : Nat → Res) (n : Nat) : Word :=
  lanesFlags n fun k => if p k = true then (x k).flags ||| laneSnan t (x k).val else 0

/-- The flags so far after one more lane. -/
def bestFlagStep (t : Ty) (a : Word) (e : Option Res) : Word :=
  match e with
  | some r => a ||| r.flags ||| laneSnan t r.val
  | none => a

theorem foldl_bestFlagStep (n : Nat) : (keptLanes p x n).foldl (bestFlagStep t) 0 = bestFlags t p x n := by
  induction n with
  | zero => rfl
  | succ n ih =>
    rw [bestFlags, lanesFlags_succ, ← bestFlags, ← ih]
    cases hp : p n <;> simp [keptLanes, List.range_succ, bestFlagStep, hp, BitVec.or_assoc]

/-- The answer of the best lane, or that there is none. -/
def bestRes (t : Ty) (fl : Word) (best : Option (Word × Nat)) : Res :=
  match best with
  | some b => ⟨BitVec.ofNat 64 b.2, fl⟩
  | none => ⟨BitVec.ofNat 64 t.lanes, fl ||| flagNV⟩

theorem bestLane_eq (n : Nat) : bestLane t isMax (keptLanes p x n) = bestRes t (bestFlags t p x n) (bestBelow t isMax p x n) := by
  rw [← foldl_bestFlagStep]
  rfl

theorem gives_vextreme {h : Hdr} {mk : Bool} (hr : FiresReal (if isMax then .vmaxi h t mk else .vmini h t mk) s) :
    let p := kept mk s.latch.opR.word
    let x := elem t s.latch.opL
    let r := bestRes t (bestFlags t p x t.lanes) (bestBelow t isMax p x t.lanes)
    Gives (if isMax then .vmaxi h t mk else .vmini h t mk) s (.scalar r.val) r.flags := by
  intro p x r
  have hres : ∀ g : Bool, bestLane t g (present mk s.latch.opR.word (vectorOp t s.latch.opL)) =
      bestRes t (bestFlags t p x t.lanes) (bestBelow t g p x t.lanes) := fun g => by
    rw [vectorOp_eq, present_map_range]
    exact bestLane_eq _
  cases isMax
  · have hgives := (gives_fireRes (i := .vmini h t mk) rfl hr :)
    simp only [hres] at hgives
    exact hgives
  · have hgives := (gives_fireRes (i := .vmaxi h t mk) rfl hr :)
    simp only [hres] at hgives
    exact hgives

theorem bestRes_none (hall : ∀ k < t.lanes, ¬ Eligible t p x k) (fl : Word) :
    bestRes t fl (bestBelow t isMax p x t.lanes) = ⟨BitVec.ofNat 64 t.lanes, fl ||| flagNV⟩ := by
  rcases bestBelow_cases (t := t) (isMax := isMax) (p := p) (x := x) t.lanes with ⟨hb, -⟩ | ⟨k, hk, he, -⟩
  · rw [hb]
    rfl
  · exact absurd he (hall k hk)

theorem bestRes_some {k : Nat} (hlt : k < t.lanes) (hk : Eligible t p x k)
    (hnone : ∀ j < t.lanes, Eligible t p x j → laneBetter t isMax (x j).val (x k).val = false)
    (hbelow : ∀ j < k, Eligible t p x j → laneBetter t isMax (x k).val (x j).val = true) (fl : Word) :
    bestRes t fl (bestBelow t isMax p x t.lanes) = ⟨BitVec.ofNat 64 k, fl⟩ := by
  obtain ⟨m, hm⟩ := Nat.exists_eq_add_of_le (show k + 1 ≤ t.lanes from hlt)
  rw [hm] at hnone ⊢
  rw [bestBelow_eq hk hbelow hnone]
  rfl

end best

/-! ### The statement (R159, R173, R302, R311-R314) -/

theorem laneBetter_int {g : IntTy} {isMax : Bool} {a b : Word} : laneBetter (.int g) isMax a b = true ↔
    if isMax then valueOf g.signed (b.setWidth g.width) < valueOf g.signed (a.setWidth g.width)
    else valueOf g.signed (a.setWidth g.width) < valueOf g.signed (b.setWidth g.width) := by
  cases isMax <;> simp [laneBetter, read_eq]

theorem eligible_int {g : IntTy} {p : Nat → Bool} {x : Nat → Res} {k : Nat} : Eligible (.int g) p x k ↔ p k = true ∧ True := by
  simp [Eligible, laneNan]

theorem f32Product_flags {ft : FpTy} {rm : Rm} {a b : Tok} {k : Nat} : (f32Product ft rm a b k).flags =
    (mulVal (fmtOf .f32) rm ((fmtOf ft).decode (elem (.fp ft) a k).val) ((fmtOf ft).decode (elem (.fp ft) b k).val)).flags |||
      ((elem (.fp ft) a k).flags ||| (elem (.fp ft) b k).flags) := BitVec.or_assoc ..

theorem laneSnan_fp {ft : FpTy} {x : Word} : laneSnan (.fp ft) x = if ((fmtOf ft).decode x).isSnan then flagNV else 0 := by
  simp [laneSnan, nvOf]

section vextreme
variable {s : State} {h : Hdr} {t : Ty} {mk isMax : Bool} {ok : Nat → Prop} {better : Nat → Nat → Prop} {fl : Word}

/-- VMAXI and VMINI, for lanes that may be chosen and an order stated for the lanes' type (R314). -/
theorem vextreme_spec (hok : ∀ k, ok k ↔ k < t.lanes ∧ Eligible t (kept mk s.latch.opR.word) (elem t s.latch.opL) k)
    (hbetter : ∀ j k, better j k ↔ laneBetter t isMax (elem t s.latch.opL j).val (elem t s.latch.opL k).val = true)
    (hfl : fl = bestFlags t (kept mk s.latch.opR.word) (elem t s.latch.opL) t.lanes)
    (hr : FiresReal (if isMax then .vmaxi h t mk else .vmini h t mk) s) :
    let i := if isMax then Instr.vmaxi h t mk else Instr.vmini h t mk
    ((∀ k, ¬ ok k) → Gives i s (.scalar (BitVec.ofNat 64 t.lanes)) (fl ||| flagNV)) ∧
      ∀ k, ok k → (∀ j, ok j → ¬ better j k) → (∀ j, j < k → ok j → better k j) → Gives i s (.scalar (BitVec.ofNat 64 k)) fl := by
  intro i
  have hgives : let r := bestRes t fl (bestBelow t isMax (kept mk s.latch.opR.word) (elem t s.latch.opL) t.lanes)
      Gives i s (.scalar r.val) r.flags := hfl ▸ gives_vextreme hr
  refine ⟨fun hall => ?_, fun k hk hnone hbelow => ?_⟩
  · rwa [bestRes_none fun k hk he => hall k ((hok k).mpr ⟨hk, he⟩)] at hgives
  · obtain ⟨hlt, he⟩ := (hok k).mp hk
    rwa [bestRes_some hlt he
      (fun j hj he => Bool.eq_false_of_not_eq_true fun hb => hnone j ((hok j).mpr ⟨hj, he⟩) ((hbetter j k).mpr hb))
      fun j hj he => (hbetter k j).mp (hbelow j hj ((hok j).mpr ⟨hj.trans hlt, he⟩))] at hgives

end vextreme

/-- Settles O32: the tree is taken level by level, minima and maxima follow the order of the values, and a chosen lane beats those below it. -/
theorem vectorFpReductions : Obligations.VectorFpReductions := by
  unfold Obligations.VectorFpReductions
  intro s h t ft rm mk isMax m f n L R inR inX F P leaf only first
  refine ⟨fun hft hr => gives_vredAdd hft hr, fun hft hr => ?vdot, fun _ hr => ⟨_, gives_vredExtreme hr, vredExtreme_spec _ _⟩,
    fun _ hr => ⟨_, _, gives_vscan hr, fun k hk => extractLsb'_ofLanes_range hk (lanes_fit ft).1 _, ?firstVal, ?firstFlags, fun _ _ => rfl⟩,
    ?vextreme⟩
  case vdot =>
    have hgives := gives_vdot hft hr
    simp only [f32Product_flags] at hgives
    exact hgives
  case firstVal =>
    show (if inR 0 = true then scanFirst ft (L 0) else ⟨0, 0⟩).val = if inR 0 = true then _ else 0
    split
    · exact scanFirst_val _
    · rfl
  case firstFlags =>
    show (if inR 0 = true then scanFirst ft (L 0) else ⟨0, 0⟩).flags = if inR 0 = true then _ else 0
    split
    · exact scanFirst_flags _
    · rfl
  case vextreme =>
    intro hty _ i E sn ok less better fl hr
    cases t with
    | tap g => cases hty
    | int g => exact vextreme_spec (fun k => and_congr_right' eligible_int.symm) (fun j k => laneBetter_int.symm) rfl hr
    | fp g =>
      refine vextreme_spec (fun k => Iff.rfl) (fun j k => by cases isMax <;> rfl) ?_ hr
      simp only [bestFlags, laneSnan_fp]
      rfl

end Sys2Proof.Machine
end

section
/-! SUPPORT. The integer records (R280-R290): each sends what its rule makes of the low bits of its operands. -/

namespace Sys2Proof.Machine
open Sys2Proof
variable {s : State} {i : Instr} {t : IntTy} {b : Rhs} {x y : Word} {w : Nat}

/-! ### Records of two integer operands (R156, R279) -/

theorem read_left : t.read s.latch.opL.word = valueOf t.signed (s.left t.width) := read_eq

theorem read_right : t.read (s.latch.rhs (.int t) b).val = valueOf t.signed (s.right t.width b) := by
  rw [read_eq, right_eq IntTy.width_le]

/-- An integer record sends what its operation makes of the operands, firing real. -/
theorem gives_intRec {f : IntTy → Word → Word → Res} (he : exec i s = .next (s.intRec i t b f)) (hr : FiresReal i s) {v fl : Word}
    (hf : f t s.latch.opL.word (s.latch.rhs (.int t) b).val = ⟨v, fl⟩) : Gives i s (.scalar v) fl := by
  have hgives := gives_fireRes he hr
  simp only [hf] at hgives
  exact hgives

/-! ### Results as integers (R157, R280) -/

theorem intArith_int {f : Int → Int → Int} :
    intArith f t x y = ⟨extended t.signed (BitVec.ofInt t.width (f (t.read x) (t.read y))), 0⟩ := by rw [intArith, ext_eq]; rfl

theorem intDiv_int : intDiv t x y =
    ⟨extended t.signed (BitVec.ofInt t.width (if t.read y = 0 then 0 else (t.read x).tdiv (t.read y))),
      if t.read y = 0 then flagDZ else 0⟩ := by
  unfold intDiv
  split
  · exact congrArg (Res.mk · flagDZ) extended_zero.symm
  · rw [ext_eq]; rfl

theorem intRem_int : intRem t x y =
    ⟨extended t.signed (BitVec.ofInt t.width (if t.read y = 0 then t.read x else t.read x - t.read y * (t.read x).tdiv (t.read y))),
      if t.read y = 0 then flagDZ else 0⟩ := by
  unfold intRem
  split
  · rw [ext_eq]
  · rw [ext_eq, Int.tmod_def]; rfl

theorem intMin_int : intMin t x y =
    ⟨extended t.signed (BitVec.ofInt t.width (if t.read x ≤ t.read y then t.read x else t.read y)), 0⟩ := by rw [intMin, ext_eq]; rfl

theorem intMax_int : intMax t x y =
    ⟨extended t.signed (BitVec.ofInt t.width (if t.read x ≥ t.read y then t.read x else t.read y)), 0⟩ := by rw [intMax, ext_eq]; rfl

/-- The negation of the most negative value stands for that value (R280). -/
theorem ofInt_neg_lo (h : t.signed = true) : BitVec.ofInt t.width (-t.lo) = BitVec.ofInt t.width t.lo := by
  cases t with
  | i8 | i16 | i32 | i64 => decide
  | n8 | n16 | n32 | n64 => cases h

/-- Settles O19: each operation, read as one on integers; REM's is the remainder of the truncated quotient. -/
theorem integerArithmetic : Obligations.IntegerArithmetic := by
  unfold Obligations.IntegerArithmetic
  intro s h t r x y a b ext clamp sat dz
  have hdiv (hr : FiresReal (.div h t r) s) : Gives (.div h t r) s (ext (if b = 0 then 0 else a.tdiv b)) dz :=
    gives_intRec rfl hr (by rw [intDiv_int, read_left, read_right])
  have hrem (hr : FiresReal (.rem h t r) s) : Gives (.rem h t r) s (ext (if b = 0 then a else a - b * a.tdiv b)) dz :=
    gives_intRec rfl hr (by rw [intRem_int, read_left, read_right])
  refine ⟨fun hr => gives_intRec rfl hr ?add, fun hr => gives_intRec rfl hr ?sub, fun hr => gives_intRec rfl hr ?mul,
    fun hr => gives_intRec rfl hr ?mulh, hdiv, hrem, fun hr => gives_intRec rfl hr ?min, fun hr => gives_intRec rfl hr ?max,
    fun hr => gives_intRec rfl hr ?adds, fun hr => gives_intRec rfl hr ?subs, fun hs ha hb => ?corner⟩
  case add => rw [intArith_int, read_left, read_right]
  case sub => rw [intArith_int, read_left, read_right]
  case mul => rw [intArith_int, read_left, read_right]
  case mulh => rw [intMulh_eq, right_eq IntTy.width_le]; rfl
  case min => rw [intMin_int, read_left, read_right]
  case max => rw [intMax_int, read_left, read_right]
  case adds => rw [intAdds, intClamp_eq, read_left, read_right]
  case subs => rw [intSubs, intClamp_eq, read_left, read_right]
  case corner =>
    have hne : b ≠ 0 := by omega
    have hdz : dz = 0 := if_neg hne
    have hquot : a.tdiv b = -a := by rw [hb, Int.tdiv_neg, Int.tdiv_one]
    rw [hdz, if_neg hne, hquot] at hdiv hrem
    refine ⟨fun hr => ?_, fun hr => ?_⟩
    · have hext : ext (-a) = ext a := by simp only [ext, ha, ofInt_neg_lo hs]
      exact hext ▸ hdiv hr
    · have hzero : a - b * -a = 0 := by rw [hb]; omega
      exact hzero ▸ hrem hr

/-! ### Records on whole words (R282, R288, R290) -/

theorem left_word : s.left 64 = s.latch.opL.word := BitVec.setWidth_eq _

theorem right_word : s.right 64 b = match b with | .port => s.latch.opR.word | .imm v => immSigned v := by
  cases b with
  | port => exact BitVec.setWidth_eq _
  | imm v => rfl

theorem gives_wordRec {f : Word → Word → Word} (he : exec i s = .next (s.wordRec i b f)) (hr : FiresReal i s) {v : Word}
    (hf : f (s.left 64) (s.right 64 b) = v) : Gives i s (.scalar v) 0 := by
  rw [← hf, left_word, right_word]
  exact (gives_fireRes he hr :)

theorem gives_unaryRec {f : Word → Word} (he : exec i s = .next (s.unaryRec i f)) (hr : FiresReal i s) {v : Word}
    (hf : f s.latch.opL.word = v) : Gives i s (.scalar v) 0 := by
  rw [← hf]
  exact (gives_fireRes he hr :)

/-! ### NEG and ABS (R283) -/

theorem extInt_neg : extInt w true (-(readInt w true x)) = (-(x.setWidth w)).signExtend 64 := by
  rw [extInt_eq, readInt_eq, BitVec.ofInt_neg, ofInt_value]
  rfl

theorem ofInt_natAbs_toInt {z : BitVec w} : BitVec.ofInt w (z.toInt.natAbs : Int) = if z.msb then -z else z := by
  split
  next hneg => rw [Int.ofNat_natAbs_of_nonpos (BitVec.toInt_neg_of_msb_true hneg).le, BitVec.ofInt_neg, BitVec.ofInt_toInt]
  next hpos =>
    rw [Int.natAbs_of_nonneg (BitVec.toInt_nonneg_of_msb_false (Bool.eq_false_of_not_eq_true hpos)), BitVec.ofInt_toInt]

theorem extInt_abs : extInt w true ((readInt w true x).natAbs : Int) =
    (if (x.setWidth w).msb then -(x.setWidth w) else x.setWidth w).signExtend 64 := by
  rw [extInt_eq, readInt_eq, ← ofInt_natAbs_toInt]
  rfl

/-- Settles O20: the most negative value is its own negation, so NEG and ABS give it back. -/
theorem integerLogic : Obligations.IntegerLogic := by
  unfold Obligations.IntegerLogic
  intro s h r w x y z
  have hneg (hr : FiresReal (.neg h w) s) : Gives (.neg h w) s (.scalar ((-z).signExtend 64)) 0 := gives_unaryRec rfl hr extInt_neg
  have habs (hr : FiresReal (.abs h w) s) : Gives (.abs h w) s (.scalar ((if z.msb then -z else z).signExtend 64)) 0 :=
    gives_unaryRec rfl hr extInt_abs
  refine ⟨fun hr => gives_wordRec rfl hr rfl, fun hr => gives_wordRec rfl hr rfl, fun hr => gives_wordRec rfl hr rfl,
    fun hr => gives_wordRec rfl hr rfl, fun hr => gives_unaryRec rfl hr (congrArg _ left_word.symm), hneg, habs, fun hz => ?corner⟩
  case corner =>
    have hself : -z = z := by rw [hz, BitVec.neg_intMin]
    rw [hself] at hneg
    rw [hself, ite_self] at habs
    exact ⟨hneg, habs⟩

/-! ### Shift counts (R284) -/

theorem IntTy.width_eq_pow : ∃ k, t.width = 2 ^ k := by
  cases t with
  | i8 | n8 => exact ⟨3, rfl⟩
  | i16 | n16 => exact ⟨4, rfl⟩
  | i32 | n32 => exact ⟨5, rfl⟩
  | i64 | n64 => exact ⟨6, rfl⟩

/-- The count is taken modulo the width, which is a power of two. -/
theorem and_width_sub_one (y : BitVec t.width) : (y &&& BitVec.ofNat t.width (t.width - 1)).toNat = y.toNat % t.width := by
  have hlt : t.width - 1 < 2 ^ t.width := lt_of_le_of_lt (Nat.sub_le _ _) Nat.lt_two_pow_self
  obtain ⟨k, hk⟩ := IntTy.width_eq_pow (t := t)
  rw [BitVec.toNat_and, BitVec.toNat_ofNat, Nat.mod_eq_of_lt hlt]
  generalize y.toNat = n
  rw [hk, Nat.and_two_pow_sub_one_eq_mod]

/-- Settles O21: every shift counts by the low bits of its second operand. -/
theorem integerShifts : Obligations.IntegerShifts := by
  unfold Obligations.IntegerShifts
  intro s h t r x n ext
  have hn : (s.right t.width r).toNat % t.width = n := (and_width_sub_one _).symm
  have hright := right_eq (s := s) (t := t) (b := r) (IntTy.width_le (t := t))
  refine ⟨fun hr => gives_intRec rfl hr ?shl, fun hr => gives_intRec rfl hr ?shr, fun hr => gives_intRec rfl hr ?sar,
    fun hr => gives_intRec rfl hr ?rol, fun hr => gives_intRec rfl hr ?ror⟩
  case shl => rw [intShl_eq, hright, hn]; rfl
  case shr => rw [intShr_eq, hright, hn]; rfl
  case sar => rw [intSar_eq, hright, hn]; rfl
  case rol => rw [intRol_eq, hright, hn]; rfl
  case ror => rw [intRor_eq, hright, hn]; rfl

/-! ### Counts (R285) -/

theorem testBit_setWidth {k : Nat} (hk : k < w) : x.toNat.testBit k = (x.setWidth w).getLsbD k := by
  rw [BitVec.getLsbD_setWidth, decide_eq_true hk, Bool.true_and]
  rfl

/-- Bits above the leading zeros' one are zero, those beyond the width among them. -/
theorem clzAt_spec : clzAt w x.toNat ≤ w ∧ (∀ k, w - clzAt w x.toNat ≤ k → (x.setWidth w).getLsbD k = false) ∧
    (clzAt w x.toNat < w → (x.setWidth w).getLsbD (w - 1 - clzAt w x.toNat) = true) := by
  refine ⟨clzAt_le, fun k hk => ?_, fun hlt => ?_⟩
  · by_cases hw : k < w
    · rw [← testBit_setWidth hw]
      exact clzAt_high hk hw
    · exact BitVec.getLsbD_of_ge _ _ (not_lt.mp hw)
  · rw [← testBit_setWidth (by omega)]
    exact clzAt_bit hlt

theorem ctzAt_spec : ctzAt w x.toNat ≤ w ∧ (∀ k, k < ctzAt w x.toNat → (x.setWidth w).getLsbD k = false) ∧
    (ctzAt w x.toNat < w → (x.setWidth w).getLsbD (ctzAt w x.toNat) = true) := by
  refine ⟨ctzAt_le, fun k hk => ?_, fun hlt => ?_⟩
  · rw [← testBit_setWidth (hk.trans_le ctzAt_le)]
    exact ctzAt_low hk
  · rw [← testBit_setWidth hlt]
    exact ctzAt_bit hlt

theorem popAt_setWidth : popAt w x.toNat = ((List.range w).filter fun k => (x.setWidth w).getLsbD k).length := by
  rw [popAt_eq, List.filter_congr fun k hk => testBit_setWidth (List.mem_range.mp hk)]

/-! ### Extensions, tests and addresses (R287-R290) -/

theorem extInt_readInt {sx : Bool} : extInt w sx (readInt w sx x) = extended sx (x.setWidth w) := by
  rw [extInt_eq, readInt_eq, ofInt_value]

theorem Cond.holds_eq (c : Cond) (x y : Word) : c.holds x y = match c with
    | .eq => decide (x = y) | .ne => decide (x ≠ y) | .lt => decide (x.toInt < y.toInt) | .le => decide (x.toInt ≤ y.toInt)
    | .gt => decide (x.toInt > y.toInt) | .ge => decide (x.toInt ≥ y.toInt) | .ltn => decide (x.toNat < y.toNat)
    | .len => decide (x.toNat ≤ y.toNat) | .gtn => decide (x.toNat > y.toNat) | .gen => decide (x.toNat ≥ y.toNat) := by
  cases c with
  | eq => exact beq_eq_decide x y
  | ne => rw [decide_not, ← beq_eq_decide]; rfl
  | lt | le | gt | ge | ltn | len | gtn | gen => rfl

theorem apx_eq : ((x &&& 0xFFFFF) <<< 44) ||| (y &&& 0x00000FFFFFFFFFFF) = x.extractLsb' 0 20 ++ y.extractLsb' 0 44 := by
  apply BitVec.eq_of_getLsbD_eq
  intro k hk
  have hlow : ∀ j < 64, (0x00000FFFFFFFFFFF : Word).getLsbD j = decide (j < 44) := by decide
  have hhigh : ∀ j < 64, (0xFFFFF : Word).getLsbD j = decide (j < 20) := by decide
  rw [BitVec.getLsbD_append, BitVec.getLsbD_or, BitVec.getLsbD_and, BitVec.getLsbD_shiftLeft, BitVec.getLsbD_and, hlow k hk,
    hhigh (k - 44) (by omega)]
  simp only [BitVec.getLsbD_extractLsb']
  grind

/-- Settles O22: counts, fields and addresses are those of the laws of integers. -/
theorem integerFields : Obligations.IntegerFields := by
  unfold Obligations.IntegerFields
  intro s h t r w w3 pos lenM1 sx c b L R y z d
  have hL : L = s.latch.opL.word := left_word
  refine ⟨fun _ hr => gives_intRec rfl hr ?mulw, fun hr => ⟨_, gives_unaryRec rfl hr rfl, clzAt_spec⟩,
    fun hr => ⟨_, gives_unaryRec rfl hr rfl, ctzAt_spec⟩, fun hr => gives_unaryRec rfl hr (congrArg _ popAt_setWidth),
    fun _ hr => gives_unaryRec rfl hr ?bfx, fun _ hr => ⟨_, (gives_fireRes rfl hr :), fun k hk => ?bfi⟩,
    fun hr => gives_unaryRec rfl hr ?sext, fun hr => gives_unaryRec rfl hr ?zext,
    fun hr => gives_wordRec rfl hr (congrArg boolWord (Cond.holds_eq c L y)), fun hr => ?lea, fun hr => gives_wordRec rfl hr apx_eq⟩
  case mulw => rw [intMulw_eq, right_eq IntTy.width_le]; rfl
  case bfx => rw [bitField_eq, hL]
  case bfi => rw [hL]; exact bitInsert_bit hk
  case sext => rw [extInt_readInt, hL]; rfl
  case zext => rw [extInt_readInt, hL]; rfl
  case lea =>
    have hgives := gives_fireRes rfl hr
    rw [hL, ← leaAt_eq]
    exact hgives

end Sys2Proof.Machine
end

section
/-! SUPPORT. The order of IEEE values read off their patterns (R158, R293): a magnitude and its pattern, as numbers, are ordered alike. -/

namespace Sys2Proof.Machine
open Sys2Proof
variable {f : FpFmt} {x y : Word} {m n : Nat} {u v : Bool}

/-! ### The magnitude of a pattern -/

/-- The magnitude whose pattern, the sign left out, is `n`, in units of the least subnormal. -/
def FpFmt.units (f : FpFmt) (n : Nat) : Nat := if n / 2 ^ f.fb = 0 then n % 2 ^ f.fb else (2 ^ f.fb + n % 2 ^ f.fb) * 2 ^ (n / 2 ^ f.fb - 1)

theorem FpFmt.units_fields {q r : Nat} (hr : r < 2 ^ f.fb) :
    f.units (2 ^ f.fb * q + r) = if q = 0 then r else (2 ^ f.fb + r) * 2 ^ (q - 1) := by
  rw [FpFmt.units, Nat.mul_add_div (Nat.two_pow_pos _), Nat.div_eq_of_lt hr, Nat.add_zero, Nat.mul_add_mod, Nat.mod_eq_of_lt hr]

theorem FpFmt.units_lt_succ : f.units n < f.units (n + 1) := by
  have hpos := Nat.two_pow_pos f.fb
  obtain ⟨q, r, hr, rfl⟩ : ∃ q r, r < 2 ^ f.fb ∧ n = 2 ^ f.fb * q + r := ⟨_, _, Nat.mod_lt n hpos, (Nat.div_add_mod n _).symm⟩
  rw [FpFmt.units_fields hr]
  by_cases hcarry : r + 1 = 2 ^ f.fb
  · rw [Nat.add_assoc, hcarry, ← Nat.mul_succ, ← Nat.add_zero (2 ^ f.fb * _), FpFmt.units_fields hpos, if_neg (Nat.succ_ne_zero q)]
    cases q with
    | zero => simpa using hr
    | succ k =>
      rw [if_neg (Nat.succ_ne_zero k), Nat.add_zero, Nat.add_sub_cancel, Nat.succ_sub_one, pow_succ', ← mul_assoc]
      exact Nat.mul_lt_mul_of_pos_right (by omega) (Nat.two_pow_pos _)
  · rw [Nat.add_assoc, FpFmt.units_fields (by omega)]
    split
    · exact Nat.lt_succ_self r
    · exact Nat.mul_lt_mul_of_pos_right (by omega) (Nat.two_pow_pos _)

theorem FpFmt.units_strictMono : StrictMono f.units := strictMono_nat_of_lt_succ fun _ => FpFmt.units_lt_succ

/-- The pattern of an infinity, the sign left out. -/
def FpFmt.infMag (f : FpFmt) : Nat := 2 ^ f.fb * (2 ^ f.eb - 1)

/-- The magnitude whose pattern, the sign left out, is `n`. -/
noncomputable def FpFmt.magReal (f : FpFmt) (n : Nat) : EReal := if n = f.infMag then ⊤ else (dyadic (f.units n) f.qmin : ℝ)

theorem FpFmt.magReal_lt_iff (hm : m ≤ f.infMag) (hn : n ≤ f.infMag) : f.magReal m < f.magReal n ↔ m < n := by
  unfold FpFmt.magReal
  by_cases hmi : m = f.infMag
  · simp only [hmi, if_true, not_top_lt, false_iff]
    omega
  · by_cases hni : n = f.infMag
    · simp only [hmi, hni, if_true, if_false, EReal.coe_lt_top, true_iff]
      omega
    · simp only [hmi, hni, if_false, EReal.coe_lt_coe_iff, dyadic_lt_iff, FpFmt.units_strictMono.lt_iff_lt]

theorem FpFmt.magReal_zero (hf : f.Fits) : f.magReal 0 = 0 := by
  have hinf : 0 ≠ f.infMag := (Nat.mul_pos (Nat.two_pow_pos _) (by have := FpFmt.two_lt_exps hf; omega)).ne
  have hunits : f.units 0 = 0 := by simp [FpFmt.units]
  rw [FpFmt.magReal, if_neg hinf, hunits, dyadic, Nat.cast_zero, zero_mul, EReal.coe_zero]

theorem FpFmt.magReal_pos_iff (hf : f.Fits) (hn : n ≤ f.infMag) : 0 < f.magReal n ↔ 0 < n := by
  rw [← FpFmt.magReal_zero hf, FpFmt.magReal_lt_iff (Nat.zero_le _) hn]

theorem FpFmt.magReal_nonneg (hf : f.Fits) (hn : n ≤ f.infMag) : 0 ≤ f.magReal n := by
  rw [← FpFmt.magReal_zero hf, ← not_lt, FpFmt.magReal_lt_iff hn (Nat.zero_le _)]
  exact Nat.not_lt_zero n

/-- The value whose sign is `u` and whose pattern, the sign left out, is `n`. -/
noncomputable def FpFmt.signedReal (f : FpFmt) (u : Bool) (n : Nat) : EReal := if u then -f.magReal n else f.magReal n

theorem FpFmt.signedReal_lt_iff (hf : f.Fits) (hm : m ≤ f.infMag) (hn : n ≤ f.infMag) :
    f.signedReal u m < f.signedReal v n ↔ withSign u m < withSign v n := by
  cases u <;> cases v
  case false.false => simp [FpFmt.signedReal, withSign, FpFmt.magReal_lt_iff hm hn]
  case true.true => simp [FpFmt.signedReal, withSign, FpFmt.magReal_lt_iff hn hm]
  case false.true =>
    have hle : f.signedReal true n ≤ f.signedReal false m :=
      (EReal.neg_le_zero.mpr (FpFmt.magReal_nonneg hf hn)).trans (FpFmt.magReal_nonneg hf hm)
    have hnum : withSign true n ≤ withSign false m := by rw [withSign_true, withSign_false]; omega
    exact iff_of_false hle.not_gt hnum.not_gt
  case true.false =>
    rcases Nat.eq_zero_or_pos m with rfl | hm0
    · rw [FpFmt.signedReal, FpFmt.signedReal, if_pos rfl, FpFmt.magReal_zero hf, neg_zero]
      simp [withSign, FpFmt.magReal_pos_iff hf hn]
    · have hreal : f.signedReal true m < f.signedReal false n :=
        (EReal.neg_lt_zero.mpr ((FpFmt.magReal_pos_iff hf hm).mpr hm0)).trans_le (FpFmt.magReal_nonneg hf hn)
      exact iff_of_true hreal (by rw [withSign_true, withSign_false]; omega)

/-! ### The parts of a pattern (R158, R159) -/

/-- A pattern without its sign. -/
def FpFmt.mag (f : FpFmt) (w : Word) : Nat := w.toNat % 2 ^ (f.width - 1)

/-- Its sign. -/
def FpFmt.sign (f : FpFmt) (w : Word) : Bool := w.getLsbD (f.width - 1)

/-- Its exponent field. -/
def FpFmt.expo (f : FpFmt) (w : Word) : Nat := f.mag w / 2 ^ f.fb

/-- Its fraction. -/
def FpFmt.frac (f : FpFmt) (w : Word) : Nat := f.mag w % 2 ^ f.fb

/-- Whether it is a NaN. -/
def FpFmt.nanPat (f : FpFmt) (w : Word) : Bool := decide (f.expo w = 2 ^ f.eb - 1 ∧ f.frac w ≠ 0)

/-- Whether it is a signalling NaN. -/
def FpFmt.snanPat (f : FpFmt) (w : Word) : Bool := f.nanPat w && !w.getLsbD (f.fb - 1)

/-- The number that orders it, the two zeros alike. -/
def FpFmt.num (f : FpFmt) (w : Word) : Int := withSign (f.sign w) (f.mag w)

/-- The number that orders it, -0 below +0. -/
def FpFmt.key (f : FpFmt) (w : Word) : Int := if f.sign w then -(f.mag w : Int) - 1 else (f.mag w : Int)

theorem FpFmt.width_pred : f.width - 1 = f.eb + f.fb := by rw [FpFmt.width]; omega

theorem FpFmt.frac_eq : f.frac x = x.toNat % 2 ^ f.fb := by
  rw [FpFmt.frac, FpFmt.mag, FpFmt.width_pred, Nat.mod_mod_of_dvd _ (pow_dvd_pow 2 (Nat.le_add_left _ _))]

theorem FpFmt.expo_eq : f.expo x = x.toNat / 2 ^ f.fb % 2 ^ f.eb := by
  rw [FpFmt.expo, FpFmt.mag, FpFmt.width_pred, Nat.add_comm, pow_add, Nat.mod_mul_right_div_self]

theorem FpFmt.sign_eq : f.sign x = x.toNat.testBit (f.eb + f.fb) := by rw [FpFmt.sign, FpFmt.width_pred]; rfl

theorem FpFmt.mag_fields : f.mag x = 2 ^ f.fb * f.expo x + f.frac x := (Nat.div_add_mod _ _).symm

theorem FpFmt.frac_lt : f.frac x < 2 ^ f.fb := Nat.mod_lt _ (Nat.two_pow_pos _)

theorem FpFmt.expo_le : f.expo x ≤ 2 ^ f.eb - 1 := by
  rw [FpFmt.expo_eq]
  exact Nat.le_pred_of_lt (Nat.mod_lt _ (Nat.two_pow_pos _))

/-- A pattern is decoded by its parts. -/
theorem FpFmt.decode_eq (hf : f.Fits) : f.decode x =
    if f.expo x = 2 ^ f.eb - 1 then if f.frac x = 0 then .inf (f.sign x) else .nan (!x.getLsbD (f.fb - 1))
    else if f.expo x = 0 then .fin (f.sign x) (f.frac x) f.qmin
    else .fin (f.sign x) (2 ^ f.fb + f.frac x) (f.qmin + f.expo x - 1) := by
  have hquiet : (x.toNat % 2 ^ f.fb).testBit (f.fb - 1) = x.getLsbD (f.fb - 1) := by
    rw [Nat.testBit_mod_two_pow, decide_eq_true (by have := hf.fb; omega), Bool.true_and]
    rfl
  rw [FpFmt.sign_eq, FpFmt.expo_eq, FpFmt.frac_eq, ← hquiet]
  rfl

theorem FpFmt.decode_isNan (hf : f.Fits) : (f.decode x).isNan = f.nanPat x := by
  rw [FpFmt.decode_eq hf, FpFmt.nanPat]
  split
  next he =>
    split
    next hz => simp [FpVal.isNan, hz]
    next hz => simp [FpVal.isNan, he, hz]
  next he => split <;> simp [FpVal.isNan, he]

theorem FpFmt.decode_isSnan (hf : f.Fits) : (f.decode x).isSnan = f.snanPat x := by
  rw [FpFmt.snanPat, ← FpFmt.decode_isNan hf, FpFmt.decode_eq hf]
  split
  · split <;> rfl
  · split <;> rfl

/-! ### Patterns that are not NaN (R293) -/

/-- A pattern that is not NaN: finite, or an infinity. -/
theorem FpFmt.decode_cases (hf : f.Fits) (hx : f.nanPat x = false) :
    (f.mag x = f.infMag ∧ f.decode x = .inf (f.sign x)) ∨
      f.mag x < f.infMag ∧ ∃ m e, f.decode x = .fin (f.sign x) m e ∧ dyadic m e = dyadic (f.units (f.mag x)) f.qmin := by
  have hfr := FpFmt.frac_lt (f := f) (x := x)
  have hex := FpFmt.expo_le (f := f) (x := x)
  have hdec := FpFmt.decode_eq hf (x := x)
  rw [FpFmt.mag_fields, FpFmt.units_fields hfr, FpFmt.infMag]
  simp only [FpFmt.nanPat, decide_eq_false_iff_not, not_and, not_not] at hx
  by_cases he : f.expo x = 2 ^ f.eb - 1
  · rw [if_pos he, if_pos (hx he)] at hdec
    exact .inl ⟨by rw [he, hx he, Nat.add_zero], hdec⟩
  · rw [if_neg he] at hdec
    have hmag : 2 ^ f.fb * f.expo x + f.frac x < 2 ^ f.fb * (2 ^ f.eb - 1) := by
      calc 2 ^ f.fb * f.expo x + f.frac x < 2 ^ f.fb * (f.expo x + 1) := by rw [Nat.mul_succ]; omega
        _ ≤ 2 ^ f.fb * (2 ^ f.eb - 1) := Nat.mul_le_mul_left _ (by omega)
    refine .inr ⟨hmag, ?_⟩
    by_cases hz : f.expo x = 0
    · rw [if_pos hz] at hdec
      exact ⟨_, _, hdec, by rw [if_pos hz]⟩
    · rw [if_neg hz] at hdec
      refine ⟨_, _, hdec, ?_⟩
      rw [if_neg hz, dyadic_eq_shift (g := f.qmin) (by omega)]
      congr 3
      omega

theorem FpFmt.mag_le (hf : f.Fits) (hx : f.nanPat x = false) : f.mag x ≤ f.infMag := by
  rcases FpFmt.decode_cases hf hx with ⟨h, -⟩ | ⟨h, -⟩
  · exact h.le
  · exact h.le

theorem FpFmt.decode_neg (hf : f.Fits) (hx : f.nanPat x = false) : (f.decode x).neg = f.sign x := by
  rcases FpFmt.decode_cases hf hx with ⟨-, h⟩ | ⟨-, m, e, h, -⟩ <;> rw [h] <;> rfl

theorem FpFmt.decode_real (hf : f.Fits) (hx : f.nanPat x = false) : FpVal_real (f.decode x) = f.signedReal (f.sign x) (f.mag x) := by
  rcases FpFmt.decode_cases hf hx with ⟨hinf, h⟩ | ⟨hlt, m, e, h, hme⟩
  · rw [h, FpFmt.signedReal, FpFmt.magReal, if_pos hinf, EReal.neg_top]
    rfl
  · rw [h, FpFmt.signedReal, FpFmt.magReal, if_neg hlt.ne, ← hme, FpVal_real]
    split
    · exact EReal.coe_neg _
    · rfl

section order
variable (hf : f.Fits) (hx : f.nanPat x = false) (hy : f.nanPat y = false)
include hf hx hy

theorem FpFmt.decode_lt_iff : FpVal_real (f.decode x) < FpVal_real (f.decode y) ↔ f.num x < f.num y := by
  rw [FpFmt.decode_real hf hx, FpFmt.decode_real hf hy, FpFmt.signedReal_lt_iff hf (FpFmt.mag_le hf hx) (FpFmt.mag_le hf hy)]
  rfl

/-- Values are ordered as their patterns' numbers. -/
theorem FpFmt.cmp_decode : fpCmp (f.decode x) (f.decode y) = compare (f.num x) (f.num y) := by
  obtain ⟨hlt, hgt⟩ := fpCmp_eq ((FpFmt.decode_isNan hf).trans hx) ((FpFmt.decode_isNan hf).trans hy)
  rw [FpFmt.decode_lt_iff hf hx hy] at hlt
  rw [FpFmt.decode_lt_iff hf hy hx] at hgt
  rcases lt_trichotomy (f.num x) (f.num y) with h | h | h
  · rw [hlt.mpr h, compare_lt_iff_lt.mpr h]
  · have hne : ∀ o, fpCmp (f.decode x) (f.decode y) = o → o = .eq := by
      rintro (_ | _ | _) ho
      · exact absurd (hlt.mp ho) h.not_lt
      · rfl
      · exact absurd (hgt.mp ho) h.not_gt
    rw [hne _ rfl, compare_eq_iff_eq.mpr h]
  · rw [hgt.mpr h, compare_gt_iff_gt.mpr h]

theorem FpFmt.below_decode : fpBelow (f.decode x) (f.decode y) = decide (f.key x < f.key y) := by
  have hkey : f.key x < f.key y ↔ f.num x < f.num y ∨ f.num x = f.num y ∧ f.sign x = true ∧ f.sign y = false := by
    rw [FpFmt.num, FpFmt.num, FpFmt.key, FpFmt.key]
    cases f.sign x <;> cases f.sign y <;> simp [withSign] <;> omega
  rw [fpBelow, FpFmt.cmp_decode hf hx hy, FpFmt.decode_neg hf hx, FpFmt.decode_neg hf hy, Bool.eq_iff_iff, decide_eq_true_iff, hkey]
  rcases lt_trichotomy (f.num x) (f.num y) with h | h | h
  · simp [compare_lt_iff_lt.mpr h, h]
  · simp [h]
  · simp [compare_gt_iff_gt.mpr h, h.not_gt, h.ne']

end order

end Sys2Proof.Machine
end

section
/-! SUPPORT. FMIN, FMAX, FABS, FNEG, FCPYS, FTST and FCLS (R293-R295, R298): what each operation makes of its operands' patterns. -/

namespace Sys2Proof.Machine
open Sys2Proof
variable {f : FpFmt} {x y : Word} {s : State} {i : Instr} {t : FpTy} {b : Rhs}

/-! ### The records -/

/-- A record on two patterns sends what its operation makes of them, with the flags of their decoding (R170). -/
theorem gives_fpPair {op : FpFmt → Word → Word → Res} (he : exec i s = .next (s.fpPair i t b op)) (hr : FiresReal i s) {v fl : Word}
    (hv : (op (fmtOf t) (scalarOp (.fp t) s.latch.opL).val (s.latch.rhs (.fp t) b).val).val = v)
    (hfl : (op (fmtOf t) (scalarOp (.fp t) s.latch.opL).val (s.latch.rhs (.fp t) b).val).flags = fl) :
    Gives i s (.scalar v) (fl ||| ((scalarOp (.fp t) s.latch.opL).flags ||| (s.latch.rhs (.fp t) b).flags)) := by
  rw [← hv, ← hfl, ← BitVec.or_assoc]
  exact (gives_fireRes he hr :)

theorem gives_fpOne {op : FpFmt → Word → Res} (he : exec i s = .next (s.fpOne i t op)) (hr : FiresReal i s) {v fl : Word}
    (hv : (op (fmtOf t) (scalarOp (.fp t) s.latch.opL).val).val = v)
    (hfl : (op (fmtOf t) (scalarOp (.fp t) s.latch.opL).val).flags = fl) :
    Gives i s (.scalar v) (fl ||| (scalarOp (.fp t) s.latch.opL).flags) := by
  rw [← hv, ← hfl]
  exact (gives_fireRes he hr :)

theorem nvOf_one (hf : f.Fits) : nvOf [f.decode x] = if f.snanPat x then flagNV else 0 := by
  simp [nvOf, FpFmt.decode_isSnan hf]

theorem nvOf_two (hf : f.Fits) : nvOf [f.decode x, f.decode y] = if f.snanPat x || f.snanPat y then flagNV else 0 := by
  simp [nvOf, FpFmt.decode_isSnan hf]

/-! ### FMIN and FMAX (R293) -/

/-- The pattern that FMIN or FMAX sends. -/
theorem toNat_fpMinMax (hf : f.Fits) (isMax : Bool) : (fpMinMax f isMax x y).val.toNat =
    if f.nanPat x then (if f.nanPat y then f.qnan.toNat else y.toNat % 2 ^ f.width)
    else if f.nanPat y then x.toNat % 2 ^ f.width
    else if (if isMax then decide (f.key x < f.key y) else decide (f.key y < f.key x)) then y.toNat % 2 ^ f.width
    else x.toNat % 2 ^ f.width := by
  have hqnan : f.low f.qnan = f.qnan := low_of_lt hf (canonical_qnan hf).1
  rw [fpMinMax_val, fpChoice, FpFmt.decode_isNan hf, FpFmt.decode_isNan hf]
  cases hx : f.nanPat x <;> cases hy : f.nanPat y
  case false.false =>
    have hbeats : fpBeats f isMax y x = if isMax then decide (f.key x < f.key y) else decide (f.key y < f.key x) := by
      rw [fpBeats, FpFmt.below_decode hf hx hy, FpFmt.below_decode hf hy hx]
    simp only [hbeats, Bool.false_eq_true, if_false, ← FpFmt.toNat_low hf]
    exact apply_ite (fun w : Word => (f.low w).toNat) ..
  case true.true => simp [hqnan]
  case false.true => simp [FpFmt.toNat_low hf]
  case true.false => simp [FpFmt.toNat_low hf]

theorem fpMinMax_flags (hf : f.Fits) (isMax : Bool) : (fpMinMax f isMax x y).flags = if f.snanPat x || f.snanPat y then flagNV else 0 :=
  nvOf_two hf

/-! ### FABS, FNEG and FCPYS (R294) -/

theorem fpSign_nan (hf : f.Fits) (hx : f.nanPat x = true) (g : Bool → Bool) : (fpSign f g x).val = f.qnan := by
  rw [fpSign, FpFmt.decode_isNan hf, if_pos hx]

theorem fpSign_number (hf : f.Fits) (hx : f.nanPat x = false) (g : Bool → Bool) :
    (fpSign f g x).val.toNat = f.mag x + if g (f.sign x) then 2 ^ (f.width - 1) else 0 := by
  have hmag : f.mag x < 2 ^ (f.width - 1) := Nat.mod_lt _ (Nat.two_pow_pos _)
  have hword : 2 ^ (f.width - 1) * 2 ≤ 2 ^ 64 := by
    rw [← pow_succ, FpFmt.width_pred]
    exact Nat.pow_le_pow_right (by decide) hf.word
  rw [fpSign, FpFmt.decode_isNan hf, if_neg (by simp [hx]), ← FpFmt.sign_eq, ← FpFmt.width_pred, Res.plain, BitVec.toNat_ofNat]
  refine Nat.mod_eq_of_lt ?_
  change f.mag x + _ < _
  split <;> omega

theorem fpSign_spec (hf : f.Fits) (g : Bool → Bool) : if f.nanPat x then (fpSign f g x).val = f.qnan
    else (fpSign f g x).val.toNat = f.mag x + if g (f.sign x) then 2 ^ (f.width - 1) else 0 := by
  split
  next hx => exact fpSign_nan hf hx g
  next hx => exact fpSign_number hf (Bool.eq_false_of_not_eq_true hx) g

theorem fpSign_flags (hf : f.Fits) (g : Bool → Bool) : (fpSign f g x).flags = if f.snanPat x then flagNV else 0 := by
  rw [fpSign, FpFmt.decode_isNan hf]
  cases hx : f.nanPat x
  · simp [FpFmt.snanPat, hx, Res.plain]
  · rw [if_pos rfl, nvOf_one hf]

/-! ### FTST (R295) -/

/-- Whether a condition holds of two numbers, or of operands one of which is NaN. -/
def FCond_test (c : FCond) (un : Bool) (m n : Int) : Bool :=
  match c with
  | .eq => !un && decide (m = n)
  | .ne => un || decide (m ≠ n)
  | .lt => !un && decide (m < n)
  | .le => !un && decide (m ≤ n)
  | .gt => !un && decide (m > n)
  | .ge => !un && decide (m ≥ n)
  | .un => un
  | .or => !un

/-- Whether a condition is invalid for a quiet NaN as well. -/
def FCond_signals (c : FCond) : Bool :=
  match c with
  | .lt | .le | .gt | .ge => true
  | _ => false

theorem fpTest_val (hf : f.Fits) (c : FCond) : (fpTest f c x y).val =
    if FCond_test c (f.nanPat x || f.nanPat y) (f.num x) (f.num y) then 1 else 0 := by
  simp only [fpTest, FpFmt.decode_isNan hf]
  refine congrArg boolWord ?_
  cases hun : f.nanPat x || f.nanPat y
  case true => cases c <;> rfl
  case false =>
    obtain ⟨hx, hy⟩ := Bool.or_eq_false_iff.mp hun
    rw [FpFmt.cmp_decode hf hx hy]
    rcases lt_trichotomy (f.num x) (f.num y) with h | h | h
    · cases c <;> simp [FCond_test, compare_lt_iff_lt.mpr h, h.le, h.ne, h.not_gt, h]
    · cases c <;> simp [FCond_test, h]
    · cases c <;> simp [FCond_test, compare_gt_iff_gt.mpr h, h.le, h.ne', h.not_gt, h]

theorem fpTest_flags (hf : f.Fits) (c : FCond) : (fpTest f c x y).flags =
    if f.snanPat x || f.snanPat y || ((f.nanPat x || f.nanPat y) && FCond_signals c) then flagNV else 0 := by
  have hflags : (fpTest f c x y).flags = if FCond_signals c && (f.nanPat x || f.nanPat y) then flagNV else nvOf [f.decode x, f.decode y] := by
    simp only [fpTest, FpFmt.decode_isNan hf]
    rfl
  rw [hflags, nvOf_two hf, Bool.and_comm]
  cases (f.nanPat x || f.nanPat y) && FCond_signals c <;> simp

/-! ### FCLS (R298) -/

theorem fpClass_eq (hf : f.Fits) : fpClass f x =
    if f.nanPat x then (if f.snanPat x then 0x100 else 0x200)
    else if f.expo x = 2 ^ f.eb - 1 then (if f.sign x then 0x001 else 0x080)
    else if f.mag x = 0 then (if f.sign x then 0x008 else 0x010)
    else if f.expo x = 0 then (if f.sign x then 0x004 else 0x020)
    else if f.sign x then 0x002 else 0x040 := by
  have hpos := Nat.two_pow_pos f.fb
  have hfr := FpFmt.frac_lt (f := f) (x := x)
  rw [fpClass, FpFmt.decode_eq hf, FpFmt.snanPat, FpFmt.nanPat, FpFmt.mag_fields]
  by_cases he : f.expo x = 2 ^ f.eb - 1
  · by_cases hz : f.frac x = 0 <;> simp [he, hz]
  · by_cases hsub : f.expo x = 0
    · have hnonmax : ¬0 = 2 ^ f.eb - 1 := hsub ▸ he
      simp [hsub, hfr, hnonmax]
    · simp [he, hsub]

/-- Settles O25: patterns that are not NaN are ordered as numbers, and every other case is one of the parts of a pattern. -/
theorem fpSelect : Obligations.FpSelect := by
  unfold Obligations.FpSelect
  intro s h t b c
  rw [← fmtOf_width t]
  intro f x y yR pat mag sign expo frac isNan isSnan num key nv pick signed un both
  have hf := fmtOf_fits t
  have hcls : fpClass f x.val = _ := fpClass_eq hf
  have hcopy : (fpSign f (fun _ => yR.val.toNat.testBit (f.eb + f.fb)) x.val).val = (fpSign f (fun _ => sign yR.val) x.val).val :=
    congrArg (fun u => (fpSign f (fun _ => u) x.val).val) FpFmt.sign_eq.symm
  refine ⟨fun hr => ⟨_, gives_fpPair rfl hr rfl (fpMinMax_flags hf false), toNat_fpMinMax hf false⟩,
    fun hr => ⟨_, gives_fpPair rfl hr rfl (fpMinMax_flags hf true), toNat_fpMinMax hf true⟩,
    fun hr => ⟨(fpSign f (fun _ => false) x.val).val, gives_fpOne rfl hr rfl (fpSign_flags hf _), fpSign_spec hf _⟩,
    fun hr => ⟨(fpSign f (fun u => !u) x.val).val, gives_fpOne rfl hr rfl (fpSign_flags hf _), fpSign_spec hf _⟩,
    fun hr => ⟨_, gives_fpPair (b := .port) rfl hr hcopy (fpSign_flags hf _), fpSign_spec hf fun _ => sign yR.val⟩,
    fun hr => gives_fpPair rfl hr (fpTest_val hf c) (fpTest_flags hf c), fun hr => ?fcls⟩
  case fcls =>
    have hgives := gives_fpOne rfl hr hcls rfl
    rw [Res.plain, word_zero_or] at hgives
    exact hgives

end Sys2Proof.Machine
end
